-- ==== Sys2Proof/Word.lean ====
section
/-!
DEFINITION. The plain word types of the model: a byte, a lane register, a register of 64 bits.
-/

namespace Sys2Proof

/-- A byte of memory. -/
abbrev Byte := BitVec 8

/-- A 32-bit word: a lane register of one thread (R129), a control register (R412), an arrival counter (R57). -/
abbrev Word32 := BitVec 32

/-- A 64-bit word: a scalar register (R130), an instruction word (R131), TIME and TICK_COUNT (R15). -/
abbrev Word64 := BitVec 64

end Sys2Proof
end

