-- ==== Sys2Proof/Syntax.lean ====
section
/-!
DEFINITION. The commands of the block: one constructor of `Instr` per row of spec/opcode_table.json.

An operand `core` is a logical core number (R10), `slot` a group slot of that core (R124), `w` the 64-bit
instruction word the group issues (R131), `q` a queue number (0-8,191; 8,192 stands for the kernel ring),
`p` a partition, `die`, `stack`, `pkg`, `slice`, `n` the numbers of R9 (`n` a fabric port).
What an event brings from outside the module (a measured value, an error found, a packet, a frame) is its operand.
-/

namespace Sys2Proof

/-- What the array's codes find when work completes (R120). -/
inductive ArrayError where
  | none | accCorrected | accUncorrectable | bankParity
  deriving DecidableEq, Repr

/-- What SECDED finds in a unit that is read (R220, R176, R206). -/
inductive Ecc where
  | clean | corrected | uncorrectable
  deriving DecidableEq, Repr

/-- The units of a cellar engine that execute commands (R178); the fill path ends with CODEBOOK_FILL_DONE. -/
inductive CellarUnit where
  | matvec | move
  deriving DecidableEq, Repr

/-- What a completing cellar command met (R206). -/
inductive CellarError where
  | none | sramCorrected | sramUncorrectable | dramUncorrectable
  deriving DecidableEq, Repr

/-- What the attic's codes find in the line served (R228). -/
inductive AtticError where
  | none | corrected | uncorrectable
  deriving DecidableEq, Repr

/-- What a store-room transfer meets (R235): a link-ECC error that a retry cleared, or one that poisons the block. -/
inductive BlockOutcome where
  | ok | linkRetry | linkLost | crcMismatch
  deriving DecidableEq, Repr

/-- Why a fabric receiver drops what arrives (R370). -/
inductive DropCause where
  | crc | seq | fec
  deriving DecidableEq, Repr

/-- The PLLs of R415. -/
inductive Pll where
  | root | pcie | stack (s : Nat) | storeRoom (p : Nat) | fabric (g : Nat)
  deriving DecidableEq, Repr

/-- The transports of a dictionary request (R408 to R410) with the requester they name. -/
inductive Transport where
  | mailbox (fn : Nat) | mctpPcie (eid tag : Nat) | mctpI3c (eid tag : Nat) | ring (src : Nat)
  deriving DecidableEq, Repr

/-- The two MCTP bindings of R409. -/
inductive Binding where
  | pcie | i3c
  deriving DecidableEq, Repr

/-- A request that reaches a stack controller or a store-room controller: the access-table row of its master
(R340), the queue whose submission made it if any, the physical address, and the bytes read or written.
`tag` names its entry in the reorder queue (R218). -/
structure MemReq where
  master : Nat
  queue  : Option Nat
  pa     : Nat
  write  : Bool
  len    : Nat
  data   : List Byte
  tag    : Nat
  deriving DecidableEq, Repr

/-- A host access through an aperture (R304, R306). -/
structure HostAccess where
  write : Bool
  len   : Nat
  data  : List Byte
  deriving DecidableEq, Repr

/-- How a host read of a register with RC fields is made: the byte offset within the register (within the
64-bit pair for the observability counts) and the width in bytes (R412, R413). -/
structure RegRead where
  off   : Nat
  width : Nat
  deriving DecidableEq, Repr

/-- A fabric packet (R369): the header fields as they arrive, unsplit, and the payload. -/
structure Packet where
  type    : Nat
  vc      : Nat
  len     : Nat
  seq     : Nat
  src     : Nat
  aop     : Nat
  ctx     : Nat
  counter : Nat
  tag     : Nat
  addr    : Nat
  arg     : Nat
  payload : List Byte
  deriving DecidableEq, Repr

/-- A ring frame (R379): ORIGIN, TICK_LO, ARRIVE, the management cell's bytes, AUX, and whether the CRC is good. -/
structure Frame where
  origin : Nat
  tickLo : Nat
  arrive : Nat
  mgmt   : List Byte
  aux    : Nat
  crcOk  : Bool
  deriving DecidableEq, Repr

/-- An MCTP control request (R409): its source endpoint, its tag and its data bytes. -/
structure MctpRequest where
  src  : Nat
  tag  : Nat
  data : List Byte
  deriving DecidableEq, Repr

/-- One sample of the power stages (R438): energy charged to each partition since the last sample in µJ, input
power averaged over 100 µs in 0.1 W, input voltage in 10 mV. -/
structure RailSample where
  charges : List Nat
  avg100  : Nat
  volt    : Nat
  deriving DecidableEq, Repr

/-- The fuse contents (R3, R399): core count, core-enable map in the bit order of CORE_ENABLE, the serial number,
the board revision strapping is sampled apart; `ok` is the integrity check of R453. -/
structure Fuses where
  cores  : Nat
  enable : Nat
  serial : List Byte
  ok     : Bool
  deriving DecidableEq, Repr

/-- What the boot ROM finds in an image slot (R488): its header fields, whether the signature verifies, and the
fabric ports that the image enables (R452 stage 4). -/
structure ImageHeader where
  magic   : Nat
  version : Nat
  length  : Nat
  sigOk   : Bool
  ports   : Nat
  deriving DecidableEq, Repr

/-- The commands, one constructor per row of the table, in the table's order. -/
inductive Instr where
  /-- TICK_BOUNDARY (R22). The tick period count expires at a boundary edge and the control domain runs the ten-step boundary sequence. -/
  | tickBoundary
  /-- RESERVED_WINDOW_END (R34). The reserved fraction of a real-time queue expires and its idle reserved cores pass to standard and background work. -/
  | reservedWindowEnd (q : Nat)
  /-- DEADLINE_CHECKPOINT (R38). At the checkpoint time the progress counter is compared with PROGRESS_MIN and the primary is aborted if it falls short. -/
  | deadlineCheckpoint (q : Nat)
  /-- RT_ABORT_COMPLETE (R40). An abort of a real-time primary completes, its fault tokens are withdrawn and the fallback starts. -/
  | rtAbortComplete (q : Nat)
  /-- SUBMISSION_COMPLETE (R330). The last work of a submission completes and the front end writes its completion record, fence and interrupt. -/
  | submissionComplete (q : Nat)
  /-- HANG_DUMP_DONE (R471). The dump of a frozen submission is written and the submission completes HANG_DUMPED. -/
  | hangDumpDone (q : Nat)
  /-- RING_EDGE_MISSING (R42). An expected ring edge fails to arrive and the module enters Holdover or Free. -/
  | ringEdgeMissing
  /-- DISSUE (R153). A thread issues the draught whose descriptor lies in local store. -/
  | dissue (core slot : Nat) (w : BitVec 64)
  /-- DRAUGHT_ACTIVATE (R55). A queued draught becomes active once its buffer need is free, after its start checks. -/
  | draughtActivate (core : Nat)
  /-- STATION_TILE_START (R48). A station begins a tile once the tile is whole in its input and an output buffer is free. -/
  | stationTileStart (core d st : Nat)
  /-- STATION_TILE_DONE (R48). A station finishes a tile and hands its buffer to the next station. -/
  | stationTileDone (core d st : Nat)
  /-- LAUNCH (R122). A launch command starts groups of one program and places them on cores. -/
  | launch (q : Nat)
  /-- GROUP_RESIDENT (R124). A group in the launch queue becomes resident once a slot, register blocks and static space are free. -/
  | groupResident (core : Nat)
  /-- GROUP_PROMOTE (R127). A pending group whose condition cleared is promoted to a free active slot. -/
  | groupPromote (core : Nat)
  /-- PATH_ROTATION (R139). A path's backward-transfer count reaches 64 and the device rotates paths. -/
  | pathRotation (core slot : Nat)
  /-- LINT_ADD (R132). Lane integer add. -/
  | lintAdd (core slot : Nat) (w : BitVec 64)
  /-- LINT_SUB (R132). Lane integer subtract. -/
  | lintSub (core slot : Nat) (w : BitVec 64)
  /-- LINT_MUL (R132). Lane integer multiply, low half. -/
  | lintMul (core slot : Nat) (w : BitVec 64)
  /-- LINT_MULH (R132). Lane integer multiply, high half. -/
  | lintMulh (core slot : Nat) (w : BitVec 64)
  /-- LINT_MAD (R132). Lane integer multiply-add. -/
  | lintMad (core slot : Nat) (w : BitVec 64)
  /-- LINT_DIV (R134). Lane integer divide with defined results for zero and overflow. -/
  | lintDiv (core slot : Nat) (w : BitVec 64)
  /-- LINT_REM (R134). Lane integer remainder with defined results. -/
  | lintRem (core slot : Nat) (w : BitVec 64)
  /-- LINT_AND (R132). Lane bitwise AND. -/
  | lintAnd (core slot : Nat) (w : BitVec 64)
  /-- LINT_OR (R132). Lane bitwise OR. -/
  | lintOr (core slot : Nat) (w : BitVec 64)
  /-- LINT_XOR (R132). Lane bitwise XOR. -/
  | lintXor (core slot : Nat) (w : BitVec 64)
  /-- LINT_SHL (R132). Lane shift left. -/
  | lintShl (core slot : Nat) (w : BitVec 64)
  /-- LINT_SHR (R132). Lane shift right, arithmetic when signed. -/
  | lintShr (core slot : Nat) (w : BitVec 64)
  /-- LINT_MIN (R132). Lane integer minimum. -/
  | lintMin (core slot : Nat) (w : BitVec 64)
  /-- LINT_MAX (R132). Lane integer maximum. -/
  | lintMax (core slot : Nat) (w : BitVec 64)
  /-- LINT_CMP (R132). Lane integer compare giving 1 or 0. -/
  | lintCmp (core slot : Nat) (w : BitVec 64)
  /-- LINT_SEL (R132). Lane select on a condition register. -/
  | lintSel (core slot : Nat) (w : BitVec 64)
  /-- LINT_ADDI (R132). Lane add of a sign-extended immediate. -/
  | lintAddi (core slot : Nat) (w : BitVec 64)
  /-- LINT_CLZ (R132). Lane count of leading zeros. -/
  | lintClz (core slot : Nat) (w : BitVec 64)
  /-- LINT_POPC (R132). Lane population count. -/
  | lintPopc (core slot : Nat) (w : BitVec 64)
  /-- LINT_MOVS (R132). Lane move from a scalar register. -/
  | lintMovs (core slot : Nat) (w : BitVec 64)
  /-- LINT_LANEID (R132). Lane reads its lane number. -/
  | lintLaneid (core slot : Nat) (w : BitVec 64)
  /-- LINT_SHFL (R134). Lane shuffle from another lane, zero from inactive lanes. -/
  | lintShfl (core slot : Nat) (w : BitVec 64)
  /-- LINT_VOTE (R132). Lane vote any, all or ballot over active threads. -/
  | lintVote (core slot : Nat) (w : BitVec 64)
  /-- FADD (R134). Lane floating add, rounded once. -/
  | fadd (core slot : Nat) (w : BitVec 64)
  /-- FSUB (R134). Lane floating subtract. -/
  | fsub (core slot : Nat) (w : BitVec 64)
  /-- FMUL (R134). Lane floating multiply. -/
  | fmul (core slot : Nat) (w : BitVec 64)
  /-- FFMA (R134). Lane fused multiply-add. -/
  | ffma (core slot : Nat) (w : BitVec 64)
  /-- FMIN (R134). Lane floating minimum under the defined results. -/
  | fmin (core slot : Nat) (w : BitVec 64)
  /-- FMAX (R134). Lane floating maximum under the defined results. -/
  | fmax (core slot : Nat) (w : BitVec 64)
  /-- FABS (R132). Lane floating absolute value. -/
  | fabs (core slot : Nat) (w : BitVec 64)
  /-- FNEG (R132). Lane floating negate. -/
  | fneg (core slot : Nat) (w : BitVec 64)
  /-- FCMP (R134). Lane floating compare. -/
  | fcmp (core slot : Nat) (w : BitVec 64)
  /-- FDIV (R134). Lane floating divide. -/
  | fdiv (core slot : Nat) (w : BitVec 64)
  /-- FSQRT (R134). Lane floating square root. -/
  | fsqrt (core slot : Nat) (w : BitVec 64)
  /-- FRCP (R134). Lane reciprocal. -/
  | frcp (core slot : Nat) (w : BitVec 64)
  /-- FRSQ (R134). Lane reciprocal square root. -/
  | frsq (core slot : Nat) (w : BitVec 64)
  /-- FEXP2 (R134). Lane base-2 exponential. -/
  | fexp2 (core slot : Nat) (w : BitVec 64)
  /-- FLOG2 (R134). Lane base-2 logarithm. -/
  | flog2 (core slot : Nat) (w : BitVec 64)
  /-- FSIN (R134). Lane sine. -/
  | fsin (core slot : Nat) (w : BitVec 64)
  /-- FCOS (R134). Lane cosine. -/
  | fcos (core slot : Nat) (w : BitVec 64)
  /-- FCVT (R134). Lane conversion to a format code. -/
  | fcvt (core slot : Nat) (w : BitVec 64)
  /-- ICVT (R134). Lane conversion between integer and floating. -/
  | icvt (core slot : Nat) (w : BitVec 64)
  /-- SALU_ADD (R132). Scalar add. -/
  | saluAdd (core slot : Nat) (w : BitVec 64)
  /-- SALU_SUB (R132). Scalar subtract. -/
  | saluSub (core slot : Nat) (w : BitVec 64)
  /-- SALU_MUL (R132). Scalar multiply. -/
  | saluMul (core slot : Nat) (w : BitVec 64)
  /-- SALU_DIV (R132). Scalar divide. -/
  | saluDiv (core slot : Nat) (w : BitVec 64)
  /-- SALU_REM (R132). Scalar remainder. -/
  | saluRem (core slot : Nat) (w : BitVec 64)
  /-- SALU_AND (R132). Scalar AND. -/
  | saluAnd (core slot : Nat) (w : BitVec 64)
  /-- SALU_OR (R132). Scalar OR. -/
  | saluOr (core slot : Nat) (w : BitVec 64)
  /-- SALU_XOR (R132). Scalar XOR. -/
  | saluXor (core slot : Nat) (w : BitVec 64)
  /-- SALU_SHL (R132). Scalar shift left. -/
  | saluShl (core slot : Nat) (w : BitVec 64)
  /-- SALU_SHR (R132). Scalar logical shift right. -/
  | saluShr (core slot : Nat) (w : BitVec 64)
  /-- SALU_SAR (R132). Scalar arithmetic shift right. -/
  | saluSar (core slot : Nat) (w : BitVec 64)
  /-- SALU_MIN (R132). Scalar minimum. -/
  | saluMin (core slot : Nat) (w : BitVec 64)
  /-- SALU_MAX (R132). Scalar maximum. -/
  | saluMax (core slot : Nat) (w : BitVec 64)
  /-- SALU_CMP (R132). Scalar compare. -/
  | saluCmp (core slot : Nat) (w : BitVec 64)
  /-- SALU_LI (R132). Scalar load of a 16-bit immediate into a field. -/
  | saluLi (core slot : Nat) (w : BitVec 64)
  /-- SALU_ADDI (R132). Scalar add immediate. -/
  | saluAddi (core slot : Nat) (w : BitVec 64)
  /-- SREAD (R132). Scalar read of a core, context or time selector. -/
  | sread (core slot : Nat) (w : BitVec 64)
  /-- XTOS (R132). Scalar takes a lane register of the lowest active thread. -/
  | xtos (core slot : Nat) (w : BitVec 64)
  /-- LDL (R143). Lane load from local store through the lane port. -/
  | ldl (core slot : Nat) (w : BitVec 64)
  /-- STL (R143). Lane store to local store through the lane port. -/
  | stl (core slot : Nat) (w : BitVec 64)
  /-- LDC (R146). Lane load from cached space through the data cache. -/
  | ldc (core slot : Nat) (w : BitVec 64)
  /-- STC (R146). Lane store to cached space through the store buffer. -/
  | stc (core slot : Nat) (w : BitVec 64)
  /-- ATL (R274). Lane atomic on local store at the lane port. -/
  | atl (core slot : Nat) (w : BitVec 64)
  /-- ATC (R275). Lane atomic on cached space at the home slice, with fences of its scope. -/
  | atc (core slot : Nat) (w : BitVec 64)
  /-- ATR (R375). Lane atomic on remote bulk memory through a peer window. -/
  | atr (core slot : Nat) (w : BitVec 64)
  /-- BZ (R137). Branch on lane zero, dividing the path when threads disagree. -/
  | bz (core slot : Nat) (w : BitVec 64)
  /-- BNZ (R137). Branch on lane nonzero, dividing the path when threads disagree. -/
  | bnz (core slot : Nat) (w : BitVec 64)
  /-- BSZ (R137). Branch on scalar zero. -/
  | bsz (core slot : Nat) (w : BitVec 64)
  /-- BSNZ (R137). Branch on scalar nonzero. -/
  | bsnz (core slot : Nat) (w : BitVec 64)
  /-- JMP (R137). Unconditional jump. -/
  | jmp (core slot : Nat) (w : BitVec 64)
  /-- CALL (R137). Call with return address to a lane pair. -/
  | call (core slot : Nat) (w : BitVec 64)
  /-- JR (R137). Jump to a lane pair, dividing the path by target. -/
  | jr (core slot : Nat) (w : BitVec 64)
  /-- EXIT (R125). Threads exit; the group leaves residency when its last thread exits. -/
  | exit (core slot : Nat) (w : BitVec 64)
  /-- CWAIT (R150). Wait on a local arrival counter threshold. -/
  | cwait (core slot : Nat) (w : BitVec 64)
  /-- RCWAIT (R150). Wait on a remote arrival counter threshold. -/
  | rcwait (core slot : Nat) (w : BitVec 64)
  /-- CSET (R150). Set an arrival counter. -/
  | cset (core slot : Nat) (w : BitVec 64)
  /-- CADD (R150). Add to an arrival counter. -/
  | cadd (core slot : Nat) (w : BitVec 64)
  /-- CREAD (R150). Read an arrival counter. -/
  | cread (core slot : Nat) (w : BitVec 64)
  /-- BAR (R290). Arrive at a hardware barrier after a fence of its scope. -/
  | bar (core slot : Nat) (w : BitVec 64)
  /-- FENCE (R272). Order the path's lane accesses at a scope. -/
  | fence (core slot : Nat) (w : BitVec 64)
  /-- YIELD (R126). The group moves to the pending set. -/
  | yield (core slot : Nat) (w : BitVec 64)
  /-- ICINV (R147). Invalidate the context's instruction-cache lines on the core. -/
  | icinv (core slot : Nat) (w : BitVec 64)
  /-- DCINV (R147). Invalidate the context's data-cache lines in a range or all. -/
  | dcinv (core slot : Nat) (w : BitVec 64)
  /-- PROG (R36). Raise the progress counter of a real-time submission. -/
  | prog (core slot : Nat) (w : BitVec 64)
  /-- ACOPY (R151). Issue an asynchronous copy from a local-store descriptor. -/
  | acopy (core slot : Nat) (w : BitVec 64)
  /-- ACOPY_START (R152). A queued copy starts once one of the four running places is free. -/
  | acopyStart (core : Nat)
  /-- ACOPY_COMPLETE (R152). A copy becomes wholly visible and its counter rises. -/
  | acopyComplete (core i : Nat)
  /-- DBELL (R154). A thread requests a doorbell of a queue for device-side enqueue. -/
  | dbell (core slot : Nat) (w : BitVec 64)
  /-- DBELL_POST (R154). Once earlier writes are visible the doorbell is posted and its status written. -/
  | dbellPost (core slot : Nat)
  /-- STORE_BUFFER_DRAIN (R270). A store leaves the store buffer for its home slice. -/
  | storeBufferDrain (core i : Nat)
  /-- CACHE_SECTOR_ARRIVAL (R230). A sector of a missed line arrives at the data or instruction cache and waiting accesses restart. -/
  | cacheSectorArrival (core : Nat) (icache : Bool) (i : Nat)
  /-- REMOTE_COUNTER_FETCHED (R149). A remote arrival counter not held in hardware is fetched from its backing array. -/
  | remoteCounterFetched (ctx n : Nat)
  /-- CORE_CLOCK_GATE (R292). Eight cycles after its last group waits with no work in progress the core gates its clock. -/
  | coreClockGate (core : Nat)
  /-- WAKE_WINDOW (R293). A 100 ns wake window begins and the die's governor grants up to 16 waiting wakes and steps. -/
  | wakeWindow (die : Nat)
  /-- MLOAD (R107). Queue a weight tile load into a bank. -/
  | mload (core slot : Nat) (w : BitVec 64)
  /-- MRUN (R107). Queue a run of passes into accumulator rows. -/
  | mrun (core slot : Nat) (w : BitVec 64)
  /-- MDRAIN (R105). Queue a drain of accumulator rows to local store. -/
  | mdrain (core slot : Nat) (w : BitVec 64)
  /-- MCLR (R107). Queue a clear of accumulator rows. -/
  | mclr (core slot : Nat) (w : BitVec 64)
  /-- MTF (R107). Queue setting of the tensor factor and output tensor scale. -/
  | mtf (core slot : Nat) (w : BitVec 64)
  /-- MREQ (R114). Submit a request to the batcher with a status. -/
  | mreq (core slot : Nat) (w : BitVec 64)
  /-- MFLUSH (R115). Close open batches on a tag. -/
  | mflush (core slot : Nat) (w : BitVec 64)
  /-- MBCFG (R113). Reserve accumulator rows for the batcher or disable it. -/
  | mbcfg (core slot : Nat) (w : BitVec 64)
  /-- MFENCE (R107). Stall the group until its earlier matrix instructions complete. -/
  | mfence (core slot : Nat) (w : BitVec 64)
  /-- MSTAT (R108). Read the array status word. -/
  | mstat (core slot : Nat) (w : BitVec 64)
  /-- BATCH_WINDOW_EXPIRE (R116). An open batch's window expires and the batch closes. -/
  | batchWindowExpire (core i : Nat)
  /-- LOAD_PATH_START (R100). The load at the head of the load path starts once its bank is free. -/
  | loadPathStart (core : Nat)
  /-- GROUP_LOAD_DONE (R100). A plane-group load completes and the bank becomes STREAM or RESIDENT. -/
  | groupLoadDone (core : Nat)
  /-- RUN_PATH_START (R106). The entry at the head of the run path (run, drain, clear, factor or batch) starts after its waits. -/
  | runPathStart (core : Nat)
  /-- GROUP_PASSES_DONE (R101). The last pass reading a streamed plane group completes and the next group reloads into that bank. -/
  | groupPassesDone (core : Nat)
  /-- RUN_DONE (R110). A run's results become visible in the accumulator. -/
  | runDone (core : Nat) (err : ArrayError)
  /-- DRAIN_DONE (R105). A drain's writes are visible and its counter rises. -/
  | drainDone (core : Nat) (err : ArrayError)
  /-- VLD (R163). Vector load from local store. -/
  | vld (core slot : Nat) (w : BitVec 64)
  /-- VST (R163). Vector store to local store. -/
  | vst (core slot : Nat) (w : BitVec 64)
  /-- VADD (R163). Vector add. -/
  | vadd (core slot : Nat) (w : BitVec 64)
  /-- VSUB (R163). Vector subtract. -/
  | vsub (core slot : Nat) (w : BitVec 64)
  /-- VMUL (R163). Vector multiply. -/
  | vmul (core slot : Nat) (w : BitVec 64)
  /-- VFMA (R163). Vector fused multiply-add. -/
  | vfma (core slot : Nat) (w : BitVec 64)
  /-- VMIN (R163). Vector minimum. -/
  | vmin (core slot : Nat) (w : BitVec 64)
  /-- VMAX (R163). Vector maximum. -/
  | vmax (core slot : Nat) (w : BitVec 64)
  /-- VDIV (R163). Vector divide or remainder. -/
  | vdiv (core slot : Nat) (w : BitVec 64)
  /-- VSQRT (R163). Vector square root. -/
  | vsqrt (core slot : Nat) (w : BitVec 64)
  /-- VFN (R163). Vector function from the function table. -/
  | vfn (core slot : Nat) (w : BitVec 64)
  /-- VCMP (R163). Vector compare into a mask. -/
  | vcmp (core slot : Nat) (w : BitVec 64)
  /-- VSEL (R163). Vector select by mask. -/
  | vsel (core slot : Nat) (w : BitVec 64)
  /-- VCVT (R164). Vector format conversion. -/
  | vcvt (core slot : Nat) (w : BitVec 64)
  /-- VLOGIC (R163). Vector bitwise logic. -/
  | vlogic (core slot : Nat) (w : BitVec 64)
  /-- VSHIFT (R163). Vector shift. -/
  | vshift (core slot : Nat) (w : BitVec 64)
  /-- VBCST (R163). Vector broadcast of a scalar. -/
  | vbcst (core slot : Nat) (w : BitVec 64)
  /-- VRED (R165). Vector reduction to a scalar register. -/
  | vred (core slot : Nat) (w : BitVec 64)
  /-- VPERM (R163). Vector permute. -/
  | vperm (core slot : Nat) (w : BitVec 64)
  /-- VMASK (R163). Mask logic. -/
  | vmask (core slot : Nat) (w : BitVec 64)
  /-- VIOTA (R163). Vector index sequence. -/
  | viota (core slot : Nat) (w : BitVec 64)
  /-- VPROG (R170). Apply an element program to a vector register. -/
  | vprog (core slot : Nat) (w : BitVec 64)
  /-- VFENCE (R165). Stall the group until its earlier vector instructions complete. -/
  | vfence (core slot : Nat) (w : BitVec 64)
  /-- VECTOR_EXECUTE (R165). The head of the vector queue starts once its sources are written and the datapath is free. -/
  | vectorExecute (core : Nat) (err : Ecc)
  /-- VECTOR_COMPLETE (R165). A vector instruction writes its result. -/
  | vectorComplete (core : Nat)
  /-- ELEMENT_PROGRAM_READ (R171). An element program object is read into the core's program store. -/
  | elementProgramRead (core ctx h : Nat)
  /-- CELLAR_COMMAND_ENQUEUE (R182). A command from a CELLAR station or the front end enters a stack's cellar queue. -/
  | cellarCommandEnqueue (stack : Nat)
  /-- MATVEC (R194). Cellar matrix-vector products start on the matrix-vector unit. -/
  | matvec (stack : Nat)
  /-- DECODE (R200). Cellar decode of rows to another format. -/
  | decode (stack : Nat)
  /-- KVPACK (R198). Cellar key-value encoding to KV4 or KV8. -/
  | kvpack (stack : Nat)
  /-- GATHER (R200). Cellar gather of rows by index. -/
  | gather (stack : Nat)
  /-- SCATTER (R200). Cellar scatter of rows by index. -/
  | scatter (stack : Nat)
  /-- CELLAR_FILL (R200). Cellar fill with an 8-byte pattern. -/
  | cellarFill (stack : Nat)
  /-- CELLAR_COPY (R200). Cellar copy within the stack. -/
  | cellarCopy (stack : Nat)
  /-- CELLAR_REDUCE (R201). Cellar element-wise reduction of inputs. -/
  | cellarReduce (stack : Nat)
  /-- CBLOAD (R191). Start filling a codebook's shadow generation. -/
  | cbload (stack : Nat)
  /-- CBARM (R192). Arm or disarm a codebook switch. -/
  | cbarm (stack : Nat)
  /-- CELLAR_COMMAND_COMPLETE (R188). A cellar command completes, writes its result record or tile and frees its queue entry. -/
  | cellarCommandComplete (stack : Nat) (unit : CellarUnit) (err : CellarError)
  /-- CODEBOOK_FILL_DONE (R191). A codebook fill completes and the shadow becomes ready. -/
  | codebookFillDone (stack : Nat) (err : Ecc)
  /-- STACK_ACCESS (R220). A pseudo-channel controller performs a request on a 32-byte unit with SECDED. -/
  | stackAccess (stack : Nat) (req : MemReq) (ecc : Ecc)
  /-- REORDER_ENTRY_AGED (R218). A reorder-queue entry waits 1.0 µs and goes ahead of younger entries. -/
  | reorderEntryAged (stack channel tag : Nat)
  /-- SCRUB_READ (R221). The patrol scrubber reads its next unit. -/
  | scrubRead (stack : Nat) (ecc : Ecc)
  /-- STACK_TEMP_READOUT (R216). A stack temperature is read and thermal stack actions are taken. -/
  | stackTempReadout (stack : Nat) (temp : Int)
  /-- ATTIC_ACCESS (R225). The home slice serves a cached-space request, filling or evicting lines. -/
  | atticAccess (slice : Nat) (err : AtticError)
  /-- ATTIC_FLUSH (R229). A write of MC_ATC_FLUSH.GO starts a flush of a partition's slices. -/
  | atticFlush (slice : Nat)
  /-- ATTIC_FLUSH_DONE (R229). An attic flush completes. -/
  | atticFlushDone (p : Nat)
  /-- STORE_ROOM_ACCESS (R234). A store-room controller reads or writes whole blocks with compression and CRC. -/
  | storeRoomAccess (req : MemReq) (out : BlockOutcome)
  /-- PAGE_MOVE_START (R236). A queued page move starts once fewer than 16 moves of the partition run. -/
  | pageMoveStart (p : Nat)
  /-- PAGE_MOVE_DONE (R236). A page move finishes copying, switches the leaf and releases stalled writes. -/
  | pageMoveDone (p i : Nat)
  /-- WALK_START (R248). A TLB miss starts a walk once a walker is free. -/
  | walkStart (die : Nat)
  /-- WALK_COMPLETE (R245). A page walk ends with a translation, a fault or an access outcome. -/
  | walkComplete (die i : Nat)
  /-- FAULT_RECORD_WRITE (R251). A waiting fault or withdrawal record is written to the fault ring and the interrupt raised. -/
  | faultRecordWrite
  /-- FAULT_RESUME (R252). An action write of 1 to TR_FAULT_RESP_ACTION resumes every requester attached to the token. -/
  | faultResume
  /-- FAULT_TERMINATE (R252). An action write of 2 completes every attached submission with FAULT_TRANSLATION. -/
  | faultTerminate
  /-- FAULT_TIMEOUT (R253). A fault token reaches its time limit, is withdrawn and its context is lost. -/
  | faultTimeout (token : BitVec 32)
  /-- INVALIDATE_BY_TAG (R257). TR_INV_GO with RANGE 0 accepts an invalidation by context tag. -/
  | invalidateByTag
  /-- INVALIDATE_BY_RANGE (R258). TR_INV_GO with RANGE 1 accepts an invalidation by page range. -/
  | invalidateByRange
  /-- INVALIDATION_DRAIN_DONE (R259). An invalidation's in-flight uses drain and it completes in order. -/
  | invalidationDrainDone
  /-- FE_DOORBELL (R318). A physical-function doorbell write latches a queue's write index. -/
  | feDoorbell (q : Nat) (w : BitVec 32)
  /-- FE_VF_DOORBELL (R318). A virtual-function doorbell write latches its queue's write index. -/
  | feVfDoorbell (fn k : Nat) (w : BitVec 32)
  /-- FE_KRING_DOORBELL (R318). A kernel-ring doorbell write latches its write index. -/
  | feKringDoorbell (w : BitVec 32)
  /-- QUEUE_SLOT_LOAD (R320). A queue that requested a slot is given one and loaded. -/
  | queueSlotLoad
  /-- RING_ENTRY_FETCH (R321). The front end reads a ring entry and resolves its fallback handle. -/
  | ringEntryFetch (q : Nat) (ecc : Ecc)
  /-- COMMAND_BUFFER_FETCH (R321). A command or fallback buffer is read into the buffer store and its splits computed. -/
  | commandBufferFetch (q : Nat) (fallback : Bool) (ecc : Ecc)
  /-- FENCE_WAIT_POLL (R324). The front end rereads the fence words of waiting entries. -/
  | fenceWaitPoll
  /-- CONTEXT_SLOT_LOAD (R312). A context's load into its slot completes and its work starts. -/
  | contextSlotLoad (ctx : Nat)
  /-- NOP (R324). Command that does nothing. -/
  | nop (q : Nat)
  /-- FENCE_WAIT (R324). Command that holds eligibility until a fence word reaches a value. -/
  | fenceWait (q : Nat)
  /-- DRAUGHT (R324). Command that issues a draught on a logical core. -/
  | draught (q : Nat)
  /-- COPY (R326). Front-end copy, sent to a cellar engine or the copy engine. -/
  | copy (q : Nat)
  /-- FILL (R326). Front-end fill with a pattern. -/
  | fill (q : Nat)
  /-- COPY_ENGINE_PIECE_DONE (R326). The front-end copy engine finishes a 64 KiB piece and serves the next partition in rotation. -/
  | copyEnginePieceDone
  /-- INV_RANGE (R258). Queue command invalidating a range of a context's translations. -/
  | invRange (q : Nat)
  /-- HANDLE_ARM (R315). Arm or disarm a handle-table generation switch. -/
  | handleArm (q : Nat)
  /-- CTX_CREATE (R327). Kernel command creating a context from its descriptor. -/
  | ctxCreate (q : Nat)
  /-- CTX_DESTROY (R327). Kernel command losing or destroying a context. -/
  | ctxDestroy (q : Nat)
  /-- QUEUE_CREATE (R327). Kernel command creating a queue. -/
  | queueCreate (q : Nat)
  /-- QUEUE_DESTROY (R327). Kernel command destroying a queue. -/
  | queueDestroy (q : Nat)
  /-- MOVE (R236). Kernel command requesting a page move. -/
  | move (q : Nat)
  /-- INV_TAG (R257). Kernel command invalidating a context tag. -/
  | invTag (q : Nat)
  /-- BAR2_ACCESS (R304). A host access through a BAR2 window is checked and performed or dropped. -/
  | bar2Access (off : Nat) (acc : HostAccess)
  /-- CONTEXT_WINDOW_ACCESS (R306). A host access through a virtual function's context window is checked and performed or dropped. -/
  | contextWindowAccess (fn off : Nat) (acc : HostAccess)
  /-- CONFIG_REQUEST (R456). A PCIe configuration request is answered with retry status or normally. -/
  | configRequest (fn : Nat)
  /-- D3HOT_ENTRY (R302). A function enters D3hot and its admissions and host writes are held. -/
  | d3hotEntry (fn : Nat)
  /-- D0_RETURN (R302). A function returns to D0 and its held records and messages are sent. -/
  | d0Return (fn : Nat)
  /-- VF_FLR (R300). A function level reset of a virtual function clears its windows and loses its contexts. -/
  | vfFlr (fn : Nat)
  /-- PF_FLR (R300). A function level reset of the physical function starts a warm reset. -/
  | pfFlr
  /-- PT_ACC_FILL (R343). A write of PT_ACC_CTRL.FILL starts filling the access table's shadow. -/
  | ptAccFill
  /-- PT_ACC_ARM (R343). A write of PT_ACC_CTRL.ARM arms the access-table switch. -/
  | ptAccArm
  /-- PT_ACC_DISARM (R343). A write of PT_ACC_CTRL.DISARM disarms the access-table switch. -/
  | ptAccDisarm
  /-- ACCESS_TABLE_FILL_DONE (R343). An access-table fill completes READY or fails. -/
  | accessTableFillDone (ecc : Ecc)
  /-- PT_PREEMPT (R357). A write of PT_PREEMPT.GO pre-empts a context or is refused. -/
  | ptPreempt (value : BitVec 32)
  /-- PREEMPT_SAVE_DONE (R357). A pre-emption's stop and save complete and the context leaves its slot. -/
  | preemptSaveDone (ctx : Nat)
  /-- RESTORE_DONE (R358). A pre-empted context's records are read back and it resumes. -/
  | restoreDone (ctx : Nat)
  /-- PORT_ENABLE (R368). A write of 1 to FB_PORT_CTRLn.ENABLE starts training a port. -/
  | portEnable (n : Nat)
  /-- PORT_DISABLE (R368). A write of 0 to FB_PORT_CTRLn.ENABLE disables a port. -/
  | portDisable (n : Nat)
  /-- RETRAIN (R368). A write of FB_PORT_CTRLn.RETRAIN starts training a port. -/
  | retrain (n : Nat)
  /-- PORT_TRAINING_DONE (R368). Port training ends and the port becomes UP or FAILED. -/
  | portTrainingDone (n : Nat) (ok : Bool)
  /-- PORT_AUTO_RETRAIN (R370). A packet resent 16 times makes the port retrain or fail. -/
  | portAutoRetrain (n : Nat) (within1s : Bool)
  /-- WRITE (R376). A fabric WRITE packet is checked, performed and acknowledged. -/
  | write (n : Nat) (p : Packet)
  /-- READ (R376). A fabric READ packet is checked and answered with DATA. -/
  | read (n : Nat) (p : Packet)
  /-- ATOMIC (R375). A fabric ATOMIC packet is performed at the stack controller and answered with RESULT. -/
  | atomic (n : Nat) (p : Packet)
  /-- ACK (R283). An ACK marks a remote write performed at the sender. -/
  | ack (n : Nat) (p : Packet)
  /-- DATA (R374). DATA packet delivers remote read data to the sender. -/
  | data (n : Nat) (p : Packet)
  /-- RESULT (R375). RESULT packet delivers a remote atomic's old value. -/
  | result (n : Nat) (p : Packet)
  /-- NACK (R377). A NACK stops the issuing work with its fault status. -/
  | nack (n : Nat) (p : Packet)
  /-- CREDIT (R371). A CREDIT packet returns cumulative credits to the sender. -/
  | credit (n : Nat) (p : Packet)
  /-- RETRY (R370). A RETRY packet makes the sender resend from a sequence number. -/
  | retry (n : Nat) (p : Packet)
  /-- INIT (R368). An INIT packet carries the peer's ring position and lock state during training. -/
  | init (n : Nat) (p : Packet)
  /-- TICK_SYMBOL (R385). A K28.1 tick symbol arrives and sets the ring edge used for boundary prediction. -/
  | tickSymbol (t16 : Nat)
  /-- TICK_INFO (R385). A TICK_INFO frame gives boundary time and correction to set RING_OFFSET and relock. -/
  | tickInfo (f : Frame)
  /-- NORMAL (R387). A NORMAL frame carries barrier bits, RELEASE and a management cell and drives election. -/
  | normal (f : Frame)
  /-- CENSUS (R382). A CENSUS frame collects presence and eligibility bits. -/
  | census (f : Frame)
  /-- SURVEY (R383). A SURVEY frame passes the token that starts a hop measurement. -/
  | survey (f : Frame)
  /-- SURVEY_HOP_DONE (R383). A hop's 16 echoes are measured and the token passes on. -/
  | surveyHopDone (hop16 : Nat)
  /-- CENSUS_DUE (R382). A second passes without a census and the master sends one. -/
  | censusDue
  /-- MGMT_CELL_TIMEOUT (R410). Cells of a management message stop for 1 ms and the message is discarded. -/
  | mgmtCellTimeout (src seq : Nat)
  /-- DICT_READ (R404). Dictionary READ of one object on any transport. -/
  | dictRead (t : Transport) (req : List (BitVec 8))
  /-- DICT_WRITE (R405). Dictionary WRITE of one object, applied or staged. -/
  | dictWrite (t : Transport) (req : List (BitVec 8))
  /-- READ_SET (R404). Dictionary read of up to 16 objects from one control cycle. -/
  | readSet (t : Transport) (req : List (BitVec 8))
  /-- DESCRIBE (R404). Dictionary description of one object. -/
  | describe (t : Transport) (req : List (BitVec 8))
  /-- SET_ENDPOINT_ID (R409). MCTP control message setting the endpoint ID. -/
  | setEndpointId (b : Binding) (m : MctpRequest)
  /-- GET_ENDPOINT_ID (R409). MCTP control message returning the endpoint ID. -/
  | getEndpointId (b : Binding) (m : MctpRequest)
  /-- GET_MCTP_VERSION_SUPPORT (R409). MCTP control message returning version support. -/
  | getMctpVersionSupport (b : Binding) (m : MctpRequest)
  /-- GET_MESSAGE_TYPE_SUPPORT (R409). MCTP control message returning message types. -/
  | getMessageTypeSupport (b : Binding) (m : MctpRequest)
  /-- GET_VENDOR_DEFINED_MSG_SUPPORT (R409). MCTP control message returning vendor-defined support. -/
  | getVendorDefinedMsgSupport (b : Binding) (m : MctpRequest)
  /-- ENTDAA (R409). The I3C controller assigns the module its dynamic address. -/
  | entdaa (addr : Nat)
  /-- CALENDAR_END (R401). The calendar reaches 2399-12-31 23:59:59, stops and clears CALENDAR_VALID. -/
  | calendarEnd
  /-- MONITOR_WINDOW_END (R421). A clock-monitor window ends and an out-of-range count starts a failover. -/
  | monitorWindowEnd (count : Nat)
  /-- PLL_UNLOCK (R422). The root PLL loses lock and a failover starts. -/
  | pllUnlock
  /-- OSC_FAIL (R422). 1,024 reference cycles pass without an oscillator edge and OSC_FAIL is raised. -/
  | oscFail
  /-- OSCILLATOR_STABLE (R418). The internal oscillator completes its stability count. -/
  | oscillatorStable
  /-- REFERENCE_STABLE (R418). The reference completes its stability count. -/
  | referenceStable
  /-- PLL_LOCKED (R418). A PLL holds lock for its count and its domain clock is released. -/
  | pllLocked (pll : Pll)
  /-- RESUME (R424). A write of CK_FAIL_CTRL.RESUME ends the clock-failure hold when REF_OK is 1. -/
  | resume (value : BitVec 32)
  /-- CK_GATE_STACK (R420). A write gates or ungates stack clock trees, refusing units in use. -/
  | ckGateStack (value : BitVec 32)
  /-- CK_GATE_SR (R420). A write gates or ungates store-room packages, refusing units in use. -/
  | ckGateSr (value : BitVec 32)
  /-- CK_GATE_PORT (R420). A write gates or ungates fabric ports, refusing units in use. -/
  | ckGatePort (value : BitVec 32)
  /-- CK_GATE_MISC (R420). A write gates or ungates the observability block. -/
  | ckGateMisc (value : BitVec 32)
  /-- POWER_APPLIED (R434). The 54 V input is applied and a cold reset starts. -/
  | powerApplied
  /-- INPUT_FAULT (R434). The input stays outside 46–62 V for 100 µs and the module shuts down. -/
  | inputFault
  /-- INPUT_RESTORED (R434). The input stays within 48–60 V for 100 ms after a shutdown and a cold reset starts. -/
  | inputRestored
  /-- RAIL_POWER_GOOD (R436). A rail group reaches power-good and the next group is enabled. -/
  | railPowerGood
  /-- RAIL_TIMEOUT (R436). A rail group misses power-good for 2 ms and the rails turn off. -/
  | railTimeout
  /-- RAIL_RETRY (R436). 100 ms after a rail failure the sequence retries once. -/
  | railRetry
  /-- RAIL_SAMPLE (R438). The power stages sample every rail and a power fast hold is judged. -/
  | railSample (m : RailSample)
  /-- JUNCTION_SAMPLE (R446). Die junction sensors are sampled and fast holds or trips are judged. -/
  | junctionSample (die : Nat) (temp : Int) (sustained : Bool)
  /-- TRIP_RESTART_DELAY (R447). A cold-reset trigger after a thermal trip acts once 1 s has passed since the trip. -/
  | tripRestartDelay
  /-- MOD_RESET (R484). MOD_RESET# asserted for 1 µs or more causes a cold reset. -/
  | modReset
  /-- MOD_RESET_RELEASE (R484). MOD_RESET# is released and start-up stage 1 begins. -/
  | modResetRelease
  /-- PERST_ASSERT (R484). PERST# asserted for 100 µs after deassertion causes a warm reset. -/
  | perstAssert
  /-- PERST_DEASSERT (R456). PERST# is deasserted and the host link trains. -/
  | perstDeassert
  /-- FL_EN (R489). FL_EN# asserted under MOD_RESET# hands the flash to the J1 pins. -/
  | flEn (asserted : Bool)
  /-- RESET_CTRL_WARM (R449). A write of PW_RESET_CTRL.WARM starts a warm reset. -/
  | resetCtrlWarm (value : BitVec 32)
  /-- QUIESCE_DONE (R455). A warm reset's quiesce ends and start-up stage 4 begins. -/
  | quiesceDone
  /-- PARTITION_RESET (R451). A write of PW_PART_RESET.GO resets one partition. -/
  | partitionReset (value : BitVec 32)
  /-- PARTITION_RESET_DONE (R451). A partition reset completes and BUSY clears. -/
  | partitionResetDone
  /-- CONTEXT_RESET (R449). A write of PW_CTX_RESET.GO loses a context with reason 5. -/
  | contextReset (value : BitVec 32)
  /-- FUSE_LOAD_DONE (R452). Stage 2 ends with fuses loaded and PLLs locked. -/
  | fuseLoadDone (f : Fuses)
  /-- IMAGE_VERIFY_DONE (R453). An image slot's verification ends, applying it, trying slot B or entering recovery. -/
  | imageVerifyDone (img : Option ImageHeader)
  /-- STACK_TRAINED (R454). A stack's training completes or fails. -/
  | stackTrained (stack : Nat) (ok : Bool)
  /-- SR_PACKAGE_TRAINED (R454). A store-room package's training completes or fails. -/
  | srPackageTrained (pkg : Nat) (ok : Bool)
  /-- INVALIDATE_DONE (R452). Stage 5 invalidation of caches completes and cores are released. -/
  | invalidateDone
  /-- DICTIONARY_ONLINE (R452). Stage 7 ends with the dictionary online and ring join begins. -/
  | dictionaryOnline
  /-- RING_JOIN_TIMEOUT (R452). Stage 8 reaches 20 ms without a master and ends in Free. -/
  | ringJoinTimeout
  /-- SAMPLE_BUFFER_DRAIN (R470). A core's sampling buffer reaches 64 records and is drained to the ring. -/
  | sampleBufferDrain (core : Nat)
  /-- HISTOGRAM_CLEAR (R468). A write of OB_HIST_CTRL.CLEAR clears the selected histograms. -/
  | histogramClear
  /-- MC_CEL_ERR_READ (R208). A read of MC_CEL_ERR returns and clears CE_COUNT. -/
  | mcCelErrRead (stack : Nat) (r : RegRead)
  /-- MC_STK_ERR_READ (R239). A read of MC_STK_ERR returns and clears CE_COUNT. -/
  | mcStkErrRead (stack : Nat) (r : RegRead)
  /-- MC_SR_STATUS_READ (R239). A read of MC_SR_STATUS returns and clears HDR_MISS. -/
  | mcSrStatusRead (pkg : Nat) (r : RegRead)
  /-- MC_SR_ERR_READ (R239). A read of MC_SR_ERR returns and clears RETRY_COUNT. -/
  | mcSrErrRead (pkg : Nat) (r : RegRead)
  /-- MC_ATC_ERR_READ (R239). A read of MC_ATC_ERR returns and clears CE_COUNT. -/
  | mcAtcErrRead (slice : Nat) (r : RegRead)
  /-- FB_PORT_ERR_READ (R392). A read of FB_PORT_ERRn returns and clears RETRY_COUNT. -/
  | fbPortErrRead (n : Nat) (r : RegRead)
  /-- PT_POOL_EVENT_READ (R365). A read of PT_POOL_EVENTp returns and clears SPILLS. -/
  | ptPoolEventRead (p : Nat) (r : RegRead)
  /-- OB_GUSTS_READ (R475). A read of OB_GUSTS returns and clears the count. -/
  | obGustsRead (die : Nat) (r : RegRead)
  /-- OB_HELD_READ (R475). A read of OB_HELD returns and clears the count. -/
  | obHeldRead (die : Nat) (r : RegRead)
  /-- OB_WAIT_NS_READ (R475). A read of OB_WAIT_NS returns and clears the count. -/
  | obWaitNsRead (die : Nat) (r : RegRead)
  /-- REGISTER_WRITE (R12). A write to a register with no row of its own acts by its access codes. -/
  | registerWrite (fn off width : Nat) (value : Nat)
  /-- BYPASS (R490). TAP BYPASS instruction. -/
  | bypass
  /-- IDCODE (R490). TAP IDCODE instruction. -/
  | idcode
  /-- SAMPLE_PRELOAD (R490). TAP SAMPLE/PRELOAD instruction. -/
  | samplePreload
  /-- EXTEST (R490). TAP EXTEST instruction, driving pins only under MOD_RESET#. -/
  | extest
  /-- STACK_LINK_ERROR (R222). An interface link error on a stack is seen, sets MC_STK_ERR.LINK_ERR, and when retraining does not clear it the stack goes OFFLINE with the losses of R223. -/
  | stackLinkError (stack : Nat) (cleared : Bool)
  /-- PACKET_DROP (R370). A fabric receiver drops a packet whose CRC fails or whose SEQ is not the one expected, or meets a codeword the FEC cannot correct, counts a retry and sends RETRY with the expected SEQ. -/
  | packetDrop (n : Nat) (why : DropCause)
  /-- SURVEY_ECHO (R383). During a survey the next module receives the K28.7 echo symbols on its ring-in pair, turns the pair round, returns each echo exactly 1,000 ns after receipt, and turns the pair back. -/
  | surveyEcho
  deriving DecidableEq, Repr

end Sys2Proof
end

