-- ==== Sys2Proof/Decode.lean ====
section
/-!
DEFINITION. The command that a word spells by the bits of spec/opcode_table.json. The table gives no row any bits, so
every word is refused. The fields of the 64-bit instruction words that threads issue are read in
Sys2Proof/Machine/Operands.lean.
-/

namespace Sys2Proof

/-- The command spelled by a word of the table: no row has bits. -/
def decodeTableWord (_nbits _w : Nat) : Option Instr := none

end Sys2Proof
end

