-- ==== Sys2Proof/Config.lean ====
section
/-!
DEFINITION. The free values: what the manual leaves open. Each is an opaque constant with no body, so no statement can
rest on a value of it (log entry 1).
-/

namespace Sys2Proof.Config

/-- The n-th free byte: contents the manual calls undefined (R351, R450). -/
opaque freeByte : Nat → BitVec 8

/-- The n-th free word: a value the manual leaves undefined (R175). -/
opaque freeWord : Nat → Nat

/-- The result of a function of R163 in a format, as a code of that format, where the manual gives an error bound and
no value (R174): function, format code, argument code. -/
opaque fnResult : Nat → Nat → Nat → Nat

/-- The n-th measured time: a length of time in ns that a record carries and that the model does not time (R29, R189, R329, R472). -/
opaque freeTime : Nat → Nat

/-- The module's own revision, set by fitting on the module (R482); the spec gives no value (log entry 8). -/
opaque moduleRevision : BitVec 8

/-- How the baseboard straps the ID pins (R481, R482; log entry 6). -/
opaque strapId : BitVec 6

/-- How the baseboard straps the BB_ID pins (R481, R482; log entry 6). -/
opaque strapBb : BitVec 4

/-- The MCTP version word that the module reports for a message type (R409; log entry 32). -/
opaque mctpVersion : Nat → Nat

/-- The Vendor ID of the physical function, and the command set that it reports with it (R409; log entry 32). -/
opaque pciVendor : BitVec 16
opaque vendorSet : BitVec 16

end Sys2Proof.Config
end

