-- ==== Sys2Proof/Machine/Bits.lean ====
section
/-!
DEFINITION. Bit fields of numbers, byte order, sign extension, and keyed lists: the plain data every other file uses.
-/

namespace Sys2Proof.Machine

/-- Bits [hi:lo] of a number, as the manual writes bit ranges. -/
def bits (w hi lo : Nat) : Nat := (w >>> lo) % 2 ^ (hi + 1 - lo)

/-- Bit i of a number. -/
def bit (w i : Nat) : Bool := w.testBit i

/-- A bit as a number. -/
def bnat (b : Bool) : Nat := if b then 1 else 0

/-- The number with bits [hi:lo] replaced by v. -/
def setBits (w hi lo v : Nat) : Nat :=
  w - (bits w hi lo <<< lo) + ((v % 2 ^ (hi + 1 - lo)) <<< lo)

/-- The number with bit i set to b. -/
def setBit (w i : Nat) (b : Bool) : Nat := setBits w i i (bnat b)

/-- The two's-complement value of the low n bits. -/
def signedOf (n v : Nat) : Int :=
  let u := v % 2 ^ n
  if 2 * u < 2 ^ n then (u : Int) else (u : Int) - (2 ^ n : Nat)

/-- The low n bits of the two's complement of an integer. -/
def twos (n : Nat) (v : Int) : Nat := (v % (2 ^ n : Nat)).toNat

/-- The integer clamped to a range. -/
def clampInt (lo hi v : Int) : Int := if v < lo then lo else if hi < v then hi else v

/-- The little-endian bytes of a number. -/
def toLE : Nat → Nat → List Byte
  | 0, _ => []
  | n + 1, v => BitVec.ofNat 8 v :: toLE n (v / 256)

/-- The number whose little-endian bytes are given. -/
def ofLE : List Byte → Nat
  | [] => 0
  | b :: t => b.toNat + 256 * ofLE t

/-- n bytes of zero. -/
def zeroBytes (n : Nat) : List Byte := List.replicate n 0#8

/-- The n bytes of a byte string from offset o on; bytes beyond its end are zero. -/
def sliceBytes (b : List Byte) (o n : Nat) : List Byte :=
  let t := (b.drop o).take n
  t ++ zeroBytes (n - t.length)

/-- The little-endian number in n bytes of a byte string at offset o. -/
def fieldLE (b : List Byte) (o n : Nat) : Nat := ofLE ((b.drop o).take n)

/-- The bytes of a byte string with `src` laid over it from offset o on, the length kept. -/
def overlayBytes (b : List Byte) (o : Nat) (src : List Byte) : List Byte :=
  let n := b.length
  ((b.take o ++ zeroBytes (o - b.length)) ++ src ++ b.drop (o + src.length)).take n

/-- Every byte of the slice is zero. -/
def allZero (b : List Byte) : Bool := b.all (· == 0#8)

/-- The least multiple count: a divided by b, rounded up. -/
def ceilDiv (a b : Nat) : Nat := (a + b - 1) / b

/-- The set bit numbers of a mask below n, ascending. -/
def bitsSet (n mask : Nat) : List Nat := (List.range n).filter (fun i => bit mask i)

/-- The mask with the given bits set. -/
def maskOf (l : List Nat) : Nat := l.foldl (fun m i => m ||| (1 <<< i)) 0

/-- How many bits of a mask below n are set. -/
def popCount (n mask : Nat) : Nat := (bitsSet n mask).length

/-- The first element that satisfies p, with its position. -/
def findIdxOpt {α : Type} (p : α → Bool) : List α → Option Nat
  | [] => none
  | a :: t => if p a then some 0 else (findIdxOpt p t).map (· + 1)

/-- The list with element i replaced. -/
def setAt {α : Type} (l : List α) (i : Nat) (v : α) : List α := l.set i v

/-- The list without element i. -/
def removeAt {α : Type} (l : List α) (i : Nat) : List α := l.eraseIdx i

/-- The element put before the first one that it is not after. -/
def insertBy {α : Type} (le : α → α → Bool) (x : α) : List α → List α
  | [] => [x]
  | y :: t => if le x y then x :: y :: t else y :: insertBy le x t

/-- The list in the order of `le`; elements that are equal in it keep their order. -/
def sortBy {α : Type} (le : α → α → Bool) (l : List α) : List α := l.foldr (insertBy le) []

/-- A keyed list. Keys are Nat; `insert` keeps them in rising order. -/
abbrev Assoc (α : Type) := List (Nat × α)

/-- The value at a key, if one is listed. -/
def find {α : Type} : Assoc α → Nat → Option α
  | [], _ => none
  | (k', v) :: t, k => if k' = k then some v else find t k

/-- The keyed list with the value at k set. -/
def insert {α : Type} : Assoc α → Nat → α → Assoc α
  | [], k, v => [(k, v)]
  | (k', v') :: t, k, v =>
    if k < k' then (k, v) :: (k', v') :: t
    else if k' = k then (k, v) :: t
    else (k', v') :: insert t k v

/-- The keyed list without key k. -/
def erase {α : Type} (m : Assoc α) (k : Nat) : Assoc α := m.filter (fun p => p.1 != k)

/-- The value at a key of a list in which an unlisted key has value d. -/
def getD {α : Type} (d : α) (m : Assoc α) (k : Nat) : α := (find m k).getD d

/-- Write a value at a key of a list in which an unlisted key has value d: d itself is never listed. -/
def putD {α : Type} [DecidableEq α] (d : α) (m : Assoc α) (k : Nat) (v : α) : Assoc α :=
  if v = d then erase m k else insert m k v

/-- The value at k changed by f, when one is listed. -/
def modify {α : Type} (m : Assoc α) (k : Nat) (f : α → α) : Assoc α :=
  match find m k with
  | some v => insert m k (f v)
  | none => m

/-- Every listed value changed by f, which sees the key. -/
def mapValues {α β : Type} (m : Assoc α) (f : Nat → α → β) : Assoc β := m.map (fun p => (p.1, f p.1 p.2))

/-- The listed entries that satisfy p. -/
def filterValues {α : Type} (m : Assoc α) (p : Nat → α → Bool) : Assoc α := m.filter (fun e => p e.1 e.2)

/-- Some listed entry satisfies p. -/
def anyValue {α : Type} (m : Assoc α) (p : Nat → α → Bool) : Bool := m.any (fun e => p e.1 e.2)

/-- The keys rise strictly. -/
def keysRise {α : Type} : Assoc α → Bool
  | [] => true
  | [_] => true
  | (k, _) :: (k', v') :: t => decide (k < k') && keysRise ((k', v') :: t)

/-- Bytes with zeros up to a length. -/
def padTo (n : Nat) (b : List Byte) : List Byte := b ++ zeroBytes (n - b.length)

end Sys2Proof.Machine
end

