-- ==== Sys2Proof/Machine/State.lean ====
section
/-!
DEFINITION. The state of the module, as plain data, and the state after reset.

Keyed lists (`Assoc`) are sparse: `Core`s by logical core, groups by slot, contexts by identifier, queues by queue
number, registers by BAR0 offset of the physical function, dictionary objects by index × 256 + subindex.
-/

namespace Sys2Proof.Machine

/-- Why the machine stops with a fault. Every fault the manual describes is the fault of a submission and is a next
state (its status code is in the completion record, R14), so no step of this block ends in a machine fault: the type
has one constructor that no meaning raises. -/
inductive Fault where
  /-- Raised by nothing: kept so that the type is not empty. Safe. -/
  | unused
  deriving DecidableEq, Repr

/-- Why a command has no step in a state. -/
inductive Refusal where
  /-- Raised by an arm of `exec` whose command is not modelled. Safe: the machine stops. -/
  | notModelled (mnemonic : String)
  /-- Raised by the meaning of an event that cannot take place in the state: what the event completes or continues is
  not in progress, or the unit it names does not exist. The manual gives such an event no effect. Safe: the machine
  stops where the hardware makes no such step. -/
  | notEnabled (event : String)
  deriving DecidableEq, Repr

/-- An entry of the array's accumulator (R76): integer, anchor, special state (0 finite, 1 +inf, 2 −inf, 3 NaN as in
the SPECIAL field of R81). -/
structure AccEntry where
  int     : Int
  anchor  : Int
  special : Nat
  deriving DecidableEq, Repr

/-- A zeroed entry (R104). -/
def AccEntry.zero : AccEntry := ⟨0, 0, 0⟩

/-- One alignment block of one column of a bank (R90): the exponent of its step, its 32 integers, and per element
0 positive, 1 zero, 2 +inf, 3 −inf, 4 NaN, 5 negative, by its value after its scales (R80). -/
structure Block where
  step : Int
  ints : List Int
  kind : List Nat
  deriving DecidableEq, Repr

/-- The bank states of R100. -/
inductive BankState where
  | empty | loading | stream | resident
  deriving DecidableEq, Repr

/-- A weight bank (R90, R98, R100): the `held` plane groups from `group` on that it holds of a tile of `planes` planes and
`cols` columns in `groups` groups; `cells` holds, band by band, per column its alignment blocks;
`used` counts the reduction rows that compute tiles consumed (R111); `exact` says no block was loaded below its exact
budget (R467). -/
structure Bank where
  state   : BankState
  tag     : Nat
  fmt     : Nat
  planes  : Nat
  cols    : Nat
  kblocks : Nat
  group   : Nat
  held    : Nat
  groups  : Nat
  used    : Nat
  twosC   : Bool
  tscale  : Nat
  reduced : Bool
  exact   : Bool
  cells   : List (List Block)
  deriving DecidableEq, Repr

/-- An empty bank. -/
def Bank.none : Bank := ⟨.empty, 0, 0, 0, 0, 0, 0, 0, 0, 0, false, 0x3F800000, false, true, []⟩

/-- A queued matrix operation (R106): its instruction word, the values of SA and SB at issue, the issuing slot and
the queue and context of its submission, its place in issue order; `planes` is the weight budget after R445, and `cols` the columns of the
tile that a run reads (R109). -/
structure MatOp where
  seq   : Nat
  w     : Word64
  a     : Word64
  b     : Word64
  slot  : Nat
  queue : Nat
  ctx   : Nat
  planes : Nat
  cols  : Nat
  deriving DecidableEq, Repr

/-- A load on the load path (R98 to R101): the operation, the group being loaded. -/
structure LoadJob where
  op    : MatOp
  group : Nat
  started : Bool
  deriving DecidableEq, Repr

/-- A batcher request (R114): activation address, destination, counter, and its submission. -/
structure BatchReq where
  src   : Nat
  dest  : Nat
  ctr   : Nat
  queue : Nat
  deriving DecidableEq, Repr

/-- A batch (R114, R115): tag, configuration word bits that its requests share, its requests in order, whether it is due
to close once a closed batch leaves, and its place in issue order once it closed. -/
structure Batch where
  seq    : Nat
  due    : Bool
  tag    : Nat
  bank   : Nat
  actFmt : Nat
  slices : Nat
  outFmt : Nat
  ctx    : Nat
  reqs   : List BatchReq
  deriving DecidableEq, Repr

/-- The work at the head of the run path (R106): the operation or batch, and the plane groups whose passes are over. -/
inductive RunJob where
  | run (op : MatOp) (groupsDone : Nat)
  | drain (op : MatOp)
  | batchRun (b : Batch)
  | batchDrain (b : Batch) (left : Nat)
  deriving DecidableEq, Repr

/-- The matrix array of a core (R90 to R121). `rowCols` keeps, by row, the columns of the tile that the latest run into it read (R109);
`holder` is the draught that holds a row block and `holdRows` the rows it uses (R112). -/
structure ArraySt where
  seq     : Nat
  owner   : Option Nat
  wide    : Bool
  acc     : Assoc AccEntry
  dirty   : Nat
  rowCols : Assoc Nat
  factor  : Nat
  tOut    : Nat
  bank0   : Bank
  bank1   : Bank
  loads   : List LoadJob
  queue   : List MatOp
  run     : Option RunJob
  batchRows : Nat
  opened  : List Batch
  closed  : List Batch
  holder  : Option Nat
  holdRows : Nat
  deriving DecidableEq, Repr

/-- The array as a new owner finds it (R118). -/
def ArraySt.fresh (o : Option Nat) : ArraySt :=
  ⟨0, o, false, [], 0, [], 0x3FF0000000000000, 0x3F800000, Bank.none, Bank.none, [], [], none, 0, [], [], none, 0⟩

/-- A queued vector instruction (R165). -/
structure VecOp where
  w     : Word64
  a     : Word64
  b     : Word64
  slot  : Nat
  queue : Nat
  ctx   : Nat
  deriving DecidableEq, Repr

/-- The element engine's register file and queue (R159, R165). -/
structure VecSt where
  vr    : Assoc (BitVec 16384)
  vm    : Assoc (BitVec 2048)
  queue : List VecOp
  exec  : Option VecOp
  deriving DecidableEq, Repr

/-- The vector file as a new owner finds it (R159). -/
def VecSt.fresh : VecSt := ⟨[], [], [], none⟩

/-- An element program held in the program store (R171), most recently used first in the list that holds it. -/
structure ProgHeld where
  ctx   : Nat
  h     : Nat
  queue : Nat
  image : List Byte
  deriving DecidableEq, Repr

/-- What stalls a path: a counter below a threshold (R140), or a doorbell that is not posted yet (R154), by the core's number for it. -/
inductive PathWait where
  | counter (remote : Bool) (n : Nat) (thr : Word32)
  | bell (id : Nat)
  deriving DecidableEq, Repr

/-- A path of a thread group (R137 to R140): PC, mask, the enclosing divergences innermost first as (number,
reconvergence PC), whether it waits at its reconvergence PC, what it was rotated out on, and its backward-transfer count. -/
structure Path where
  pc      : Nat
  mask    : Nat
  nest    : List (Nat × Nat)
  waiting : Bool
  blocked : Option PathWait
  back    : Nat
  deriving DecidableEq, Repr

/-- What holds a group in the pending set, or keeps it not ready (R126). `counters`: none of its paths can run (R140). `fence`: the core's
stores below a number are awaited (R273). `lineMiss` names the cache and the virtual line. -/
inductive Cond where
  | clear
  | counters
  | barrier (b : Nat)
  | mfence
  | vfence
  | fence (upto : Nat)
  | matrixFull
  | draughtFull
  | copyFull
  | lineMiss (icache : Bool) (va : Nat)
  | walk (va : Nat)
  | fault (token : Word32)
  | yielded
  | ownership
  | remote
  | counterFetch (n : Nat)
  deriving DecidableEq, Repr

/-- A load of the cached space whose data is on its way (R126, R230): its first register, the registers and bytes of a thread's value, and the
threads that still wait, with their virtual and physical addresses. -/
structure LaneLoad where
  reg   : Nat
  words : Nat
  size  : Nat
  lanes : List (Nat × Nat × Nat)
  deriving DecidableEq, Repr

/-- A resident thread group (R122 to R130). `lanes` is keyed by register × 32 + lane; `loads` are its loads whose data is on its way;
`fenced` says that the fence of the instruction at its PC is over (R273). -/
structure Group where
  ctx     : Nat
  queue   : Nat
  regs    : Nat
  depth   : Nat
  scratch : Nat
  scratchAt : Nat
  launchIdx : Nat
  lanes   : Assoc Word32
  scalars : Assoc Word64
  live    : Nat
  run     : Option Path
  stack   : List Path
  nextDiv : Nat
  active  : Bool
  cond    : Cond
  clearedAt : Nat
  loads   : List LaneLoad
  fenced  : Bool
  deriving DecidableEq, Repr

/-- A group waiting in a core's launch queue (R124) with the parameters of R122. -/
structure LaunchReq where
  ctx     : Nat
  queue   : Nat
  entry   : Nat
  regs    : Nat
  threads : Nat
  depth   : Nat
  scratch : Nat
  args    : List Word64
  idx     : Nat
  deriving DecidableEq, Repr

/-- A context's local-store allocation on a core (R50, R148): units, static units, the free values that bytes not
written since a release hold (R351), the bytes written, the arrival counters. -/
structure LsAlloc where
  units  : Nat
  static : Nat
  seed   : Nat
  bytes  : Assoc Byte
  ctrs   : Assoc Word32
  deriving DecidableEq, Repr

/-- A set of a set-associative cache with tree pseudo-LRU replacement (R145, R225, R247): the tree's bits, node i's
children being 2i + 1 and 2i + 2, and the ways. -/
structure CacheSet (α : Type) where
  tree : Nat
  ways : List (Option α)
  deriving DecidableEq, Repr

/-- A line of a core cache (R145): context, virtual and physical line address, its 128 bytes. -/
structure DcLine where
  ctx  : Nat
  va   : Nat
  pa   : Nat
  data : List Byte
  deriving DecidableEq, Repr

/-- A store-buffer entry (R146): context, the queue that stored last, physical line, the virtual pages through which it was stored to
(R258), the bytes stored, by offset in the line. -/
structure SbEntry where
  ctx  : Nat
  queue : Nat
  pa   : Nat
  pages : List Nat
  data : Assoc Byte
  deriving DecidableEq, Repr

/-- A line on its way to a core cache (R230): which cache, the line's addresses, the first sector asked for, the
sectors arrived, and the bytes once the home slice has served it. `stale`: the cache's lines were discarded since it was asked for, and no
later access hits it. -/
structure LineFill where
  icache : Bool
  ctx    : Nat
  va     : Nat
  pa     : Nat
  first  : Nat
  arrived : Nat
  data   : Option (List Byte)
  stale  : Bool
  deriving DecidableEq, Repr

/-- A doorbell that waits for the earlier work of its group (R154): the core's number for it, the group, the queue it rings with the write
index, the register of its status, and the number below which the core's stores are awaited. -/
structure Bell where
  id    : Nat
  slot  : Nat
  queue : Nat
  rings : Nat
  index : Word32
  sd    : Nat
  upto  : Nat
  deriving DecidableEq, Repr

/-- An asynchronous copy (R151, R152): the model's number for it, its descriptor bytes, issuer, whether it runs, bytes already moved, the
translation fault it stalls on. -/
structure Copy where
  id      : Nat
  ctx     : Nat
  queue   : Nat
  slot    : Nat
  desc    : List Byte
  gen     : Bool
  running : Bool
  done    : Nat
  stall   : Option Word32
  deriving DecidableEq, Repr

/-- A tile in a local-store buffer (R46, R81, R96): format, layout code, shape, the tensor scale recorded with it
(R67) and its bytes. -/
structure Tile where
  idx    : Nat
  fmt    : Nat
  layout : Nat
  rows   : Nat
  cols   : Nat
  tscale : Nat
  bytes  : List Byte
  deriving DecidableEq, Repr

/-- One station of an active draught (R48): the tile in progress or the next it will begin, whether it works on it, its full
output buffers oldest first, the translation fault it stalls on, whether it waits for a cellar result or a peer, the
result tile a cellar engine returned, and what a peer has answered: the pieces of read data by number, with how many
answers are awaited. -/
structure StationSt where
  next  : Nat
  busy  : Bool
  outs  : List Tile
  stall : Option Word32
  waits : Bool
  got   : Option Tile
  parts : Assoc (List Byte)
  awaits : Nat
  deriving DecidableEq, Repr

/-- A binding of a draught to a generation of a codebook: stack, identifier, slot and generation count (R193). -/
structure CbBinding where
  stack : Nat
  id    : Nat
  slot  : Nat
  gen   : Nat
  deriving DecidableEq, Repr

/-- The handles of a cellar command template, relocated as the draught became active: base and size of each object, and the codebook
identifier of A (R183). -/
structure Relocated where
  aBase : Nat
  aSize : Nat
  bBase : Nat
  bSize : Nat
  dBase : Nat
  dSize : Nat
  cbA   : Nat
  deriving DecidableEq, Repr

/-- An issued draught (R45, R55, R59): descriptor, split with the tile's rows and columns, ACC_TILES and TILE_COUNT that it
gives and the buffer need (R51 to R53), codebook bindings, the template with its relocated handles, stations, tiles retired; `slot` is the group
slot of the thread that issued it; `bank` is the bank its ARRAY uses next, `tileCols` the columns of its tile already run, and `resident` says
that bank was RESIDENT at the start (R111); `peers` are tiles of other members at a
reduce root, `members` the cores they came from (R49); `tIn` and `tOut` are the tensor headers once read (R67). -/
structure Draught where
  ctx      : Nat
  queue    : Nat
  slot     : Option Nat
  desc     : List Byte
  gen      : Bool
  split    : Nat
  rows     : Nat
  cols     : Nat
  acc      : Nat
  count    : Nat
  need     : Nat
  active   : Bool
  order    : Nat
  template : List Byte
  progs    : List (List Byte)
  rel      : Relocated
  binding  : List CbBinding
  stations : List StationSt
  retired  : Nat
  bank     : Nat
  tileCols : Nat
  resident : Bool
  peers    : List (Nat × Nat × Tile)
  members  : List Nat
  tIn      : Option Nat
  tOut     : Option Nat
  deriving DecidableEq, Repr

/-- A sampling record waiting in a core's buffer (R469), as its 32 bytes. -/
abbrev SampleRec := List Byte

/-- A core (R44, R122 to R158). `turns` is the draught that a shared station served last, by station (R55); `nextStore` numbers the stores that leave its store buffer (R273). -/
structure Core where
  groups   : Assoc Group
  launchQ  : List LaunchReq
  allocs   : Assoc LsAlloc
  gated    : Bool
  held     : Bool
  clearSeq : Nat
  lastSlot : Nat
  icache   : Assoc (CacheSet DcLine)
  dcache   : Assoc (CacheSet DcLine)
  stores   : List SbEntry
  nextStore : Nat
  fills    : List LineFill
  copies   : List Copy
  nextCopy : Nat
  dbells   : List Bell
  nextBell : Nat
  array    : ArraySt
  vec      : VecSt
  draughts : List Draught
  nextDraught : Nat
  turns    : Assoc Nat
  progs    : List ProgHeld
  samples  : List SampleRec
  issued   : Nat
  deriving DecidableEq, Repr

/-- A core as it is released: no groups, caches invalid, arrays and vector files zero (R231, R452). -/
def Core.fresh : Core :=
  ⟨[], [], [], false, false, 0, 0, [], [], [], 0, [], [], 0, [], 0, ArraySt.fresh none, VecSt.fresh, [], 0, [], [], [], 0⟩

/-- A barrier of a context bound to a physical barrier (R287 to R291): the physical barrier, members, the ring
barrier it spans, the phase, and per core the arrivals, E and widest scope of the phase. -/
structure BarrierSt where
  phys    : Nat
  members : Nat
  ring    : Option Nat
  phase   : Nat
  counts  : Assoc (Nat × Nat × Nat)
  deriving DecidableEq, Repr

/-- Pages of a command's ranges translated so far (R242, R254): the physical page of each virtual page, and how many of the ranges' pages,
in order, are done. -/
structure PageMap where
  pages : Assoc Nat
  done  : Nat
  deriving DecidableEq, Repr

/-- No page is translated yet. -/
def PageMap.empty : PageMap := ⟨[], 0⟩

/-- A cellar command in a queue (R182, R185): its 64 bytes, the physical ranges its handles gave (A, B, D), and its
source: a station (core, draught order, tile) or the front end. `tile` is the station's input tile; `maps` the pages of its ranges. -/
structure CellCmd where
  cmd   : List Byte
  ctx   : Nat
  queue : Nat
  core  : Option Nat
  draught : Nat
  tileIdx : Nat
  tile  : Option Tile
  aBase : Nat
  bBase : Nat
  dBase : Nat
  aSize : Nat
  bSize : Nat
  dSize : Nat
  cbA   : Nat
  slotA : Option Nat
  gen   : Word32
  maps  : PageMap
  deriving DecidableEq, Repr

/-- The context states of R311. -/
inductive CtxState where
  | free | idle | resident | lost
  deriving DecidableEq, Repr

/-- What a pre-emption saves of one core (R357). -/
structure SavedCore where
  core     : Nat
  groups   : Assoc Group
  copies   : List Copy
  draughts : List Draught
  launchQ  : List LaunchReq
  dbells   : List Bell
  alloc    : Option LsAlloc
  array    : Option ArraySt
  vec      : Option VecSt
  deriving DecidableEq, Repr

/-- A context (R309 to R315). `rctrs` holds its remote arrival counters that are held in hardware, `heldCtrs` their numbers, the most recently
used first; the others lie in their backing words (R149). `savedCells` are the front end's cellar commands, by stack, that a pre-emption withdrew (R205). -/
structure Context where
  state     : CtxState
  reason    : Nat
  descAddr  : Nat
  partition : Nat
  stackMask : Nat
  lsUnits   : Nat
  static    : Nat
  fn        : Nat
  fnIndex   : Nat
  l1        : Nat
  htable0   : Nat
  htable1   : Nat
  handles   : Nat
  saveBase  : Nat
  saveSize  : Nat
  barMap    : List (List Byte)
  gen       : Bool
  armed     : Bool
  rctrs     : Assoc Word32
  heldCtrs  : List Nat
  bars      : Assoc BarrierSt
  admitSeq  : Nat
  loading   : Bool
  saving    : Bool
  restoring : Bool
  driverPre : Bool
  saved     : List SavedCore
  savedCells : List (Nat × CellCmd)
  deriving DecidableEq, Repr

/-- A ring entry fetched into the buffer store (R319 to R321): its index and 64 bytes, the command buffer and the
fallback buffer once read, the status its checks found, and the mask of its fence waits that are met. -/
structure Fetched where
  idx      : Word32
  entry    : List Byte
  buffer   : Option (List Byte)
  fallback : Option (List Byte)
  fbBase   : Nat
  fbSize   : Nat
  badHandle : Bool
  status   : Nat
  met      : Nat
  deriving DecidableEq, Repr

/-- A queue (R316 to R321) with the cumulative accounts of its tick-record entry (R29), and of the entry at READ: its WAIT_TICKS and
DEFERRALS (R330), the consecutive deferrals in a row for memory and for any reason (R352), and the boundaries since it was
first eligible (R35). -/
structure Queue where
  cls     : Nat
  ctx     : Nat
  flags   : Nat
  log2    : Nat
  vector  : Nat
  fnIndex : Nat
  ringBase : Nat
  compBase : Nat
  rtMask  : Nat
  rtFrac  : Nat
  read    : Word32
  write   : Word32
  taken   : Word32
  resident : Bool
  request : Option Nat
  lastBell : Nat
  fetched : List Fetched
  fence   : Word64
  waits   : Word32
  defers  : Word32
  overruns : Nat
  fallbacks : Nat
  refusals : Nat
  preempts : Nat
  hWait    : Nat
  hDefer   : Nat
  hMem     : Nat
  hAny     : Nat
  hElig    : Nat
  deriving DecidableEq, Repr

/-- A submission's life after admission. -/
inductive SubPhase where
  | running | aborting | frozen | preempting | saved | restoring
  deriving DecidableEq, Repr

/-- An admitted or running submission (R319, R325, R330), keyed by its queue; the kernel ring's is keyed by 8,192.
`fault` is the standing status of group 1 of R33 (0 none) and `faultAt` the control cycle it was detected in, `work` counts front-end work still running for it, `place` is its placement set (R348), `maps` the pages of the copy that
is being dispatched (R326).
Of a real-time one, `window` is the time its reserved window ends, `windowOver` says it ended, and `abortAt` is when its
abort started (R34, R38, R41); of a frozen one, `abortAt` and `frozeTick` are the time and the tick of the freeze (R471). -/
structure Submission where
  ctx      : Nat
  partition : Nat
  idx      : Word32
  entry    : List Byte
  buffer   : List Byte
  fallback : List Byte
  pos      : Nat
  phase    : SubPhase
  isFallback : Bool
  fallbackRan : Bool
  wasPreempted : Bool
  stopped  : Bool
  fault    : Nat
  faultAt  : Nat
  hung     : Bool
  splitLog2 : Nat
  progress : Word32
  consec   : Nat
  crossed  : Nat
  waitTicks : Nat
  deferrals : Nat
  coreNs   : Nat
  start    : Nat
  ends     : Assoc Nat
  cores    : List Nat
  gen      : Bool
  level    : Nat
  throttled : Bool
  checked  : Bool
  held     : Bool
  window   : Nat
  abortAt  : Nat
  frozeTick : Nat
  windowOver : Bool
  work     : Nat
  place    : List Nat
  maps     : PageMap
  deriving DecidableEq, Repr

/-- A front-end copy or fill that runs on the copy engine or a cellar engine (R326), with its progress: the model's number for it, the addresses its sides begin at, the port and the context
of a peer it writes to, and the writes a peer has not acknowledged. -/
structure FeCopy where
  id        : Nat
  queue     : Nat
  ctx       : Nat
  partition : Nat
  cmd       : List Byte
  src       : Nat
  dst       : Nat
  peer      : Option (Nat × Nat)
  done      : Nat
  onStack   : Option Nat
  stall     : Option Word32
  peerAcks  : Nat
  deriving DecidableEq, Repr

/-- Who made a request that translates (R242, REQUESTER of R251). -/
inductive Requester where
  | lane (core slot : Nat)
  | fetch (core slot : Nat)
  | station (core d st : Nat)
  | copy (core i : Nat)
  | frontEnd (queue : Nat)
  | ingress (port : Nat)
  deriving DecidableEq, Repr

/-- A TLB entry (R247): context, virtual base, whether it is a block, the leaf entry. -/
structure TlbEntry where
  ctx   : Nat
  page  : Nat
  block : Bool
  leaf  : Nat
  deriving DecidableEq, Repr

/-- A walk-cache entry (R247): context, level of the table the entry was read from, the bits of VA that select it, and the entry. -/
structure WalkEntry where
  ctx   : Nat
  level : Nat
  index : Nat
  entry : Nat
  deriving DecidableEq, Repr

/-- One requester of a translation: who, its address, the ACCESS field of R251, 0 or 1 real-time primary or 2 real-time fallback,
and the queue of its submission. -/
structure MissReq where
  who   : Requester
  va    : Nat
  acc   : Nat
  rt    : Nat
  queue : Nat
  deriving DecidableEq, Repr

/-- A translation that missed and waits for a walker, or is being walked (R248), with the requesters that joined it.
`nocache` says an invalidation was accepted while it ran (R257). -/
structure Miss where
  ctx  : Nat
  va   : Nat
  reqs : List MissReq
  nocache : Bool
  deriving DecidableEq, Repr

/-- A translation that a walk gave to a request that waited on it, after an invalidation was accepted while it ran: no cache holds it, and
the request has not used it yet (R257). -/
structure Given where
  who   : Requester
  queue : Nat
  entry : TlbEntry
  deriving DecidableEq, Repr

/-- An outstanding fault token (R250). -/
structure Token where
  token : Word32
  ctx   : Nat
  partition : Nat
  shared : Bool
  page  : Nat
  cls   : Nat
  acc   : Nat
  va    : Nat
  tick  : Word64
  who   : List (Requester × Nat)
  deriving DecidableEq, Repr

/-- A fault that waits for a token (R250). -/
structure FaultWait where
  ctx    : Nat
  who    : Requester
  queue  : Nat
  deriving DecidableEq, Repr

/-- An invalidation held until its drain is over (R257 to R259): context, range (none by tag), whether it came
through the registers, and the queue whose command it is. -/
structure Inval where
  ctx   : Nat
  range : Option (Nat × Nat)
  reg   : Bool
  queue : Option Nat
  deriving DecidableEq, Repr

/-- Address translation (R247 to R262). Keys: core TLBs by logical core, cluster TLBs by cluster, walk caches, misses and
walkers by die (front-end misses wait at die A, R248); `outA` and `outB` are misses that still wait at their TLB, since 16 of their partition
wait or walk on the die (R355). -/
structure TransSt where
  coreTlb : Assoc (List TlbEntry)
  clusterTlb : Assoc (Assoc (CacheSet TlbEntry))
  frontTlb : Assoc (CacheSet TlbEntry)
  walkCache : Assoc (List WalkEntry)
  missA   : List Miss
  missB   : List Miss
  outA    : List Miss
  outB    : List Miss
  walksA  : List Miss
  walksB  : List Miss
  given   : List Given
  tokens  : List Token
  noToken : List FaultWait
  nextToken : Word32
  records : List (List Byte)
  seq     : Word64
  invals  : List Inval
  deriving DecidableEq, Repr

/-- The stack states of R222. -/
inductive StackState where
  | absent | online | degraded | offline
  deriving DecidableEq, Repr

/-- A stack's controller (R216 to R224): state, retire list, temperature, throttled cellar, scrub position, aged
reorder-queue entries as (channel, tag), link errors counted apart in the registers. -/
structure StackSt where
  state  : StackState
  retire : List Nat
  temp   : Int
  hot    : Bool
  scrubPos : Nat
  scrubbing : Bool
  aged   : List (Nat × Nat)
  tries  : Nat
  deriving DecidableEq, Repr

/-- A stack after reset. -/
def StackSt.reset : StackSt := ⟨.absent, [], 0, false, 0, false, [], 0⟩

/-- A store-room package (R232 to R239): trained, failed, header lines held as (line, partition), poisonings. The stored form of a block is
not visible to software (R233), and is not held. -/
structure PkgSt where
  trained : Bool
  failed  : Bool
  headers : List (Nat × Nat)
  poisoned : Nat
  tries   : Nat
  deriving DecidableEq, Repr

/-- A package after reset. -/
def PkgSt.reset : PkgSt := ⟨false, false, [], 0, 0⟩

/-- A request waiting at an attic slice (R225 to R227): a line for a core cache, or a store of a core with the time it came (R240), the
core's number for it (R265) and its entry. -/
inductive AtticReq where
  | line (core : Nat) (icache : Bool) (ctx va pa : Nat)
  | store (core at_ seq : Nat) (e : SbEntry)
  deriving DecidableEq, Repr

/-- A line held by an attic slice (R225). -/
structure AtticLine where
  pa    : Nat
  dirty : Bool
  data  : List Byte
  deriving DecidableEq, Repr

/-- An attic slice (R225 to R229). -/
structure SliceSt where
  lines : Assoc (CacheSet AtticLine)
  reqs  : List AtticReq
  busy  : Bool
  deriving DecidableEq, Repr

/-- An empty slice. -/
def SliceSt.reset : SliceSt := ⟨[], [], false⟩

/-- A page move (R236): context, virtual page, source and destination pages, the queue of the MOVE command (none for a
spill), whether it runs. -/
structure PageMove where
  partition : Nat
  ctx   : Nat
  va    : Nat
  src   : Nat
  dst   : Nat
  queue : Option Nat
  running : Bool
  deriving DecidableEq, Repr

/-- Memory behind the spaces (R209 to R240): the bytes, poison marks (32-byte unit numbers, 4 KiB block numbers), controllers,
slices by cluster, page moves in order. `due` lists the stacks that detected an uncorrectable error whose contexts are still to be marked
lost (step 4 of R223); a command that adds to it takes them in the same step. -/
structure MemSys where
  bytes  : List Host.Cell
  host   : List Host.Cell
  poison : List Nat
  srPoison : List Nat
  stackSts : Assoc StackSt
  pkgs   : Assoc PkgSt
  slices : Assoc SliceSt
  moves  : List PageMove
  due    : List Nat
  deriving DecidableEq, Repr

/-- A command that a unit executes (R188, R189): the command, the tile bytes it will deliver, what it will write (at physical
addresses, or at 2^48 + a for scratch address a), the tensor scale of its result, ACC_INEXACT events, and the scratch ranges it
uses (R207). -/
structure CellExec where
  cmd    : CellCmd
  result : List Byte
  writes : List (Nat × List Byte)
  tscale : Nat
  inexact : Nat
  scratch : List (Nat × Nat)
  deriving DecidableEq, Repr

/-- An SRAM slot of a cellar engine (R190): scratch, a generation of an identifier, or RETIRING. -/
inductive SlotUse where
  | scratch | generation (id : Nat) | retiring
  deriving DecidableEq, Repr

/-- A codebook identifier (R192): state code, arm flag, active and shadow slot, generation count. -/
structure Codebook where
  state  : Nat
  armed  : Bool
  active : Option Nat
  shadow : Option Nat
  gen    : Word32
  deriving DecidableEq, Repr

/-- An identifier after reset. -/
def Codebook.reset : Codebook := ⟨0, false, none, none, 0⟩

/-- A cellar engine (R178 to R208). `sram` holds the bytes of the 4 MiB. -/
structure CellarSt where
  queue   : List CellCmd
  waiting : List CellCmd
  mv      : Option CellExec
  move    : Option CellExec
  fill    : Option CellExec
  fillWaits : List CellCmd
  slots   : List SlotUse
  ids     : List Codebook
  sram    : Assoc Byte
  deriving DecidableEq, Repr

/-- A cellar engine after reset (R190). -/
def CellarSt.reset : CellarSt :=
  ⟨[], [], none, none, none, [], List.replicate 8 .scratch, List.replicate 8 Codebook.reset, []⟩

/-- The tick (R15 to R43): counters, period in force, lock state (0 master, 1 locked, 2 holdover, 3 free), missing and good edges. -/
structure TickSt where
  count    : Word64
  time     : Word64
  counting : Bool
  boundary : Word64
  running  : Bool
  period   : Nat
  masterPeriod : Option Nat
  lock     : Nat
  missing  : Nat
  good     : Nat
  deriving DecidableEq, Repr

/-- A staged dictionary write (R24, R405): master row, object key, value, whether a reserved entry of a partition holds
it, who awaits the answer, the SEQ to echo, and whether a later write superseded it. -/
structure Staged where
  row   : Nat
  key   : Nat
  value : Nat
  part  : Option Nat
  who   : Option Transport
  seq   : Nat
  superseded : Bool
  deriving DecidableEq, Repr

/-- A CLUSTERS change that passed its check and waits for its flush (R494). -/
structure ClusterChange where
  partition : Nat
  value : Nat
  who   : Option Transport
  seq   : Nat
  flushed : Bool
  deriving DecidableEq, Repr

/-- The dictionary (R394 to R414): objects that hold a value other than their default, staged writes in order of arrival,
requests outstanding per requester, mailbox buffers by function, MCTP and I3C addresses, the calendar. -/
structure DictSt where
  online   : Bool
  objs     : Assoc Nat
  staged   : List Staged
  clusters : List ClusterChange
  open_    : List Transport
  mboxReq  : Assoc Word32
  mboxRsp  : Assoc Word32
  mboxBusy : List Nat
  mboxSeq  : Assoc Nat
  eidPcie  : Nat
  eidI3c   : Nat
  i3cAddr  : Nat
  calendar : Nat
  calRest  : Nat
  calValid : Bool
  deriving DecidableEq, Repr

/-- A fabric port (R367 to R377): state code, peer position, training, sequence numbers, the replay buffer, the credits
held and freed per VC, requests without a response with what they belong to, whether it is enabled and has retrained on its own, packets that
wait to be sent, which of VC0 and VC1 goes next, how often each packet was resent, by its SEQ, and whether the
request at its ingress does not translate and is to be refused (R254, R376). -/
structure Port where
  state    : Nat
  peer     : Option Nat
  trained  : Bool
  peerInit : Option (Nat × Nat)
  sendSeq  : Nat
  recvSeq  : Nat
  replay   : List Packet
  sent     : Assoc Nat
  returned : Assoc Nat
  freed    : Assoc Nat
  nextTag  : Nat
  waits    : List (Nat × Requester × Nat × Nat)
  enabled  : Bool
  auto     : Bool
  outq     : List Packet
  turn     : Bool
  resent   : Assoc Nat
  refused  : Bool
  deriving DecidableEq, Repr

/-- A port after reset. -/
def Port.reset : Port := ⟨0, none, false, none, 0, 0, [], [], [], [], 0, [], false, false, [], false, [], false⟩

/-- The tick ring of the module (R378 to R390). Times are in 1/16 ns. `lastInfo` is the boundary time and count of the last TICK_INFO
frame. -/
structure RingSt where
  position : Nat
  master   : Option Nat
  originates : Bool
  census   : Nat
  surveying : Bool
  token    : Option Nat
  surveyAsked : Bool
  hop16    : Nat
  delay16  : Nat
  surveyDelay16 : Option Nat
  edge16   : Option Nat
  lastInfo : Option (Nat × Nat)
  offset   : Int
  bypass   : Bool
  dupPos   : Bool
  release  : Nat
  seenRel  : Nat
  mgmtIn   : List (Nat × Nat × List Byte)
  mgmtOut  : List (Nat × Nat × List Byte)
  listening : Bool
  deriving DecidableEq, Repr

/-- Clocks (R415 to R433). PLL locks are bit masks. -/
structure ClockSt where
  oscOk    : Bool
  oscFail  : Bool
  refStable : Bool
  inRange  : Bool
  rootLock : Bool
  pcieLock : Bool
  stackLock : Nat
  srLock   : Nat
  fabricLock : Nat
  onOsc    : Bool
  hold     : Bool
  monCount : Nat
  failovers : Word32
  gateStack : Nat
  gateSr   : Nat
  gatePort : Nat
  gateOb   : Bool
  dividers : List Nat
  deriving DecidableEq, Repr

/-- The power governor's view of one partition (R438 to R445). -/
structure PartPower where
  charge  : Nat
  energy  : Nat
  power   : Nat
  target  : Nat
  level   : Nat
  relief  : Nat
  unmet   : Bool
  deriving DecidableEq, Repr

/-- A partition's power state after reset. -/
def PartPower.reset : PartPower := ⟨0, 0, 0, 3, 0, 0, false⟩

/-- The power governor's view of one die (R439, R442, R446). `hottest` is the hottest sample of the running tick. -/
structure DiePower where
  temp    : Int
  hottest : Option Int
  last    : Int
  coolTicks : Nat
  target  : Nat
  hold    : Bool
  deriving DecidableEq, Repr

/-- A die's power state after reset. -/
def DiePower.reset : DiePower := ⟨0, none, 0, 0, 3, false⟩

/-- The start-up sequencer's kinds of work in progress (R449 to R455). `off` is the shut-down module. -/
inductive ResetPhase where
  | off | held | cold | warm | done | failed
  deriving DecidableEq, Repr

/-- Power, reset and start-up (R434 to R460). `rails` is the highest group of R435 with power-good; `tripHeld` is the cause of a shutdown, `tripWait`
says a trigger waits for the second after a thermal trip, and `tripOver` that the second is over (R447). -/
structure PowerSt where
  input    : Bool
  rails    : Nat
  railRetry : Bool
  railsOff : Bool
  phase    : ResetPhase
  stage    : Nat
  failCode : Nat
  ready    : Bool
  configReady : Bool
  cause    : Nat
  fuses    : Option Fuses
  image    : Option ImageHeader
  slotB    : Bool
  tripHeld : Option Nat
  tripWait : Bool
  tripOver : Bool
  parts    : Assoc PartPower
  dies     : Assoc DiePower
  holdPower : Bool
  sampleHigh : Bool
  volt     : Nat
  tickPower : Nat
  carried  : List Nat
  partBusy : Bool
  degraded : Assoc Nat
  holdSeen : Nat
  warmPending : Bool
  deriving DecidableEq, Repr

/-- What a grant of a wake governor does: wakes a gated core, or takes it into or out of a fast hold (R293, R442). -/
inductive GrantKind where
  | wake | enter | leave
  deriving DecidableEq, Repr

/-- A waiting request of a wake governor (R293, R442): core, arrival time, and what the grant does. -/
structure WakeReq where
  core : Nat
  at_  : Word64
  kind : GrantKind
  deriving DecidableEq, Repr

/-- The wake governor of a die (R293): requests in order, grants made in the latest window it served, that window's number (TIME / 100),
whether that window was counted as a gust (R466), and the grants that divider steps took of windows (R441), by window number. -/
structure Governor where
  waiting : List WakeReq
  grants  : Nat
  window  : Nat
  gust    : Bool
  booked  : Assoc Nat
  deriving DecidableEq, Repr

/-- A governor after reset. -/
def Governor.reset : Governor := ⟨[], 0, 0, false, []⟩

/-- A stripe's backing (R360, R364): the pages of the stripe, one per stack of the pool. -/
structure Stripe where
  pages : List Nat
  inSr  : Bool
  user  : Option Nat
  deriving DecidableEq, Repr

/-- A key-value pool (R359 to R364): the control block's bytes, stripes, spare pages, waiting joins in order of deferral
as (sequence, tokens), the next join number, requests read, and whether a failed move stopped a swap whose other moves still run. -/
structure Pool where
  enabled : Bool
  blockPa : Nat
  block   : List Byte
  queue   : Nat
  stripes : List Stripe
  spares  : List Nat
  waiting : List (Nat × Nat)
  joins   : Nat
  read    : Word32
  broken  : Bool
  deriving DecidableEq, Repr

/-- A pool after reset. -/
def Pool.reset : Pool := ⟨false, 0, [], 0, [], [], [], 0, 0, false⟩

/-- Partitions and access tables (R337 to R366). Rows are 128-bit numbers; an unlisted row is zero. -/
structure PartSt where
  rows     : Assoc Nat
  shadow   : Assoc Nat
  filling  : Bool
  ready    : Bool
  fillErr  : Bool
  armed    : Bool
  gen      : Nat
  accounts : Assoc (Assoc Nat)
  pools    : Assoc Pool
  lastStd  : Nat
  lastBg   : Nat
  preBusy  : Bool
  preDone  : Nat
  deriving DecidableEq, Repr

/-- What is held for a function in D3hot (R302). -/
inductive HeldOut where
  | hostWrite (addr : Nat) (data : List Byte)
  | msix (vector : Nat)
  deriving DecidableEq, Repr

/-- The front end's own state (R299 to R336). -/
structure FrontSt where
  kWrite   : Word32
  kRead    : Word32
  kFetched : Option (List Byte)
  bells    : Nat
  admits   : Nat
  feCopies : List FeCopy
  nextFe   : Nat
  lastCopyPart : Nat
  d3hot    : List Nat
  heldOut  : Assoc (List HeldOut)
  losses   : List Nat
  linkUp   : Bool
  deriving DecidableEq, Repr

/-- The pins and the test port (R478, R481, R482, R489, R490), and the fuses as they were first loaded: they are set at test and never
change (R3). -/
structure PinSt where
  burned   : Option Fuses
  id       : Nat
  bbId     : Nat
  idHeld   : Nat
  bbHeld   : Nat
  modReset : Bool
  perst    : Bool
  perstSeen : Bool
  flEn     : Bool
  flPins   : Bool
  trip     : Bool
  readyPin : Bool
  tap      : Nat
  tapDrives : Bool
  deriving DecidableEq, Repr

/-- What leaves the module, in order (oldest first). -/
inductive Sent where
  | msix (fn vector : Nat)
  | packet (port : Nat) (p : Packet)
  | dictRsp (t : Transport) (rsp : List Byte)
  | mctpRsp (b : Binding) (dst tag : Nat) (rsp : List Byte)
  | config (fn : Nat) (retry : Bool)
  | frame (type : Nat) (f : Frame)
  | tickSymbol
  | echo
  | nmi (event : Nat)
  | barRead (value : Nat)
  | aperture (data : List Byte)
  /-- An access of the device to host memory, with the function whose requester ID it carries (R300). -/
  | host (fn : Nat) (write : Bool) (addr len : Nat)
  deriving DecidableEq, Repr

/-- The whole machine. -/
structure State where
  /-- Commands waiting, first in, first out. -/
  pending : List Instr
  /-- The model's own count of free values used (log entry 1). -/
  freeSeq : Nat
  /-- Control registers that hold stored bits, by BAR0 offset; an unlisted register holds its reset value (R412). -/
  regs    : Assoc Word32
  /-- FE_VF_EVENT and FE_VF_WIN of the virtual functions, by function × 2^20 + offset (R335). -/
  vfRegs  : Assoc Word32
  tick    : TickSt
  dict    : DictSt
  ring    : RingSt
  ports   : Assoc Port
  clock   : ClockSt
  power   : PowerSt
  govs    : Assoc Governor
  part    : PartSt
  front   : FrontSt
  ctxs    : Assoc Context
  queues  : Assoc Queue
  subs    : Assoc Submission
  trans   : TransSt
  mem     : MemSys
  cellars : Assoc CellarSt
  cores   : Assoc Core
  /-- Latency histograms, by index × 16 + bin (R468). -/
  hist    : Assoc Word32
  pins    : PinSt
  sent    : List Sent
  deriving DecidableEq, Repr

/-- Row 4,096 and row 4,160 of the access table after reset: every right, PARTITION 0 (R343). -/
def fullRow : Nat :=
  setBits (setBits (setBits (setBits (setBit 0 84 true) 77 64 0x3FFF) 63 48 0xFFFF) 47 32 0xFFFF) 25 0 0x3FFFFFF

/-- Translation after reset: nothing cached, nothing outstanding. -/
def TransSt.reset : TransSt := ⟨[], [], [], [], [], [], [], [], [], [], [], [], [], 0, [], 0, []⟩

/-- Memory after reset: nothing listed, stacks ABSENT, packages untrained, slices empty. -/
def MemSys.reset : MemSys := ⟨[], [], [], [], [], [], [], [], []⟩

/-- The tick after a cold reset (R15, R20, R21). -/
def TickSt.reset : TickSt := ⟨0, 0, false, 0, false, 20, none, 3, 0, 0⟩

/-- 2000-01-01 00:00:00 in the bytes of DATE (R395, R399). -/
def calendarDefault : Nat := 2000 + 0x010000 + 0x01000000

/-- The dictionary after a cold reset (R394, R399). -/
def DictSt.reset : DictSt := ⟨false, [], [], [], [], [], [], [], [], 0, 0, 0, calendarDefault, 0, false⟩

/-- The ring side after reset: bypass closed (R389, R392). -/
def RingSt.reset (pos : Nat) : RingSt :=
  ⟨pos, none, false, 0, false, none, false, 0, 0, none, none, none, 0, true, false, 0, 0, [], [], false⟩

/-- Clocks after a cold reset (R419, R432). -/
def ClockSt.reset : ClockSt :=
  ⟨false, false, false, false, false, false, 0, 0, 0, false, false, 0, 0, 0xFFF, 0xFFFF, 0xFFFF, true,
    List.replicate 16 3⟩

/-- Power and start-up with no input power (R434). -/
def PowerSt.reset : PowerSt :=
  ⟨false, 0, false, false, .off, 0, 0, false, false, 0, none, none, false, none, false, false, [], [], false, false, 0, 0,
    [], false, [], 0, false⟩

/-- Partitions after reset (R338, R343). -/
def PartSt.reset : PartSt :=
  ⟨[(4096, fullRow), (4160, fullRow)], [], false, false, false, false, 0, [], [], 15, 15, false, 0⟩

/-- The front end after reset. -/
def FrontSt.reset : FrontSt := ⟨0, 0, none, 0, 0, [], 0, 15, [], [], [], false⟩

/-- The pins with nothing driven: pulled up or down as R481 gives; the identification pins as the baseboard straps them. -/
def PinSt.reset : PinSt := ⟨none, Sys2Proof.Config.strapId.toNat, Sys2Proof.Config.strapBb.toNat, 0, 0, false, true, false, false, false, false, false, 0, false⟩

namespace State

/-- The module right after reset, before the input is applied: every register at its reset value, no context, no queue, memory
with nothing listed (R450). POWER_APPLIED starts the start-up of R452. -/
def reset : State where
  pending := []
  freeSeq := 0
  regs    := []
  vfRegs  := []
  tick    := TickSt.reset
  dict    := DictSt.reset
  ring    := RingSt.reset 0
  ports   := []
  clock   := ClockSt.reset
  power   := PowerSt.reset
  govs    := []
  part    := PartSt.reset
  front   := FrontSt.reset
  ctxs    := []
  queues  := []
  subs    := []
  trans   := TransSt.reset
  mem     := MemSys.reset
  cellars := []
  cores   := []
  hist    := []
  pins    := PinSt.reset
  sent    := []

end State

end Sys2Proof.Machine
end

