-- ==== Sys2Proof/Machine/Paths.lean ====
section
/-!
DEFINITION. The paths of a thread group (R137 to R141): waiting at a reconvergence PC, merging, scheduling and rotation,
as operations on the group alone.
-/

namespace Sys2Proof.Machine

/-- The reconvergence PC of a path: that of its innermost divergence (R137). -/
def Path.rpc (p : Path) : Option Nat := p.nest.head?.map Prod.snd

/-- The path stands at its reconvergence PC. -/
def Path.atRpc (p : Path) : Bool := p.rpc == some p.pc

/-- The path can run: it neither waits at its reconvergence PC nor is blocked (R140). -/
def Path.canRun (p : Path) : Bool := !p.waiting && p.blocked.isNone

/-- Path q waits at the reconvergence PC of divergence d. -/
def waitsAt (d : Nat) (q : Path) : Bool := q.waiting && q.nest.head?.map Prod.fst == some d

/-- Every path of divergence d waits at its reconvergence PC (R138). -/
def allWait (d : Nat) (all : List Path) : Bool :=
  all.all (fun q => !(q.nest.any (fun e => e.1 == d)) || waitsAt d q)

/-- The divergence of the stack whose paths merge next, if any. -/
def mergeable (run : Option Path) (stack : List Path) : Option Nat :=
  (stack.filterMap (fun q => if q.waiting then q.nest.head?.map Prod.fst else none)).find?
    (fun d => allWait d (run.toList ++ stack))

/-- The paths of divergence d merged into one, on top of the stack (R138): the union of the masks, at the
reconvergence PC, in the enclosing divergence. -/
def mergePaths (d : Nat) (stack : List Path) : List Path :=
  match stack.filter (waitsAt d) with
  | [] => stack
  | q :: t =>
    let m : Path := { q with
      mask := t.foldl (fun acc x => acc ||| x.mask) q.mask
      nest := q.nest.tail
      waiting := false
      back := 0 }
    { m with waiting := m.atRpc } :: stack.filter (fun x => !waitsAt d x)

/-- All merges that can be made; each shortens the nesting of some path, so the fuel is the total nesting. -/
def mergeAll : Nat → Option Path → List Path → List Path
  | 0, _, stack => stack
  | n + 1, run, stack =>
    match mergeable run stack with
    | some d => mergeAll n run (mergePaths d stack)
    | none => stack

/-- How many merges a stack can see. -/
def nestTotal (stack : List Path) : Nat := stack.foldl (fun n p => n + p.nest.length) 0

/-- The topmost path that can run, and the rest of the stack. -/
def takeTop : List Path → Option (Path × List Path)
  | [] => none
  | p :: t =>
    if p.canRun then some (p, t)
    else (takeTop t).map (fun r => (r.1, p :: r.2))

/-- A path that is not blocked and stands at its reconvergence PC waits there (R138). -/
def Path.arrive (p : Path) : Path := if p.blocked.isNone && p.atRpc then { p with waiting := true } else p

/-- After a change of paths: those that stand at their reconvergence PC wait, paths merge, and when no path runs the
topmost that can run is scheduled with a backward count of 0 (R138, R139). -/
def settle (g : Group) : Group :=
  let old := g.stack.map Path.arrive
  let parked := match g.run with
    | some p => if p.arrive.waiting then (none, old ++ [p.arrive]) else (some p, old)
    | none => (none, old)
  let stack := mergeAll (nestTotal parked.2) parked.1 parked.2
  match parked.1 with
  | some p => { g with run := some p, stack := stack }
  | none =>
    match takeTop stack with
    | some (p, rest) => { g with run := some { p with back := 0 }, stack := rest }
    | none => { g with run := none, stack := stack }

/-- A path of the stack can run. -/
def otherCanRun (g : Group) : Bool := g.stack.any Path.canRun

/-- The topmost path that is not blocked, and the rest: what a rotation schedules (R139, R140). -/
def takeUnblocked : List Path → Option (Path × List Path)
  | [] => none
  | p :: t =>
    if p.blocked.isNone then some (p, t)
    else (takeUnblocked t).map (fun r => (r.1, p :: r.2))

/-- A scheduled path that waited at its reconvergence PC is released as a detached path: its reconvergence PC becomes
that of the enclosing divergence (R139). -/
def detach (p : Path) : Path :=
  if p.waiting then { p with waiting := false, nest := p.nest.tail, back := 0 } else { p with back := 0 }

/-- The rotation of R139: the running path goes to the bottom of the stack and the top entry is scheduled. -/
def rotate (g : Group) : Group :=
  match g.run with
  | none => g
  | some p =>
    match takeUnblocked g.stack with
    | none => g
    | some (q, rest) =>
      let stack := rest ++ [p]
      let run := detach q
      { g with run := some run, stack := mergeAll (nestTotal stack) (some run) stack }

/-- A running path that is blocked is rotated out while another path can run (R139, R140). -/
def reschedule (g : Group) : Group :=
  match g.run with
  | none => settle g
  | some p => if p.blocked.isSome && otherCanRun g then settle (rotate g) else g

/-- A path of the stack can be scheduled: a rotation has something to schedule (R139). -/
def canRotate (g : Group) : Bool := g.stack.any (fun q => q.blocked.isNone)

/-- The group waits on a counter: a reason to leave the active set when none of its paths can run (R126, R140). -/
def waitsCounter (g : Group) : Bool := (g.run.toList ++ g.stack).any (fun p => match p.blocked with
  | some (.counter _ _ _) => true
  | _ => false)

/-- The paths of the group whose doorbell is posted go on (R154). -/
def unbell (id : Nat) (g : Group) : Group :=
  let un (p : Path) : Path := if p.blocked = some (.bell id) then { p with blocked := none } else p
  { g with run := g.run.map un, stack := g.stack.map un }

/-- Some path of the group can run. -/
def groupCanRun (g : Group) : Bool :=
  (match g.run with
   | some p => p.blocked.isNone
   | none => false) || otherCanRun g

/-- The running path moves to a PC; a transfer to its own PC or below counts as backward (R139). -/
def movePc (g : Group) (pc : Nat) (transfer : Bool) : Group :=
  match g.run with
  | some p =>
    let back := if transfer && decide (pc ≤ p.pc) then p.back + 1 else p.back
    settle { g with run := some { p with pc := pc % 2 ^ 48, back := back } }
  | none => g

/-- The threads of the group's paths. -/
def pathMask (g : Group) : Nat := (g.run.toList ++ g.stack).foldl (fun m p => m ||| p.mask) 0

/-- A division of the running path (R137): the running part keeps `mask` at `pc`; `others` are the divided-off parts,
the last of the list on top. RPC 0 opens no divergence of its own. -/
def divide (g : Group) (rpc : Nat) (run : Nat × Nat) (others : List (Nat × Nat)) : Group :=
  match g.run with
  | none => g
  | some p =>
    let nest := if rpc = 0 then p.nest else (g.nextDiv, (p.pc + 8 * rpc) % 2 ^ 48) :: p.nest
    let part (e : Nat × Nat) : Path := { p with pc := e.1, mask := e.2, nest := nest, back := 0 }
    let pushed := others.map (fun e => let q := part e; { q with waiting := q.atRpc })
    settle { g with
      nextDiv := g.nextDiv + 1
      run := some { part run with back := p.back }
      stack := pushed.reverse ++ g.stack }

end Sys2Proof.Machine
end

