-- ==== Sys2Proof/Machine/Ops.lean ====
section
/-!
DEFINITION. The named operations over the state that every family uses: outcomes, registers, dictionary values,
topology, partitions, physical memory, local store, counters and what leaves the module.
-/

namespace Sys2Proof.Machine

/-- What a command answers. -/
abbrev Res := Host.Outcome State Fault Refusal

/-- The step of an event that can take place only while `c` holds. -/
def enabled (c : Bool) (what : String) (s : State) : Res :=
  if c then .next s else .refused (.notEnabled what)

/-- The step of an event that needs something to be there. -/
def needs {α : Type} (o : Option α) (what : String) (k : α → Res) : Res :=
  match o with
  | some a => k a
  | none => .refused (.notEnabled what)

/-! Updates of one field. -/

def State.withPending (s : State) (v : List Instr) : State := { s with pending := v }
def State.withFreeSeq (s : State) (v : Nat) : State := { s with freeSeq := v }
def State.withRegs (s : State) (v : Assoc Word32) : State := { s with regs := v }
def State.withVfRegs (s : State) (v : Assoc Word32) : State := { s with vfRegs := v }
def State.withTick (s : State) (v : TickSt) : State := { s with tick := v }
def State.withDict (s : State) (v : DictSt) : State := { s with dict := v }
def State.withRing (s : State) (v : RingSt) : State := { s with ring := v }
def State.withPorts (s : State) (v : Assoc Port) : State := { s with ports := v }
def State.withClock (s : State) (v : ClockSt) : State := { s with clock := v }
def State.withPower (s : State) (v : PowerSt) : State := { s with power := v }
def State.withGovs (s : State) (v : Assoc Governor) : State := { s with govs := v }
def State.withPart (s : State) (v : PartSt) : State := { s with part := v }
def State.withFront (s : State) (v : FrontSt) : State := { s with front := v }
def State.withCtxs (s : State) (v : Assoc Context) : State := { s with ctxs := v }
def State.withQueues (s : State) (v : Assoc Queue) : State := { s with queues := v }
def State.withSubs (s : State) (v : Assoc Submission) : State := { s with subs := v }
def State.withTrans (s : State) (v : TransSt) : State := { s with trans := v }
def State.withMem (s : State) (v : MemSys) : State := { s with mem := v }
def State.withCellars (s : State) (v : Assoc CellarSt) : State := { s with cellars := v }
def State.withCores (s : State) (v : Assoc Core) : State := { s with cores := v }
def State.withHist (s : State) (v : Assoc Word32) : State := { s with hist := v }
def State.withPins (s : State) (v : PinSt) : State := { s with pins := v }
def State.withSent (s : State) (v : List Sent) : State := { s with sent := v }

/-- The state with one more thing sent. -/
def emit (s : State) (x : Sent) : State := s.withSent (s.sent ++ [x])

/-- n fresh free bytes (log entry 1). -/
def freshBytes (s : State) (n : Nat) : List Byte × State :=
  ((List.range n).map (fun i => Sys2Proof.Config.freeByte (s.freeSeq + i)), s.withFreeSeq (s.freeSeq + n))

/-- A fresh free word. -/
def freshWord (s : State) : Nat × State :=
  (Sys2Proof.Config.freeWord s.freeSeq, s.withFreeSeq (s.freeSeq + 1))

/-- A fresh measured time (log entry 9). -/
def freshTime (s : State) : Nat × State :=
  (Sys2Proof.Config.freeTime s.freeSeq, s.withFreeSeq (s.freeSeq + 1))

/-! Control registers that hold stored bits (R412), by BAR0 offset of the physical function. -/

/-- The reset values of stored register bits that are not zero (R334, R262, R475, R408 and the others' tables). -/
def regReset (off : Nat) : Word32 :=
  if off = 0x030 then 4
  else if off = 0x100008 then 6
  else if 0x400000 ≤ off && off < 0x420000 && off % 0x200 = 0x84 then 0x4001
  else 0

/-- The stored bits of a register. -/
def reg (s : State) (off : Nat) : Nat := ((find s.regs off).getD (regReset off)).toNat

/-- Set the stored bits of a register. -/
def setReg (s : State) (off v : Nat) : State :=
  s.withRegs (putD (regReset off) s.regs off (BitVec.ofNat 32 v))

/-- Set event bits of a register. -/
def orReg (s : State) (off m : Nat) : State := setReg s off (reg s off ||| m)

/-- Set field [hi:lo] of a register. -/
def setRegField (s : State) (off hi lo v : Nat) : State := setReg s off (setBits (reg s off) hi lo v)

/-- Raise a saturating count in bits [31:16] of a register (R208, R239, R365, R392). -/
def countHigh (s : State) (off : Nat) : State :=
  setRegField s off 31 16 (min (bits (reg s off) 31 16 + 1) 0xFFFF)

/-- A 64-bit pair (R412). -/
def regPair (s : State) (off : Nat) : Nat := reg s off + 2 ^ 32 * reg s (off + 4)

/-- The stored bits of a virtual function's register. -/
def vfReg (s : State) (fn off : Nat) : Nat := ((find s.vfRegs (fn * 0x100000 + off)).getD 0).toNat

/-- Set the stored bits of a virtual function's register. -/
def setVfReg (s : State) (fn off v : Nat) : State :=
  s.withVfRegs (putD 0 s.vfRegs (fn * 0x100000 + off) (BitVec.ofNat 32 v))

/-- Set event bits of FE_VF_EVENT (R335). -/
def orVfEvent (s : State) (fn m : Nat) : State := setVfReg s fn 0x1000 (vfReg s fn 0x1000 ||| m)

/-! Offsets of BAR0 (R303, R334, R262, R365, R239, R208). -/

def offFeCtrl : Nat := 0x004
def offFeStatus : Nat := 0x008
def offCtxTable : Nat := 0x010
def offQueueTable : Nat := 0x018
def offKringBase : Nat := 0x020
def offKringComp : Nat := 0x028
def offKringCfg : Nat := 0x030
def offFeLoss : Nat := 0x03C
def offTickStatus : Nat := 0x110
def offFaultBase : Nat := 0x100000
def offFaultCfg : Nat := 0x100008
def offFaultHead : Nat := 0x10000C
def offFaultTail : Nat := 0x100010
def offFaultStatus : Nat := 0x100014
def offRespToken : Nat := 0x100018
def offInvCtx : Nat := 0x100020
def offInvBase : Nat := 0x100028
def offInvPages : Nat := 0x100030
def offInvSeq : Nat := 0x100038
def offInvStatus : Nat := 0x10003C
def offAccImage : Nat := 0x200000
def offAccStatus : Nat := 0x20000C
def offPreempt : Nat := 0x200010
def offPreemptStatus : Nat := 0x200014
def offPool (p : Nat) : Nat := 0x200100 + 0x10 * p
def offStk (st : Nat) : Nat := 0x600000 + 0x1000 * st
def offPkg (p : Nat) : Nat := 0x640000 + 0x1000 * p
def offCel (st : Nat) : Nat := 0x680000 + 0x1000 * st
def offAtc (c : Nat) : Nat := 0x6C0000 + 0x100 * c

/-! Topology (R3, R9, R10). -/

/-- The enabled physical cores in ascending order: logical core i is the i-th (R10). -/
def physList (s : State) : List Nat :=
  match s.power.fuses with
  | some f => bitsSet 160 f.enable
  | none => []

/-- N, the number of logical cores. -/
def numCores (s : State) : Nat := (physList s).length

/-- The device cluster of a logical core. -/
def clusterOf (s : State) (c : Nat) : Nat := ((physList s)[c]?).getD 0 / 10

/-- The die of a logical core. -/
def dieOf (s : State) (c : Nat) : Nat := clusterOf s c / 8

/-- PCORE of a logical core (R251): bit 8 die, [6:4] cluster in the die, [3:0] core. -/
def pcoreOf (s : State) (c : Nat) : Nat :=
  let p := ((physList s)[c]?).getD 0
  p / 80 * 256 + p / 10 % 8 * 16 + p % 10

/-- The logical cores of a set of clusters, ascending. -/
def coresOfClusters (s : State) (mask : Nat) : List Nat :=
  (List.range (numCores s)).filter (fun c => bit mask (clusterOf s c))

/-- The die a stack is beside (R9). -/
def dieOfStack (st : Nat) : Nat := st / 6

/-! Stored dictionary values (R394), by index × 256 + subindex. -/

/-- MODULE_RATING in 0.1 W (R2, 0x2200:01). With no fuses loaded the grade is not known: the model answers as
QM-144 (DESIGN CHOICE, log entry 57). -/
def moduleRating (s : State) : Nat :=
  match (s.power.fuses.map Fuses.cores).getD 144 with
  | 112 => 15000
  | 128 => 16500
  | _ => 18000

/-- The default of an object that software may write (the tables of R20, R116, R204, R238, R261, R337, R344, R359,
R391, R458, R474). -/
def objDefault (s : State) (idx sub : Nat) : Nat :=
  if idx = 0x2000 then (if sub = 1 then 20 else if sub = 5 then 8 else 0)
  else if idx = 0x3000 then (if sub = 1 then 0xFFFF else if sub = 2 then 0x0FFF else if sub = 4 then 1022 else 0)
  else if idx = 0x3010 then (if sub = 4 then moduleRating s else 256)
  else if 0x7010 ≤ idx && idx ≤ 0x701F then
    (if sub = 1 then 1 else if sub = 2 then 16 else if sub = 3 then 16 else 0)
  else if idx = 0x7020 then 2000
  else if idx = 0x7021 then 16
  else if idx = 0x4000 then 24
  else if idx = 0x4010 then 50
  else if idx = 0x5000 then (if sub = 2 then 1 else 0)
  else if idx = 0x5001 then 0xFF
  else if idx = 0x2202 then 760
  else if 0x6010 ≤ idx && idx ≤ 0x601F then (if sub = 2 then 12 else if sub = 3 then 65536 else 0)
  else 0

/-- The committed value of an object that software may write. -/
def obj (s : State) (idx sub : Nat) : Nat := (find s.dict.objs (idx * 256 + sub)).getD (objDefault s idx sub)

/-- Commit a value. -/
def setObj (s : State) (idx sub v : Nat) : State :=
  s.withDict { s.dict with objs := putD (objDefault s idx sub) s.dict.objs (idx * 256 + sub) v }

/-! Partitions (R337, R338). -/

def partClusters (s : State) (p : Nat) : Nat := obj s (0x3000 + p) 1
def partStacks (s : State) (p : Nat) : Nat := obj s (0x3000 + p) 2
def partSegFirst (s : State) (p : Nat) : Nat := obj s (0x3000 + p) 3
def partSegCount (s : State) (p : Nat) : Nat := obj s (0x3000 + p) 4
def partFunctions (s : State) (p : Nat) : Nat := obj s (0x3000 + p) 5

/-- The partition that owns a device cluster. -/
def partOfCluster (s : State) (c : Nat) : Option Nat :=
  (List.range 16).find? (fun p => bit (partClusters s p) c)

/-- The partition that owns a stack. -/
def partOfStack (s : State) (st : Nat) : Option Nat :=
  (List.range 16).find? (fun p => bit (partStacks s p) st)

/-- The partition that owns a virtual function; the physical function belongs to every one (R338). -/
def partOfFn (s : State) (fn : Nat) : Option Nat :=
  (List.range 16).find? (fun p => bit (partFunctions s p) fn)

/-- The segment belongs to the partition. -/
def segInPart (s : State) (p seg : Nat) : Bool :=
  decide (partSegFirst s p ≤ seg) && decide (seg < partSegFirst s p + partSegCount s p)

/-- The logical cores of a partition, ascending (R338). -/
def partCores (s : State) (p : Nat) : List Nat := coresOfClusters s (partClusters s p)

/-- Raise accounting counter n of a partition (R353). The counters count from partition creation (R29), which the manual does not define: the model
starts them at a reset, when the default partitions come to be, and a change of composition does not restart them (DESIGN CHOICE, log entry
58). -/
def countPart (s : State) (p n : Nat) : State :=
  let row := (find s.part.accounts p).getD []
  s.withPart { s.part with
    accounts := insert s.part.accounts p (putD 0 row n ((getD 0 row n + 1) % 2 ^ 64)) }

/-! Physical memory (R213 to R215). -/

/-- The first address of the store room and the end of its addressable part. -/
def srBase : Nat := 0x10000000000
def srEnd : Nat := 0x1FF80000000

/-- The stack that holds a physical address. -/
def stackOf (pa : Nat) : Option Nat := if pa < 12 * 2 ^ 36 then some (pa / 2 ^ 36) else none

/-- The address lies in the addressable store room. -/
def inStoreRoom (pa : Nat) : Bool := decide (srBase ≤ pa) && decide (pa < srEnd)

/-- A reserved range of R213. -/
def reservedPa (pa : Nat) : Bool := (stackOf pa).isNone && !inStoreRoom pa

/-- The store-room package of an address (R215). -/
def pkgOf (pa : Nat) : Nat := (pa - srBase) / 4096 % 16

/-- The store-room segment of an address (R215). -/
def segOf (pa : Nat) : Nat := (pa - srBase) / 2 ^ 30

/-- A stack's controller. -/
def stackSt (s : State) (st : Nat) : StackSt := (find s.mem.stackSts st).getD StackSt.reset

/-- A stack's controller as it stops or starts outside a reset of the module: its retire list stays (R224). -/
def stackAnew (s : State) (st : Nat) : StackSt := { StackSt.reset with retire := (stackSt s st).retire }

/-- Set a stack's controller. -/
def setStack (s : State) (st : Nat) (v : StackSt) : State :=
  s.withMem { s.mem with stackSts := insert s.mem.stackSts st v }

/-- A package's controller. -/
def pkgSt (s : State) (p : Nat) : PkgSt := (find s.mem.pkgs p).getD PkgSt.reset

/-- Set a package's controller. -/
def setPkg (s : State) (p : Nat) (v : PkgSt) : State :=
  s.withMem { s.mem with pkgs := insert s.mem.pkgs p v }

/-- An attic slice. -/
def sliceSt (s : State) (c : Nat) : SliceSt := (find s.mem.slices c).getD SliceSt.reset

/-- Set an attic slice. -/
def setSlice (s : State) (c : Nat) (v : SliceSt) : State :=
  s.withMem { s.mem with slices := insert s.mem.slices c v }

/-- The stack is usable: ONLINE or DEGRADED (R222). -/
def stackUp (s : State) (st : Nat) : Bool :=
  match (stackSt s st).state with
  | .online => true
  | .degraded => true
  | _ => false

/-- A list with an element, once. -/
def addOnce (l : List Nat) (x : Nat) : List Nat := if l.contains x then l else l ++ [x]

/-- The memory behind an address answers (R222, R232). -/
def memUp (s : State) (pa : Nat) : Bool :=
  match stackOf pa with
  | some st => stackUp s st
  | none => inStoreRoom pa && (pkgSt s (pkgOf pa)).trained

/-- What an address that nothing has written reads as (log entry 2). -/
def unwritten : Byte := 0#8

/-- n bytes of a list of cells. -/
def readCells (m : List Host.Cell) (a n : Nat) : List Byte :=
  (List.range n).map (fun i => getD unwritten m (a + i))

/-- Bytes written to a list of cells. -/
def writeCells : List Host.Cell → Nat → List Byte → List Host.Cell
  | m, _, [] => m
  | m, a, b :: t => writeCells (putD unwritten m a b) (a + 1) t

/-- The poisoned units of stacked memory, or poisoned blocks of the store room, that n bytes at pa touch (R220, R235). -/
def poisonedIn (s : State) (pa n : Nat) : List Nat :=
  if (stackOf pa).isSome then s.mem.poison.filter (fun u => decide (pa / 32 ≤ u) && decide (u * 32 < pa + n))
  else s.mem.srPoison.filter (fun b => decide (pa / 4096 ≤ b) && decide (b * 4096 < pa + n))

/-- The size of the unit an error covers: 32 bytes in a stack, 4 KiB in the store room. -/
def unitSize (pa : Nat) : Nat := if (stackOf pa).isSome then 32 else 4096

/-- The blocks of the store room that n bytes at pa touch and whose package is untrained (R232); none in a stack. -/
def deadBlocks (s : State) (pa n : Nat) : List Nat :=
  if (stackOf pa).isSome then []
  else ((List.range ((pa + n - 1) / 4096 + 1 - pa / 4096)).map (fun i => pa / 4096 + i)).filter (fun b => !memUp s (b * 4096))

/-- The memory behind n bytes at pa answers, all of it (R222, R232). -/
def rangeUp (s : State) (pa n : Nat) : Bool := memUp s pa && (deadBlocks s pa n).isEmpty

/-- n bytes of physical memory: poisoned units and memory that does not answer read zero (R220, R222, R232, R235). -/
def peek (s : State) (pa n : Nat) : List Byte :=
  if (stackOf pa).isSome && !memUp s pa then zeroBytes n
  else
    let bad := deadBlocks s pa n ++ poisonedIn s pa n
    if bad.isEmpty then readCells s.mem.bytes pa n
    else
      let u := unitSize pa
      (List.range n).map (fun i => if bad.contains ((pa + i) / u) then 0#8 else getD unwritten s.mem.bytes (pa + i))

/-- The poisoned units that n written bytes at pa cover only in part (R217, R234). -/
def partlyPoisoned (s : State) (pa n : Nat) : List Nat :=
  let u := unitSize pa
  (poisonedIn s pa n).filter (fun b => decide (b * u < pa) || decide (pa + n < b * u + u))

/-- Write bytes but to the units listed. -/
def writeAround (m : List Host.Cell) (u : Nat) (bad : List Nat) : Nat → List Byte → List Host.Cell
  | _, [] => m
  | a, b :: t =>
    if bad.contains (a / u) then writeAround m u bad (a + 1) t
    else writeAround (putD unwritten m a b) u bad (a + 1) t

/-- Bytes written to physical memory: writes to memory that does not answer are dropped, a partial write of a poisoned
unit is dropped, and a whole unit clears its poison (R217, R220, R222, R232, R235). -/
def poke (s : State) (pa : Nat) (b : List Byte) : State :=
  if (stackOf pa).isSome && !memUp s pa then s
  else
    let bad := deadBlocks s pa b.length ++ partlyPoisoned s pa b.length
    let cleared := (poisonedIn s pa b.length).filter (fun x => !bad.contains x)
    let m := if bad.isEmpty then writeCells s.mem.bytes pa b else writeAround s.mem.bytes (unitSize pa) bad pa b
    if (stackOf pa).isSome then
      s.withMem { s.mem with bytes := m, poison := s.mem.poison.filter (fun x => !cleared.contains x) }
    else
      s.withMem { s.mem with bytes := m, srPoison := s.mem.srPoison.filter (fun x => !cleared.contains x) }

/-! What an error of memory does besides the loss of contexts (R220, R223, R235). -/

/-- The 64 KiB page of an address within its stack. -/
def stackPage (pa : Nat) : Nat := pa % 2 ^ 36 / 65536

/-- The retire list once a page's error is seen (R223). -/
def retirePage (l : List Nat) (page : Nat) : List Nat :=
  if l.contains page || decide (64 ≤ l.length) then l else l ++ [page]

/-- The stack's state after an uncorrectable error in a page (R222, R223). -/
def stackStateAfter (k : StackSt) (page : Nat) : StackState :=
  if k.retire.contains page || decide (k.retire.length < 64) then
    match k.state with
    | .online => .degraded
    | x => x
  else .offline

/-- An address held in a pair of UE_ADDR registers with VALID (R239). -/
def setUeAddr (s : State) (lo : Nat) (pa : Nat) : State :=
  setReg (setReg s lo (pa % 2 ^ 32)) (lo + 4) (2 ^ 31 + bits pa 43 32)

/-- An uncorrectable error of a 32-byte unit (R220, R223): the unit is poisoned, its page retired, the address recorded, the stack's state
moved; the contexts of the stack are due to be lost. -/
def noteUncorrectable (s : State) (pa : Nat) : State :=
  match stackOf pa with
  | none => s
  | some st =>
    let k := stackSt s st
    let page := stackPage pa
    let s := setStack s st { k with retire := retirePage k.retire page, state := stackStateAfter k page }
    let s := s.withMem { s.mem with poison := addOnce s.mem.poison (pa / 32), due := addOnce s.mem.due st }
    setUeAddr (orReg s (offStk st + 4) 4) (offStk st + 8) (pa / 32 * 32)

/-- A block of the store room is poisoned, or found poisoned (R235): reported, and counted when new. -/
def noteBlock (s : State) (pa : Nat) : State :=
  let p := pkgOf pa
  let k := pkgSt s p
  let s := if s.mem.srPoison.contains (pa / 4096) then s
    else s.withMem { s.mem with
      srPoison := s.mem.srPoison ++ [pa / 4096]
      pkgs := insert s.mem.pkgs p { k with poisoned := min (k.poisoned + 1) 0xFFFFFFFF } }
  setUeAddr (orReg s (offPkg p + 4) 4) (offPkg p + 8) (pa / 4096 * 4096)

/-- Poisoned units of the memory behind an address are found (R217, R220, R235). -/
def noteUnits (s : State) (pa : Nat) (units : List Nat) : State :=
  units.foldl (fun s u => if (stackOf pa).isSome then noteUncorrectable s (u * unitSize pa) else noteBlock s (u * unitSize pa)) s

/-- Bytes that the device itself reads, for no submission: poison it finds is reported as for any read (R220, R223). -/
def devRead (s : State) (pa n : Nat) : List Byte × State :=
  (peek s pa n, if rangeUp s pa n then noteUnits s pa (poisonedIn s pa n) else s)

/-- Bytes that the device itself writes, for no submission: a partial write of a poisoned unit is dropped and reported (R217). -/
def devWrite (s : State) (pa : Nat) (b : List Byte) : State :=
  let bad := if rangeUp s pa b.length then partlyPoisoned s pa b.length else []
  noteUnits (poke s pa b) pa bad

/-- n bytes of host memory, read with the requester ID of a function (R300). -/
def hostRead (s : State) (fn a n : Nat) : List Byte × State := (readCells s.mem.host a n, emit s (.host fn false a n))

/-- Bytes written to host memory with the requester ID of a function (R300). -/
def hostWrite (s : State) (fn a : Nat) (b : List Byte) : State :=
  emit (s.withMem { s.mem with host := writeCells s.mem.host a b }) (.host fn true a b.length)

/-- The canonical form of a memory: addresses rise, and no entry holds what an unlisted address reads as. -/
def Memory.wf (m : List Host.Cell) : Bool := keysRise m && m.all (fun p => p.2 != unwritten)

/-! Access tables (R340 to R342). -/

/-- A row of the active generation. -/
def accRow (s : State) (n : Nat) : Nat := getD 0 s.part.rows n

def rowValid (r : Nat) : Bool := bit r 84
def rowPart (r : Nat) : Nat := bits r 83 80
def rowStack (r st : Nat) (write : Bool) : Bool := bit r (2 * st + bnat write)
def rowStore (r : Nat) (write : Bool) : Bool := bit r (24 + bnat write)
def rowPort (r n : Nat) : Bool := bit r (32 + n)
def rowRegs (r block : Nat) (write : Bool) : Bool := bit r (48 + 2 * block + bnat write)
def rowDict (r range : Nat) (write : Bool) : Bool := bit r (64 + 2 * (range - 1) + bnat write)

/-- Rows of the physical function and the management controller, bound to no partition (R342). -/
def rowUnbound (master : Nat) : Bool := master == 4096 || master == 4160

/-- A context's row holds the partition of its descriptor (R342). -/
def rowOfContext (s : State) (master : Nat) : Bool :=
  if master < 4096 then
    match find s.ctxs master with
    | some c => rowPart (accRow s master) == c.partition
    | none => false
  else true

/-- The stacks that n bytes at pa lie in; none when one of the bytes lies in no stack. -/
def stacksOf (pa n : Nat) : Option (List Nat) :=
  match stackOf pa, stackOf (pa + n - 1) with
  | some a, some b => some ((List.range (b + 1 - a)).map (fun i => a + i))
  | _, _ => none

/-- A target performs a request of a master on n bytes at a physical address (R342). -/
def accessOk (s : State) (master pa n : Nat) (write : Bool) : Bool :=
  let r := accRow s master
  let last := pa + n - 1
  rowValid r && rowOfContext s master &&
    match stacksOf pa n with
    | some l => l.all (fun st => rowStack r st write && (rowUnbound master || partOfStack s st == some (rowPart r)))
    | none => inStoreRoom pa && inStoreRoom last && rowStore r write &&
        (rowUnbound master || (segInPart s (rowPart r) (segOf pa) && segInPart s (rowPart r) (segOf last)))

/-! Host writes of registers (R302, R342, R413, R452, R453, R455). -/

/-- BAR0 blocks other than clocks and power read zero and drop writes: with no power or in reset, before the configuration image is
applied, in recovery, and during the quiesce of a warm reset. -/
def regsDrop (s : State) : Bool :=
  match s.power.phase with
  | .off => true
  | .held => true
  | .failed => true
  | .warm => s.power.stage == 0
  | .cold => decide (s.power.stage < 4)
  | .done => false

/-- The front end's registers accept writes from the end of stage 7 on (R452). -/
def feDrops (s : State) : Bool := regsDrop s || (s.power.phase != .done && decide (s.power.stage < 8))

/-- The BAR0 block of an offset: 0 front end, 1 translation, 2 partitions, 3 clocks and power, 4 observability, 5 fabric, 6 memory
controllers, 7 dictionary mailbox (R303). -/
def blockOf (off : Nat) : Nat := off / 0x100000

/-- The block that holds an offset of the physical function's BAR0 takes no write now. -/
def blockDrops (s : State) (off : Nat) : Bool :=
  if blockOf off = 0 then feDrops s
  else if blockOf off = 3 then s.power.phase == .off || s.power.phase == .held
  else regsDrop s

/-- The register and the mask of the ACCESS_ERR bit of the register group that holds an offset (R413): in translation the invalidation
registers have their own, in partitions the pre-emption registers; pool registers share that of partitions, ring registers that of port 0. -/
def accessErrBit (off : Nat) : Nat × Nat :=
  match blockOf off with
  | 0 => (0x008, 1)
  | 1 => if 0x100020 ≤ off && off < 0x100040 then (0x10003C, 0x200) else (0x100014, 1)
  | 2 => if 0x200010 ≤ off && off < 0x200018 then (0x200014, 1) else (0x20000C, 1)
  | 3 => if off < 0x308000 then (0x300004, 1) else (0x30801C, 1)
  | 4 => (0x432000, 1)
  | 5 => (0x500008 + (if off < 0x500200 then (off - 0x500000) / 0x20 * 0x20 else 0), 1)
  | 6 =>
    if off < 0x680000 then (off / 0x1000 * 0x1000 + 4, 1)
    else if off < 0x6C0000 then (off / 0x1000 * 0x1000 + 8, 1)
    else (off / 0x100 * 0x100 + 0x14, 1)
  | _ => (0x700404, 1)

/-- ACCESS_ERR of the group of an offset is set. -/
def noteAccessErr (s : State) (off : Nat) : State := orReg s (accessErrBit off).1 (accessErrBit off).2

/-- A function's row grants access to a BAR0 block (R340 to R342). -/
def regsGranted (s : State) (fn block : Nat) (write : Bool) : Bool :=
  let r := accRow s (4096 + fn)
  rowValid r && rowRegs r block write

/-- A host write of a register of the physical function: dropped while the block takes none or the function is in D3hot, and dropped with
ACCESS_ERR when the access table blocks it. -/
def pfWrite (off : Nat) (s : State) (r : Res) : Res :=
  if blockDrops s off || s.front.d3hot.contains 0 then .next s
  else if regsGranted s 0 (blockOf off) true then r
  else .next (noteAccessErr s off)

/-! Cores and groups. -/

/-- A logical core's state. -/
def coreSt (s : State) (c : Nat) : Core := (find s.cores c).getD Core.fresh

/-- Set a core's state. -/
def setCore (s : State) (c : Nat) (v : Core) : State := s.withCores (insert s.cores c v)

/-- Change a core's state. -/
def modCore (s : State) (c : Nat) (f : Core → Core) : State := setCore s c (f (coreSt s c))

/-- A resident group. -/
def groupAt (s : State) (c slot : Nat) : Option Group := find (coreSt s c).groups slot

/-- Set a group. -/
def setGroup (s : State) (c slot : Nat) (g : Group) : State :=
  modCore s c (fun k => { k with groups := insert k.groups slot g })

/-- Remove a group. -/
def dropGroup (s : State) (c slot : Nat) : State :=
  modCore s c (fun k => { k with groups := erase k.groups slot })

/-! Event counters (R461 to R464): an event counts once for each step that raises it; events that last while something waits are
levels of time and are left out (log entry 14). -/

/-- Register bases of the observability block (R475). -/
def obCore (c : Nat) : Nat := 0x400000 + 0x200 * c
def obCluster (n : Nat) : Nat := 0x420000 + 0x100 * n
def obDie (d : Nat) : Nat := 0x421000 + 0x200 * d
def obCel (st : Nat) : Nat := 0x422000 + 0x100 * st
def offObStatus : Nat := 0x432000

/-- The observability block runs (R420). -/
def obOn (s : State) : Bool := s.clock.gateOb

/-- Raise the 48-bit count at a register pair by n; it wraps (R464, R467). -/
def addPair48 (s : State) (off n : Nat) : State :=
  let v := (regPair s off + n) % 2 ^ 48
  setReg (setReg s off (v % 2 ^ 32)) (off + 4) (v / 2 ^ 32)

/-- The count at a pair would pass 2^48 − 1. -/
def wraps48 (s : State) (off n : Nat) : Bool := decide (2 ^ 48 ≤ regPair s off + n)

/-- The partition of a context. -/
def ctxPartition (s : State) (ctx : Nat) : Nat := ((find s.ctxs ctx).map Context.partition).getD 0

/-- A select register lets an event of a context through (R462, R463). -/
def selects (s : State) (sel code : Nat) (ctx : Option Nat) : Bool :=
  bit sel 31 && bits sel 7 0 == code &&
    match bits sel 29 28 with
    | 0 => true
    | 1 => ctx == some (bits sel 27 16)
    | 2 => (match ctx with
      | some c => ctxPartition s c == bits sel 19 16
      | none => false)
    | _ => false

/-- One counter of a level takes n events. -/
def countOne (sels cnts ovf code : Nat) (ctx : Option Nat) (n : Nat) (s : State) (k : Nat) : State :=
  if selects s (reg s (sels + 4 * k)) code ctx then
    let s' := if wraps48 s (cnts + 8 * k) n then orReg s ovf (2 ^ k) else s
    addPair48 s' (cnts + 8 * k) n
  else s

/-- n events of a code on a core (R463). -/
def coreEvent (s : State) (c code : Nat) (ctx : Option Nat) (n : Nat) : State :=
  if obOn s then
    let b := obCore c
    (List.range 8).foldl (countOne b (b + 0x40) (b + 0x80) code ctx n) s
  else s

/-- n events of a code on a cluster. -/
def clusterEvent (s : State) (cl code : Nat) (ctx : Option Nat) (n : Nat) : State :=
  if obOn s then
    let b := obCluster cl
    (List.range 8).foldl (countOne b (b + 0x40) (b + 0x80) code ctx n) s
  else s

/-- n events of a code on a die. -/
def dieEvent (s : State) (d code : Nat) (ctx : Option Nat) (n : Nat) : State :=
  if obOn s then
    let b := obDie d
    (List.range 16).foldl (countOne b (b + 0x80) (b + 0x100) code ctx n) s
  else s

/-! Wakes (R292, R293). -/

/-- A request joins those that wait: in order of arrival, and those of one control cycle in ascending core (R293). -/
def queueWake (w : WakeReq) (l : List WakeReq) : List WakeReq :=
  let first (x : WakeReq) : Bool := !(x.at_ == w.at_ && decide (w.core < x.core))
  l.takeWhile first ++ w :: l.dropWhile first

/-- A wake is asked of a core whose clock is gated: it waits at its die's governor (R293). -/
def askWake (s : State) (c : Nat) : State :=
  if (coreSt s c).gated then
    let d := dieOf s c
    let g := (find s.govs d).getD Governor.reset
    if g.waiting.any (fun w => w.core == c && w.kind == .wake) then s
    else dieEvent (s.withGovs (insert s.govs d { g with waiting := queueWake ⟨c, s.tick.time, .wake⟩ g.waiting })) d 0x84 none 1
  else s

/-- The condition of a group clears (R126, R127): the order of clearing is kept, and a gated core is woken. -/
def clearCond (s : State) (c slot : Nat) : State :=
  match groupAt s c slot with
  | some g =>
    let k := coreSt s c
    askWake (setCore s c { k with
      clearSeq := k.clearSeq + 1,
      groups := insert k.groups slot { g with cond := .clear, clearedAt := k.clearSeq + 1 } }) c
  | none => s

/-- Every group of core c whose condition satisfies p has its condition cleared, in ascending slot order (R127). -/
def clearWhere (s : State) (c : Nat) (p : Group → Bool) : State :=
  (((coreSt s c).groups.filter (fun e => p e.2)).map Prod.fst).foldl (fun s slot => clearCond s c slot) s

/-! Local store (R50, R133). -/

/-- A context's allocation on a core. -/
def lsAlloc (s : State) (c ctx : Nat) : Option LsAlloc := find (coreSt s c).allocs ctx

/-- The bytes of a context's allocation on a core: none allocated counts zero. -/
def lsSize (s : State) (c ctx : Nat) : Nat :=
  match lsAlloc s c ctx with
  | some a => a.units * 65536
  | none => 0

/-- n bytes at an address of an allocation; a byte not written since the release is free (R351). -/
def lsRead (s : State) (c ctx a n : Nat) : List Byte :=
  match lsAlloc s c ctx with
  | some al => (List.range n).map (fun i =>
      (find al.bytes (a + i)).getD (Sys2Proof.Config.freeByte (al.seed + a + i)))
  | none => zeroBytes n

/-- Bytes laid into a keyed list of bytes. -/
def putBytes : Assoc Byte → Nat → List Byte → Assoc Byte
  | m, _, [] => m
  | m, a, b :: t => putBytes (insert m a b) (a + 1) t

/-- Bytes written to an allocation. -/
def lsWrite (s : State) (c ctx a : Nat) (b : List Byte) : State :=
  modCore s c (fun k => { k with
    allocs := modify k.allocs ctx (fun al => { al with bytes := putBytes al.bytes a b }) })

/-- A local-store range lies within the context's allocation. -/
def lsRange (s : State) (c ctx a n : Nat) : Bool := decide (a + n ≤ lsSize s c ctx)

/-! Arrival counters (R57, R148 to R150). -/

/-- A threshold is met: (counter − threshold) as a signed 32-bit value is zero or positive (R150). -/
def thresholdMet (ctr thr : Word32) : Bool := !(ctr - thr).msb

/-- How many local counters the context owns on the core (R148). -/
def localCtrs (s : State) (c ctx : Nat) : Nat :=
  match lsAlloc s c ctx with
  | some a => 2 * a.units
  | none => 0

/-- A local arrival counter. -/
def localCtr (s : State) (c ctx n : Nat) : Word32 :=
  match lsAlloc s c ctx with
  | some a => getD 0 a.ctrs n
  | none => 0

/-- A path of the group waits on local or remote counter n of its context with a threshold that v meets. -/
def unblockPath (remote : Bool) (n : Nat) (v : Word32) (p : Path) : Path :=
  match p.blocked with
  | some (.counter r m t) => if r == remote && m == n && thresholdMet v t then { p with blocked := none } else p
  | _ => p

/-- The groups of the context on core c that wait for counter n see its value v (R126, R140, R158): its paths are
unblocked, and a pending group with a path that can run leaves its wait. -/
def wakeCounter (s : State) (c ctx : Nat) (remote : Bool) (n : Nat) (v : Word32) : State :=
  let s := modCore s c (fun k => { k with
    groups := mapValues k.groups (fun _ g =>
      if g.ctx = ctx then
        let g := { g with run := g.run.map (unblockPath remote n v), stack := g.stack.map (unblockPath remote n v) }
        settle (if g.cond = .counters then reschedule g else g)
      else g) })
  clearWhere s c (fun g => g.ctx == ctx && g.cond == .counters && groupCanRun g)

/-- Write a local arrival counter; waiting groups compare the new value (R158). -/
def setLocalCtr (s : State) (c ctx n : Nat) (v : Word32) : State :=
  let s := modCore s c (fun k => { k with
    allocs := modify k.allocs ctx (fun al => { al with ctrs := putD 0 al.ctrs n v }) })
  wakeCounter s c ctx false n v

/-- Add to a local arrival counter, modulo 2^32 (R57). -/
def addLocalCtr (s : State) (c ctx n : Nat) (v : Word32) : State :=
  setLocalCtr s c ctx n (localCtr s c ctx n + v)

/-! Contexts and queues. -/

/-- Change a context that exists. -/
def modCtx (s : State) (ctx : Nat) (f : Context → Context) : State := s.withCtxs (modify s.ctxs ctx f)

/-- Change a queue that exists. -/
def modQueue (s : State) (q : Nat) (f : Queue → Queue) : State := s.withQueues (modify s.queues q f)

/-- Change a submission that is admitted or running. -/
def modSub (s : State) (q : Nat) (f : Submission → Submission) : State := s.withSubs (modify s.subs q f)

/-- The key of the kernel ring among queues. -/
def kring : Nat := 8192

/-- Bit st of the context's stack mask is set (R212). -/
def touchStack (s : State) (ctx pa : Nat) : State :=
  match stackOf pa with
  | some st => modCtx s ctx (fun c => { c with stackMask := setBit c.stackMask st true })
  | none => s

/-- The backing word of a remote counter, in the context's save area (R149, R310). -/
def backingPa (c : Context) (n : Nat) : Nat := c.saveBase + 4 * n

/-- A remote arrival counter: as it is held, else its backing word (R149). -/
def remoteCtr (s : State) (ctx n : Nat) : Word32 :=
  match find s.ctxs ctx with
  | some c => if c.heldCtrs.contains n then getD 0 c.rctrs n else BitVec.ofNat 32 (ofLE (peek s (backingPa c n) 4))
  | none => 0

/-- A remote counter is held in hardware (R149). -/
def holds (s : State) (ctx n : Nat) : Bool := ((find s.ctxs ctx).map (fun c => c.heldCtrs.contains n)).getD false

/-- The backing words of some counters of a context take their values (R149). -/
def backCtrs (s : State) (c : Context) (l : List Nat) : State :=
  l.foldl (fun s m => devWrite s (backingPa c m) (toLE 4 (getD 0 c.rctrs m).toNat)) s

/-- Write a remote arrival counter; groups of the context that wait on it, on any core, compare the new value. -/
def setRemoteCtr (s : State) (ctx n : Nat) (v : Word32) : State :=
  let s := modCtx s ctx (fun c => { c with rctrs := putD 0 c.rctrs n v })
  (s.cores.map Prod.fst).foldl (fun s k => wakeCounter s k ctx true n v) s

/-- Add to a remote arrival counter, modulo 2^32 (R57). -/
def addRemoteCtr (s : State) (ctx n : Nat) (v : Word32) : State :=
  setRemoteCtr s ctx n (remoteCtr s ctx n + v)

/-! What leaves the module. -/

/-- An MSI-X message of a function; it is held while the function is in D3hot (R302, R331). -/
def sendMsix (s : State) (fn vector : Nat) : State :=
  if s.front.d3hot.contains fn then
    s.withFront { s.front with
      heldOut := insert s.front.heldOut fn ((find s.front.heldOut fn).getD [] ++ [.msix vector]) }
  else emit s (.msix fn vector)

/-- A record or fence written to host memory for a function; held while the function is in D3hot (R302). -/
def hostPost (s : State) (fn a : Nat) (b : List Byte) : State :=
  if s.front.d3hot.contains fn then
    s.withFront { s.front with
      heldOut := insert s.front.heldOut fn ((find s.front.heldOut fn).getD [] ++ [.hostWrite a b]) }
  else hostWrite s fn a b

/-- Bytes written at an address coded as COMP_BASE (R316): bit 63 names host memory. -/
def codedWrite (s : State) (fn addr : Nat) (b : List Byte) : State :=
  if bit addr 63 then hostPost s fn (bits addr 62 0) b else devWrite s addr b

/-- The period in force, in 10 µs units, as ns (R17). -/
def periodNs (s : State) : Nat := s.tick.period * 10000

end Sys2Proof.Machine
end

