-- ==== Sys2Proof/Machine/Calendar.lean ====
section
/-!
DEFINITION. The calendar (R400, R401) and what a control cycle does when no command waits (log entry 7).
-/

namespace Sys2Proof.Machine

/-- Fields of a DATE value, whose bytes stand little-endian (R395): year, month, day, hour, minute, second. -/
def calYear (d : Nat) : Nat := bits d 15 0
def calMonth (d : Nat) : Nat := bits d 23 16
def calDay (d : Nat) : Nat := bits d 31 24
def calHour (d : Nat) : Nat := bits d 39 32
def calMinute (d : Nat) : Nat := bits d 47 40
def calSecond (d : Nat) : Nat := bits d 55 48

/-- A DATE value of its fields. -/
def calMake (y mo d h mi sec : Nat) : Nat :=
  y + 2 ^ 16 * mo + 2 ^ 24 * d + 2 ^ 32 * h + 2 ^ 40 * mi + 2 ^ 48 * sec

/-- A leap year (R400). -/
def leapYear (y : Nat) : Bool := y % 4 == 0 && (y % 100 != 0 || y % 400 == 0)

/-- The length of a month (R400). -/
def monthDays (y mo : Nat) : Nat :=
  if mo = 2 then (if leapYear y then 29 else 28)
  else if mo = 4 || mo = 6 || mo = 9 || mo = 11 then 30
  else 31

/-- A DATE value that a write of CALENDAR may carry (R400). -/
def calOk (d : Nat) : Bool :=
  decide (2000 ≤ calYear d) && decide (calYear d ≤ 2399) && decide (1 ≤ calMonth d) && decide (calMonth d ≤ 12) &&
    decide (1 ≤ calDay d) && decide (calDay d ≤ monthDays (calYear d) (calMonth d)) && decide (calHour d ≤ 23) &&
    decide (calMinute d ≤ 59) && decide (calSecond d ≤ 59) && bits d 63 56 == 0

/-- The last second of the calendar (R401). -/
def calLast : Nat := calMake 2399 12 31 23 59 59

/-- The calendar one second on; it stops at its last second (R401). -/
def calNext (d : Nat) : Nat :=
  if d = calLast then d
  else if calSecond d < 59 then calMake (calYear d) (calMonth d) (calDay d) (calHour d) (calMinute d) (calSecond d + 1)
  else if calMinute d < 59 then calMake (calYear d) (calMonth d) (calDay d) (calHour d) (calMinute d + 1) 0
  else if calHour d < 23 then calMake (calYear d) (calMonth d) (calDay d) (calHour d + 1) 0 0
  else if calDay d < monthDays (calYear d) (calMonth d) then calMake (calYear d) (calMonth d) (calDay d + 1) 0 0 0
  else if calMonth d < 12 then calMake (calYear d) (calMonth d + 1) 1 0 0 0
  else calMake (calYear d + 1) 1 1 0 0 0

/-- Days from 2000-01-01 to the first of January of a year from 2000 on. -/
def daysBeforeYear (y : Nat) : Nat :=
  (List.range (y - 2000)).foldl (fun n i => n + (if leapYear (2000 + i) then 366 else 365)) 0

/-- Days of a year before a month. -/
def daysBeforeMonth (y mo : Nat) : Nat :=
  (List.range (mo - 1)).foldl (fun n i => n + monthDays y (i + 1)) 0

/-- WEEKDAY: 1 Monday to 7 Sunday (R399); 2000-01-01 is a Saturday. -/
def weekday (d : Nat) : Nat :=
  (daysBeforeYear (calYear d) + daysBeforeMonth (calYear d) (calMonth d) + (calDay d - 1) + 5) % 7 + 1

/-- n nanoseconds of TIME pass on the calendar (R401). -/
def calAdvance (c : DictSt) (n : Nat) : DictSt :=
  if c.calRest + n < 1000000000 then { c with calRest := c.calRest + n }
  else { c with calRest := c.calRest + n - 1000000000, calendar := calNext c.calendar }

/-- The clock of the control domain runs: root PLL locked, or the hold on the internal oscillator (R15, R424). -/
def cycleNs (s : State) : Nat :=
  if s.tick.counting then (if s.clock.hold && s.clock.onOsc then 25 else 2) else 0

/-- One control cycle in which no command acts: TIME advances, and the calendar once it has been written (R15, R401, R424). -/
def idleCycle (s : State) : State :=
  let n := cycleNs s
  { s with
    tick := { s.tick with time := s.tick.time + BitVec.ofNat 64 n }
    dict := if s.dict.calValid then calAdvance s.dict n else s.dict }

/-- CALENDAR_END: the calendar stands at its last second, and CALENDAR_VALID becomes 0 (R401). -/
def execCalendarEnd (s : State) : Res :=
  enabled (s.dict.calendar == calLast) "CALENDAR_END" (s.withDict { s.dict with calValid := false })

end Sys2Proof.Machine
end

