-- ==== Sys2Proof/Machine/Counters.lean ====
section
/-!
DEFINITION. Observability as the other families use it: event counters (R461 to R464), operation counters (R467),
histograms (R468), and the sampling buffer (R469, R470). An event counts once for each step that raises it; events that
last while something waits are levels of time and are left out (log entry 14).
-/

namespace Sys2Proof.Machine

/-- Operation counter n of a core rises (R467). -/
def opCount (s : State) (c n by_ : Nat) : State :=
  if obOn s && by_ != 0 then addPair48 s (obCore c + 0x100 + 8 * n) by_ else s

/-- Operation counter n of a stack's cellar rises (R467). -/
def celCount (s : State) (st n by_ : Nat) : State :=
  if obOn s && by_ != 0 then addPair48 s (obCel st + 8 * n) by_ else s

/-- The bin of a latency in ns (R468). -/
def histBin (t : Nat) : Nat := if t < 2 then 0 else min 15 (Nat.log2 t)

/-- A measured request of a histogram: its latency is a measured time (R468, log entry 9). -/
def histogram (s : State) (h : Nat) : State :=
  if obOn s then
    let r := freshTime s
    let k := h * 16 + histBin r.1
    let v := (getD 0 r.2.hist k).toNat
    r.2.withHist (putD 0 r.2.hist k (BitVec.ofNat 32 (min (v + 1) 0xFFFFFFFF)))
  else s

/-- Ring time: TIME + RING_OFFSET (R473). -/
def ringTime (s : State) : Nat := twos 64 ((s.tick.time.toNat : Int) + s.ring.offset)

/-- The partition that owns a core's cluster. -/
def partOfCore (s : State) (c : Nat) : Option Nat := partOfCluster s (clusterOf s c)

/-- A sampling record (R469). LATENCY and the flags of misses and replays are measured (log entry 9). -/
def sampleRecord (s : State) (c slot ctx pc major op dataAddr : Nat) (fault : Bool) (lat flags : Nat) : List Byte :=
  toLE 8 (ringTime s) ++ toLE 6 pc ++ toLE 1 slot ++ toLE 1 major ++ toLE 6 dataAddr ++ toLE 2 ctx ++
    toLE 4 (min lat 0xFFFFFFFF) ++ toLE 1 op ++
    toLE 1 (flags % 16 + 16 * bnat fault + 32 * bnat (decide (2 ≤ s.tick.lock))) ++ toLE 2 c

/-- An instruction issues on a core and completes: it is counted, and every SAMPLE_PERIOD-th of the selected contexts is
recorded (R463, R469). -/
def noteIssue (s : State) (c slot ctx pc major op dataAddr : Nat) (fault : Bool) : State :=
  let s := modCore (coreEvent s c 0x01 (some ctx) 1) c (fun k => { k with lastSlot := slot })
  match partOfCore s c with
  | none => s
  | some p =>
    let o := 0x6010 + p
    let sel := obj s o 4
    if obj s o 1 = 0 || !obOn s || !(sel == 0 || sel == ctx + 1) then s
    else
      let k := coreSt s c
      if k.issued + 1 < obj s o 3 then setCore s c { k with issued := k.issued + 1 }
      else
        let t := freshTime s
        let f := freshWord t.2
        let r := sampleRecord s c slot ctx pc major op dataAddr fault t.1 f.1
        modCore f.2 c (fun k => { k with issued := 0, samples := k.samples ++ [r] })

/-- A core's sampling buffer is drained to its partition's ring (R470): what fits in the order taken, then HEAD; the rest
is dropped and counted. -/
def drainSamples (s : State) (c : Nat) : State :=
  let k := coreSt s c
  match partOfCore s c with
  | none => s
  | some p =>
    let base := obj s (0x6010 + p) 1
    if base = 0 || k.samples.isEmpty then s
    else
      let size := 2 ^ obj s (0x6010 + p) 2
      let s := (devRead s base 24).2
      let head := ofLE (peek s base 8)
      let tail := ofLE (peek s (base + 8) 8)
      let room := size - (head + 2 ^ 64 - tail) % 2 ^ 64
      let fits := k.samples.take room
      let s := (List.zip (List.range fits.length) fits).foldl
        (fun s e => devWrite s (base + 64 + (head + e.1) % size * 32) e.2) s
      let dropped := ofLE (peek s (base + 16) 8) + (k.samples.length - fits.length)
      let s := devWrite s base (toLE 8 (head + fits.length))
      let s := if fits.length < k.samples.length then devWrite s (base + 16) (toLE 8 dropped) else s
      modCore s c (fun k => { k with samples := [] })

end Sys2Proof.Machine
end

