-- ==== Sys2Proof/Machine/Submit.lean ====
section
/-!
DEFINITION. The life of a submission that every family shares: stopping its work, its standing fault (R33, R135, R325),
its completion record, fence and interrupt (R329 to R331), the withdrawal of fault tokens, and the loss of a context
(R332, R333).
-/

namespace Sys2Proof.Machine

/-! Status codes (R14). -/

def stOk : Nat := 0x00
def stSplit : Nat := 0x02
def stRefusedBudget : Nat := 0x10
def stRefusedMemory : Nat := 0x11
def stRefusedSize : Nat := 0x12
def stRefusedAccess : Nat := 0x13
def stRefusedLost : Nat := 0x14
def stLost : Nat := 0x20
def stFallbackUsed : Nat := 0x30
def stOverrun : Nat := 0x31
def stPreempted : Nat := 0x32
def stFaultTranslation : Nat := 0x40
def stFaultAccess : Nat := 0x41
def stFaultMemory : Nat := 0x42
def stFaultHandle : Nat := 0x43
def stFaultCommand : Nat := 0x44
def stHangDumped : Nat := 0x50

/-! Draught descriptors, as far as stopping needs them (R45). -/

/-- CHAIN_LEN. -/
def descLen (d : List Byte) : Nat := fieldLE d 0x02 1

/-- Station code i of the chain. -/
def descStation (d : List Byte) (i : Nat) : Nat := bits (fieldLE d 0x04 4) (4 * i + 3) (4 * i)

/-- The station codes of the chain in order. -/
def descChain (d : List Byte) : List Nat := (List.range (descLen d)).map (descStation d)

/-- The chain has a REDUCE station. -/
def descReduces (d : List Byte) : Bool := (descChain d).contains 0x5

/-- The tag of a reduce group: DST_HANDLE (R45). -/
def descTag (d : List Byte) : Nat := fieldLE d 0x1C 4

/-! Stopping the work of a submission (R135, R252, R325). -/

/-- Array work of queue q that has not started is dropped; what executes completes. -/
def ArraySt.dropQueue (a : ArraySt) (q : Nat) : ArraySt :=
  let thin (b : Batch) : Batch := { b with reqs := b.reqs.filter (fun r => r.queue != q) }
  { a with
    loads := a.loads.filter (fun j => j.started || j.op.queue != q)
    queue := a.queue.filter (fun o => o.queue != q)
    opened := (a.opened.map thin).filter (fun b => !b.reqs.isEmpty)
    closed := (a.closed.map thin).filter (fun b => !b.reqs.isEmpty) }

/-- The array without the row block that one of some draughts holds (R112). -/
def ArraySt.unheld (a : ArraySt) (l : List Draught) : ArraySt :=
  { a with holder := a.holder.filter (fun o => !l.any (fun d => d.order == o)) }

/-- Work of queue q on a core is dropped: groups, launches, copies, draughts, queued matrix and vector work. -/
def Core.dropQueue (k : Core) (q : Nat) : Core :=
  { k with
    groups := filterValues k.groups (fun _ g => g.queue != q)
    launchQ := k.launchQ.filter (fun l => l.queue != q)
    copies := k.copies.filter (fun c => c.queue != q)
    draughts := k.draughts.filter (fun d => d.queue != q)
    dbells := k.dbells.filter (fun b => b.queue != q)
    array := (k.array.dropQueue q).unheld (k.draughts.filter (fun d => d.queue == q))
    vec := { k.vec with queue := k.vec.queue.filter (fun v => v.queue != q) }
    progs := k.progs.filter (fun p => p.queue != q) }

/-- Queued commands of queue q leave a cellar engine; those that execute complete (R205). -/
def CellarSt.dropQueue (e : CellarSt) (q : Nat) : CellarSt :=
  { e with
    queue := e.queue.filter (fun c => c.queue != q)
    waiting := e.waiting.filter (fun c => c.queue != q)
    fillWaits := e.fillWaits.filter (fun c => c.queue != q) }

/-- A miss without the requesters of queue q. -/
def Miss.without (q : Nat) (m : Miss) : Miss := { m with reqs := m.reqs.filter (fun r => r.queue != q) }

/-- The requesters of waiting and running translations as f changes them; a miss that no one waits for any more leaves, a walk goes on. -/
def TransSt.thin (t : TransSt) (f : Miss → Miss) : TransSt :=
  let keep (l : List Miss) : List Miss := (l.map f).filter (fun m => !m.reqs.isEmpty)
  { t with
    missA := keep t.missA, missB := keep t.missB, outA := keep t.outA, outB := keep t.outB
    walksA := t.walksA.map f, walksB := t.walksB.map f }

/-- Waiting translations and attached requesters of queue q are forgotten. -/
def TransSt.dropQueue (t : TransSt) (q : Nat) : TransSt :=
  { t.thin (Miss.without q) with
    given := t.given.filter (fun g => g.queue != q)
    tokens := t.tokens.map (fun k => { k with who := k.who.filter (fun w => w.2 != q) })
    noToken := t.noToken.filter (fun w => w.queue != q)
    invals := t.invals.map (fun v => if v.queue = some q then { v with queue := none } else v) }

/-- A port without the requests of queue q that satisfy f: their responses, once here, reach no one (R377). -/
def Port.orphan (q : Nat) (f : Requester → Bool) (p : Port) : Port :=
  { p with waits := p.waits.map (fun w => if w.2.2.1 = q && f w.2.1 then (w.1, Requester.ingress 0, 8193, 0) else w) }

/-- Requests of lanes and of the front end, which an abort ends at once (R40). -/
def notStation : Requester → Bool
  | .station _ _ _ => false
  | _ => true

/-- Groups that wait for an entry of a matrix, draught or copy queue go on, where work has left the queues (R126). -/
def freeEntries (s : State) : State :=
  (s.cores.map Prod.fst).foldl (fun s c =>
    clearWhere s c (fun g => g.cond == .matrixFull || g.cond == .draughtFull || g.cond == .copyFull)) s

/-- What a pre-emption saved of queue q on a core is dropped. -/
def SavedCore.dropQueue (q : Nat) (r : SavedCore) : SavedCore :=
  { r with
    groups := filterValues r.groups (fun _ g => g.queue != q)
    copies := r.copies.filter (fun c => c.queue != q)
    draughts := r.draughts.filter (fun d => d.queue != q)
    launchQ := r.launchQ.filter (fun l => l.queue != q)
    dbells := r.dbells.filter (fun b => b.queue != q)
    array := r.array.map (fun a => (a.dropQueue q).unheld (r.draughts.filter (fun d => d.queue == q)))
    vec := r.vec.map (fun v => { v with queue := v.queue.filter (fun o => o.queue != q) }) }

/-- What a pre-emption saved of queue q in a context is dropped. -/
def Context.dropQueue (q : Nat) (c : Context) : Context :=
  { c with
    saved := c.saved.map (SavedCore.dropQueue q)
    savedCells := c.savedCells.filter (fun e => e.2.queue != q) }

/-- The saved draughts of queue q on a core. -/
def savedDraughts (s : State) (q c : Nat) : List Draught :=
  (((s.ctxs.map (fun x => x.2.saved.filter (fun r => r.core == c))).flatten.map SavedCore.draughts).flatten).filter (fun d => d.queue == q)

/-- All work of queue q stops. -/
def stopWork (s : State) (q : Nat) : State :=
  freeEntries { s with
    ctxs := mapValues s.ctxs (fun _ c => c.dropQueue q)
    ports := mapValues s.ports (fun _ p => p.orphan q (fun _ => true))
    cores := mapValues s.cores (fun c k => let k := k.dropQueue q; { k with array := k.array.unheld (savedDraughts s q c) })
    cellars := mapValues s.cellars (fun _ e => e.dropQueue q)
    trans := s.trans.dropQueue q
    front := { s.front with feCopies := s.front.feCopies.filter (fun c => c.queue != q) } }

/-- A station of the draught is in the middle of a tile. -/
def Draught.inFlight (d : Draught) : Bool := d.stations.any StationSt.busy

/-- What an abort leaves of queue q on a core (R40, R156): the tiles in flight, the copies whose piece runs, and what the array executes. -/
def Core.abortQueue (k : Core) (q : Nat) : Core :=
  let c := k.dropQueue q
  { c with
    draughts := k.draughts.filter (fun d => d.queue != q || d.inFlight)
    copies := k.copies.filter (fun x => x.queue != q || (x.running && x.stall.isNone)) }

/-- The queues of the work at the head of a run path. -/
def RunJob.queues : RunJob → List Nat
  | .run op _ => [op.queue]
  | .drain op => [op.queue]
  | .batchRun b => b.reqs.map BatchReq.queue
  | .batchDrain b _ => b.reqs.map BatchReq.queue

/-- What executes of a queue on a core and is not dropped when its submission stops (R119, R135). -/
def Core.executes (k : Core) (q : Nat) : Bool :=
  (match k.array.run with
   | some j => j.queues.contains q
   | none => false) ||
    k.array.loads.any (fun j => j.started && j.op.queue == q) ||
    (match k.vec.exec with
     | some v => v.queue == q
     | none => false) ||
    k.stores.any (fun e => e.queue == q)

/-- Work of a queue is left on a core. -/
def Core.works (k : Core) (q : Nat) : Bool :=
  k.executes q || anyValue k.groups (fun _ g => g.queue == q) || k.launchQ.any (fun l => l.queue == q) ||
    k.copies.any (fun c => c.queue == q) || k.draughts.any (fun d => d.queue == q) ||
    k.array.loads.any (fun j => j.op.queue == q) || k.array.queue.any (fun o => o.queue == q) ||
    (k.array.opened ++ k.array.closed).any (fun b => b.reqs.any (fun r => r.queue == q)) ||
    k.vec.queue.any (fun v => v.queue == q)

/-- Work of a running queue is about to stop: it ends now on the cores on which it works (R41, R354). -/
def noteStop (s : State) (q : Nat) : State :=
  match find s.subs q with
  | some u =>
    if u.phase = .running then
      let now := s.tick.time.toNat
      let busy := (s.cores.filter (fun e => e.2.works q)).map Prod.fst
      modSub s q (fun u => { u with ends := busy.foldl (fun m c => insert m c now) u.ends })
    else s
  | none => s

/-- Arrivals of a queue's discarded groups leave a context's barrier counts on a core (R291). -/
def removeArrivals (q : Nat) (s : State) (c : Nat × Core) : State :=
  (c.2.groups.filter (fun g => g.2.queue == q)).foldl (fun s g =>
    match g.2.cond with
    | .barrier b => modCtx s g.2.ctx (fun x => { x with bars := modify x.bars b (fun r =>
        { r with counts := match find r.counts c.1 with
          | some (n, e, w) => if n ≤ 1 then erase r.counts c.1 else insert r.counts c.1 (n - 1, e, w)
          | none => r.counts }) })
    | _ => s) s

/-- The abort of a real-time primary starts (R38, R40): nothing new is issued for it, and its tokens stay attached until
the abort completes. The cores on which it works are noted (R41). -/
def startAbort (s : State) (q : Nat) : State :=
  match find s.subs q with
  | some u =>
    if u.phase = .running then
      let now := s.tick.time.toNat
      let s := s.cores.foldl (removeArrivals q) (noteStop s q)
      freeEntries { modSub s q (fun u => { u with phase := .aborting, stopped := true, abortAt := now }) with
        ports := mapValues s.ports (fun _ p => p.orphan q notStation)
        cores := mapValues s.cores (fun _ k => k.abortQueue q)
        cellars := mapValues s.cellars (fun _ e => e.dropQueue q)
        trans := { s.trans.dropQueue q with tokens := s.trans.tokens }
        front := { s.front with feCopies := s.front.feCopies.filter (fun c => c.queue != q) } }
    else s
  | none => s

/-- The context and tags of the reduce groups in which a queue has a draught. -/
def reduceTags (s : State) (q : Nat) : List (Nat × Nat) :=
  (s.cores.map (fun e => (e.2.draughts.filter (fun d => d.queue == q && descReduces d.desc)).map
    (fun d => (d.ctx, descTag d.desc)))).flatten

/-- The queues with a draught in one of the groups. -/
def queuesInGroups (s : State) (tags : List (Nat × Nat)) : List Nat :=
  (s.cores.map (fun e => (e.2.draughts.filter (fun d => descReduces d.desc && tags.contains (d.ctx, descTag d.desc))).map
    Draught.queue)).flatten

/-- The queues that fail with queue q through reduce groups (R49): the closure under shared groups. -/
def groupClosure (s : State) : Nat → List Nat → List Nat
  | 0, qs => qs
  | n + 1, qs =>
    let more := ((queuesInGroups s ((qs.map (reduceTags s)).flatten)).filter (fun q => !qs.contains q)).eraseDups
    if more.isEmpty then qs else groupClosure s n (qs ++ more)

/-- The standing fault of a submission after one more is detected at time t (R33): the first stands; of those of one control cycle the one
ranked first, which is the one of the lowest code. -/
def Submission.meet (u : Submission) (status t : Nat) : Submission :=
  if u.fault = 0 || (u.faultAt == t && decide (status < u.fault)) then { u with fault := status, faultAt := t, stopped := true }
  else { u with stopped := true }

/-- A submission's standing fault: it stands, and the submission's work stops (R33). -/
def setFault (s : State) (q status : Nat) : State :=
  match find s.subs q with
  | some _u => stopWork (modSub (noteStop s q) q (fun u => u.meet status s.tick.time.toNat)) q
  | none => s

/-- A submission meets a fault (R135, R325): it stops, and with it the other members of its reduce groups, which
complete with FAULT_COMMAND (R49). -/
def failSubmission (s : State) (q status : Nat) : State :=
  let others := (groupClosure s (s.subs.length + 1) [q]).filter (· != q)
  others.foldl (fun s o => setFault s o stFaultCommand) (setFault s q status)

/-! Completion records (R329 to R331). -/

/-- What a completion record is made of. -/
structure Record where
  status    : Nat
  splitLog2 : Nat
  index     : Nat
  entry     : List Byte
  waitTicks : Nat
  deferrals : Nat
  overruns  : Nat
  flags     : Nat
  coreUs    : Nat

/-- The host function whose identity a queue's accesses carry (R300). -/
def fnOfQueue (s : State) (q : Nat) : Nat :=
  match find s.queues q with
  | some u =>
    match find s.ctxs u.ctx with
    | some c => c.fn
    | none => 0
  | none => 0

/-- The master of a queue's accesses: its context, or the physical function for the kernel ring (R309, R325). -/
def masterOfQueue (s : State) (q : Nat) : Nat :=
  match find s.queues q with
  | some u => u.ctx
  | none => 4096

/-- The fence word of an entry may be written (R317, R325): aligned to 8, and in the reach of the queue's context. -/
def fenceOk (s : State) (q : Nat) (entry : List Byte) : Bool :=
  let a := fieldLE entry 0x10 8
  a % 8 == 0 && (bit a 63 || (decide (a < 2 ^ 44) && accessOk s (masterOfQueue s q) a 8 true))

/-- FENCE_EN of an entry. -/
def fenceEn (entry : List Byte) : Bool := bit (fieldLE entry 0x01 1) 1

/-- The fence value an entry writes: none without FENCE_EN or with a word that may not be written. -/
def fenceOf (s : State) (q : Nat) (entry : List Byte) : Option (Nat × Nat) :=
  if fenceEn entry && fenceOk s q entry then some (fieldLE entry 0x10 8, fieldLE entry 0x18 8) else none

/-- The fence is written after the record (R329): a maximum in stacked memory, a plain write in host memory. -/
def writeFence (s : State) (fn a v : Nat) : State :=
  if bit a 63 then hostPost s fn (bits a 62 0) (toLE 8 v)
  else devWrite s a (toLE 8 (max v (ofLE (peek s a 8))))

/-- The 32 bytes of a completion record (R330). -/
def recordBytes (s : State) (q : Nat) (r : Record) (fence : Nat) : List Byte :=
  toLE 1 r.status ++ toLE 1 r.splitLog2 ++ toLE 2 (if q = kring then 0xFFFF else q) ++ toLE 4 r.index ++
    toLE 8 fence ++ toLE 4 r.waitTicks ++ toLE 2 r.deferrals ++ toLE 1 (min r.overruns 255) ++ toLE 1 r.flags ++
    toLE 4 (min r.coreUs 0xFFFFFFFF) ++ toLE 4 s.tick.count.toNat

/-- The address of the completion record of entry i (R316, R334). -/
def compAddr (s : State) (q i : Nat) : Nat :=
  if q = kring then
    let b := regPair s offKringComp
    let m := bits (reg s offKringCfg) 4 0
    let log2 := if 4 ≤ m && m ≤ 16 then m else 4
    b + i % 2 ^ log2 * 32
  else
    match find s.queues q with
    | some u => u.compBase + i % 2 ^ u.log2 * 32
    | none => 0

/-- The front end writes memory as the physical function (R309): a write that row 4,096 does not grant is dropped (R342). -/
def pfPoke (s : State) (pa : Nat) (b : List Byte) : State :=
  if accessOk s 4096 pa b.length true then devWrite s pa b else s

/-- READ and WRITE of a queue in its queue-table entry (R309, R316). -/
def writeQueueTable (s : State) (q : Nat) : State :=
  match find s.queues q with
  | some u => pfPoke s (regPair s offQueueTable + 64 * q + 0x18) (toLE 4 u.read.toNat ++ toLE 4 u.write.toNat)
  | none => s

/-- The interrupt of a completion (R331). -/
def raiseCompletion (s : State) (q : Nat) (entry : List Byte) : State :=
  if q = kring then (if bit (reg s offKringCfg) 31 then sendMsix s 0 1 else s)
  else
    match find s.queues q with
    | some u => if bit u.flags 1 || bit (fieldLE entry 0x01 1) 0 then sendMsix s (fnOfQueue s q) u.vector else s
    | none => s

/-- READ advances; the entry leaves the buffer store (R321, R330). -/
def advanceRead (s : State) (q : Nat) (fence : Option Nat) : State :=
  if q = kring then s.withFront { s.front with kRead := s.front.kRead + 1, kFetched := none }
  else
    writeQueueTable (modQueue s q (fun u => { u with
      read := u.read + 1
      hWait := 0, hDefer := 0, hMem := 0, hAny := 0, hElig := 0
      fetched := u.fetched.filter (fun f => f.idx != u.read)
      fence := match fence with
        | some v => BitVec.ofNat 64 v
        | none => u.fence })) q

/-- The completion of entry r.index of a queue: record, fence, interrupt, READ (R281, R329 to R331). -/
def completeEntry (s : State) (q : Nat) (r : Record) : State :=
  let fence := fenceOf s q r.entry
  let fn := fnOfQueue s q
  let s := codedWrite s fn (compAddr s q r.index) (recordBytes s q r ((fence.map Prod.snd).getD 0))
  let s := match fence with
    | some f => writeFence s fn f.1 f.2
    | none => s
  advanceRead (raiseCompletion s q r.entry) q (fence.map Prod.snd)

/-- The status group 2 to 7 of R33 for a submission without a standing fault. -/
def ordinaryStatus (u : Submission) : Nat :=
  if u.hung then stHangDumped
  else if u.wasPreempted then stPreempted
  else if u.fallbackRan then stFallbackUsed
  else if u.crossed ≠ 0 then stOverrun
  else if u.splitLog2 ≠ 0 then stSplit
  else stOk

/-- The status of an admitted submission's record (R33). -/
def submissionStatus (u : Submission) : Nat := if u.fault ≠ 0 then u.fault else ordinaryStatus u

/-- Some core of the need runs at a divider other than ÷3 (R330 FLAGS bit 3). -/
def throttledNow (s : State) (cores : List Nat) : Bool :=
  cores.any (fun c => ((s.clock.dividers)[clusterOf s c]?).getD 3 != 3)

/-- FLAGS of a completion record (R330). -/
def submissionFlags (u : Submission) : Nat :=
  bnat u.fallbackRan + 2 * bnat u.wasPreempted + 4 * bnat (u.level != 0) + 8 * bnat u.throttled

/-- Core time of a submission in ns (R354): per core of its need, from its start there to the end of its last work. -/
def coreTime (u : Submission) : Nat :=
  u.coreNs + u.cores.foldl (fun n c => n + ((find u.ends c).getD u.start - u.start)) 0

/-- Work of queue q ends on core c now (R354). -/
def noteEnd (s : State) (q c : Nat) : State :=
  modSub s q (fun u => { u with ends := insert u.ends c s.tick.time.toNat })

/-- The record of an admitted submission. -/
def submissionRecord (u : Submission) (status : Nat) : Record :=
  ⟨status, u.splitLog2, u.idx.toNat, u.entry, u.waitTicks, u.deferrals, u.crossed, submissionFlags u,
    coreTime u / 1000⟩

/-- The copies that cores hold of a queue's element programs leave with the submission that read them (R171). -/
def dropCopies (s : State) (q : Nat) : State :=
  s.withCores (mapValues s.cores (fun _ k => { k with progs := k.progs.filter (fun p => p.queue != q) }))

/-- An admitted submission completes with its status and leaves, apart from the losses that an error met by its record's writes causes. -/
def leaveSubmission (s : State) (q : Nat) (u : Submission) (status : Nat) : State :=
  completeEntry (dropCopies (s.withSubs (erase s.subs q)) q) q (submissionRecord u status)

/-- The record of an entry that was never admitted (R33). -/
def unadmittedRecord (idx : Nat) (entry : List Byte) (status waitTicks deferrals : Nat) : Record :=
  ⟨status, 0, idx, entry, waitTicks, deferrals, 0, 0, 0⟩

/-- The counter of R353 that a refusal raises. -/
def refusalCounter (status : Nat) : Option Nat :=
  if 0x10 ≤ status && status ≤ 0x14 then
    some (if status = 0x10 then 3 else if status = 0x11 then 4 else if status = 0x12 then 5 else if status = 0x13 then 6 else 7)
  else none

/-- A refusal of an entry of a queue is counted (R353). -/
def countRefusal (s : State) (q status : Nat) : State :=
  match refusalCounter status, find s.queues q with
  | some n, some u =>
    let s := modQueue s q (fun u => { u with refusals := u.refusals + 1 })
    match find s.ctxs u.ctx with
    | some c => countPart s c.partition n
    | none => s
  | _, _ => s

/-- The entry at READ completes with a status without running (R33, R352), apart from the losses that an error met by its record's writes
causes. -/
def leaveHead (s : State) (q status : Nat) (entry : List Byte) : State :=
  match find s.queues q with
  | some u => completeEntry (countRefusal s q status) q (unadmittedRecord u.read.toNat entry status u.hWait u.hDefer)
  | none => s

/-! Fault tokens (R250, R251). -/

/-- The kind of a requester as the record codes it (R251), with its core, and its UNIT. -/
def requesterCode : Requester → Nat × Option Nat × Nat
  | .lane c slot => (0, some c, slot)
  | .fetch c slot => (1, some c, slot)
  | .station c _ st => (2, some c, st)
  | .copy c _ => (3, some c, 0)
  | .frontEnd _ => (4, none, 0)
  | .ingress _ => (5, none, 0)

/-- A withdrawal record (R251). -/
def withdrawalRecord (s : State) (t : Token) : List Byte :=
  toLE 8 s.trans.seq.toNat ++ toLE 1 1 ++ toLE 1 0 ++ zeroBytes 2 ++ toLE 2 t.ctx ++ toLE 1 t.partition ++
    toLE 1 t.acc ++ toLE 8 t.va ++ zeroBytes 8 ++ toLE 8 s.tick.count.toNat ++ toLE 8 s.tick.time.toNat ++
    toLE 4 t.token.toNat ++ zeroBytes 12

/-- m of the fault ring (R262). -/
def faultRingLog2 (s : State) : Nat :=
  let m := bits (reg s offFaultCfg) 4 0
  if 6 ≤ m && m ≤ 16 then m else 6

/-- The fault ring is full (R251). -/
def faultRingFull (s : State) : Bool :=
  (reg s offFaultHead + 2 ^ 32 - reg s offFaultTail) % 2 ^ 32 == 2 ^ faultRingLog2 s

/-- RING_FULL_SEEN when a record waits for ring space (R251, R262). -/
def noteRingFull (s : State) : State :=
  if bit (reg s offFaultCfg) 31 && faultRingFull s && !s.trans.records.isEmpty then orReg s offFaultStatus 2 else s

/-- Records wait inside the device until FAULT_RECORD_WRITE (R251); SEQ rises by one for each. -/
def queueRecord (s : State) (b : List Byte) : State :=
  noteRingFull (s.withTrans { s.trans with records := s.trans.records ++ [b], seq := s.trans.seq + 1 })

/-- A token is withdrawn, with one withdrawal record (R253, R256, R333). -/
def withdrawToken (s : State) (t : Token) : State :=
  queueRecord (s.withTrans { s.trans with tokens := s.trans.tokens.filter (fun k => k.token != t.token) })
    (withdrawalRecord s t)

/-! Requesters that wait on translation (R252, R254). -/

/-- A requester is held on a token, or on nothing but its miss. -/
def stallReq (s : State) (who : Requester) (va : Nat) (t : Option Word32) : State :=
  let group (c slot : Nat) : State :=
    match groupAt s c slot with
    | some g => setGroup s c slot (match t with
        | some k => { g with active := false, cond := .fault k }
        | none => { g with cond := .walk va })
    | none => s
  match who with
  | .lane c slot => group c slot
  | .fetch c slot => group c slot
  | .station c d st => modCore s c (fun k => { k with draughts := k.draughts.map (fun x =>
      if x.order = d then
        { x with stations := x.stations.modify st (fun y => { y with stall := t }) } else x) })
  | .copy c i => modCore s c (fun k => { k with copies := k.copies.map (fun x => if x.id = i then { x with stall := t } else x) })
  | .frontEnd q => s.withFront { s.front with feCopies := s.front.feCopies.map (fun x =>
      if x.queue = q then { x with stall := t } else x) }
  | .ingress _ => s

/-- A requester is let go on: it repeats its access from the translation (R252, R254). -/
def releaseReq (s : State) (who : Requester) : State :=
  let group (c slot : Nat) : State :=
    match groupAt s c slot with
    | some g =>
      match g.cond with
      | .fault _ => clearCond s c slot
      | .walk _ => clearCond s c slot
      | _ => s
    | none => s
  match who with
  | .lane c slot => group c slot
  | .fetch c slot => group c slot
  | _ => stallReq s who 0 none

/-- Faults that waited for a token repeat their access when one frees (R250). -/
def retryWaiting (s : State) : State :=
  let ws := s.trans.noToken
  ws.foldl (fun s w => releaseReq s w.who) (s.withTrans { s.trans with noToken := [] })

/-! Context loss (R332, R333). -/

/-- STATE of the directory entry (R309). -/
def ctxStateCode : CtxState → Nat
  | .free => 0
  | .idle => 1
  | .resident => 2
  | .lost => 3

/-- The directory entry of a context, written to FE_CTX_TABLE_BASE (R309); of a context that is FREE again, its STATE and REASON. -/
def writeDirectory (s : State) (ctx : Nat) : State :=
  match find s.ctxs ctx with
  | some c =>
    pfPoke s (regPair s offCtxTable + 16 * ctx)
      (toLE 8 c.descAddr ++ toLE 1 (ctxStateCode c.state) ++ toLE 1 c.reason ++ zeroBytes 6)
  | none => pfPoke s (regPair s offCtxTable + 16 * ctx + 8) (zeroBytes 8)

/-- Lines of a context leave a set-associative core cache (R147, R231). -/
def dropCtxLines (sets : Assoc (CacheSet DcLine)) (p : DcLine → Bool) : Assoc (CacheSet DcLine) :=
  mapValues sets (fun _ c => { c with ways := c.ways.map (fun w => w.filter (fun l => !p l)) })

/-- What a context holds on a core is released: groups, allocation and counters, cached lines, array and vector
state, programs (R118, R175, R231, R333). -/
def Core.dropContext (k : Core) (ctx : Nat) : Core :=
  let mine (l : DcLine) : Bool := l.ctx == ctx
  { k with
    groups := filterValues k.groups (fun _ g => g.ctx != ctx)
    launchQ := k.launchQ.filter (fun l => l.ctx != ctx)
    allocs := erase k.allocs ctx
    icache := dropCtxLines k.icache mine
    dcache := dropCtxLines k.dcache mine
    fills := k.fills.filter (fun f => f.ctx != ctx)
    copies := k.copies.filter (fun c => c.ctx != ctx)
    dbells := k.dbells.filter (fun b => match find k.groups b.slot with
      | some g => g.ctx != ctx
      | none => false)
    draughts := k.draughts.filter (fun d => d.ctx != ctx)
    array := if k.array.owner = some ctx then ArraySt.fresh none else k.array
    vec := if k.array.owner = some ctx then VecSt.fresh else k.vec
    progs := k.progs.filter (fun p => p.ctx != ctx) }

/-- The cellar commands of a context that wait are withdrawn (R205). -/
def CellarSt.dropContext (e : CellarSt) (ctx : Nat) : CellarSt :=
  { e with
    queue := e.queue.filter (fun c => c.ctx != ctx)
    waiting := e.waiting.filter (fun c => c.ctx != ctx)
    fillWaits := e.fillWaits.filter (fun c => c.ctx != ctx) }

/-- The slot, barriers, local store and work of a context are released. -/
def releaseContext (s : State) (ctx : Nat) : State :=
  { s with
    cores := mapValues s.cores (fun _ k => k.dropContext ctx)
    cellars := mapValues s.cellars (fun _ e => e.dropContext ctx)
    ctxs := modify s.ctxs ctx (fun c => { c with
      bars := [], heldCtrs := [], loading := false, saving := false, restoring := false, saved := [], savedCells := [], armed := false }) }

/-- Entry i of a queue's ring: as fetched, else as it lies in memory (R316, R322). -/
def ringEntry (s : State) (_q : Nat) (u : Queue) (i : Word32) : List Byte :=
  match u.fetched.find? (fun f => f.idx == i) with
  | some f => f.entry
  | none => peek s (u.ringBase + i.toNat % 2 ^ u.log2 * 64) 64

/-- n entries of a queue from READ on complete with a status without running (R333). -/
def completeRun (q status : Nat) : Nat → State → State
  | 0, s => s
  | n + 1, s =>
    match find s.queues q with
    | some u => completeRun q status n (leaveHead s q status (ringEntry s q u u.read))
    | none => s

/-- The entries of a lost context's queue that doorbells have had taken complete with LOST, and then those fetched for later
doorbells with REFUSED_LOST (R333). -/
def loseQueue (s : State) (q : Nat) (u : Queue) : State :=
  let n := (u.taken - u.read).toNat
  completeRun q stRefusedLost (u.fetched.length - n) (completeRun q stLost n s)

/-- The submissions of a context that run or are admitted complete: their own fault stands, else LOST (R33, R333). -/
def loseRunning (s : State) (q : Nat) : State :=
  let s := noteStop s q
  match find s.subs q with
  | some u => leaveSubmission (stopWork s q) q u (if u.fault ≠ 0 then u.fault else stLost)
  | none => s

/-- The queues of a context, ascending. -/
def queuesOf (s : State) (ctx : Nat) : List Nat :=
  (s.queues.filter (fun e => e.2.ctx == ctx)).map Prod.fst

/-- Loss of a context for a reason of R332, with every effect of R333 but further losses: those of the stacks whose errors the device's own
writes met on the way stay due. A context that is FREE or already LOST is left as it is. -/
def loseOne (s : State) (ctx reason : Nat) : State :=
  match find s.ctxs ctx with
  | none => s
  | some c =>
    if c.state = .free || c.state = .lost then s
    else
      let s := modCtx s ctx (fun c => { c with state := .lost, reason := reason })
      let s := writeDirectory s ctx
      let s := setReg (orReg s offFeStatus 2) offFeLoss (2 ^ 31 + reason * 2 ^ 16 + ctx)
      let s := if c.fn = 0 then s else orVfEvent s c.fn 1
      let s := sendMsix s 0 2
      let s := if c.fn = 0 then s else sendMsix s c.fn 0
      let qs := queuesOf s ctx
      let holds (k : Core) : Bool := k.array.owner == some ctx || anyValue k.groups (fun _ g => g.ctx == ctx)
      let held := (s.cores.filter (fun e => holds e.2)).map Prod.fst
      let s := qs.foldl loseRunning s
      let s := releaseContext s ctx
      let s := held.foldl (fun s c => clearWhere (askWake s c) c (fun g => g.cond == .ownership)) s
      let s := (s.trans.tokens.filter (fun t => t.ctx == ctx)).foldl withdrawToken s
      let s := retryWaiting (s.withTrans { s.trans with
        noToken := s.trans.noToken.filter (fun w => w.ctx != ctx), given := s.trans.given.filter (fun g => g.entry.ctx != ctx) })
      let s := if c.driverPre then s.withPart { s.part with preBusy := false } else s
      let s := s.withFront { s.front with losses := s.front.losses ++ [ctx] }
      qs.foldl (fun s q => match find s.queues q with
        | some u => loseQueue s q u
        | none => s) s

/-- The contexts whose stack mask has a stack of the list. -/
def contextsOnStacks (s : State) (l : List Nat) : List Nat :=
  (s.ctxs.filter (fun e => l.any (bit e.2.stackMask))).map Prod.fst

/-- The contexts that uncorrectable errors make due are lost with reason 3 (step 4 of R223), until none is due. -/
def loseDue : Nat → State → State
  | 0, s => s.withMem { s.mem with due := [] }
  | n + 1, s =>
    if s.mem.due.isEmpty then s
    else
      let lost := contextsOnStacks s s.mem.due
      loseDue n (lost.foldl (fun s c => loseOne s c 3) (s.withMem { s.mem with due := [] }))

/-- Every loss that is due takes place: a round loses a context or is the last, so that the rounds never run out. -/
def settleDue (s : State) : State := loseDue (s.ctxs.length + 2) s

/-- Loss of a context for a reason of R332 (R333), and of those that errors on the way make due (R223). -/
def loseContext (s : State) (ctx reason : Nat) : State := settleDue (loseOne s ctx reason)

/-- An admitted submission completes with its status and leaves. -/
def finishSubmission (s : State) (q : Nat) (u : Submission) (status : Nat) : State := settleDue (leaveSubmission s q u status)

/-- The entry at READ completes with a status without running (R33, R352). -/
def completeHead (s : State) (q status : Nat) (entry : List Byte) : State := settleDue (leaveHead s q status entry)

end Sys2Proof.Machine
end

