-- ==== Sys2Proof/Machine/Memory.lean ====
section
/-!
DEFINITION. Requests to physical memory as their targets perform them: the context check (R249, R342), absent memory
(R222, R232), poison and what it costs (R217, R220, R223, R235), and the attic's reach (R225 to R227).
-/

namespace Sys2Proof.Machine

/-- A stack goes OFFLINE (R222): step 4 of R223 applies to its contexts. -/
def stackOffline (s : State) (st : Nat) : State :=
  let s := setStack s st { stackSt s st with state := .offline }
  settleDue (s.withMem { s.mem with due := addOnce s.mem.due st })

/-- An uncorrectable error of a 32-byte unit, with all that R223 gives. -/
def stackUncorrectable (s : State) (pa : Nat) : State := settleDue (noteUncorrectable s pa)

/-- A corrected error of a stack (R220). -/
def stackCorrected (s : State) (st : Nat) : State := countHigh (orReg s (offStk st + 4) 2) (offStk st + 4)

/-- A read finds a block of the store room poisoned, or poisons it (R235): reported, and the reading context is lost. -/
def srPoisonHit (s : State) (master pa : Nat) : State :=
  let s := noteBlock s pa
  if master < 4096 then loseContext s master 4 else s

/-- Poison that the device's own read or write met takes its effect on contexts (R223). -/
def devNote (s : State) (pa n : Nat) : State := settleDue (devRead s pa n).2

/-- The address of the unit in which an uncorrectable error of a read of n bytes lies: an event that does not name it leaves it free. -/
def errorUnit (s : State) (pa n : Nat) : Nat × State :=
  let w := freshWord s
  ((pa + w.1 % max n 1) / 32 * 32, w.2)

/-- The submission of a queue, if any, meets a fault. -/
def faultOf (s : State) (q : Option Nat) (status : Nat) : State :=
  match q with
  | some q => failSubmission s q status
  | none => s

/-- A request of a submission meets poison in units of the memory at pa (R223, R235): its submission's fault comes first (R33), and every
unit is reported. -/
def poisonHits (s : State) (master : Nat) (q : Option Nat) (pa : Nat) (units : List Nat) : State :=
  let s := noteUnits (faultOf s q stFaultMemory) pa units
  if (stackOf pa).isSome then settleDue s else if master < 4096 then loseContext s master 4 else settleDue s

/-- A request of a submission meets poison at pa. -/
def poisonHit (s : State) (master : Nat) (q : Option Nat) (pa : Nat) : State := poisonHits s master q pa [pa / unitSize pa]

/-! Header caches of the store room (R233, R346). -/

/-- The partition whose segments hold an address. -/
def partOfSegment (s : State) (pa : Nat) : Nat := ((List.range 16).find? (fun p => segInPart s p (segOf pa))).getD 0

/-- The header line of a block: the entries of 8 blocks that follow one another (R233), as its number in the header range of R213. -/
def headerLine (pa : Nat) : Nat := (pa - srBase) / 4096 / 8

/-- The package whose header cache holds a header line: that of the line's place in the store room (R213, R215; DEDUCED: 16 blocks of one
page move 2 header lines in the example of R234). -/
def headerPkg (line : Nat) : Nat := pkgOf (srEnd + 64 * line)

/-- Store-room segments of all partitions. -/
def srTotal (s : State) : Nat := (List.range 16).foldl (fun n p => n + partSegCount s p) 0

/-- A partition's part of a header cache of 64 KiB, in lines of 64 bytes (R233, R346). -/
def headerPart (s : State) (p : Nat) : Nat := if srTotal s = 0 then 0 else 1024 * partSegCount s p / srTotal s

/-- A header cache, the most recently used line first, in which a partition keeps at most its part (R346). -/
def capHeaders (s : State) (l : List (Nat × Nat)) (p : Nat) : List (Nat × Nat) :=
  let mine := (l.filter (fun e => e.2 == p)).take (headerPart s p)
  l.filter (fun e => e.2 != p || mine.contains e)

/-- The header cache after a block's header is used: the least recently used line of the partition's own part leaves (R233, R346). A
miss is counted. -/
def useHeader (s : State) (pa : Nat) : State :=
  let h := headerLine pa
  let p := headerPkg h
  let k := pkgSt s p
  let o := partOfSegment s pa
  let hit := k.headers.any (fun e => e.1 == h)
  let s := setPkg s p { k with headers := capHeaders s ((h, o) :: k.headers.filter (fun e => e.1 != h)) o }
  if hit then s else countHigh s (offPkg p)

/-- The blocks of the store room that n bytes at pa touch use their headers; a stack has none (R233). -/
def useHeaders (s : State) (pa n : Nat) : State :=
  if (stackOf pa).isSome then s
  else (List.range ((pa + n - 1) / 4096 + 1 - pa / 4096)).foldl (fun s i => useHeader s ((pa / 4096 + i) * 4096)) s

/-! Requests. -/

/-- What a request answers: its data, whether it was performed without a fault, and the state. -/
structure MemOut where
  data : List Byte
  ok   : Bool
  st   : State

/-- A read of n bytes by a master for the submission of a queue (R220, R222, R232, R233, R235, R249, R342). -/
def memRead (s : State) (master : Nat) (q : Option Nat) (pa n : Nat) : MemOut :=
  if !accessOk s master pa n false then ⟨zeroBytes n, false, faultOf s q stFaultAccess⟩
  else if !rangeUp s pa n then ⟨peek s pa n, false, faultOf s q stFaultMemory⟩
  else
    let d := peek s pa n
    let s := useHeaders s pa n
    match poisonedIn s pa n with
    | [] => ⟨d, true, s⟩
    | bad => ⟨d, false, poisonHits s master q pa bad⟩

/-- A write by a master for the submission of a queue (R217, R220, R222, R232, R233, R235, R249, R342). -/
def memWrite (s : State) (master : Nat) (q : Option Nat) (pa : Nat) (b : List Byte) : MemOut :=
  if !accessOk s master pa b.length true then ⟨[], false, faultOf s q stFaultAccess⟩
  else if !rangeUp s pa b.length then ⟨[], false, faultOf (poke s pa b) q stFaultMemory⟩
  else
    let s := useHeaders s pa b.length
    match partlyPoisoned s pa b.length with
    | [] => ⟨[], true, poke s pa b⟩
    | bad => ⟨[], false, poisonHits (poke s pa b) master q pa bad⟩

/-! The attic (R225 to R228). -/

/-- The slices of the partition that owns the line's stack, on the stack's die when it has any there (R226). -/
def homeList (s : State) (pa : Nat) : List Nat :=
  match stackOf pa with
  | none => []
  | some st =>
    match partOfStack s st with
    | none => []
    | some p =>
      let all := bitsSet 16 (partClusters s p)
      let near := all.filter (fun c => c / 8 == dieOfStack st)
      if near.isEmpty then all else near

/-- h of R226. -/
def homeHash (pa : Nat) : Nat := bits pa 16 7 ^^^ bits pa 26 17 ^^^ bits pa 36 27 ^^^ bits pa 43 37

/-- The home slice of a line (R226); none when the partition owns no cluster. -/
def homeSlice (s : State) (pa : Nat) : Option Nat :=
  let l := homeList s pa
  l[homeHash pa % l.length]?

/-- The set of a line in a slice (R226). -/
def atticSet (pa : Nat) : Nat := pa / 128 % 6144

/-! Set-associative caches with tree pseudo-LRU (R145, R225, R247). -/

/-- An empty set of n ways. -/
def CacheSet.empty {α : Type} (n : Nat) : CacheSet α := ⟨0, List.replicate n none⟩

/-- The way whose content satisfies p. -/
def CacheSet.way {α : Type} (c : CacheSet α) (p : α → Bool) : Option Nat :=
  findIdxOpt (fun w => match w with
    | some x => p x
    | none => false) c.ways

/-- The tree after way i of 2^d is used: every node on its path points away from it. Node 0 is the root. -/
def plruTouch : Nat → Nat → Nat → Nat → Nat
  | 0, _, _, tree => tree
  | d + 1, node, i, tree =>
    let right := bit i d
    plruTouch d (2 * node + 1 + bnat right) i (setBit tree node (!right))

/-- The way the tree points at. -/
def plruVictim : Nat → Nat → Nat → Nat → Nat
  | 0, _, acc, _ => acc
  | d + 1, node, acc, tree =>
    let right := bit tree node
    plruVictim d (2 * node + 1 + bnat right) (2 * acc + bnat right) tree

/-- The set after way i is used; it has 2^d ways. -/
def CacheSet.touch {α : Type} (d : Nat) (c : CacheSet α) (i : Nat) : CacheSet α := { c with tree := plruTouch d 0 i c.tree }

/-- The way a new line takes: the first free one, else the tree's choice (DEDUCED: a free way is used first). -/
def CacheSet.victim {α : Type} (d : Nat) (c : CacheSet α) : Nat :=
  match findIdxOpt Option.isNone c.ways with
  | some i => i
  | none => plruVictim d 0 0 c.tree

/-- The set with x placed in way i and used. -/
def CacheSet.place {α : Type} (d : Nat) (c : CacheSet α) (i : Nat) (x : α) : CacheSet α :=
  CacheSet.touch d { c with ways := setAt c.ways i (some x) } i

/-- The set without the contents that satisfy p. -/
def CacheSet.drop {α : Type} (c : CacheSet α) (p : α → Bool) : CacheSet α :=
  { c with ways := c.ways.map (fun w => w.filter (fun x => !p x)) }

/-- The contents of a set. -/
def CacheSet.items {α : Type} (c : CacheSet α) : List α := c.ways.filterMap id

/-- A line in a slice. -/
def atticFind (s : State) (slice pa : Nat) : Option (Nat × AtticLine) :=
  match find (sliceSt s slice).lines (atticSet pa) with
  | none => none
  | some c =>
    match c.way (fun l => l.pa == pa / 128 * 128) with
    | none => none
    | some i => (c.ways[i]?).join.map (fun l => (i, l))

/-- The set of a line. -/
def atticSetOf (s : State) (slice pa : Nat) : CacheSet AtticLine :=
  (find (sliceSt s slice).lines (atticSet pa)).getD (CacheSet.empty 16)

/-- Replace a set of a slice. -/
def setAtticSet (s : State) (slice pa : Nat) (c : CacheSet AtticLine) : State :=
  let k := sliceSt s slice
  setSlice s slice { k with lines := insert k.lines (atticSet pa) c }

/-- A dirty line written back to its stack: whole units (R225, R229). -/
def writeBack (s : State) (l : AtticLine) : State := if l.dirty then poke s l.pa l.data else s

/-- A waiting request of a slice is a store to a line that its context may write. -/
def storesTo (s : State) (pa : Nat) : AtticReq → Bool
  | .line _ _ _ _ _ => false
  | .store _ _ _ e => e.pa / 128 == pa / 128 && accessOk s e.ctx e.pa 128 true

/-- The bytes of a line once the waiting stores to it are merged, in their order. -/
def mergeStores (d : List Byte) (reqs : List AtticReq) : List Byte :=
  reqs.foldl (fun d r => match r with
    | .store _ _ _ e => e.data.foldl (fun d b => setAt d b.1 b.2) d
    | .line _ _ _ _ _ => d) d

/-- The stores that arrive at a slice for a dirty line chosen for eviction are merged into it first (R240). -/
def mergeVictim (s : State) (slice : Nat) (l : AtticLine) : State × AtticLine :=
  if l.dirty then
    let k := sliceSt s slice
    (setSlice s slice { k with reqs := k.reqs.filter (fun r => !storesTo s l.pa r) },
      { l with data := mergeStores l.data (k.reqs.filter (storesTo s l.pa)) })
  else (s, l)

/-- A line placed in a slice; the line it replaces is written back (R225, R240). -/
def atticPlace (s : State) (slice : Nat) (l : AtticLine) : State :=
  let c := atticSetOf s slice l.pa
  let i := c.victim 4
  let s := match (c.ways[i]?).join with
    | some old =>
      let m := mergeVictim s slice old
      writeBack m.1 m.2
    | none => s
  setAtticSet s slice l.pa (c.place 4 i l)

/-- The home slice's copy of a line, filled from memory when it holds none (R225): the slice, the line's bytes and
whether the read met no fault. -/
def atticLine (s : State) (master : Nat) (q : Option Nat) (pa : Nat) : Option Nat × MemOut :=
  let base := pa / 128 * 128
  match homeSlice s base with
  | none => (none, memRead s master q base 128)
  | some slice =>
    match atticFind s slice base with
    | some (i, l) =>
      if accessOk s master base 128 false then
        (some slice, ⟨l.data, true, setAtticSet s slice base ((atticSetOf s slice base).touch 4 i)⟩)
      else (some slice, ⟨zeroBytes 128, false, faultOf s q stFaultAccess⟩)
    | none =>
      let r := memRead s master q base 128
      if r.ok then (some slice, ⟨r.data, true, atticPlace r.st slice ⟨base, false, r.data⟩⟩) else (some slice, r)

/-- n bytes within one line, read through the attic (R211). -/
def atticReadLine (s : State) (master : Nat) (q : Option Nat) (pa n : Nat) : MemOut :=
  let r := atticLine s master q pa
  { r.2 with data := sliceBytes r.2.data (pa % 128) n }

/-- Bytes within one line, written through the attic: write-allocate, merged into the line (R225). -/
def atticWriteLine (s : State) (master : Nat) (q : Option Nat) (pa : Nat) (b : List Byte) : MemOut :=
  if !accessOk s master pa b.length true then ⟨[], false, faultOf s q stFaultAccess⟩
  else
    let r := atticLine s master q pa
    if !r.2.ok then r.2
    else
      match r.1 with
      | none => memWrite r.2.st master q pa b
      | some slice =>
        let s := r.2.st
        let c := atticSetOf s slice pa
        match c.way (fun l => l.pa == pa / 128 * 128) with
        | none => r.2
        | some i =>
          let l : AtticLine := ⟨pa / 128 * 128, true, overlayBytes r.2.data (pa % 128) b⟩
          ⟨[], true, setAtticSet s slice pa (c.place 4 i l)⟩

/-- Pieces of n bytes at a, cut where a multiple of `size` is crossed: address and length. -/
def cutAt (size : Nat) : Nat → Nat → Nat → List (Nat × Nat)
  | 0, _, _ => []
  | fuel + 1, a, n =>
    if n = 0 then []
    else
      let k := min n (size - a % size)
      (a, k) :: cutAt size fuel (a + k) (n - k)

/-- All pieces of a range. -/
def pieces (size a n : Nat) : List (Nat × Nat) := cutAt size (n / size + 2) a n

/-- Physical bytes read through the attic, line by line. -/
def atticRead (s : State) (master : Nat) (q : Option Nat) (pa n : Nat) : MemOut :=
  (pieces 128 pa n).foldl (fun (r : MemOut) p =>
    let x := atticReadLine r.st master q p.1 p.2
    ⟨r.data ++ x.data, r.ok && x.ok, x.st⟩) ⟨[], true, s⟩

/-- Physical bytes written through the attic, line by line. -/
def atticWrite (s : State) (master : Nat) (q : Option Nat) (pa : Nat) (b : List Byte) : MemOut :=
  ((pieces 128 pa b.length).foldl (fun (r : MemOut × List Byte) p =>
    let x := atticWriteLine r.1.st master q p.1 (r.2.take p.2)
    (⟨[], r.1.ok && x.ok, x.st⟩, r.2.drop p.2)) (⟨[], true, s⟩, b)).1

/-- The bytes the spaces agree on at a physical address: the attic's copy where a line is held, else memory. -/
def seenThroughAttic (s : State) (pa n : Nat) : List Byte :=
  ((pieces 128 pa n).map (fun p =>
    match homeSlice s p.1 with
    | none => peek s p.1 p.2
    | some slice =>
      match atticFind s slice p.1 with
      | some (_, l) => sliceBytes l.data (p.1 % 128) p.2
      | none => peek s p.1 p.2)).flatten

end Sys2Proof.Machine
end

