-- ==== Sys2Proof/Machine/Translate.lean ====
section
/-!
DEFINITION. Address translation as operations: table entries and walks (R243 to R246), TLBs (R247), the outcomes of a
translation (R245), fault tokens and records (R250, R251, R256), and invalidation (R257, R258).
-/

namespace Sys2Proof.Machine

/-! Table entries (R244). -/

def leafValid (e : Nat) : Bool := bit e 0
def leafLeaf (e : Nat) : Bool := bit e 1
def leafR (e : Nat) : Bool := bit e 2
def leafW (e : Nat) : Bool := bit e 3
def leafX (e : Nat) : Bool := bit e 4
def leafBulk (e : Nat) : Bool := bit e 5
def leafAttr (e : Nat) : Nat := bits e 7 6
def leafPin (e : Nat) : Bool := bit e 8

/-- The address of an entry: PA[43:16] in its place. -/
def leafAddr (e : Nat) : Nat := bits e 43 16 * 65536

/-- A strict region (R227, R244). -/
def leafStrict (e : Nat) : Bool := leafAttr e == 1

/-- A malformed entry of a level (R244). -/
def entryMalformed (level e : Nat) : Bool :=
  bits e 59 44 != 0 || bits e 15 9 != 0 || (level == 1 && leafLeaf e) || (level == 3 && !leafLeaf e) ||
    if leafLeaf e then
      (level == 2 && bits e 28 16 != 0) || decide (2 ≤ leafAttr e) || ((leafW e || leafX e) && !leafR e) ||
        (leafX e && leafBulk e)
    else bits e 8 2 != 0

/-- A cached-space address (R209, R241). -/
def cachedVa (va : Nat) : Bool := bits va 47 36 == 0

/-- The physical address of a virtual one under a leaf (R241). -/
def leafPa (e : Nat) (block : Bool) (va : Nat) : Nat :=
  if block then bits e 43 29 * 2 ^ 29 + bits va 28 0 else leafAddr e + bits va 15 0

/-- How a translation of one access ends (R245). -/
inductive Outcome where
  | ok (leaf : Nat) (block : Bool)
  | fault (reason level entry : Nat) (block : Bool)
  | status (code : Nat)
  deriving DecidableEq, Repr

/-- The reason code of an access without its permission (R245, R251); ACCESS bits are 0 read, 1 write, 2 fetch. -/
def deniedReason (e acc : Nat) : Option Nat :=
  if bit acc 2 && !leafX e then some 5
  else if bit acc 0 && !leafR e then some 3
  else if bit acc 1 && !leafW e then some 4
  else none

/-- The draught of a station. -/
def draughtAt (s : State) (c d : Nat) : Option Draught := (coreSt s c).draughts.find? (fun x => x.order == d)

/-- CELLAR_STACK of a requester that is a CELLAR station (R45, R245). -/
def cellarStackOf (s : State) (who : Requester) : Option Nat :=
  match who with
  | .station c d st =>
    match draughtAt s c d with
    | some x => if descStation x.desc st = 0x2 then some (fieldLE x.desc 0x48 1) else none
    | none => none
  | _ => none

/-- The checks of R245 on a leaf, in the order of its table. -/
def judgeLeaf (s : State) (who : Requester) (va acc rt level leaf : Nat) (block : Bool) : Outcome :=
  let pa := leafPa leaf block va
  match deniedReason leaf acc with
  | some r => .fault r level leaf block
  | none =>
    if rt ≠ 0 && !leafPin leaf then .fault 6 level leaf block
    else if leafBulk leaf == cachedVa va || (cachedVa va && inStoreRoom pa) || reservedPa pa then .status stFaultAccess
    else
      match cellarStackOf s who with
      | some st => if stackOf pa = some st then .ok leaf block else .status stFaultCommand
      | none => .ok leaf block

/-- How a walk ends before the checks of the access: a leaf, a bad entry, or a table that cannot be read. -/
inductive Chain where
  | leaf (e level : Nat)
  | bad (reason level entry : Nat)
  | unread (status pa : Nat)
  deriving DecidableEq, Repr

/-- The index of an address in the table of a level (R241). -/
def tableIndex (level va : Nat) : Nat :=
  match level with
  | 1 => bits va 47 42
  | 2 => bits va 41 29
  | _ => bits va 28 16

/-- The bits of an address that select a walk-cache entry of a level. -/
def walkIndex (level va : Nat) : Nat := if level = 1 then va / 2 ^ 42 else va / 2 ^ 29

/-- The walk from a table of a level, `left` levels deep (R243 to R245), reading through the stack controllers. -/
def walkFrom (s : State) (ctx va : Nat) : Nat → Nat → Nat → Chain × List (Nat × Nat)
  | 0, level, _ => (.bad 2 level 0, [])
  | left + 1, level, table =>
    let pa := table + 8 * tableIndex level va
    if !accessOk s ctx pa 8 false then (.unread stFaultAccess pa, [])
    else if !memUp s pa || !(poisonedIn s pa 8).isEmpty then (.unread stFaultMemory pa, [])
    else
      let e := ofLE (peek s pa 8)
      if !leafValid e then (.bad 1 level e, [])
      else if entryMalformed level e then (.bad 2 level e, [])
      else if leafLeaf e then (.leaf e level, [])
      else
        let r := walkFrom s ctx va left (level + 1) (leafAddr e)
        (r.1, (level, e) :: r.2)

/-- A walk-cache entry of a context (R247). -/
def walkCached (s : State) (die ctx level va : Nat) : Option Nat :=
  (((find s.trans.walkCache die).getD []).find? (fun w => w.ctx == ctx && w.level == level && w.index == walkIndex level va)).map
    WalkEntry.entry

/-- The walk of an address by a die's walkers: from the deepest cached entry, else from the context's L1 table (R243,
R248). With it, the non-leaf entries it used. -/
def walk (s : State) (die ctx va : Nat) : Chain × List (Nat × Nat) :=
  match walkCached s die ctx 2 va with
  | some e => let r := walkFrom s ctx va 1 3 (leafAddr e); (r.1, (2, e) :: r.2)
  | none =>
    match walkCached s die ctx 1 va with
    | some e => let r := walkFrom s ctx va 2 2 (leafAddr e); (r.1, (1, e) :: r.2)
    | none =>
      match find s.ctxs ctx with
      | some c => walkFrom s ctx va 3 1 c.l1
      | none => (.unread stFaultAccess 0, [])

/-- The outcome of a walk for one access. -/
def judgeChain (s : State) (who : Requester) (va acc rt : Nat) : Chain → Outcome
  | .leaf e level => judgeLeaf s who va acc rt level e (level == 2)
  | .bad r level e => .fault r level e false
  | .unread code _ => .status code

/-! TLBs (R247). -/

/-- An entry translates an address of a context. -/
def tlbHit (ctx va : Nat) (e : TlbEntry) : Bool :=
  e.ctx == ctx && (if e.block then va / 2 ^ 29 == e.page / 2 ^ 29 else va / 65536 == e.page / 65536)

/-- The set of an address in a TLB of 2^k sets, for a page or a block. -/
def tlbSet (k va : Nat) (block : Bool) : Nat := if block then va / 2 ^ 29 % 2 ^ k else va / 65536 % 2 ^ k

/-- The entry of an address in a set-associative TLB, with the TLB after its use. -/
def setLookup (k ctx va : Nat) (t : Assoc (CacheSet TlbEntry)) : Option (TlbEntry × Assoc (CacheSet TlbEntry)) :=
  let look (block : Bool) : Option (TlbEntry × Assoc (CacheSet TlbEntry)) :=
    match find t (tlbSet k va block) with
    | none => none
    | some c =>
      match c.way (fun e => e.block == block && tlbHit ctx va e) with
      | none => none
      | some i => (c.ways[i]?).join.map (fun e => (e, insert t (tlbSet k va block) (c.touch 4 i)))
  match look false with
  | some r => some r
  | none => look true

/-- An entry placed in a set-associative TLB of 2^k sets. -/
def setFill (k : Nat) (e : TlbEntry) (t : Assoc (CacheSet TlbEntry)) : Assoc (CacheSet TlbEntry) :=
  let n := tlbSet k e.page e.block
  let c := ((find t n).getD (CacheSet.empty 16)).drop (fun x => x.block == e.block && tlbHit e.ctx e.page x)
  insert t n (c.place 4 (c.victim 4) e)

/-- The entries of a set-associative TLB that satisfy p leave it. -/
def setDrop (p : TlbEntry → Bool) (t : Assoc (CacheSet TlbEntry)) : Assoc (CacheSet TlbEntry) :=
  mapValues t (fun _ c => c.drop p)

/-- The cluster TLB of a cluster. -/
def clusterTlbOf (s : State) (cl : Nat) : Assoc (CacheSet TlbEntry) := (find s.trans.clusterTlb cl).getD []

/-- A core TLB with an entry used or placed first (R247). -/
def lruPut (e : TlbEntry) (l : List TlbEntry) : List TlbEntry :=
  (e :: l.filter (fun x => !(x.block == e.block && tlbHit e.ctx e.page x))).take 64

/-- An entry placed in a core's TLB. -/
def fillCore (s : State) (c : Nat) (e : TlbEntry) : State :=
  s.withTrans { s.trans with coreTlb := insert s.trans.coreTlb c (lruPut e ((find s.trans.coreTlb c).getD [])) }

/-- An entry placed in a cluster's TLB. -/
def fillCluster (s : State) (cl : Nat) (e : TlbEntry) : State :=
  s.withTrans { s.trans with clusterTlb := insert s.trans.clusterTlb cl (setFill 7 e (clusterTlbOf s cl)) }

/-- An entry placed in the front TLB. -/
def fillFront (s : State) (e : TlbEntry) : State :=
  s.withTrans { s.trans with frontTlb := setFill 5 e s.trans.frontTlb }

/-- A lookup on a core's path, or on the front path (R247, R248). -/
def tlbLookup (s : State) (core : Option Nat) (ctx va : Nat) : Option (TlbEntry × State) :=
  match core with
  | none => (setLookup 5 ctx va s.trans.frontTlb).map (fun r => (r.1, s.withTrans { s.trans with frontTlb := r.2 }))
  | some c =>
    match ((find s.trans.coreTlb c).getD []).find? (tlbHit ctx va) with
    | some e => some (e, fillCore s c e)
    | none =>
      let cl := clusterOf s c
      (setLookup 7 ctx va (clusterTlbOf s cl)).map (fun r =>
        (r.1, fillCore (s.withTrans { s.trans with clusterTlb := insert s.trans.clusterTlb cl r.2 }) c r.1))

/-- The entry of an address leaves every TLB on the path (R247). -/
def tlbDropPath (s : State) (core : Option Nat) (ctx va : Nat) : State :=
  match core with
  | none => s.withTrans { s.trans with frontTlb := setDrop (tlbHit ctx va) s.trans.frontTlb }
  | some c =>
    let cl := clusterOf s c
    s.withTrans { s.trans with
      coreTlb := insert s.trans.coreTlb c (((find s.trans.coreTlb c).getD []).filter (fun e => !tlbHit ctx va e))
      clusterTlb := insert s.trans.clusterTlb cl (setDrop (tlbHit ctx va) (clusterTlbOf s cl)) }

/-- The core whose TLBs a requester uses; none for the front TLB (R242). -/
def coreOfRequester : Requester → Option Nat
  | .lane c _ => some c
  | .fetch c _ => some c
  | .station c _ _ => some c
  | .copy c _ => some c
  | .frontEnd _ => none
  | .ingress _ => none

/-- The die whose walkers serve a requester (R248). -/
def dieOfRequester (s : State) (who : Requester) : Nat :=
  match coreOfRequester who with
  | some c => dieOf s c
  | none => 0

/-- An entry of a walk's translation placed in the TLBs on the requester's path (R248). -/
def fillPath (s : State) (who : Requester) (e : TlbEntry) : State :=
  match coreOfRequester who with
  | some c => fillCore (fillCluster s (clusterOf s c) e) c e
  | none => fillFront s e

/-- A walk-cache entry placed first (R247). -/
def fillWalk (s : State) (die ctx va : Nat) (l : Nat × Nat) : State :=
  let old := (find s.trans.walkCache die).getD []
  let w : WalkEntry := ⟨ctx, l.1, walkIndex l.1 va, l.2⟩
  let kept := old.filter (fun x => !(x.ctx == ctx && x.level == l.1 && x.index == w.index))
  s.withTrans { s.trans with walkCache := insert s.trans.walkCache die ((w :: kept).take 256) }

/-! Misses (R248). -/

/-- Misses that wait, and walks that run, on a die. -/
def missesOf (s : State) (die : Nat) : List Miss := if die = 0 then s.trans.missA else s.trans.missB
def walksOf (s : State) (die : Nat) : List Miss := if die = 0 then s.trans.walksA else s.trans.walksB

/-- Misses that wait at their TLB on a die (R355). -/
def outOf (s : State) (die : Nat) : List Miss := if die = 0 then s.trans.outA else s.trans.outB

/-- Replace them. -/
def setMisses (s : State) (die : Nat) (l : List Miss) : State :=
  s.withTrans (if die = 0 then { s.trans with missA := l } else { s.trans with missB := l })
def setWalks (s : State) (die : Nat) (l : List Miss) : State :=
  s.withTrans (if die = 0 then { s.trans with walksA := l } else { s.trans with walksB := l })
def setOut (s : State) (die : Nat) (l : List Miss) : State :=
  s.withTrans (if die = 0 then { s.trans with outA := l } else { s.trans with outB := l })

/-- A partition may have one more miss that waits for a walker or walks on a die: at most 16 do at once (R355). -/
def missRoom (s : State) (die p : Nat) : Bool :=
  decide ((missesOf s die ++ walksOf s die).countP (fun m => ctxPartition s m.ctx == p) < 16)

/-- Misses that waited at their TLB and have room now join those that wait for a walker, in order of arrival (R248, R355). -/
def enterMisses (s : State) (die : Nat) : State :=
  (outOf s die).foldl (fun s m =>
    if missRoom s die (ctxPartition s m.ctx) then setMisses (setOut s die ((outOf s die).erase m)) die (missesOf s die ++ [m]) else s) s

/-- Every translation under way. -/
def allMisses (s : State) : List Miss :=
  s.trans.missA ++ s.trans.missB ++ s.trans.outA ++ s.trans.outB ++ s.trans.walksA ++ s.trans.walksB

/-- Two addresses lie on one 64 KiB page. -/
def samePage (a b : Nat) : Bool := a / 65536 == b / 65536

/-- A requester has a translation under way. -/
def missing (s : State) (who : Requester) : Bool :=
  (allMisses s).any (fun m => m.reqs.any (fun r => r.who == who)) ||
    s.trans.noToken.any (fun w => w.who == who)

/-- A requester has a translation under way, or is attached to a fault. -/
def attached (s : State) (who : Requester) : Bool :=
  missing s who || s.trans.tokens.any (fun t => t.who.any (fun w => w.1 == who))

/-- A requester's translation of a page is under way for a kind of access. -/
def asked (s : State) (ctx : Nat) (r : MissReq) : Bool :=
  (allMisses s).any (fun m =>
    m.ctx == ctx && m.reqs.any (fun x => x.who == r.who && samePage x.va r.va && x.acc == r.acc))

/-- A miss joins the walk of its context and page, or waits for a walker in order of arrival; beyond 16 of its partition it waits at its TLB
(R248, R355). -/
def addMiss (s : State) (ctx : Nat) (r : MissReq) : State :=
  if asked s ctx r then s
  else
    let s := match coreOfRequester r.who with
      | some c => clusterEvent (coreEvent s c 0x0F (some ctx) 1) (clusterOf s c) 0x43 (some ctx) 1
      | none => s
    let die := dieOfRequester s r.who
    let same (m : Miss) : Bool := m.ctx == ctx && samePage m.va r.va
    if (walksOf s die).any same then
      setWalks s die ((walksOf s die).map (fun m => if same m then { m with reqs := m.reqs ++ [r] } else m))
    else
      let m : Miss := ⟨ctx, r.va, [r], false⟩
      let s := enterMisses s die
      if missRoom s die (ctxPartition s ctx) then setMisses s die (missesOf s die ++ [m]) else setOut s die (outOf s die ++ [m])

/-- The page of a physical address is the source of a move that runs: writes to it stall at translation (R236). -/
def underMove (s : State) (pa : Nat) : Bool := s.mem.moves.any (fun m => m.running && samePage m.src pa)

/-- A translation that a walk gave to this request alone (R257). -/
def givenTo (s : State) (who : Requester) (ctx va : Nat) : Option Given :=
  s.trans.given.find? (fun g => g.who == who && tlbHit ctx va g.entry)

/-- The request has used the translation it was given. -/
def useGiven (s : State) (g : Given) : State := s.withTrans { s.trans with given := s.trans.given.erase g }

/-- The translation of an address that a request finds: the one a walk gave it, else one the TLBs on its path hold (R247, R248, R257). -/
def xlatFound (s : State) (who : Requester) (ctx va : Nat) : Option (TlbEntry × State) :=
  match givenTo s who ctx va with
  | some g => some (g.entry, useGiven s g)
  | none => tlbLookup s (coreOfRequester who) ctx va

/-- 1 for a real-time primary's submission, 2 for a fallback's, 0 else (R245, R251). -/
def rtOf (s : State) (q : Nat) : Nat :=
  match find s.queues q, find s.subs q with
  | some u, some b => if u.cls = 0 then (if b.isFallback then 2 else 1) else 0
  | _, _ => 0

/-- A lookup of one address (R245, R247, R248): the physical address and the leaf of a hit whose checks hold; none is a miss, which waits
for a walk. A hit whose checks fail leaves the TLBs of the path, and the tables are walked again. A write to a page under move waits
(R236). -/
def xlate (s : State) (who : Requester) (ctx va acc q : Nat) : Option (Nat × Nat) × State :=
  let rt := rtOf s q
  let miss (s : State) : Option (Nat × Nat) × State := (none, addMiss s ctx ⟨who, va, acc, rt, q⟩)
  match xlatFound s who ctx va with
  | none => miss s
  | some (e, t) =>
    match judgeLeaf s who va acc rt (if e.block then 2 else 3) e.leaf e.block with
    | .ok leaf block =>
      let pa := leafPa leaf block va
      if bit acc 1 && underMove s pa then (none, s) else (some (pa, leaf), touchStack t ctx pa)
    | _ => miss (tlbDropPath t (coreOfRequester who) ctx va)

/-! Fault tokens (R250, R251, R256). -/

/-- The class of a fault: 0 read, 1 write, 2 fetch (R250). -/
def faultClass (acc : Nat) : Nat := if bit acc 1 then 1 else if bit acc 2 then 2 else 0

/-- The page or block of a fault as one number (R250). -/
def faultPage (va : Nat) (block : Bool) : Nat := if block then 2 * (va / 2 ^ 29) + 1 else 2 * (va / 65536)

/-- A token may be taken: some 1 for a shared one, some 0 for one reserved to the partition (R250). -/
def tokenFor (s : State) (p : Nat) (ingress : Bool) : Option Bool :=
  let mine := s.trans.tokens.countP (fun t => t.partition == p && !t.shared)
  let shared := s.trans.tokens.countP Token.shared
  if !ingress && decide (mine < 8) then some false
  else if shared < 128 then some true
  else none

/-- Whether a requester is fabric ingress. -/
def isIngress : Requester → Bool
  | .ingress _ => true
  | _ => false

/-- UNIT of a requester as the record gives it: group slot, station code of R44, or 0. -/
def unitOf (s : State) (who : Requester) : Nat :=
  match who with
  | .lane _ slot => slot
  | .fetch _ slot => slot
  | .station c d st =>
    match draughtAt s c d with
    | some x => if 8 ≤ st then st - 8 else descStation x.desc st
    | none => 0
  | _ => 0

/-- A fault record (R251). -/
def faultRecord (s : State) (ctx va : Nat) (r : MissReq) (part reason level entry : Nat) (token : Word32) : List Byte :=
  let code := (requesterCode r.who).1
  let cores := match coreOfRequester r.who with
    | some c => (c, pcoreOf s c)
    | none => (0xFFFF, 0xFFFF)
  toLE 8 s.trans.seq.toNat ++ toLE 1 0 ++ toLE 1 reason ++ toLE 1 level ++ toLE 1 code ++ toLE 2 ctx ++ toLE 1 part ++
    toLE 1 r.acc ++ toLE 8 (va % 2 ^ 48) ++ toLE 2 cores.1 ++ toLE 2 cores.2 ++ toLE 1 (unitOf s r.who) ++
    toLE 1 (if r.rt = 1 then 1 else if r.rt = 2 then 2 else 0) ++ zeroBytes 2 ++ toLE 8 s.tick.count.toNat ++
    toLE 8 s.tick.time.toNat ++ toLE 4 token.toNat ++ zeroBytes 4 ++ toLE 8 entry

/-- Tokens to which only requesters of queue q are attached are withdrawn; its requesters leave the others (R256). -/
def withdrawOnly (s : State) (q : Nat) : State :=
  let mine := s.trans.tokens.filter (fun t => !t.who.isEmpty && t.who.all (fun w => w.2 == q))
  let s := mine.foldl withdrawToken s
  retryWaiting (s.withTrans { s.trans with
    tokens := s.trans.tokens.map (fun t => { t with who := t.who.filter (fun w => w.2 != q) }) })

/-- What a fault does to a real-time submission (R38, R39, R256): a primary's abort starts, a fallback ends. -/
def rtFault (s : State) (r : MissReq) : State :=
  match r.rt with
  | 1 => startAbort s r.queue
  | 2 => failSubmission (withdrawOnly s r.queue) r.queue stFaultTranslation
  | _ => s

/-- A CELLAR station that meets a fault translates its whole command again (R254). -/
def restartCell (s : State) (who : Requester) : State :=
  match who with
  | .station c d _ => s.withCellars (mapValues s.cellars (fun _ e => { e with
      waiting := e.waiting.map (fun x => if x.core = some c && x.draught = d then { x with maps := PageMap.empty } else x) }))
  | _ => s

/-- A fault of one requester takes or joins a token, and it stalls; that of a real-time submission has its effect at once, with a token or
without (R38, R39, R250, R256). -/
def takeFault (s : State) (ctx va : Nat) (r : MissReq) (reason level entry : Nat) (block : Bool) : State :=
  let page := faultPage va block
  let cls := faultClass r.acc
  let s := restartCell s r.who
  match s.trans.tokens.find? (fun t => t.ctx == ctx && t.page == page && t.cls == cls) with
  | some t =>
    let s := s.withTrans { s.trans with tokens := s.trans.tokens.map (fun k =>
      if k.token = t.token then { k with who := k.who ++ [(r.who, r.queue)] } else k) }
    rtFault (stallReq s r.who va (some t.token)) r
  | none =>
    let part := ((find s.ctxs ctx).map Context.partition).getD 0
    match tokenFor s part (isIngress r.who) with
    | none =>
      let s := orReg s offFaultStatus 4
      rtFault (s.withTrans { s.trans with noToken := s.trans.noToken ++ [⟨ctx, r.who, r.queue⟩] }) r
    | some shared =>
      let token := s.trans.nextToken
      let t : Token := ⟨token, ctx, part, shared, page, cls, r.acc, va, s.tick.count, if isIngress r.who then [] else [(r.who, r.queue)]⟩
      let rec_ := faultRecord s ctx va r part reason level entry token
      let s := s.withTrans { s.trans with tokens := s.trans.tokens ++ [t], nextToken := token + 1 }
      rtFault (stallReq (queueRecord s rec_) r.who va (some token)) r

/-- A LOAD or RECEIVE works on a tile that the station after it does not need yet (R56, R255). -/
def prefetching (s : State) (who : Requester) : Bool :=
  match who with
  | .station c d 0 =>
    match draughtAt s c d with
    | some x =>
      (descStation x.desc 0 == 0x1 || descStation x.desc 0 == 0x8) && decide (1 < descLen x.desc) &&
        (match x.stations[0]? with
         | some y => y.busy && !y.outs.isEmpty
         | none => false)
    | none => false
  | _ => false

/-- A requester's waiting translations are forgotten. -/
def forgetReq (s : State) (who : Requester) : State :=
  let thin (m : Miss) : Miss := { m with reqs := m.reqs.filter (fun r => r.who != who) }
  s.withTrans { s.trans.thin thin with
    given := s.trans.given.filter (fun g => g.who != who)
    noToken := s.trans.noToken.filter (fun w => w.who != who) }

/-- The prefetch of a tile stops, with the translations it still waits for; the station requests the tile again (R255). -/
def stopPrefetch (s : State) (who : Requester) : State :=
  let s := forgetReq s who
  match who with
  | .station c d st => modCore s c (fun k => { k with draughts := k.draughts.map (fun x =>
      if x.order = d then
        { x with stations := x.stations.modify st (fun y => { y with busy := false, waits := false, parts := [], awaits := 0 }) }
      else x) })
  | _ => s

/-- The request at a port's ingress does not translate: it is refused at the port, unless its fault waits for a token (R250, R254). -/
def refuseIngress (s : State) (who : Requester) : State :=
  match who with
  | .ingress n =>
    if s.trans.noToken.any (fun w => w.who == who) then s
    else s.withPorts (modify s.ports n (fun p => { p with refused := true }))
  | _ => s

/-- An outcome other than a translation reaches its requester (R245, R254, R255). -/
def deliverOutcome (s : State) (ctx va : Nat) (r : MissReq) (o : Outcome) : State :=
  if prefetching s r.who then stopPrefetch s r.who
  else
  match o with
  | .ok _ _ => s
  | .fault reason level entry block => refuseIngress (takeFault s ctx va r reason level entry block) r.who
  | .status code => refuseIngress (failSubmission s r.queue code) r.who

/-- A table read that met poison is an uncorrectable error of its stack (R223), after the submission's own fault. -/
def chainPoison (s : State) : Chain → State
  | .unread code pa =>
    if code = stFaultMemory && memUp s pa then stackUncorrectable s (((poisonedIn s pa 8).head?.getD (pa / 32)) * 32) else s
  | _ => s

/-- The pages of a range that miss are queued for a requester (R248). -/
def askPages (s : State) (who : Requester) (ctx va n acc q : Nat) : State :=
  (pieces 65536 va n).foldl (fun s p =>
    match tlbLookup s (coreOfRequester who) ctx p.1 with
    | some (_, s) => s
    | none => addMiss s ctx ⟨who, p.1, acc, rtOf s q, q⟩) s

/-! Virtual ranges read and written by stations, copies and the front end (R211, R242). -/

/-- One piece of a page, by its space: cached space through the attic unless strict (R211, R227). -/
def pageRead (s : State) (ctx q va pa leaf n : Nat) : MemOut :=
  if cachedVa va && !leafStrict leaf then atticRead s ctx (some q) pa n else memRead s ctx (some q) pa n

/-- One piece of a page written. -/
def pageWrite (s : State) (ctx q va pa leaf : Nat) (b : List Byte) : MemOut :=
  if cachedVa va && !leafStrict leaf then atticWrite s ctx (some q) pa b else memWrite s ctx (some q) pa b

/-- n bytes at a virtual address; not ok when a page stalled or the submission failed. -/
def virtRead (s : State) (who : Requester) (ctx q va n : Nat) : MemOut :=
  (pieces 65536 va n).foldl (fun (r : MemOut) p =>
    if !r.ok then r
    else
      match xlate r.st who ctx p.1 1 q with
      | (some (pa, leaf), s) => let x := pageRead s ctx q p.1 pa leaf p.2; ⟨r.data ++ x.data, x.ok, x.st⟩
      | (none, s) => ⟨r.data, false, s⟩) ⟨[], true, s⟩

/-- Bytes written at a virtual address, page by page: earlier pages stay written (R254). -/
def virtWrite (s : State) (who : Requester) (ctx q va : Nat) (b : List Byte) : MemOut :=
  ((pieces 65536 va b.length).foldl (fun (r : MemOut × List Byte) p =>
    if !r.1.ok then r
    else
      match xlate r.1.st who ctx p.1 2 q with
      | (some (pa, leaf), s) => (pageWrite s ctx q p.1 pa leaf (r.2.take p.2), r.2.drop p.2)
      | (none, s) => (⟨[], false, s⟩, r.2)) (⟨[], true, s⟩, b)).1

/-! Invalidation (R257, R258). -/

/-- Every cached translation of a context that overlaps a range [lo, hi) leaves, or every one by tag; walks that run for
it cache nothing, and commands that are still being translated are translated anew. -/
def invalidate (s : State) (ctx : Nat) (range : Option (Nat × Nat)) : State :=
  let beyond (lo size : Nat) : Bool :=
    match range with
    | none => true
    | some r => decide (r.1 < r.2) && decide (lo < r.2) && decide (r.1 < lo + size)
  let gone (e : TlbEntry) : Bool :=
    e.ctx == ctx && (if e.block then beyond (e.page / 2 ^ 29 * 2 ^ 29) (2 ^ 29) else beyond (e.page / 65536 * 65536) 65536)
  let goneWalk (w : WalkEntry) : Bool :=
    w.ctx == ctx && (if w.level = 1 then beyond (w.index * 2 ^ 42) (2 ^ 42) else beyond (w.index * 2 ^ 29) (2 ^ 29))
  let mark (m : Miss) : Miss := if m.ctx == ctx && beyond (m.va / 65536 * 65536) 65536 then { m with nocache := true } else m
  let again (c : Nat) (m : PageMap) : PageMap :=
    if c == ctx && m.pages.any (fun e => beyond (e.1 * 65536) 65536) then PageMap.empty else m
  { s with
    trans := { s.trans with
      coreTlb := mapValues s.trans.coreTlb (fun _ l => l.filter (fun e => !gone e))
      clusterTlb := mapValues s.trans.clusterTlb (fun _ t => setDrop gone t)
      frontTlb := setDrop gone s.trans.frontTlb
      walkCache := mapValues s.trans.walkCache (fun _ l => l.filter (fun w => !goneWalk w))
      walksA := s.trans.walksA.map mark
      walksB := s.trans.walksB.map mark }
    cellars := mapValues s.cellars (fun _ e => { e with waiting := e.waiting.map (fun c => { c with maps := again c.ctx c.maps }) })
    subs := mapValues s.subs (fun _ u => { u with maps := again u.ctx u.maps }) }

end Sys2Proof.Machine
end

