-- ==== Sys2Proof/Machine/Handles.lean ====
section
/-!
DEFINITION. Handle tables and the uses of a handle (R313, R314, R373).
-/

namespace Sys2Proof.Machine

/-- A handle-table entry, as its 128 bits (R313, R373). -/
abbrev HEntry := Nat

def heKind (e : HEntry) : Nat := bits e 106 104
def heSize (e : HEntry) : Nat := bits e 103 64
def heBase (e : HEntry) : Nat := bits e 47 0
def heR (e : HEntry) : Bool := bit e 110
def heW (e : HEntry) : Bool := bit e 111
def heCbid (e : HEntry) : Nat := bits e 109 107
def hePeer (e : HEntry) : Nat := bits e 117 112
def hePeerCtx (e : HEntry) : Nat := bits e 59 48

/-- A physical range lies in bulk stacked memory of a partition. -/
def inPartStacks (s : State) (p pa n : Nat) : Bool :=
  match stacksOf pa n with
  | some l => l.all (fun st => partOfStack s st == some p)
  | none => false

/-- An entry that breaks the rules of R313 or R373. -/
def heMalformed (s : State) (part : Nat) (e : HEntry) : Bool :=
  let base := heBase e
  let last := base + heSize e - 1
  heSize e == 0 ||
    match heKind e with
    | 1 => bits e 127 112 != 0 || bits e 63 48 != 0 || decide (2 ^ 48 ≤ last) || cachedVa base != cachedVa last
    | 2 => bits e 127 118 != 0 || bits e 109 107 != 0 || bits e 63 60 != 0
    | 3 => bits e 127 112 != 0 || bits e 63 48 != 0 || base % 64 != 0 || decide (heSize e < 16) ||
        decide (65536 < heSize e) || heSize e % 16 != 0 || !inPartStacks s part base (heSize e)
    | _ => true

/-- The address of a handle's entry in a generation of a context's table, when the handle is in range (R313, R314). -/
def handlePa (s : State) (ctx : Nat) (gen : Bool) (h : Nat) : Option Nat :=
  match find s.ctxs ctx with
  | none => none
  | some c =>
    if bits h 31 20 = 0 && 1 ≤ h && h < c.handles then some ((if gen then c.htable1 else c.htable0) + 16 * h) else none

/-- The entry of a handle in a generation of a context's table, when the handle is in range (R314). -/
def handleEntry (s : State) (ctx : Nat) (gen : Bool) (h : Nat) : Option HEntry :=
  (handlePa s ctx gen h).map (fun pa => ofLE (peek s pa 16))

/-- A good use of a handle (R314): its entry; `kinds` are those the use accepts, `r` and `w` the rights it needs. -/
def goodUse (s : State) (ctx : Nat) (gen : Bool) (h : Nat) (kinds : List Nat) (o len : Nat) (r w : Bool) :
    Option HEntry :=
  match handleEntry s ctx gen h with
  | none => none
  | some e =>
    if kinds.contains (heKind e) && !heMalformed s (ctxPartition s ctx) e && decide (o + len ≤ heSize e) &&
        (!r || heR e) && (!w || heW e) then some e
    else none

/-- A use of handles that is not good. One whose entry lies in a poisoned unit, which reads as zero, met an uncorrectable error in the
handle table (R223); any other is a bad use: the submission completes with FAULT_HANDLE and its context is lost with reason 1 (R314,
R332). -/
def badHandle (s : State) (q ctx : Nat) (gen : Bool) (hs : List Nat) : State :=
  match (hs.filterMap (handlePa s ctx gen)).filter (fun pa => !(poisonedIn s pa 16).isEmpty) with
  | [] => loseContext (failSubmission s q stFaultHandle) ctx 1
  | l => l.foldl (fun s pa => poisonHits s ctx (some q) pa (poisonedIn s pa 16)) s

/-- The handle-table generation a submission is bound to (R315). -/
def genOf (s : State) (q ctx : Nat) : Bool :=
  match find s.subs q with
  | some u => u.gen
  | none => ((find s.ctxs ctx).map Context.gen).getD false

end Sys2Proof.Machine
end

