-- ==== Sys2Proof/Machine/Ports.lean ====
section
/-!
DEFINITION. A fabric port as a sender (R369 to R374): packets, credits, the replay buffer, and requests to a peer.
-/

namespace Sys2Proof.Machine

/-! Packet types (R369). -/

def pkWRITE : Nat := 1
def pkREAD : Nat := 2
def pkATOMIC : Nat := 3
def pkACK : Nat := 4
def pkDATA : Nat := 5
def pkRESULT : Nat := 6
def pkNACK : Nat := 7
def pkCREDIT : Nat := 8
def pkRETRY : Nat := 9
def pkINIT : Nat := 10

/-- The virtual channel of a packet type (R369). -/
def pkVc (type : Nat) : Nat :=
  if type = 1 then 0 else if type ≤ 3 then 1 else if type ≤ 7 then 2 else 3

/-- A fabric port. -/
def port (s : State) (n : Nat) : Port := (find s.ports n).getD Port.reset

/-- Set a port. -/
def setPort (s : State) (n : Nat) (p : Port) : State := s.withPorts (insert s.ports n p)

/-- UP (R368). -/
def portUp (s : State) (n : Nat) : Bool := (port s n).state == 2

/-- Bytes of a packet on the wire (R369). -/
def wireBytes (p : Packet) : Nat := 32 + ceilDiv p.payload.length 32 * 32

/-- Credits a packet uses (R371). -/
def packetCredits (p : Packet) : Nat := ceilDiv (wireBytes p) 256

/-- Credits that the sender holds on a channel: the receiver's 64 KiB less what was sent and not freed (R371). -/
def creditsHeld (p : Port) (vc : Nat) : Nat := 256 - (getD 0 p.sent vc - getD 0 p.returned vc)

/-- A request that awaits a response (R372). -/
def isRequest (p : Packet) : Bool := decide (1 ≤ p.type) && decide (p.type ≤ 3)

/-- A packet may leave now (R371, R372). -/
def sendable (p : Port) (x : Packet) : Bool :=
  (x.vc == 3 || decide (packetCredits x ≤ creditsHeld p x.vc)) && (x.vc == 3 || p.state == 2)

/-- The replay buffer keeps the latest packets of 64 KiB (R370). -/
def trimReplay : List Packet → Nat → List Packet
  | [], _ => []
  | x :: t, left => if wireBytes x ≤ left then x :: trimReplay t (left - wireBytes x) else []

/-- A packet leaves: its SEQ, its credits, and its place in the replay buffer (R369 to R371). -/
def sendNow (s : State) (n : Nat) (x : Packet) : State :=
  let p := port s n
  let x : Packet := { x with seq := p.sendSeq % 65536, len := x.payload.length }
  let sent := if x.vc = 3 then p.sent else insert p.sent x.vc (getD 0 p.sent x.vc + packetCredits x)
  emit (setPort s n { p with
    sendSeq := (p.sendSeq + 1) % 65536
    sent := sent
    replay := (trimReplay (x :: p.replay.reverse) 65536).reverse }) (.packet n x)

/-- The next packet that may leave of a port's waiting ones: VC3 first, then VC2, then VC0 and VC1 in turn, each channel
in order (R372). -/
def nextPacket (p : Port) : Option Packet :=
  let head (vc : Nat) : Option Packet := (p.outq.find? (fun x => x.vc == vc)).filter (sendable p)
  let a := if p.turn then 1 else 0
  ([3, 2, a, 1 - a].filterMap head).head?

/-- Waiting packets leave while they can. -/
def pumpPort : Nat → State → Nat → State
  | 0, s, _ => s
  | k + 1, s, n =>
    let p := port s n
    match nextPacket p with
    | none => s
    | some x =>
      let p := { p with outq := p.outq.erase x, turn := if x.vc = 0 then true else if x.vc = 1 then false else p.turn }
      pumpPort k (sendNow (setPort s n p) n x) n

/-- A packet given to a port: it leaves when its channel lets it. -/
def portSend (s : State) (n : Nat) (x : Packet) : State :=
  let p := port s n
  pumpPort (p.outq.length + 1) (setPort s n { p with outq := p.outq ++ [x] }) n

/-- A header with the sender's ring position (R369). -/
def packetOf (s : State) (type ctx tag addr : Nat) : Packet :=
  { type := type, vc := pkVc type, len := 0, seq := 0, src := s.ring.position, aop := 0, ctx := ctx, counter := 0
    tag := tag, addr := addr, arg := 0, payload := [] }

/-- A request that awaits a response goes to a port: its tag, who awaits it, the queue of its submission and a number. -/
def portRequest (s : State) (n : Nat) (who : Requester) (queue aux : Nat) (f : Packet → Packet) (type ctx addr : Nat) :
    State :=
  let p := port s n
  let tag := p.nextTag
  let s := setPort s n { p with nextTag := (tag + 1) % 2 ^ 32, waits := p.waits ++ [(tag, who, queue, aux)] }
  portSend s n (f (packetOf s type ctx tag addr))

/-- A port holds room for k more requests without a response (R372). -/
def portRoom (s : State) (n k : Nat) : Bool := decide ((port s n).waits.length + k ≤ 1024)

/-- A use of a peer window by a context may be made through a port: the port is UP, its peer is the window's, and the
context's row grants the port (R341, R342, R374). -/
def windowPort (s : State) (ctx n : Nat) (e : HEntry) : Bool :=
  portUp s n && (port s n).peer == some (hePeer e) && rowValid (accRow s ctx) && rowPort (accRow s ctx) n

/-- The port of the route to a ring position (0x5001, R374, R391): 255 stands for the lowest-numbered UP port to it. -/
def routeTo (s : State) (pos : Nat) : Nat :=
  let v := obj s 0x5001 (pos + 1)
  if v = 0xFF then ((List.range 16).find? (fun n => portUp s n && (port s n).peer == some pos)).getD 16 else v

/-- Contiguous writes joined, in order (R374). -/
def joinRuns : List (Nat × List Byte) → List (Nat × List Byte)
  | [] => []
  | (a, b) :: t =>
    match joinRuns t with
    | (a', b') :: t' => if a + b.length = a' then (a, b ++ b') :: t' else (a, b) :: (a', b') :: t'
    | [] => [(a, b)]

/-- Runs cut into pieces of at most 4 KiB (R374). -/
def cutRuns (l : List (Nat × List Byte)) : List (Nat × List Byte) :=
  (l.map (fun r => (List.range (ceilDiv r.2.length 4096)).map (fun i =>
    (r.1 + 4096 * i, (r.2.drop (4096 * i)).take 4096)))).flatten

end Sys2Proof.Machine
end

