-- ==== Sys2Proof/Machine/Formats.lean ====
section
/-!
DEFINITION. Number formats (03_number_formats.md): exact values, decoding and encoding of elements, scaling modes, the
single rounding of every conversion, and exact arithmetic with one rounding (R60 to R68, R82, R83, R172).
-/

namespace Sys2Proof.Machine

/-- An exact value: NaN, an infinity, or ±m × 2^e. A zero keeps its sign. -/
inductive Num where
  | nan
  | inf (neg : Bool)
  | fin (neg : Bool) (m : Nat) (e : Int)
  deriving DecidableEq, Repr

/-- The value +0. -/
def Num.zero : Num := .fin false 0 0

/-- An integer as an exact value. -/
def numOfInt (v : Int) : Num := .fin (decide (v < 0)) v.natAbs 0

/-- An integer times a power of two. -/
def numOfScaled (v e : Int) : Num := .fin (decide (v < 0)) v.natAbs e

/-- The value is zero. -/
def Num.isZero : Num → Bool
  | .fin _ m _ => m == 0
  | _ => false

/-- The value is NaN. -/
def Num.isNan : Num → Bool
  | .nan => true
  | _ => false

/-- The value is finite. -/
def Num.isFin : Num → Bool
  | .fin .. => true
  | _ => false

/-- The sign bit of a value that is not NaN. -/
def Num.sign : Num → Bool
  | .nan => false
  | .inf s => s
  | .fin s _ _ => s

/-- floor(log2 |v|) of a nonzero finite value. -/
def Num.lg : Num → Int
  | .fin _ m e => (Nat.log2 m : Int) + e
  | _ => 0

/-- The magnitude (R67, R68). -/
def Num.abs : Num → Num
  | .nan => .nan
  | .inf _ => .inf false
  | .fin _ m e => .fin false m e

/-- The negated value. -/
def Num.neg : Num → Num
  | .nan => .nan
  | .inf s => .inf (!s)
  | .fin s m e => .fin (!s) m e

/-- m × 2^e as an integer, for e ≥ 0. -/
def shiftUp (m : Int) (e : Int) : Int := m * (2 ^ e.toNat : Nat)

/-- The signed integer of ±m. -/
def signedMag (s : Bool) (m : Nat) : Int := if s then -(m : Int) else m

/-- Product, exact; inf × 0 is NaN (R172). -/
def mulNum : Num → Num → Num
  | .nan, _ => .nan
  | _, .nan => .nan
  | .inf s, .inf t => .inf (s != t)
  | .inf s, .fin t m _ => if m = 0 then .nan else .inf (s != t)
  | .fin s m _, .inf t => if m = 0 then .nan else .inf (s != t)
  | .fin s m e, .fin t n f => .fin (s != t) (m * n) (e + f)

/-- Sum, exact; inf − inf is NaN; a zero sum of nonzero or unlike zeros is +0 (R172). -/
def addNum : Num → Num → Num
  | .nan, _ => .nan
  | _, .nan => .nan
  | .inf s, .inf t => if s = t then .inf s else .nan
  | .inf s, .fin .. => .inf s
  | .fin .., .inf t => .inf t
  | .fin s m e, .fin t n f =>
    if m = 0 && n = 0 then .fin (s && t) 0 0
    else
      let l := min e f
      let v := shiftUp (signedMag s m) (e - l) + shiftUp (signedMag t n) (f - l)
      numOfScaled v l

/-- a − b. -/
def subNum (a b : Num) : Num := addNum a b.neg

/-- a × b + c, exact: one rounding follows. -/
def fmaNum (a b c : Num) : Num := addNum (mulNum a b) c

/-- a < b, for values that are not NaN. -/
def ltNum : Num → Num → Bool
  | .nan, _ => false
  | _, .nan => false
  | .inf s, .inf t => s && !t
  | .inf s, .fin .. => s
  | .fin .., .inf t => !t
  | .fin s m e, .fin t n f =>
    let l := min e f
    decide (shiftUp (signedMag s m) (e - l) < shiftUp (signedMag t n) (f - l))

/-- a = b as numbers, for values that are not NaN (−0 = +0). -/
def eqNum (a b : Num) : Bool := !a.isNan && !b.isNan && !ltNum a b && !ltNum b a

/-- min(a, b): NaN with a NaN operand, −0 below +0 (R172). -/
def minNum (a b : Num) : Num :=
  if a.isNan || b.isNan then .nan
  else if ltNum a b then a else if ltNum b a then b else if a.sign then a else b

/-- max(a, b): NaN with a NaN operand, +0 above −0 (R172). -/
def maxNum (a b : Num) : Num :=
  if a.isNan || b.isNan then .nan
  else if ltNum a b then b else if ltNum b a then a else if a.sign then b else a

/-- Extra bits of a quotient or root kept before its rounding, above the widest significand. -/
def guardBits : Nat := 140

/-- a ÷ b to more bits than any format holds, with a sticky last bit: its rounding is the rounding of the quotient
(R172: x ÷ ±0 is ±inf, 0 ÷ 0 and inf ÷ inf are NaN). -/
def divNum : Num → Num → Num
  | .nan, _ => .nan
  | _, .nan => .nan
  | .inf _, .inf _ => .nan
  | .inf s, .fin t _ _ => .inf (s != t)
  | .fin s _ _, .inf t => .fin (s != t) 0 0
  | .fin s m e, .fin t n f =>
    if n = 0 then (if m = 0 then .nan else .inf (s != t))
    else if m = 0 then .fin (s != t) 0 0
    else
      let k := guardBits + Nat.log2 n
      let q := (m <<< k) / n
      let sticky := if (m <<< k) % n = 0 then 0 else 1
      .fin (s != t) (2 * q + sticky) (e - f - k - 1)

/-- The integer square root by trial of bits i − 1 down to 0 above r. -/
def isqrtFrom : Nat → Nat → Nat → Nat
  | 0, _, r => r
  | i + 1, n, r => if (r + 2 ^ i) * (r + 2 ^ i) ≤ n then isqrtFrom i n (r + 2 ^ i) else isqrtFrom i n r

/-- The integer square root. -/
def isqrt (n : Nat) : Nat := isqrtFrom (Nat.log2 n / 2 + 1) n 0

/-- √a with a sticky last bit (R172: √(−0) is −0, √x below zero is NaN). -/
def sqrtNum : Num → Num
  | .nan => .nan
  | .inf s => if s then .nan else .inf false
  | .fin s m e =>
    if m = 0 then .fin s 0 0
    else if s then .nan
    else
      let k := 2 * guardBits
      let k := if (e - k) % 2 = 0 then k else k + 1
      let n := m <<< k
      let r := isqrt n
      let sticky := if r * r = n then 0 else 1
      .fin false (2 * r + sticky) ((e - k) / 2 - 1)

/-- |v| = m × 2^e rounded to an integer, to nearest, ties to even. -/
def roundNat (m : Nat) (e : Int) : Nat :=
  if 0 ≤ e then m <<< e.toNat
  else
    let k := (-e).toNat
    let q := m >>> k
    let r := m % 2 ^ k
    if 2 * r < 2 ^ k then q
    else if 2 ^ k < 2 * r then q + 1
    else if q % 2 = 0 then q else q + 1

/-- A floating format (R61): widths and bias; `ieee` 2 has infinities and NaN, 1 only NaN at all ones, 0 neither. -/
structure FloatFmt where
  ebits : Nat
  mbits : Nat
  bias  : Nat
  ieee  : Nat
  deriving DecidableEq, Repr

/-- The floating formats of R61 by element code. -/
def floatFmt : Nat → Option FloatFmt
  | 0x00 => some ⟨11, 52, 1023, 2⟩
  | 0x01 => some ⟨8, 23, 127, 2⟩
  | 0x02 => some ⟨8, 7, 127, 2⟩
  | 0x03 => some ⟨5, 10, 15, 2⟩
  | 0x04 => some ⟨4, 3, 7, 1⟩
  | 0x05 => some ⟨5, 2, 15, 2⟩
  | 0x06 => some ⟨3, 2, 3, 0⟩
  | 0x07 => some ⟨2, 3, 1, 0⟩
  | 0x08 => some ⟨2, 1, 1, 0⟩
  | _ => none

/-- The widths of the two's-complement formats of R61 by element code. -/
def intFmt : Nat → Option Nat
  | 0x09 => some 32
  | 0x0A => some 16
  | 0x0B => some 8
  | 0x0C => some 4
  | 0x0D => some 2
  | _ => none

/-- The element format of a format code (R60). -/
def elemOf (code : Nat) : Nat := bits code 4 0

/-- The scaling mode of a format code (R60). -/
def modeOf (code : Nat) : Nat := bits code 6 5

/-- Format codes this file names. -/
def fmtFP64 : Nat := 0x00
def fmtFP32 : Nat := 0x01
def fmtBF16 : Nat := 0x02
def fmtFP16 : Nat := 0x03
def fmtE4M3 : Nat := 0x04
def fmtINT32 : Nat := 0x09
def fmtINT2 : Nat := 0x0D
def fmtTernary : Nat := 0x0E
def fmtBinary : Nat := 0x0F
def fmtCB2 : Nat := 0x10
def fmtACC48 : Nat := 0x11
def fmtACC96 : Nat := 0x12

/-- The stored width of an element in bits; ternary in its array form, two bits (R61, R63, R96). -/
def elemBits (el : Nat) : Nat :=
  match el with
  | 0x00 => 64
  | 0x01 => 32
  | 0x02 => 16
  | 0x03 => 16
  | 0x04 => 8
  | 0x05 => 8
  | 0x06 => 6
  | 0x07 => 6
  | 0x08 => 4
  | 0x09 => 32
  | 0x0A => 16
  | 0x0B => 8
  | 0x0C => 4
  | 0x0D => 2
  | 0x0E => 2
  | 0x0F => 1
  | 0x10 => 8
  | 0x11 => 64
  | 0x12 => 128
  | _ => 0

/-- A format code that is not reserved (R60, R65). -/
def fmtOk (code : Nat) : Bool :=
  let el := elemOf code
  decide (code < 0x80) && decide (el ≤ 0x12) &&
    match modeOf code with
    | 0 => true
    | 1 => decide (0x04 ≤ el && el ≤ 0x08) || decide (0x0B ≤ el && el ≤ 0x0F)
    | 2 => decide (0x04 ≤ el && el ≤ 0x08)
    | _ => el == 0x0B || el == 0x0C

/-- A two's-complement element format, ternary among them (R70). -/
def isTwos (el : Nat) : Bool := decide (0x09 ≤ el && el ≤ 0x0E)

/-- A raw accumulator format (R61). -/
def isRaw (el : Nat) : Bool := el == 0x11 || el == 0x12

/-- The value of a floating code (R61). -/
def decodeFloat (f : FloatFmt) (c : Nat) : Num :=
  let mant := bits c (f.mbits - 1) 0
  let ex := bits c (f.mbits + f.ebits - 1) f.mbits
  let s := bit c (f.mbits + f.ebits)
  let top := 2 ^ f.ebits - 1
  if f.ieee = 2 && ex = top then (if mant = 0 then .inf s else .nan)
  else if f.ieee = 1 && ex = top && mant = 2 ^ f.mbits - 1 then .nan
  else if ex = 0 then .fin s mant (1 - (f.bias : Int) - f.mbits)
  else .fin s (mant + 2 ^ f.mbits) ((ex : Int) - f.bias - f.mbits)

/-- The code of the largest finite magnitude (R61). -/
def maxFloatCode (f : FloatFmt) : Nat :=
  let all := 2 ^ (f.ebits + f.mbits) - 1
  match f.ieee with
  | 2 => (2 ^ f.ebits - 1) * 2 ^ f.mbits - 1
  | 1 => all - 1
  | _ => all

/-- The code of a magnitude rounded to nearest, ties to even, without a limit. -/
def roundFloatCode (f : FloatFmt) (m : Nat) (e : Int) : Nat :=
  if m = 0 then 0
  else
    let emin := 1 - (f.bias : Int) - f.mbits
    let lsb := max ((Nat.log2 m : Int) + e - f.mbits) emin
    roundNat m (e - lsb) + (lsb - emin).toNat * 2 ^ f.mbits

/-- Conversion to a floating format (R82); `sat` saturates to the largest finite value. -/
def encodeFloat (f : FloatFmt) (sat : Bool) (x : Num) : Nat :=
  let sbit (s : Bool) := if s then 2 ^ (f.ebits + f.mbits) else 0
  let big := if f.ieee = 2 && !sat then (2 ^ f.ebits - 1) * 2 ^ f.mbits else maxFloatCode f
  match x with
  | .nan =>
    match f.ieee with
    | 2 => (2 ^ f.ebits - 1) * 2 ^ f.mbits + 2 ^ (f.mbits - 1)
    | 1 => 2 ^ (f.ebits + f.mbits) - 1
    | _ => 0
  | .inf s => sbit s + big
  | .fin s m e =>
    let c := roundFloatCode f m e
    sbit s + (if maxFloatCode f < c then big else c)

/-- A value rounded to an integer, to nearest, ties to even. -/
def roundInt : Num → Int
  | .fin s m e => signedMag s (roundNat m e)
  | _ => 0

/-- Conversion to a two's-complement format of n bits: saturated; NaN gives 0 (R82). -/
def encodeInt (n : Nat) (x : Num) : Nat :=
  let lo : Int := -(2 ^ (n - 1) : Nat)
  let hi : Int := (2 ^ (n - 1) : Nat) - 1
  match x with
  | .nan => 0
  | .inf s => twos n (if s then lo else hi)
  | .fin .. => twos n (clampInt lo hi (roundInt x))

/-- The value of an element code in a format of mode 0b00 other than CB2 and the raw formats (R61, R63). -/
def decodeElem (el c : Nat) : Num :=
  match floatFmt el with
  | some f => decodeFloat f c
  | none =>
    match intFmt el with
    | some n => numOfInt (signedOf n c)
    | none =>
      if el = 0x0E then numOfInt (signedOf 2 c)
      else if el = 0x0F then .fin (bit c 0) 1 0
      else .nan

/-- The one rounding of a value to an unscaled format, as an element code (R82). -/
def encodeElem (el : Nat) (x : Num) : Nat :=
  match floatFmt el with
  | some f => encodeFloat f false x
  | none =>
    match intFmt el with
    | some n => encodeInt n x
    | none => 0

/-- FP6 E2M3, FP6 E3M2 and FP4 without a scale, ternary, binary and CB2 are no conversion targets (R82). -/
def isTarget (code : Nat) : Bool :=
  let el := elemOf code
  fmtOk code && !(el == 0x0E || el == 0x0F || el == 0x10) &&
    !(modeOf code == 0 && decide (0x06 ≤ el && el ≤ 0x08))

/-- The digits of a ternary byte; a byte from 243 on is five zeros (R63). -/
def ternaryDigits (b : Nat) : List Nat :=
  if 243 ≤ b then [0, 0, 0, 0, 0]
  else [b % 3, b / 3 % 3, b / 9 % 3, b / 27 % 3, b / 81 % 3]

/-- A ternary digit as an element of INT2: 0, +1, −1 (R63). -/
def digitCode (d : Nat) : Nat := if d = 2 then 3 else d

/-- An INT2 code as a ternary digit; −2 has none and is written as −1 (R63). -/
def codeDigit (c : Nat) : Nat := if c = 1 then 1 else if c = 0 then 0 else 2

/-- n ternary elements from bytes of five digits, as INT2 codes. -/
def ternaryCodes (b : List Byte) (n : Nat) : List Nat :=
  (((b.map (fun (x : Byte) => (ternaryDigits x.toNat).map digitCode)).flatten) ++ List.replicate n 0).take n

/-- A ternary byte of up to five digits. -/
def ternaryByte (ds : List Nat) : Byte := BitVec.ofNat 8 (ds.foldr (fun d acc => d + 3 * acc) 0)

/-- Groups of n elements of a list, the last one shorter; `fuel` bounds the number of groups. -/
def chunksOf {α : Type} (n : Nat) : Nat → List α → List (List α)
  | 0, _ => []
  | _ + 1, [] => []
  | fuel + 1, l => l.take n :: chunksOf n fuel (l.drop n)

/-- The elements of a little-endian bit string (R62): element i is bits [w(i+1)−1 : wi]. -/
def unpackBits (w n : Nat) (b : List Byte) : List Nat :=
  let v := ofLE b
  (List.range n).map (fun i => (v >>> (w * i)) % 2 ^ w)

/-- The little-endian bit string of elements of w bits, in whole bytes (R62). -/
def packBits (w : Nat) (cs : List Nat) : List Byte :=
  toLE (ceilDiv (w * cs.length) 8) (cs.foldr (fun c acc => c % 2 ^ w + 2 ^ w * acc) 0)

/-- The decoded value of an E8M0 scale as an exponent; none for 0xFF, which is NaN (R68). -/
def e8m0 (s : Nat) : Option Int := if s = 0xFF then none else some ((s : Int) - 127)

/-- The exponent correction of an MX INT8 element (R65). -/
def mxBias (el : Nat) : Int := if el = 0x0B then -6 else 0

/-- A stored element with its scale: its operand value without the tensor scale, and the exponent of the step of an
integer element held unchanged (R70). -/
structure Elt where
  v    : Num
  step : Int
  deriving DecidableEq, Repr

/-- Codes of one run with the scale of its block applied (R65, R68). -/
def scaleMx (el s : Nat) (cs : List Nat) : List Elt :=
  match e8m0 s with
  | none => cs.map (fun _ => ⟨.nan, 0⟩)
  | some x => cs.map (fun c => ⟨mulNum (decodeElem el c) (.fin false 1 (x + mxBias el)), x + mxBias el⟩)

/-- Codes of 16 elements with an E4M3 block scale (R65, R68): its sign is ignored. -/
def scaleFine (el s : Nat) (cs : List Nat) : List Elt :=
  let k := (decodeElem fmtE4M3 s).abs
  cs.map (fun c => ⟨if k.isZero then .zero else mulNum (decodeElem el c) k, 0⟩)

/-- Codes of a run with an FP16 scale (R65, R68, R199). -/
def scaleKv (el s : Nat) (cs : List Nat) : List Elt :=
  match (decodeElem fmtFP16 s).abs with
  | .fin _ m e => cs.map (fun c => ⟨if m = 0 then .zero else mulNum (decodeElem el c) (.fin false m e), e⟩)
  | _ => cs.map (fun _ => ⟨.nan, 0⟩)

/-- Unscaled codes. -/
def unscaled (el : Nat) (cs : List Nat) : List Elt := cs.map (fun c => ⟨decodeElem el c, 0⟩)

/-- Bytes of the elements of a whole run of 32 (R66). -/
def runElemBytes (el : Nat) : Nat := if el = 0x0E then 7 else 4 * elemBits el

/-- Bytes of the scales of a run of 32 (R66). -/
def runScaleBytes (mode : Nat) : Nat :=
  match mode with
  | 1 => 1
  | 2 => 2
  | 3 => 2
  | _ => 0

/-- The codes of a run of 32 elements at the head of a byte string (R62, R66). -/
def runCodes (el : Nat) (b : List Byte) : List Nat :=
  if el = 0x0E then ternaryCodes (b.take 7) 32 else unpackBits (elemBits el) 32 (b.take (4 * elemBits el))

/-- A run of 32 elements with its scales, in layout 0x3 or 0x4 (R66). -/
def decodeRun (code : Nat) (b : List Byte) : List Elt :=
  let el := elemOf code
  let cs := runCodes el b
  let sc := b.drop (runElemBytes el)
  match modeOf code with
  | 1 => scaleMx el (fieldLE sc 0 1) cs
  | 2 => scaleFine el (fieldLE sc 0 1) (cs.take 16) ++ scaleFine el (fieldLE sc 1 1) (cs.drop 16)
  | 3 => scaleKv el (fieldLE sc 0 2) cs
  | _ => unscaled el cs

/-- Bytes of one row of n elements as stored in layout 0x0 (unscaled) or 0x3 and 0x4 (R62, R66). -/
def rowBytes (code layout n : Nat) : Nat :=
  let el := elemOf code
  if el = 0x10 then ceilDiv n 32 * 9
  else if modeOf code = 0 then
    if el = 0x0E then ceilDiv n 5 else ceilDiv (n * elemBits el) 8
  else if layout = 0x3 || layout = 0x4 then ceilDiv n 32 * (runElemBytes el + runScaleBytes (modeOf code))
  else ceilDiv (n * elemBits el) 8

/-- A codebook's eight E4M3 codes for an index: the bytes at 8 × index of its image (R64). -/
abbrev Codebook8 := Nat → List Byte

/-- The elements of a row of n elements from its bytes (R62 to R66). CB2 indices are looked up in `cb`. -/
def decodeRow (code : Nat) (cb : Codebook8) (n : Nat) (b : List Byte) : List Elt :=
  let el := elemOf code
  if el = 0x10 then
    ((chunksOf 9 (ceilDiv n 32) b).map (fun u =>
      let cs := ((List.range 4).map (fun g => (cb (fieldLE u (2 * g) 2)).map BitVec.toNat)).flatten
      scaleMx fmtE4M3 (fieldLE u 8 1) cs)).flatten.take n
  else if modeOf code = 0 then
    if el = 0x0E then unscaled el (ternaryCodes b n)
    else unscaled el (unpackBits (elemBits el) n (b.take (ceilDiv (n * elemBits el) 8)))
  else
    let u := runElemBytes el + runScaleBytes (modeOf code)
    ((chunksOf u (ceilDiv n 32) (b.take (u * ceilDiv n 32))).map (decodeRun code)).flatten.take n

/-- The largest finite magnitude of a list; +0 when none is nonzero. -/
def maxMag (vs : List Num) : Num :=
  vs.foldl (fun m v => if v.isFin && ltNum m v.abs then v.abs else m) .zero

/-- A value of the list is not finite. -/
def anySpecial (vs : List Num) : Bool := vs.any (fun v => !v.isFin)

/-- emax of R83 by element code. -/
def mxEmax : Nat → Int
  | 0x04 => 8
  | 0x05 => 15
  | 0x06 => 4
  | 0x07 => 2
  | 0x08 => 2
  | 0x0C => 2
  | _ => 0

/-- An element of a scaled format: rounded once and saturated (R82, R83). -/
def encodeScaled (el : Nat) (x : Num) : Nat :=
  match floatFmt el with
  | some f => encodeFloat f true x
  | none =>
    match intFmt el with
    | some n => encodeInt n x
    | none => 0

/-- MX encoding of a run: the scale byte and the element codes (R83). An infinite or NaN value makes the scale 0xFF; its
elements are written as zero (DEDUCED, log entry 12). -/
def encodeMx (el : Nat) (vs : List Num) : Nat × List Nat :=
  if anySpecial vs then (0xFF, vs.map (fun _ => 0))
  else
    let m := maxMag vs
    if m.isZero then (0, vs.map (fun _ => 0))
    else
      let x := clampInt (-127) 127 (m.lg - mxEmax el)
      ((x + 127).toNat, vs.map (fun v => encodeScaled el (mulNum v (.fin false 1 (-(x + mxBias el))))))

/-- The smallest E4M3 code at or above a positive value, limited to 448 (R83): codes rise with values. -/
def e4m3AtLeast (x : Num) : Nat :=
  ((List.range 0x7F).find? (fun c => !ltNum (decodeElem fmtE4M3 c) x)).getD 0x7E

/-- Fine encoding of a block of 16 with the tensor scale's magnitude t (R67, R83). -/
def encodeFine (el : Nat) (t : Num) (vs : List Num) : Nat × List Nat :=
  if t.isZero then (0, vs.map (fun _ => 0))
  else if !t.isFin || anySpecial vs then (0x7F, vs.map (fun _ => 0))
  else if (maxMag vs).isZero then (0, vs.map (fun _ => 0))
  else
    match floatFmt el with
    | none => (0, vs.map (fun _ => 0))
    | some f =>
      let largest := decodeFloat f (maxFloatCode f)
      let s := e4m3AtLeast (divNum (maxMag vs) (mulNum t largest))
      let d := mulNum (decodeElem fmtE4M3 s) t
      (s, vs.map (fun v => if d.isZero then 0 else encodeScaled el (divNum v d)))

/-- The FP16 code of a positive value rounded towards zero, at most 65,504 (R198). -/
def fp16Down (x : Num) : Nat :=
  match x with
  | .fin _ m e =>
    if m = 0 then 0
    else
      let lsb := max ((Nat.log2 m : Int) + e - 10) (-24)
      let q := if 0 ≤ e - lsb then m <<< (e - lsb).toNat else m >>> (lsb - e).toNat
      min (q + (lsb + 24).toNat * 1024) 0x7BFF
  | _ => 0x7BFF

/-- KV encoding of a run (R198): the FP16 scale and the element codes. -/
def encodeKv (el : Nat) (vs : List Num) : Nat × List Nat :=
  let lim : Int := if el = 0x0C then 7 else 127
  let w := if el = 0x0C then 4 else 8
  if anySpecial vs then (0x7E00, vs.map (fun _ => 0))
  else
    let s := fp16Down (divNum (maxMag vs) (numOfInt lim))
    let k := decodeElem fmtFP16 s
    (s, vs.map (fun v => if k.isZero then 0 else twos w (clampInt (-lim) lim (roundInt (divNum v k)))))

/-- A run of 32 values encoded with its scales (R66, R83, R198); t is the tensor scale's magnitude. -/
def encodeRun (code : Nat) (t : Num) (vs : List Num) : List Byte :=
  let el := elemOf code
  let w := elemBits el
  match modeOf code with
  | 1 => let r := encodeMx el vs; packBits w r.2 ++ toLE 1 r.1
  | 2 =>
    let lo := encodeFine el t (vs.take 16)
    let hi := encodeFine el t (vs.drop 16)
    packBits w (lo.2 ++ hi.2) ++ toLE 1 lo.1 ++ toLE 1 hi.1
  | 3 => let r := encodeKv el vs; packBits w r.2 ++ toLE 2 r.1
  | _ => packBits w (vs.map (encodeElem el))

/-- A run padded with zeros to 32 (R66). -/
def padRun (vs : List Num) : List Num := vs ++ List.replicate (32 - vs.length) Num.zero

/-- A row of values encoded in a format that is a conversion target (R82, R83). -/
def encodeRow (code : Nat) (t : Num) (vs : List Num) : List Byte :=
  if modeOf code = 0 then packBits (elemBits (elemOf code)) (vs.map (encodeElem (elemOf code)))
  else ((chunksOf 32 (ceilDiv vs.length 32) vs).map (fun r => encodeRun code t (padRun r))).flatten

/-- The magnitude of a tensor scale given as FP32 bits (R67). -/
def tensorMag (t : Nat) : Num := (decodeElem fmtFP32 t).abs

/-- An element with the tensor scale of a fine-mode tensor applied; a non-finite scale makes it NaN (R65, R67). -/
def applyTensor (code t : Nat) (v : Num) : Num :=
  if modeOf code = 2 then (if (tensorMag t).isFin then mulNum v (tensorMag t) else .nan) else v

/-- FP32 bits of 1.0. -/
def one32 : Nat := 0x3F800000

/-- FP64 bits of 1.0. -/
def one64 : Nat := 0x3FF0000000000000

end Sys2Proof.Machine
end

