-- ==== Sys2Proof/Machine/Exact.lean ====
section
/-!
DEFINITION. Alignment to a budget, bands, the accumulator entry, and its conversion (R69 to R88, R91, R92).
-/

namespace Sys2Proof.Machine

/-- The kind of an element for the special states (R80), as `Block.kind` codes it. -/
def kindOf : Num → Nat
  | .nan => 4
  | .inf s => if s then 3 else 2
  | .fin s m _ => if m = 0 then 1 else if s then 5 else 0

/-- The value is finite and not zero. -/
def usable (v : Num) : Bool := v.isFin && !v.isZero

/-- The block exponent (R70): the largest floor(log2 |v|) over nonzero finite elements. -/
def blockExp : List Num → Option Int
  | [] => none
  | v :: t =>
    if usable v then
      match blockExp t with
      | some e => some (max e v.lg)
      | none => some v.lg
    else blockExp t

/-- Elements aligned to n magnitude bits at block exponent e (R70): |v| ÷ 2^(e+1−n), to nearest, ties to even, signed. -/
def alignAt (n : Nat) (e : Int) (vs : List Num) : Int × List Int :=
  let q := e + 1 - n
  (q, vs.map (fun v =>
    match v with
    | .fin s m x => signedMag s (roundNat m (x - q))
    | _ => 0))

/-- The alignment of R70 at n magnitude bits from block exponent e: raised once if an element rounds to 2^n. -/
def alignFrom (n : Nat) (e : Int) (vs : List Num) : Int × List Int :=
  let r := alignAt n e vs
  if r.2.any (fun i => i.natAbs == 2 ^ n) then alignAt n (e + 1) vs else r

/-- One alignment block from its elements, at n magnitude bits. A block with no nonzero finite element is zero. -/
def alignBlock (n : Nat) (vs : List Num) : Block :=
  match blockExp vs with
  | none => ⟨0, vs.map (fun _ => 0), vs.map kindOf⟩
  | some e => let r := alignFrom n e vs; ⟨r.1, r.2, vs.map kindOf⟩

/-- A block held exactly at its scale's step (R70, R71): v ÷ 2^step is an integer. Where the elements do not share one
scale the step is the least of theirs (log entry 23). -/
def exactBlock (es : List Elt) : Block :=
  let step := (es.map Elt.step).foldl min (((es.head?).map Elt.step).getD 0)
  ⟨step, es.map (fun x =>
    match x.v with
    | .fin s m e => signedMag s (roundNat m (e - step))
    | _ => 0), es.map (fun x => kindOf x.v)⟩

/-- The width of a two's-complement element format; ternary counts two (R70). -/
def twosWidth (el : Nat) : Nat := elemBits el

/-- A weight block at P planes (R70). -/
def alignWeights (el p : Nat) (es : List Elt) : Block :=
  if isTwos el then
    if twosWidth el ≤ p then exactBlock es else alignBlock (p - 1) (es.map Elt.v)
  else alignBlock p (es.map Elt.v)

/-- An activation block at S slices (R71). -/
def alignActs (el s : Nat) (es : List Elt) : Block :=
  if isTwos el && decide (twosWidth el ≤ 8 * s) then exactBlock es
  else alignBlock (8 * s - 1) (es.map Elt.v)

/-- The band of an element under R87, from 0 to 3, in a block of exponent e. -/
def bandOf (e : Int) (v : Num) : Nat := min 3 ((e - v.lg) / 11).toNat

/-- How many bands a block takes (R87); a block with no nonzero finite element takes one. The count runs to the highest band that holds an
element, so an empty band below it counts (R88; DESIGN CHOICE, log entry 43). -/
def bandCount (vs : List Num) : Nat :=
  match blockExp vs with
  | none => 1
  | some e => vs.foldl (fun n v => if usable v then max n (bandOf e v + 1) else n) 1

/-- Band k of a block (R87): the other elements are zero. A special element belongs to band 0. -/
def bandElts (k : Nat) (es : List Elt) : List Elt :=
  match blockExp (es.map Elt.v) with
  | none => if k = 0 then es else es.map (fun x => ⟨.zero, x.step⟩)
  | some e => es.map (fun x =>
      if usable x.v then (if bandOf e x.v = k then x else ⟨.zero, x.step⟩)
      else if k = 0 then x else ⟨.zero, x.step⟩)

/-- Band k of a block aligned at n magnitude bits with block exponent E − 11k (R87). The kinds stay those of the whole
block, so that infinite and NaN elements meet every element of the other operand (R80). -/
def alignBand (n k : Nat) (vs : List Num) : Block :=
  match blockExp vs with
  | none => ⟨0, vs.map (fun _ => 0), vs.map kindOf⟩
  | some e =>
    let part := vs.map (fun v => if usable v && bandOf e v == k then v else .zero)
    if (part.all (fun v => v.isZero)) then ⟨0, vs.map (fun _ => 0), vs.map kindOf⟩
    else let r := alignFrom n (e - 11 * k) part; ⟨r.1, r.2, vs.map kindOf⟩

/-- Band k of a weight block loaded at 64 planes (R87): integer elements stay at their own step (R70). -/
def alignWeightBand (el k : Nat) (es : List Elt) : Block :=
  let vs := es.map Elt.v
  if isTwos el then
    let b := exactBlock (bandElts k es)
    { b with kind := vs.map kindOf }
  else alignBand 64 k vs

/-- A block aligned to zero contributes nothing (R70, R79). -/
def Block.isZero (b : Block) : Bool := b.ints.all (· == 0)

/-- Kinds of an aligned block that only holds specials or zeros still set the special state. -/
def Block.hasSpecial (b : Block) : Bool := b.kind.any (fun k => k == 2 || k == 3 || k == 4)

/-- Two special states meeting (R80): 0 finite, 1 +inf, 2 −inf, 3 NaN as in the SPECIAL field of R81. -/
def joinSpecial (a b : Nat) : Nat :=
  if a = 0 then b else if b = 0 then a else if a = b then a else 3

/-- The special state one element pair sets (R80). -/
def pairSpecial (kw kx : Nat) : Nat :=
  let neg (k : Nat) : Bool := k == 3 || k == 5
  let infK (k : Nat) : Bool := k == 2 || k == 3
  if kw = 4 || kx = 4 then 3
  else if infK kw || infK kx then
    if kw = 1 || kx = 1 then 3
    else if neg kw != neg kx then 2 else 1
  else 0

/-- The special state one block pair sets. -/
def blockSpecial (w x : Block) : Nat :=
  (List.zipWith pairSpecial w.kind x.kind).foldl joinSpecial 0

/-- An integer rounded to nearest, ties to even, after k low bits are dropped. -/
def roundShift (v : Int) (k : Nat) : Int := signedMag (decide (v < 0)) (roundNat v.natAbs (-(k : Int)))

/-- The integer fits n bits of two's complement. -/
def fitsIn (n : Nat) (v : Int) : Bool := decide (-(2 ^ (n - 1) : Nat) ≤ v) && decide (v < (2 ^ (n - 1) : Nat))

/-- How many low bits must go for |v| to keep n − 1 bits. -/
def excessBits (n : Nat) (v : Int) : Nat :=
  if fitsIn n v then 0 else Nat.log2 v.natAbs + 1 - (n - 1)

/-- The integer and anchor that an entry of n bits keeps of v × 2^a (R77), and whether a bit that is not zero was
discarded. The most significant n bits are kept: −2^(n−1) times a power of two needs one bit less. -/
def fitEntry (n : Nat) (v : Int) (a : Int) : (Int × Int) × Bool :=
  if fitsIn n v then ((v, a), false)
  else
    let k := excessBits n v
    let k := if fitsIn n (roundShift v (k - 1)) && decide (v % (2 ^ (k - 1) : Nat) = 0) then k - 1 else k
    let r := roundShift v k
    let inexact := decide (v % (2 ^ k : Nat) ≠ 0)
    if fitsIn n r then ((r, a + k), inexact) else ((roundShift v (k + 1), a + k + 1), inexact)

/-- An entry of n bits with one contribution c × 2^e added (R77), and the ACC_INEXACT events it counts. -/
def addContribution (n : Nat) (en : AccEntry) (c e : Int) : AccEntry × Nat :=
  let l := min en.anchor e
  let v := shiftUp en.int (en.anchor - l) + shiftUp c (e - l)
  let r := fitEntry n v l
  (⟨r.1.1, r.1.2, en.special⟩, bnat r.2)

/-- Plane j of a weight integer (R92): its bit with its sign, or the two's-complement bit, negative in plane P − 1. -/
def planeBit (twosC : Bool) (p j : Nat) (w : Int) : Int :=
  if twosC then
    let b : Int := bnat (bit (twos p w) j)
    if j + 1 = p then -b else b
  else signedMag (decide (w < 0)) (bnat (bit w.natAbs j))

/-- Slice i of an activation integer (R71): the top slice signed. -/
def sliceOf (s i : Nat) (x : Int) : Int :=
  let u := bits (twos (8 * s) x) (8 * i + 7) (8 * i)
  if i + 1 = s then signedOf 8 u else u

/-- A block's column sub-sum for one plane and slice (R91). -/
def subSum (twosC : Bool) (p s j i : Nat) (w x : Block) : Int :=
  (List.zipWith (fun a b => planeBit twosC p j a * sliceOf s i b) w.ints x.ints).foldl (· + ·) 0

/-- The exact block product of the aligned integers. -/
def blockDot (w x : Block) : Int := (List.zipWith (· * ·) w.ints x.ints).foldl (· + ·) 0

/-- A block pair contributes nothing when either block aligns to zero (R79). -/
def pairIdle (w x : Block) : Bool := w.isZero || x.isZero

/-- One pass (R91): the contributions of plane j and slice i of every block pair, in ascending block order. -/
def passEntry (n : Nat) (twosC : Bool) (p s j i : Nat) (ws xs : List Block) (en : AccEntry × Nat) : AccEntry × Nat :=
  (List.zip ws xs).foldl (fun (acc : AccEntry × Nat) b =>
    let en := { acc.1 with special := joinSpecial acc.1.special (blockSpecial b.1 b.2) }
    if pairIdle b.1 b.2 then (en, acc.2)
    else
      let r := addContribution n en (subSum twosC p s j i b.1 b.2) (b.1.step + b.2.step + j + 8 * i)
      (r.1, acc.2 + r.2)) en

/-- An integer rounded to 64 significant bits (R78), as an integer and its exponent: the block product of the FP64
budget at the exponent of R79. -/
def round64 (v : Int) : Int × Int :=
  if v = 0 then (0, 0)
  else
    let h := Nat.log2 v.natAbs + 1
    if 64 < h then
      let r := roundShift v (h - 64)
      if r.natAbs = 2 ^ 64 then (roundShift v (h - 63), (h : Int) - 63) else (r, (h : Int) - 64)
    else (shiftUp v (64 - h : Nat), (h : Int) - 64)

/-- The exact sum of products of integers at exponents, as an integer at the least of them. -/
def sumScaled (l : List (Int × Int)) : Int × Int :=
  let e := (l.map Prod.snd).foldl min (((l.head?).map Prod.snd).getD 0)
  (l.foldl (fun t x => t + shiftUp x.1 (x.2 - e)) 0, e)

/-- The pairs of one weight band and one activation band of block b (R87). -/
def bandPairs (wss xss : List (List Block)) (b : Nat) : List (Block × Block) :=
  (wss.map (fun ws => xss.filterMap (fun xs =>
    match ws[b]?, xs[b]? with
    | some w, some x => some (w, x)
    | _, _ => none))).flatten

/-- The contributions of the FP64 budget (R78): the product of each alignment block, exact over all its bands, rounded once. `wss` holds the
weight bands, `xss` the activation bands, each as its blocks. -/
def passFp64 (wss xss : List (List Block)) (en : AccEntry × Nat) : AccEntry × Nat :=
  (List.range ((xss.head?).getD []).length).foldl (fun (acc : AccEntry × Nat) b =>
    let ps := bandPairs wss xss b
    let en := { acc.1 with special := ps.foldl (fun st p => joinSpecial st (blockSpecial p.1 p.2)) acc.1.special }
    let t := sumScaled ((ps.filter (fun p => !pairIdle p.1 p.2)).map (fun p => (blockDot p.1 p.2, p.1.step + p.2.step)))
    if t.1 = 0 then (en, acc.2)
    else
      let d := round64 t.1
      let r := addContribution 96 en d.1 (t.2 + d.2)
      (r.1, acc.2 + r.2)) en

/-- The passes of one plane group over one row and column (R101): activation slices, then planes. -/
def groupPasses (n : Nat) (twosC : Bool) (p s g : Nat) (ws xs : List Block) (en : AccEntry × Nat) : AccEntry × Nat :=
  (List.range s).foldl (fun en i =>
    (List.range (min p (16 * g + 16) - 16 * g)).foldl (fun en jj =>
      passEntry n twosC p s (16 * g + jj) i ws xs en) en) en

/-- The value of an entry times F (R82): the special states are values. An infinite entry with F = 0 gives NaN, as R172 multiplies them;
the table of R82 gives infinity for infinity and does not name that factor (DESIGN CHOICE, log entry 44). -/
def entryValue (f : Num) (en : AccEntry) : Num :=
  match en.special with
  | 0 => mulNum (numOfScaled en.int en.anchor) f
  | 1 => mulNum (.inf false) f
  | 2 => mulNum (.inf true) f
  | _ => .nan

/-- A raw accumulator entry (R81); a zero entry has ANCHOR 0. -/
def rawEntry (wide : Bool) (en : AccEntry) : List Byte :=
  let w := if wide then 96 else 48
  let a := if en.int = 0 then 0 else en.anchor
  toLE (if wide then 16 else 8) (twos w en.int + (twos 14 a <<< w) + ((en.special % 4) <<< (w + 14)))

/-- A raw accumulator entry read back. -/
def readRaw (wide : Bool) (b : List Byte) : AccEntry :=
  let w := if wide then 96 else 48
  let v := ofLE (b.take (if wide then 16 else 8))
  ⟨signedOf w v, signedOf 14 (v >>> w), bits v (w + 15) (w + 14)⟩

/-- The 16-byte header of a raw tile: F in bytes 0–7 (R81). -/
def rawHeader (f : Nat) : List Byte := toLE 8 f ++ zeroBytes 8

/-- Two raw entries combined by the rule of R77 (R81), with the events counted. -/
def combineEntries (n : Nat) (a b : AccEntry) : AccEntry × Nat :=
  let sp := joinSpecial a.special b.special
  if b.int = 0 then (⟨a.int, a.anchor, sp⟩, 0)
  else
    let r := addContribution n ⟨a.int, a.anchor, sp⟩ b.int b.anchor
    (r.1, r.2)

/-- T_w × T_x as FP64 bits (R81): magnitudes of the tensor scales; NaN when one is not finite, since every element of its tensor is then NaN
(R67). -/
def factorOf (tw tx : Nat) : Nat :=
  encodeElem fmtFP64 (if (tensorMag tw).isFin && (tensorMag tx).isFin then mulNum (tensorMag tw) (tensorMag tx) else .nan)

/-- The default plane budget of a weight element format (R74). -/
def defaultPlanes (el : Nat) : Nat :=
  match el with
  | 0x00 => 64
  | 0x01 => 32
  | 0x02 => 16
  | 0x03 => 16
  | 0x04 => 8
  | 0x05 => 8
  | 0x06 => 6
  | 0x07 => 6
  | 0x08 => 4
  | 0x09 => 32
  | 0x0A => 16
  | 0x0B => 8
  | 0x0C => 4
  | 0x0D => 2
  | 0x0E => 2
  | 0x0F => 1
  | _ => 8

/-- The default slice budget of an activation element format (R74). -/
def defaultSlices (el : Nat) : Nat :=
  match el with
  | 0x00 => 8
  | 0x01 => 4
  | 0x02 => 2
  | 0x03 => 2
  | 0x09 => 4
  | 0x0A => 2
  | _ => 1

/-- The exact plane budget of an element format in modes 0b00 and 0b01; none where no budget is exact (R74). -/
def exactPlanes (el : Nat) : Option Nat :=
  match el with
  | 0x00 => some 64
  | 0x01 => none
  | 0x02 => none
  | 0x03 => some 40
  | 0x04 => some 18
  | 0x05 => some 32
  | 0x06 => some 9
  | 0x10 => some 18
  | _ => some (defaultPlanes el)

/-- The exact slice budget (R74). -/
def exactSlices (el : Nat) : Option Nat :=
  match el with
  | 0x00 => some 8
  | 0x01 => none
  | 0x02 => none
  | 0x03 => some 6
  | 0x04 => some 3
  | 0x05 => some 5
  | 0x06 => some 2
  | _ => some (defaultSlices el)

/-- A format that R72 allows as an activation. -/
def isActivation (code : Nat) : Bool :=
  fmtOk code && decide (elemOf code < 0x0E) && modeOf code != 3

/-- A format that R72 allows as a weight. -/
def isWeight (code : Nat) : Bool :=
  fmtOk code && decide (elemOf code ≤ 0x10) && modeOf code != 3

/-- A budget that R72 allows: two's-complement weights take at least 2 planes. -/
def planesOk (code p : Nat) : Bool :=
  decide (1 ≤ p) && decide (p ≤ 64) && !(isTwos (elemOf code) && p == 1)

end Sys2Proof.Machine
end

