-- ==== Sys2Proof/Machine/Functions.lean ====
section
/-!
DEFINITION. The functions of R163 with the accuracy of R174. A function's value is computed in fixed point to more than 300
significant bits, far beyond any format, and the result is a free choice among the codes that lie within the bound of the
table (log entry 27).
-/

namespace Sys2Proof.Machine

/-! Fixed point: an integer v at precision p stands for v × 2^−p. -/

/-- A finite value in fixed point, rounded down. -/
def fixed (p : Nat) : Num → Int
  | .fin s m e => if 0 ≤ e + p then signedMag s (m <<< (e + p).toNat) else signedMag s m / (2 ^ (-(e + p)).toNat : Nat)
  | _ => 0

/-- A fixed-point number as an exact value. -/
def ofFixed (p : Nat) (v : Int) : Num := numOfScaled v (-(p : Int))

/-- The precision for an argument: 320 bits beyond its exponent, both ways. -/
def fnBits (x : Num) : Nat := 320 + 2 * x.lg.natAbs

/-- Σ of a series of positive terms whose next term is term × w ÷ den n, until a term is zero. -/
def seriesFrom (p w : Nat) (den : Nat → Nat) : Nat → Nat → Nat → Nat → Nat
  | 0, _, _, acc => acc
  | fuel + 1, n, term, acc =>
    if term = 0 then acc else seriesFrom p w den fuel (n + 1) (((term * w) >>> p) / den n) (acc + term)

/-- The same series with alternating signs. -/
def alternatingFrom (p w : Nat) (den : Nat → Nat) : Nat → Nat → Nat → Int → Int
  | 0, _, _, acc => acc
  | fuel + 1, n, term, acc =>
    if term = 0 then acc
    else alternatingFrom p w den fuel (n + 1) (((term * w) >>> p) / den n) (if n % 2 = 0 then acc + term else acc - term)

/-- Σ z^(2k+1) ÷ (2k+1), with the sign of the odd terms turned when `alt`: the areatangent, or the arctangent. -/
def oddSeries (p : Nat) (alt : Bool) (z2 : Nat) : Nat → Nat → Nat → Int → Int
  | 0, _, _, acc => acc
  | fuel + 1, n, power, acc =>
    if power = 0 then acc
    else
      let term : Int := ((power / (2 * n + 1) : Nat) : Int)
      oddSeries p alt z2 fuel (n + 1) ((power * z2) >>> p) (if alt && n % 2 = 1 then acc - term else acc + term)

/-- ln y for y in [1, 2], both in fixed point. -/
def lnFixed (p y : Nat) : Nat :=
  let one := 2 ^ p
  let z := ((y - one) <<< p) / (y + one)
  2 * (oddSeries p false ((z * z) >>> p) 4000 0 z 0).toNat

/-- ln 2. -/
def ln2Fixed (p : Nat) : Nat := lnFixed p (2 ^ (p + 1))

/-- π, from 16 arctan(1/5) − 4 arctan(1/239). -/
def piFixed (p : Nat) : Nat :=
  let one := 2 ^ p
  (16 * oddSeries p true (one / 25) 4000 0 (one / 5) 0 - 4 * oddSeries p true (one / 57121) 4000 0 (one / 239) 0).toNat

/-- 2^n × e^r from a fixed-point r ≥ 0. -/
def expTail (p r : Nat) (n : Int) : Num := .fin false (seriesFrom p r (· + 1) 4000 0 (2 ^ p) 0) (n - p)

/-- A value beyond every format, and one below every format. -/
def hugeNum : Num := .fin false 1 5000
def tinyNum : Num := .fin false 1 (-5000)

/-- e^x. -/
def expAt (p : Nat) (x : Num) : Num :=
  if !x.isZero && 13 ≤ x.lg then (if x.sign then tinyNum else hugeNum)
  else
    let v := fixed p x
    let l : Int := ln2Fixed p
    expTail p (v % l).toNat (v / l)

/-- 2^x. -/
def exp2At (p : Nat) (x : Num) : Num :=
  if !x.isZero && 13 ≤ x.lg then (if x.sign then tinyNum else hugeNum)
  else
    let v := fixed p x
    let one : Int := (2 ^ p : Nat)
    expTail p (((v % one).toNat * ln2Fixed p) >>> p) (v / one)

/-- ln x of a positive x = 2^k × y as k × ln 2 + ln y; log2 x as k + ln y ÷ ln 2. -/
def logAt (p : Nat) (two : Bool) (x : Num) : Num :=
  match x with
  | .fin _ m e =>
    let k := Nat.log2 m
    let y := if k ≤ p then m <<< (p - k) else m >>> (k - p)
    let l := ln2Fixed p
    let n : Int := k + e
    ofFixed p (if two then n * (2 ^ p : Nat) + ((lnFixed p y <<< p) / l : Nat) else n * l + lnFixed p y)
  | _ => .nan

/-- sin x, or cos x: the argument less the nearest multiple of π/2, then the series of the quadrant (R174). -/
def sinAt (p : Nat) (cosine : Bool) (x : Num) : Num :=
  let h : Int := piFixed p / 2
  let v := fixed p x
  let k := (2 * v + h) / (2 * h)
  let r := v - k * h
  let w := (r.natAbs * r.natAbs) >>> p
  let sine := alternatingFrom p w (fun n => (2 * n + 2) * (2 * n + 3)) 4000 0 r.natAbs 0
  let sine := if r < 0 then -sine else sine
  let cos_ := alternatingFrom p w (fun n => (2 * n + 1) * (2 * n + 2)) 4000 0 (2 ^ p) 0
  ofFixed p
    (match ((k + if cosine then 1 else 0) % 4).toNat with
     | 0 => sine
     | 1 => cos_
     | 2 => -sine
     | _ => -cos_)

/-- tanh x = (e^2x − 1) ÷ (e^2x + 1). -/
def tanhAt (p : Nat) (x : Num) : Num :=
  if !x.isZero && 8 ≤ x.lg then numOfInt (if x.sign then -1 else 1)
  else
    let t := expAt p (mulNum x (numOfInt 2))
    divNum (subNum t (numOfInt 1)) (addNum t (numOfInt 1))

/-- 1 ÷ (1 + e^−x) = e^x ÷ (1 + e^x). -/
def sigmoidAt (p : Nat) (x : Num) : Num :=
  if !x.isZero && 13 ≤ x.lg then (if x.sign then tinyNum else numOfInt 1)
  else
    let t := expAt p x
    divNum t (addNum (numOfInt 1) t)

/-- Σ w^n ÷ (1 × 3 × … × (2n + 1)). -/
def doubleFactorialSum (p : Nat) (w : Num) : Num := ofFixed p (seriesFrom p (fixed p w).toNat (2 * · + 3) 20000 0 (2 ^ p) 0)

/-- √(a ÷ π) for a small a. -/
def rootOverPi (p a : Nat) : Num := ofFixed p (isqrt ((a <<< (3 * p)) / piFixed p) : Nat)

/-- erf x = 2 ÷ √π × x × e^−x² × Σ (2x²)^n ÷ (2n + 1)!!. -/
def erfAt (p : Nat) (x : Num) : Num :=
  if !x.isZero && 3 ≤ x.lg then numOfInt (if x.sign then -1 else 1)
  else
    let q := mulNum x x
    mulNum (mulNum (rootOverPi p 4) x) (mulNum (expAt p q.neg) (doubleFactorialSum p (mulNum q (numOfInt 2))))

/-- x (1 + erf(x ÷ √2)) ÷ 2; the sum keeps 320 bits beyond its cancellation for a negative x. -/
def geluAt (p : Nat) (x : Num) : Num :=
  if !x.isZero && 6 ≤ x.lg then (if x.sign then tinyNum.neg else x)
  else
    let p := p + 3200
    let q := mulNum x x
    let e := mulNum (mulNum (rootOverPi p 2) x) (mulNum (expAt p (mulNum q (.fin true 1 (-1)))) (doubleFactorialSum p q))
    mulNum (mulNum x (.fin false 1 (-1))) (addNum (numOfInt 1) e)

/-- The exact value of a function of R163 at a finite argument, to more bits than any format holds. -/
def fnExact (fn : Nat) (x : Num) : Num :=
  let p := fnBits x
  match fn with
  | 0 => divNum (numOfInt 1) x
  | 1 => sqrtNum (divNum (numOfInt 1) x)
  | 2 => exp2At p x
  | 3 => logAt p true x
  | 4 => expAt p x
  | 5 => logAt p false x
  | 6 => sinAt p false x
  | 7 => sinAt p true x
  | 8 => tanhAt p x
  | 9 => sigmoidAt p x
  | 10 => erfAt p x
  | 11 => geluAt p x
  | _ => mulNum x (sigmoidAt p x)

/-- The maximum error of a function in a format, in whole units in the last place; 0 is correctly rounded (R174). -/
def fnUlps (fn fmt : Nat) : Nat :=
  let pick (d s h b : Nat) : Nat := if fmt = 0 then d else if fmt = 1 then s else if fmt = fmtFP16 then h else b
  match fn with
  | 0 => pick 1 1 0 0
  | 1 => pick 2 2 0 0
  | 2 => pick 1 2 1 1
  | 3 => pick 1 2 1 1
  | 4 => pick 2 2 1 1
  | 5 => pick 2 2 1 1
  | 6 => pick 2 2 1 1
  | 7 => pick 2 2 1 1
  | 11 => pick 4 4 2 2
  | 12 => pick 4 4 2 2
  | _ => pick 2 3 1 1

/-- The magnitude that a code without its sign stands for; the infinity's code as the next power of two. -/
def codeMag (f : FloatFmt) (c : Nat) : Num :=
  let ex := c / 2 ^ f.mbits
  if ex = 0 then .fin false c (1 - (f.bias : Int) - f.mbits)
  else .fin false (c % 2 ^ f.mbits + 2 ^ f.mbits) ((ex : Int) - f.bias - f.mbits)

/-- A code within k units in the last place of the correctly rounded result of y, the free word choosing which; the
correctly rounded code where the chosen one lies outside the bound, and always with k = 0. The sign of a result that is
exactly zero is free with it (R174, log entry 27). -/
def nearCode (f : FloatFmt) (k free : Nat) (y : Num) : Nat :=
  let c := encodeFloat f false y
  let top := 2 ^ (f.ebits + f.mbits)
  let inf := (2 ^ f.ebits - 1) * 2 ^ f.mbits
  let mag := c % top
  let v : Int := signedMag (decide (top ≤ c)) mag + ((free % (4 * k + 1) : Nat) : Int) - 2 * k
  let neg := if v = 0 then (if y.isZero then free / (4 * k + 1) % 2 == 1 else decide (top ≤ c)) else decide (v < 0)
  let ulp : Num := .fin false k (((max 1 (min (mag / 2 ^ f.mbits) (2 ^ f.ebits - 2)) : Nat) : Int) - f.bias - f.mbits)
  let x := codeMag f v.natAbs
  let far := ltNum ulp (subNum (if neg then x.neg else x) y).abs
  if k = 0 || inf < v.natAbs || far then c else (if neg then top else 0) + v.natAbs

/-- A function of R163 at a finite argument that the table of R172 does not fix: within the bound of R174. -/
def fnFinite (fn fmt : Nat) (x : Num) (code : Nat) : Num :=
  match floatFmt fmt with
  | none => .nan
  | some f => decodeFloat f (nearCode f (fnUlps fn fmt) (Sys2Proof.Config.fnResult fn fmt code) (fnExact fn x))

/-- A function of R163 on a value of a format (R172, R174): the special values are the table's. -/
def fnNum (fn fmt : Nat) (x : Num) (code : Nat) : Num :=
  match x with
  | .nan => .nan
  | .inf s =>
    match fn with
    | 0 => .fin s 0 0
    | 1 => if s then .nan else .fin false 0 0
    | 2 => if s then .zero else .inf false
    | 3 => if s then .nan else .inf false
    | 4 => if s then .zero else .inf false
    | 5 => if s then .nan else .inf false
    | 6 => .nan
    | 7 => .nan
    | 8 => numOfInt (if s then -1 else 1)
    | 9 => if s then .zero else numOfInt 1
    | 10 => numOfInt (if s then -1 else 1)
    | _ => if s then .zero else .inf false
  | .fin s m _ =>
    if m = 0 then
      match fn with
      | 0 => .inf s
      | 1 => .inf s
      | 3 => .inf true
      | 5 => .inf true
      | _ => fnFinite fn fmt x code
    else if s && (fn == 1 || fn == 3 || fn == 5) then .nan
    else fnFinite fn fmt x code

end Sys2Proof.Machine
end

