-- ==== Sys2Proof/Machine/Flags.lean ====
section
/-!
DEFINITION. Conditions and the status values that instructions compute. The machine has no flag register (R134, R172):
a comparison writes its result to a register or mask.
-/

namespace Sys2Proof.Machine

/-- The conditions of R132 on two integers of a width: signed comparisons read them as signed when `sgn`. -/
def condInt (cond : Nat) (sgn : Bool) (width a b : Nat) : Bool :=
  let a := a % 2 ^ width
  let b := b % 2 ^ width
  let lt := if sgn then decide (signedOf width a < signedOf width b) else decide (a < b)
  match cond with
  | 0 => a == b
  | 1 => a != b
  | 2 => lt
  | 3 => lt || a == b
  | 4 => !(lt || a == b)
  | 5 => !lt
  | 6 => decide (a < b)
  | _ => decide (b ≤ a)

/-- The conditions of R132 on two floating values: with a NaN operand only NE holds (R172). -/
def condNum (cond : Nat) (a b : Num) : Bool :=
  if a.isNan || b.isNan then cond == 1
  else
    match cond with
    | 0 => eqNum a b
    | 1 => !eqNum a b
    | 2 => ltNum a b
    | 3 => ltNum a b || eqNum a b
    | 4 => ltNum b a
    | _ => ltNum b a || eqNum a b

/-- The sum, difference and products of R173, modulo 2^w. -/
def addW (w a b : Nat) : Nat := (a + b) % 2 ^ w
def subW (w a b : Nat) : Nat := twos w ((a : Int) - b)
def mulW (w a b : Nat) : Nat := a * b % 2 ^ w

/-- A value of width w as an integer, signed or not. -/
def valueW (sgn : Bool) (w a : Nat) : Int := if sgn then signedOf w a else ((a % 2 ^ w : Nat) : Int)

/-- The high half of a product. -/
def mulhW (sgn : Bool) (w a b : Nat) : Nat := twos w (valueW sgn w a * valueW sgn w b / (2 ^ w : Nat))

/-- Quotient and remainder (R134, R173): by zero 0 and the dividend; the most negative value by −1 gives itself and 0. -/
def divW (sgn : Bool) (w a b : Nat) : Nat :=
  if b % 2 ^ w = 0 then 0 else twos w ((valueW sgn w a).tdiv (valueW sgn w b))
def remW (sgn : Bool) (w a b : Nat) : Nat :=
  if b % 2 ^ w = 0 then a % 2 ^ w else twos w ((valueW sgn w a).tmod (valueW sgn w b))

/-- Shifts; the count is taken modulo the width (R134, R173). -/
def shlW (w a n : Nat) : Nat := (a <<< (n % w)) % 2 ^ w
def shrW (w a n : Nat) : Nat := (a % 2 ^ w) >>> (n % w)
def sarW (w a n : Nat) : Nat := twos w (signedOf w a / (2 ^ (n % w) : Nat))

/-- The smaller and larger of two values. -/
def minW (sgn : Bool) (w a b : Nat) : Nat := if valueW sgn w b < valueW sgn w a then b % 2 ^ w else a % 2 ^ w
def maxW (sgn : Bool) (w a b : Nat) : Nat := if valueW sgn w a < valueW sgn w b then b % 2 ^ w else a % 2 ^ w

/-- Leading zeros of a value of width w. -/
def clzW (w a : Nat) : Nat := if a % 2 ^ w = 0 then w else w - 1 - Nat.log2 (a % 2 ^ w)

/-- The operations of an atomic on integers of a width (R132, AOP 0 to 8): old value and operand to new value. -/
def atomicInt (aop w old x : Nat) : Nat :=
  match aop with
  | 0 => addW w old x
  | 1 => minW true w old x
  | 2 => maxW true w old x
  | 3 => minW false w old x
  | 4 => maxW false w old x
  | 5 => old &&& x
  | 6 => old ||| x
  | 7 => old ^^^ x
  | _ => x % 2 ^ w

/-- An atomic's new value (R132, R275): AOP 9 is CAS with compare `x` and swap `y`, 10 is FADD in FP32. -/
def atomicNew (aop w old x y : Nat) : Nat :=
  match aop with
  | 9 => if old = x % 2 ^ w then y % 2 ^ w else old
  | 10 => encodeElem fmtFP32 (addNum (decodeElem fmtFP32 old) (decodeElem fmtFP32 x))
  | _ => atomicInt aop w old x

end Sys2Proof.Machine
end

