-- ==== Sys2Proof/Machine/Element.lean ====
section
/-!
DEFINITION. Element operations and element programs as functions of values (R160, R166 to R168, R172, R173).
-/

namespace Sys2Proof.Machine

/-- A format the engine holds (R160). -/
def engineFmt (f : Nat) : Bool := decide (f ≤ 5) || (decide (9 ≤ f) && decide (f ≤ 11))

/-- A format the engine computes in (R160). -/
def computeFmt (f : Nat) : Bool := engineFmt f && f != 4 && f != 5

/-- A floating format. -/
def isFloat (f : Nat) : Bool := decide (f ≤ 8)

/-- Elements of a format in a register (R160). -/
def regElemCount (f : Nat) : Nat := 16384 / elemBits f

/-- The result of a floating operation, rounded once; or of an integer one on codes (R172, R173). -/
def arith (fmt : Nat) (f : Num → Num → Num → Num) (g : Nat → Nat → Nat → Nat → Nat) (a b c : Nat) : Nat :=
  if isFloat fmt then encodeElem fmt (f (decodeElem fmt a) (decodeElem fmt b) (decodeElem fmt c))
  else g (elemBits fmt) a b c

def elAdd (fmt a b : Nat) : Nat := arith fmt (fun a b _ => addNum a b) (fun w a b _ => addW w a b) a b 0
def elSub (fmt a b : Nat) : Nat := arith fmt (fun a b _ => subNum a b) (fun w a b _ => subW w a b) a b 0
def elMul (fmt a b : Nat) : Nat := arith fmt (fun a b _ => mulNum a b) (fun w a b _ => mulW w a b) a b 0
def elFma (fmt a b c : Nat) : Nat := arith fmt fmaNum (fun w a b c => addW w (mulW w a b) c) a b c
def elMin (fmt a b : Nat) : Nat := arith fmt (fun a b _ => minNum a b) (fun w a b _ => minW true w a b) a b 0
def elMax (fmt a b : Nat) : Nat := arith fmt (fun a b _ => maxNum a b) (fun w a b _ => maxW true w a b) a b 0
def elDiv (fmt a b : Nat) : Nat := arith fmt (fun a b _ => divNum a b) (fun w a b _ => divW true w a b) a b 0
def elRem (fmt a b : Nat) : Nat := remW true (elemBits fmt) a b
def elSqrt (fmt a : Nat) : Nat := encodeElem fmt (sqrtNum (decodeElem fmt a))
def elFn (fmt fn a : Nat) : Nat := encodeElem fmt (fnNum fn fmt (decodeElem fmt a) a)

/-- A comparison under a condition of R132 (R172). -/
def elCmp (fmt cond a b : Nat) : Bool :=
  if isFloat fmt then condNum cond (decodeElem fmt a) (decodeElem fmt b) else condInt cond true (elemBits fmt) a b

/-- The element is not zero (NaN is not). -/
def elNonzero (fmt a : Nat) : Bool := if isFloat fmt then !(decodeElem fmt a).isZero else a % 2 ^ elemBits fmt != 0

/-- |A|: of the most negative integer the manual states no result, and it is free (log entry 27). -/
def elAbs (fmt a : Nat) : Nat :=
  let w := elemBits fmt
  if isFloat fmt then encodeElem fmt (decodeElem fmt a).abs
  else if a = 2 ^ (w - 1) then Sys2Proof.Config.fnResult 16 fmt a % 2 ^ w
  else twos w ((signedOf w a).natAbs : Int)

/-- −A: of the most negative integer the manual states no result, and it is free (log entry 27). -/
def elNeg (fmt a : Nat) : Nat :=
  let w := elemBits fmt
  if isFloat fmt then encodeElem fmt (decodeElem fmt a).neg
  else if a = 2 ^ (w - 1) then Sys2Proof.Config.fnResult 17 fmt a % 2 ^ w
  else twos w (-(signedOf w a))

/-- A shift by a kind of VSHIFT or SHF: left, right logical, right arithmetic, counts modulo w (R163, R167, R173). -/
def elShift (fmt kind a b : Nat) : Nat :=
  let w := elemBits fmt
  match kind with
  | 0 => shlW w a b
  | 1 => shrW w a b
  | _ => sarW w a b

/-- A conversion between formats of R160 (R82). -/
def elConvert (src dst a : Nat) : Nat := encodeElem dst (decodeElem src a)

/-! Programs (R166, R167). -/

def pgCount (p : List Byte) : Nat := fieldLE p 0x01 1
def pgIn (p : List Byte) : Nat := fieldLE p 0x02 1
def pgC (p : List Byte) : Nat := fieldLE p 0x03 1
def pgOut (p : List Byte) : Nat := fieldLE p 0x04 1
def pgReg (p : List Byte) : Nat := fieldLE p 0x05 1
def pgCode (p : List Byte) (i : Nat) : Nat := fieldLE p (0x100 + 8 * i) 8

/-- An operand-vector descriptor: 0 ROWV, 1 COLV0, 2 COLV1. -/
def pgVec (p : List Byte) (i : Nat) : List Byte := sliceBytes p (0x10 + 16 * i) 16
def pvAddr (v : List Byte) : Nat := fieldLE v 0 4
def pvLen (v : List Byte) : Nat := fieldLE v 4 4
def pvFmt (v : List Byte) : Nat := fieldLE v 8 1

def piSc (i : Nat) : Nat := bits i 35 30
def piSb (i : Nat) : Nat := bits i 29 24
def piSa (i : Nat) : Nat := bits i 23 18
def piD (i : Nat) : Nat := bits i 17 14
def piSub (i : Nat) : Nat := bits i 13 10
def piOp (i : Nat) : Nat := bits i 9 4

/-- Bytes of an element of a format of R160. -/
def fmtBytes (f : Nat) : Nat := elemBits f / 8

/-- An operand vector keeps to its table, its range within an allocation of `size` bytes (R166, R171). -/
def pvOk (size : Nat) (v : List Byte) : Bool :=
  allZero (v.drop 9) && decide (pvLen v ≤ 65536) && decide (pvAddr v < 2 ^ 21) &&
    (pvLen v == 0 ||
      (computeFmt (pvFmt v) && pvAddr v % fmtBytes (pvFmt v) == 0 && decide (pvAddr v + pvLen v * fmtBytes (pvFmt v) ≤ size)))

/-- The operands that an operation uses: A, B, C (R167). -/
def piUses (op : Nat) : Bool × Bool × Bool :=
  match op with
  | 0x03 => (true, true, true)
  | 0x06 => (true, true, true)
  | 0x08 => (true, false, false)
  | 0x09 => (true, false, false)
  | 0x0B => (true, true, true)
  | 0x0C => (true, false, false)
  | 0x0D => (true, false, false)
  | _ => (true, true, false)

/-- An operation is allowed in a compute format with its SUB (R167). -/
def piAllowed (cf op sub : Nat) : Bool :=
  decide (op ≤ 0x12) &&
    (if op = 0x08 then isFloat cf else if op = 0x09 then isFloat cf && decide (sub ≤ 12)
     else if op = 0x0A then decide (sub ≤ (if isFloat cf then 5 else 7))
     else if op = 0x11 then !isFloat cf && decide (sub ≤ 2)
     else if 0x0E ≤ op then !isFloat cf else true)

/-- A program instruction keeps to its table (R167). -/
def piOk (cf i : Nat) : Bool :=
  let u := piUses (piOp i)
  let sel (used : Bool) (x : Nat) : Bool := if used then decide (x ≤ 0x28) else x == 0x28
  bits i 63 36 == 0 && bits i 3 0 == 0 && piAllowed cf (piOp i) (piSub i) && sel u.1 (piSa i) && sel u.2.1 (piSb i) &&
    sel u.2.2 (piSc i)

/-- A program keeps to R166 and R167 for an allocation of `size` bytes (R171, log entry 28). -/
def programOk (size : Nat) (p : List Byte) : Bool :=
  fieldLE p 0 1 == 1 && decide (1 ≤ pgCount p) && decide (pgCount p ≤ 32) &&
    (computeFmt (pgIn p) || pgIn p == fmtACC48 || pgIn p == fmtACC96) && computeFmt (pgC p) && engineFmt (pgOut p) &&
    decide (pgReg p < 16) && allZero (sliceBytes p 0x06 10) && allZero (sliceBytes p 0xC0 64) &&
    (List.range 3).all (fun i => pvOk size (pgVec p i)) &&
    (List.range (pgCount p)).all (fun i => piOk (pgC p) (pgCode p i)) &&
    (List.range (32 - pgCount p)).all (fun i => pgCode p (pgCount p + i) == 0)

/-- What a program reads for one element: IN and PART as values, its indices, and the operand vectors by index. -/
structure ElemIn where
  inp  : Num
  part : Num
  row  : Nat
  col  : Nat
  vec  : Nat → Nat → Num

/-- A constant of a program in the compute format: FP64 or INT64 bits converted under R82 (R166, R168). -/
def pgConst (p : List Byte) (i : Nat) : Nat :=
  let v := fieldLE p (0x40 + 8 * i) 8
  encodeElem (pgC p) (if isFloat (pgC p) then decodeElem fmtFP64 v else numOfInt (signedOf 64 v))

/-- The operand of a selector, as a code of the compute format (R167, R168). -/
def pgOperand (p : List Byte) (x : ElemIn) (temps : Assoc Nat) (sel : Nat) : Nat :=
  let c := pgC p
  if sel < 0x10 then getD 0 temps sel
  else if sel < 0x20 then pgConst p (sel - 0x10)
  else
    match sel with
    | 0x20 => encodeElem c x.inp
    | 0x21 => encodeElem c x.part
    | 0x22 => encodeElem c (x.vec 0 x.row)
    | 0x23 => encodeElem c (x.vec 1 x.col)
    | 0x24 => encodeElem c (x.vec 2 x.col)
    | 0x25 => encodeElem c (numOfInt x.row)
    | 0x26 => encodeElem c (numOfInt x.col)
    | 0x27 => encodeElem c (numOfInt (x.col % 2 : Nat))
    | _ => 0

/-- The result of one operation in a compute format (R167, R172, R173). -/
def pgResult (c op sub a b d : Nat) : Nat :=
  match op with
  | 0x00 => elAdd c a b
  | 0x01 => elSub c a b
  | 0x02 => elMul c a b
  | 0x03 => elFma c a b d
  | 0x04 => elMin c a b
  | 0x05 => elMax c a b
  | 0x06 => elMin c (elMax c a b) d
  | 0x07 => elDiv c a b
  | 0x08 => elSqrt c a
  | 0x09 => elFn c sub a
  | 0x0A => encodeElem c (numOfInt (bnat (elCmp c sub a b)))
  | 0x0B => if elNonzero c d then a else b
  | 0x0C => elAbs c a
  | 0x0D => elNeg c a
  | 0x0E => a &&& b
  | 0x0F => a ||| b
  | 0x10 => a ^^^ b
  | 0x11 => elShift c sub a b
  | _ => elRem c a b

/-- One program instruction executed on the temporaries (R168). -/
def pgStep (p : List Byte) (x : ElemIn) (temps : Assoc Nat) (i : Nat) : Assoc Nat :=
  let w := pgCode p i
  let arg := pgOperand p x temps
  insert temps (piD w) (pgResult (pgC p) (piOp w) (piSub w) (arg (piSa w)) (arg (piSb w)) (arg (piSc w)))

/-- The output of a program for one element, as a code of OUT_FORMAT (R168). -/
def runProgram (p : List Byte) (x : ElemIn) : Nat :=
  let temps := (List.range (pgCount p)).foldl (pgStep p x) []
  elConvert (pgC p) (pgOut p) (getD 0 temps (pgReg p))

/-- An element of an operand vector read by `rd`; beyond LEN it is zero (R168). -/
def vecOperand (p : List Byte) (rd : Nat → Byte) (which i : Nat) : Num :=
  let v := pgVec p which
  if i < pvLen v then
    let n := fmtBytes (pvFmt v)
    decodeElem (pvFmt v) (ofLE ((List.range n).map (fun j => rd (pvAddr v + i * n + j))))
  else .zero

end Sys2Proof.Machine
end

