-- ==== Sys2Proof/Machine/Operands.lean ====
section
/-!
DEFINITION. The operands of thread instructions: the fields of the formats of R131, register operands (R129, R130), the
issue of an instruction with its fetch (R126, R145), its completion, its stall, and its failure (R135).
-/

namespace Sys2Proof.Machine

/-! Fields of an instruction word (R131). -/

def wMajor (w : Nat) : Nat := bits w 6 0
def wOp (w : Nat) : Nat := bits w 11 7
def wImm (w : Nat) : Nat := bits w 63 48
def wImmS (w : Nat) : Int := signedOf 16 (bits w 63 48)
def wXC (w : Nat) : Nat := bits w 47 40
def wXB (w : Nat) : Nat := bits w 39 32
def wXA (w : Nat) : Nat := bits w 31 24
def wXD (w : Nat) : Nat := bits w 23 16
def wType (w : Nat) : Nat := bits w 15 12
def wScope (w : Nat) : Nat := bits w 47 45
def wAop (w : Nat) : Nat := bits w 44 40
def wSC (w : Nat) : Nat := bits w 47 42
def wSD (w : Nat) : Nat := bits w 35 30
def wSB (w : Nat) : Nat := bits w 29 24
def wSA (w : Nat) : Nat := bits w 23 18
def wFlags (w : Nat) : Nat := bits w 17 12
def wOffset (w : Nat) : Int := signedOf 24 (bits w 63 40)
def wRpc (w : Nat) : Nat := bits w 39 24
def wBrX (w : Nat) : Nat := bits w 23 16

/-- The classes (R131). -/
def mLINT : Nat := 0x03
def mLFP : Nat := 0x07
def mSALU : Nat := 0x0B
def mLMEM : Nat := 0x0F
def mCMEM : Nat := 0x13
def mATOM : Nat := 0x17
def mCTRL : Nat := 0x1B
def mSYNC : Nat := 0x1F
def mCOPY : Nat := 0x23
def mISSUE : Nat := 0x27
def mELEM : Nat := 0x2B
def mMATRIX : Nat := 0x5B

/-- How many operations a class has; OP values from there on are reserved (R132, R106, R163). -/
def opsOf (major : Nat) : Nat :=
  match major with
  | 0x03 => 0x17
  | 0x07 => 0x13
  | 0x0B => 0x12
  | 0x0F => 2
  | 0x13 => 2
  | 0x17 => 3
  | 0x1B => 8
  | 0x1F => 0x0B
  | 0x23 => 1
  | 0x27 => 2
  | 0x2B => 0x17
  | 0x5B => 10
  | _ => 0

/-- A reserved MAJOR or OP (R135). -/
def reservedOp (w : Nat) : Bool := decide (opsOf (wMajor w) ≤ wOp w)

/-- The fields that a format marks zero are zero, and AOP and SCOPE of a load or store of lane memory hold a code that is not reserved (R131,
R132, R135). Atomics and the element engine's words have their own checks. -/
def zerosOk (w : Nat) : Bool :=
  match wMajor w with
  | 0x0F => decide (wAop w ≤ 10) && decide (wScope w ≤ 5)
  | 0x13 => decide (wAop w ≤ 10) && decide (wScope w ≤ 5)
  | 0x1B => bits w 15 12 == 0 && (if wOp w == 2 || wOp w == 3 then bits w 23 22 == 0 else true)
  | 0x0B => bits w 41 36 == 0
  | 0x1F => bits w 41 36 == 0
  | 0x23 => bits w 41 36 == 0
  | 0x27 => bits w 41 36 == 0
  | 0x5B => bits w 47 36 == 0
  | _ => true

/-! Registers (R129, R130). -/

/-- A lane register of one thread. -/
def lane (g : Group) (r l : Nat) : Nat := (getD 0 g.lanes (32 * r + l)).toNat

/-- Write a lane register of one thread. -/
def setLane (g : Group) (r l v : Nat) : Group := { g with lanes := putD 0 g.lanes (32 * r + l) (BitVec.ofNat 32 v) }

/-- n consecutive lane registers as one number, the low word first. -/
def laneWide : Nat → Group → Nat → Nat → Nat
  | 0, _, _, _ => 0
  | n + 1, g, r, l => lane g r l + 2 ^ 32 * laneWide n g (r + 1) l

/-- n consecutive lane registers written. -/
def setLaneWide : Nat → Group → Nat → Nat → Nat → Group
  | 0, g, _, _, _ => g
  | n + 1, g, r, l, v => setLaneWide n (setLane g r l v) (r + 1) l (v / 2 ^ 32)

/-- A register operand of n words exists and is aligned (R129). -/
def regOk (g : Group) (n r : Nat) : Bool := r % n == 0 && decide (r + n ≤ g.regs)

/-- A scalar register. -/
def scalar (g : Group) (r : Nat) : Nat := (getD 0 g.scalars r).toNat

/-- Write a scalar register. -/
def setScalar (g : Group) (r v : Nat) : Group := { g with scalars := putD 0 g.scalars r (BitVec.ofNat 64 v) }

/-! Issue. -/

/-- An instruction being executed: its core and slot, its group, the running path, and its word. -/
structure Thread where
  core : Nat
  slot : Nat
  g    : Group
  p    : Path
  w    : Nat

/-- The active threads of the instruction, ascending. -/
def Thread.active (t : Thread) : List Nat := bitsSet 32 t.p.mask

/-- What a fetch answers: the word at the PC, or a group that waits. -/
inductive Fetch where
  | word (w : Nat) (s : State)
  | stall (s : State)

/-- The group leaves the active set with a condition (R126). -/
def park (s : State) (c slot : Nat) (g : Group) (cond : Cond) : State :=
  setGroup s c slot { g with active := false, cond := cond }

/-- The group is not ready, for a condition that the table of R126 does not list: it stays in the active set. -/
def wait_ (s : State) (c slot : Nat) (g : Group) (cond : Cond) : State := setGroup s c slot { g with cond := cond }

/-- A line of a core cache: the instruction cache has 256 sets of 4 ways, the data cache 128 of 8 (R145). -/
def lineSet (icache : Bool) (va : Nat) : Nat := if icache then va / 128 % 256 else va / 128 % 128

/-- The sets of a core cache. -/
def Core.cache (k : Core) (icache : Bool) : Assoc (CacheSet DcLine) := if icache then k.icache else k.dcache

/-- Replace them. -/
def Core.withCache (k : Core) (icache : Bool) (c : Assoc (CacheSet DcLine)) : Core :=
  if icache then { k with icache := c } else { k with dcache := c }

/-- A line of a context held by a core cache, with the core after its use. -/
def cacheLine (k : Core) (icache : Bool) (ctx va : Nat) : Option (DcLine × Core) :=
  let n := lineSet icache va
  match find (k.cache icache) n with
  | none => none
  | some c =>
    match c.way (fun l => l.ctx == ctx && l.va == va / 128 * 128) with
    | none => none
    | some i =>
      (c.ways[i]?).join.map (fun l =>
        (l, k.withCache icache (insert (k.cache icache) n (c.touch (if icache then 2 else 3) i))))

/-- A line on its way that an access of va hits (R230). -/
def fillOf (k : Core) (icache : Bool) (ctx va : Nat) : Option LineFill :=
  k.fills.find? (fun f => f.icache == icache && f.ctx == ctx && f.va == va / 128 * 128 && !f.stale)

/-- The sector of an address has arrived: sectors come from the first one asked for, wrapping (R230). -/
def sectorHere (f : LineFill) (va : Nat) : Bool := decide ((va % 128 / 32 + 4 - f.first) % 4 < f.arrived)

/-- A missed line is asked for at its home slice (R230); a strict line, and one without a home, is read at its stack. -/
def askLine (s : State) (core : Nat) (icache : Bool) (ctx q va pa leaf : Nat) : MemOut :=
  let base := va / 128 * 128
  let pbase := pa / 128 * 128
  let fill (s : State) (data : Option (List Byte)) : State :=
    modCore s core (fun k => { k with fills := k.fills ++ [⟨icache, ctx, base, pbase, va % 128 / 32, 0, data, false⟩] })
  match homeSlice s pbase, leafStrict leaf with
  | some slice, false =>
    let s := if slice / 8 ≠ dieOf s core then clusterEvent s (clusterOf s core) 0x45 (some ctx) 1 else s
    let k := sliceSt s slice
    ⟨[], true, setSlice (fill s none) slice { k with reqs := k.reqs ++ [.line core icache ctx base pbase] }⟩
  | _, _ =>
    let r := memRead s ctx (some q) pbase 128
    if r.ok then ⟨[], true, fill r.st (some r.data)⟩ else r

/-- A fetch that reaches the second half of a line has the next line of a normal region asked for, when its translation is held and the
cache neither holds it nor waits for it (R145, R278). -/
def prefetchNext (s : State) (core slot : Nat) (g : Group) (pc : Nat) : State :=
  let va := (pc / 128 + 1) * 128
  let k := coreSt s core
  if pc % 128 < 64 || !cachedVa va || (cacheLine k true g.ctx va).isSome || (fillOf k true g.ctx va).isSome then s
  else
    match tlbLookup s (some core) g.ctx va with
    | none => s
    | some (e, t) =>
      match judgeLeaf t (.fetch core slot) va 4 (rtOf t g.queue) (if e.block then 2 else 3) e.leaf e.block with
      | .ok leaf block =>
        let pa := leafPa leaf block va
        if leafStrict leaf || (homeSlice t (pa / 128 * 128)).isNone then s else (askLine t core true g.ctx g.queue va pa leaf).st
      | _ => s

/-- The word at the PC of the running path (R145, R155, R230, R242). -/
def fetch (s : State) (core slot : Nat) (g : Group) (pc : Nat) : Fetch :=
  let k := coreSt s core
  match cacheLine k true g.ctx pc with
  | some (l, k) => .word (fieldLE l.data (pc % 128) 8) (prefetchNext (setCore s core k) core slot g pc)
  | none =>
    match fillOf k true g.ctx pc with
    | some f =>
      match f.data, sectorHere f pc with
      | some d, true => .word (fieldLE d (pc % 128) 8) (prefetchNext s core slot g pc)
      | _, _ => .stall (park s core slot g (.lineMiss true (pc / 128 * 128)))
    | none =>
      match xlate s (.fetch core slot) g.ctx pc 4 g.queue with
      | (none, s) => .stall (wait_ s core slot g (.walk pc))
      | (some (pa, leaf), s) =>
        let r := askLine (coreEvent s core 0x05 (some g.ctx) 1) core true g.ctx g.queue pc pa leaf
        if r.ok then .stall (park r.st core slot g (.lineMiss true (pc / 128 * 128))) else .stall r.st

/-- The submission of a group may issue: it runs and nothing holds it (R38, R357, R471). -/
def mayRun (s : State) (q : Nat) : Bool :=
  match find s.subs q with
  | some u => u.phase == .running && !u.stopped && !u.held
  | none => false

/-- The array and the vector file of a core are frozen for the dump of one of their owner's submissions (R119, R175, R471). -/
def arrayFrozen (s : State) (core : Nat) : Bool :=
  anyValue s.subs (fun _ u => u.phase == .frozen && (coreSt s core).array.owner == some u.ctx && u.cores.contains core)

/-- The array and the element engine of a core may start work of a queue: no fast hold, no dump, and no pre-emption of the
submission (R119, R175, R442, R471). -/
def mayStart (s : State) (core q : Nat) : Bool :=
  !(coreSt s core).held && !arrayFrozen s core &&
    match find s.subs q with
    | some u => u.phase == .running || u.phase == .aborting
    | none => true

/-- A group of a core is one whose next instruction may issue: active, its core's clock running, its path neither
waiting nor blocked, and no rotation due (R126, R139, R292, R442). -/
def canIssue (s : State) (core : Nat) (g : Group) (p : Path) : Bool :=
  g.active && g.cond == .clear && p.canRun && !(decide (64 ≤ p.back) && canRotate g) &&
    !(coreSt s core).gated && !(coreSt s core).held && mayRun s g.queue

/-- The address that a sampling record gives for an instruction (R469): that of the lowest active thread. -/
def sampleAddr (t : Thread) : Nat :=
  match t.active with
  | [] => 0
  | l :: _ =>
    let m := wMajor t.w
    if m = mLMEM || (m = mATOM && wOp t.w = 0) then
      twos 48 ((laneWide 1 t.g (wXA t.w) l % 2 ^ 21 : Nat) + wImmS t.w)
    else if m = mCMEM || m = mATOM then twos 48 ((laneWide 2 t.g (wXA t.w) l % 2 ^ 48 : Nat) + wImmS t.w)
    else if m = mELEM && wOp t.w ≤ 1 then bits (scalar t.g (bits t.w 47 42)) 47 0
    else 0

/-- The instruction is counted as issued. -/
def noted (t : Thread) (s : State) (fault : Bool) : State :=
  noteIssue s t.core t.slot t.g.ctx t.p.pc (wMajor t.w) (wOp t.w) (sampleAddr t) fault

/-- The submission of the instruction completes with a status, and the instruction has no effect (R133, R135). -/
def failIssue (t : Thread) (s : State) (status : Nat) : Res :=
  .next (failSubmission (noted t s true) t.g.queue status)

/-- Path-stack entries beyond 8 as they lie in the group's spill area (R141). -/
def spillPaths (s : State) (core : Nat) (g : Group) : State :=
  let deep := (g.stack.reverse).drop 8
  (List.zip (List.range deep.length) deep).foldl (fun s e =>
    lsWrite s core g.ctx (g.scratchAt + g.scratch + 16 * e.1)
      (toLE 4 e.2.mask ++ toLE 6 e.2.pc ++ toLE 6 (e.2.rpc.getD 0))) s

/-- A path-stack entry as its spill area holds it (R141): the mask, the PC and the reconvergence PC. -/
def spilledPath (b : List Byte) (p : Path) : Path :=
  { p with
    mask := fieldLE b 0 4
    pc := fieldLE b 4 6
    nest := match p.nest with
      | e :: t => (e.1, fieldLE b 10 6) :: t
      | [] => [] }

/-- The entries of a group's path stack beyond 8, as its spill area holds them (R141). -/
def reloadPaths (s : State) (core slot : Nat) : State :=
  match groupAt s core slot with
  | none => s
  | some g =>
    if g.stack.length ≤ 8 then s
    else
      let l := g.stack.reverse
      let deep := (List.zip (List.range (l.length - 8)) (l.drop 8)).map (fun e =>
        spilledPath (lsRead s core g.ctx (g.scratchAt + g.scratch + 16 * e.1) 16) e.2)
      setGroup s core slot { g with stack := (l.take 8 ++ deep).reverse }

/-- A group after its instruction: it goes on while a path can run; else its paths wait, and it leaves the active set when one of them waits
on a counter (R126, R140, R141). -/
def placeGroup (s : State) (core slot : Nat) (g : Group) : State :=
  let g := { g with fenced := false }
  let s := if 8 < g.stack.length then spillPaths s core g else s
  if groupCanRun g then setGroup s core slot { g with cond := .clear }
  else setGroup s core slot { g with active := g.active && !waitsCounter g, cond := .counters }

/-- The instruction completes at the next instruction, its group changed by f. A group that is gone (its submission met
a fault on the way) is left gone. -/
def finish (t : Thread) (s : State) (f : Group → Group) : Res :=
  let s := noted t s false
  match groupAt s t.core t.slot with
  | some g => .next (placeGroup s t.core t.slot (movePc (f g) (t.p.pc + 8) false))
  | none => .next s

/-- The instruction cannot be accepted: the group waits and executes it again (R126). -/
def stallOn (t : Thread) (s : State) (c : Cond) : Res := .next (park s t.core t.slot t.g c)

/-- The instruction is not ready: the group waits in the active set and executes it again (R126). -/
def holdOn (t : Thread) (s : State) (c : Cond) : Res := .next (wait_ s t.core t.slot t.g c)

/-- The lane registers that an instruction word reads or writes, as first registers and how many (R129, R131 to R133). -/
def laneRegs (w : Nat) : List (Nat × Nat) :=
  let n := 2 ^ (wType w - 2)
  match wMajor w with
  | 0x03 => [(wXD w, 2), (wXA w, 2), (wXB w, 2), (wXC w, 2)]
  | 0x07 => [(wXD w, 2), (wXA w, 2), (wXB w, 2), (wXC w, 2)]
  | 0x0B => if wOp w = 0x11 then [(bits (wImm w) 7 0, 1)] else []
  | 0x0F => [(wXA w, 1), (if wOp w = 0 then wXD w else wXB w, n)]
  | 0x13 => [(wXA w, 2), (if wOp w = 0 then wXD w else wXB w, n)]
  | 0x17 => [(wXA w, 2), (wXD w, n), (wXB w, 2 * n)]
  | 0x1B => [(wBrX w, 2)]
  | _ => []

/-- The first line of the cached space for whose data an instruction of a group waits: a register it names is to be loaded (R126). -/
def awaitedLine (g : Group) (w : Nat) : Option Nat :=
  let hits (ld : LaneLoad) : Bool := (laneRegs w).any (fun r => decide (r.1 < ld.reg + ld.words) && decide (ld.reg < r.1 + r.2))
  (g.loads.find? hits).bind (fun ld => ld.lanes.head?.map (fun e => e.2.1 / 128 * 128))

/-- The scalar registers that an instruction word may read or write (R131, R162). -/
def scalarsOf (w : Nat) : List Nat :=
  match wMajor w with
  | 0x03 => if wOp w = 0x13 then [bits (wImm w) 5 0] else []
  | 0x1B => if wOp w = 2 || wOp w = 3 then [bits w 21 16] else []
  | 0x2B => [bits (wImm w) 5 0, bits (wImm w) 11 6]
  | 0x07 => []
  | 0x0F => []
  | 0x13 => []
  | 0x17 => []
  | _ => [wSA w, wSB w, wSC w, wSD w]

/-- The scalar registers of a group that a VRED in the vector queue or in execution will write (R165). -/
def awaitedScalars (k : Core) (slot queue : Nat) : List Nat :=
  ((k.vec.exec.toList ++ k.vec.queue).filter (fun o =>
    o.slot == slot && o.queue == queue && wOp o.w.toNat == 0x11)).map (fun o => bits (wImm o.w.toNat) 5 0)

/-- The instruction waits in the scalar scoreboard (R165). -/
def scoreboardHolds (k : Core) (slot queue w : Nat) : Bool :=
  let a := awaitedScalars k slot queue
  (scalarsOf w).any (fun r => a.contains r)

/-- Issue of the instruction `w` of a group, an operation `op` of the class `major` (R126, R131, R135): `body` says what
it does. A fetch that misses makes the group wait; a PC that is not aligned or lies outside the cached space has no
instruction (R131, R210, log entry 18). -/
def issue (core slot : Nat) (w : BitVec 64) (major op : Nat) (name : String) (s : State)
    (body : Thread → State → Res) : Res :=
  let s := reloadPaths s core slot
  match groupAt s core slot with
  | none => .refused (.notEnabled name)
  | some g =>
    match g.run with
    | none => .refused (.notEnabled name)
    | some p =>
      if !canIssue s core g p then .refused (.notEnabled name)
      else if p.pc % 8 ≠ 0 || !cachedVa p.pc then failIssue ⟨core, slot, g, p, 0⟩ s stFaultAccess
      else
        match fetch s core slot g p.pc with
        | .stall s => .next s
        | .word v s =>
          let t : Thread := ⟨core, slot, g, p, v⟩
          if v ≠ w.toNat || scoreboardHolds (coreSt s core) slot g.queue v then .refused (.notEnabled name)
          else if reservedOp v then failIssue t s stFaultCommand
          else if wMajor v ≠ major || wOp v ≠ op then .refused (.notEnabled name)
          else if !zerosOk v then failIssue t s stFaultCommand
          else
            match awaitedLine g v with
            | some va => stallOn t s (.lineMiss false va)
            | none => body t s

end Sys2Proof.Machine
end

