-- ==== Sys2Proof/Machine/Lane.lean ====
section
/-!
DEFINITION. Lane integer, lane floating and scalar instructions (R132, R134): classes LINT, LFP and SALU.
-/

namespace Sys2Proof.Machine

/-! Lane integer. -/

/-- Element width and count of a LINT TYPE (R132). -/
def lintShape (ty : Nat) : Nat × Nat :=
  match ty % 4 with
  | 0 => (32, 1)
  | 1 => (64, 1)
  | 2 => (16, 2)
  | _ => (8, 4)

/-- Registers an operand of the TYPE takes. -/
def lintWords (ty : Nat) : Nat := if ty % 4 = 1 then 2 else 1

/-- TYPE [3] is 0: signed. -/
def lintSigned (ty : Nat) : Bool := !bit ty 3

/-- A function applied element by element to packed values. -/
def mapElems (width n : Nat) (f : Nat → Nat → Nat → Nat) (a b c : Nat) : Nat :=
  (List.range n).foldl (fun acc i =>
    let e (v : Nat) : Nat := (v >>> (width * i)) % 2 ^ width
    acc + (f (e a) (e b) (e c) % 2 ^ width) * 2 ^ (width * i)) 0

/-- Values written to n registers from xd on, for every active thread. -/
def writeLanes (t : Thread) (n xd : Nat) (v : Nat → Nat) (g : Group) : Group :=
  t.active.foldl (fun g l => setLaneWide n g xd l (v l)) g

/-- A LINT operation on the sources it reads (1 XA, 2 XA and XB, 3 all three), element by element. -/
def lintElems (core slot : Nat) (w : BitVec 64) (op : Nat) (name : String) (sources : Nat)
    (f : Nat → Bool → Nat → Nat → Nat → Nat → Nat) (s : State) : Res :=
  issue core slot w mLINT op name s fun t s =>
    let ty := wType t.w
    let n := lintWords ty
    let sh := lintShape ty
    if bit ty 2 || !(regOk t.g n (wXD t.w) && regOk t.g n (wXA t.w) &&
        (sources < 2 || regOk t.g n (wXB t.w)) && (sources < 3 || regOk t.g n (wXC t.w))) then
      failIssue t s stFaultCommand
    else
      finish t s (writeLanes t n (wXD t.w) (fun l =>
        mapElems sh.1 sh.2 (f t.w (lintSigned ty) sh.1) (laneWide n t.g (wXA t.w) l)
          (if 2 ≤ sources then laneWide n t.g (wXB t.w) l else 0) (if 3 ≤ sources then laneWide n t.g (wXC t.w) l else 0)))

def execLintAdd (core slot : Nat) (w : BitVec 64) (s : State) : Res :=
  lintElems core slot w 0x00 "LINT_ADD" 2 (fun _ _ wd a b _ => addW wd a b) s

def execLintSub (core slot : Nat) (w : BitVec 64) (s : State) : Res :=
  lintElems core slot w 0x01 "LINT_SUB" 2 (fun _ _ wd a b _ => subW wd a b) s

def execLintMul (core slot : Nat) (w : BitVec 64) (s : State) : Res :=
  lintElems core slot w 0x02 "LINT_MUL" 2 (fun _ _ wd a b _ => mulW wd a b) s

def execLintMulh (core slot : Nat) (w : BitVec 64) (s : State) : Res :=
  lintElems core slot w 0x03 "LINT_MULH" 2 (fun _ sg wd a b _ => mulhW sg wd a b) s

def execLintMad (core slot : Nat) (w : BitVec 64) (s : State) : Res :=
  lintElems core slot w 0x04 "LINT_MAD" 3 (fun _ _ wd a b c => addW wd (mulW wd a b) c) s

def execLintDiv (core slot : Nat) (w : BitVec 64) (s : State) : Res :=
  lintElems core slot w 0x05 "LINT_DIV" 2 (fun _ sg wd a b _ => divW sg wd a b) s

def execLintRem (core slot : Nat) (w : BitVec 64) (s : State) : Res :=
  lintElems core slot w 0x06 "LINT_REM" 2 (fun _ sg wd a b _ => remW sg wd a b) s

def execLintAnd (core slot : Nat) (w : BitVec 64) (s : State) : Res :=
  lintElems core slot w 0x07 "LINT_AND" 2 (fun _ _ _ a b _ => a &&& b) s

def execLintOr (core slot : Nat) (w : BitVec 64) (s : State) : Res :=
  lintElems core slot w 0x08 "LINT_OR" 2 (fun _ _ _ a b _ => a ||| b) s

def execLintXor (core slot : Nat) (w : BitVec 64) (s : State) : Res :=
  lintElems core slot w 0x09 "LINT_XOR" 2 (fun _ _ _ a b _ => a ^^^ b) s

def execLintShl (core slot : Nat) (w : BitVec 64) (s : State) : Res :=
  lintElems core slot w 0x0A "LINT_SHL" 2 (fun _ _ wd a b _ => shlW wd a b) s

def execLintShr (core slot : Nat) (w : BitVec 64) (s : State) : Res :=
  lintElems core slot w 0x0B "LINT_SHR" 2 (fun _ sg wd a b _ => if sg then sarW wd a b else shrW wd a b) s

def execLintMin (core slot : Nat) (w : BitVec 64) (s : State) : Res :=
  lintElems core slot w 0x0C "LINT_MIN" 2 (fun _ sg wd a b _ => minW sg wd a b) s

def execLintMax (core slot : Nat) (w : BitVec 64) (s : State) : Res :=
  lintElems core slot w 0x0D "LINT_MAX" 2 (fun _ sg wd a b _ => maxW sg wd a b) s

/-- The condition is IMM16[2:0]; an unsigned TYPE compares unsigned (R132). -/
def execLintCmp (core slot : Nat) (w : BitVec 64) (s : State) : Res :=
  lintElems core slot w 0x0E "LINT_CMP" 2 (fun v sg wd a b _ => bnat (condInt (bits (wImm v) 2 0) sg wd a b)) s

def execLintSel (core slot : Nat) (w : BitVec 64) (s : State) : Res :=
  lintElems core slot w 0x0F "LINT_SEL" 3 (fun _ _ _ a b c => if c ≠ 0 then a else b) s

def execLintAddi (core slot : Nat) (w : BitVec 64) (s : State) : Res :=
  lintElems core slot w 0x10 "LINT_ADDI" 1 (fun v _ wd a _ _ => addW wd a (twos wd (wImmS v))) s

def execLintClz (core slot : Nat) (w : BitVec 64) (s : State) : Res :=
  lintElems core slot w 0x11 "LINT_CLZ" 1 (fun _ _ wd a _ _ => clzW wd a) s

def execLintPopc (core slot : Nat) (w : BitVec 64) (s : State) : Res :=
  lintElems core slot w 0x12 "LINT_POPC" 1 (fun _ _ wd a _ _ => popCount wd a) s

/-- A LINT operation that writes one value of the TYPE's registers per thread; `srcs` are the lane registers read. -/
def lintWhole (core slot : Nat) (w : BitVec 64) (op : Nat) (name : String) (srcs : Nat → List Nat)
    (v : Thread → Nat → Nat → Nat) (s : State) : Res :=
  issue core slot w mLINT op name s fun t s =>
    let n := lintWords (wType t.w)
    if bit (wType t.w) 2 || !(regOk t.g n (wXD t.w) && (srcs t.w).all (regOk t.g n)) then failIssue t s stFaultCommand
    else finish t s (writeLanes t n (wXD t.w) (v t n))

/-- MOVS: the scalar named by IMM16[5:0], its low word or the pair (R132). -/
def execLintMovs (core slot : Nat) (w : BitVec 64) (s : State) : Res :=
  lintWhole core slot w 0x13 "LINT_MOVS" (fun _ => []) (fun t _ _ => scalar t.g (bits (wImm t.w) 5 0)) s

/-- LANEID: the thread's number, in the whole operand (R132). -/
def execLintLaneid (core slot : Nat) (w : BitVec 64) (s : State) : Res :=
  lintWhole core slot w 0x14 "LINT_LANEID" (fun _ => []) (fun _ _ l => l) s

/-- SHFL: XA of lane XB mod 32; zero from a thread that is not active (R132, R134). -/
def execLintShfl (core slot : Nat) (w : BitVec 64) (s : State) : Res :=
  lintWhole core slot w 0x15 "LINT_SHFL" (fun v => [wXA v, wXB v]) (fun t n l =>
    let from_ := laneWide n t.g (wXB t.w) l % 32
    if bit t.p.mask from_ then laneWide n t.g (wXA t.w) from_ else 0) s

/-- The threads that vote: active with XA ≠ 0 (R132). -/
def votes (t : Thread) (n : Nat) : List Nat := t.active.filter (fun l => laneWide n t.g (wXA t.w) l != 0)

/-- The value of a vote: any, all or ballot. -/
def voteValue (t : Thread) (n mode : Nat) : Nat :=
  match mode with
  | 0 => bnat (!(votes t n).isEmpty)
  | 1 => bnat ((votes t n).length == t.active.length)
  | _ => maskOf (votes t n)

/-- VOTE (R132). IMM16[1:0] = 3 names no vote: the result is a free value (log entry 15). -/
def execLintVote (core slot : Nat) (w : BitVec 64) (s : State) : Res :=
  issue core slot w mLINT 0x16 "LINT_VOTE" s fun t s =>
    let n := lintWords (wType t.w)
    if bit (wType t.w) 2 || !(regOk t.g n (wXD t.w) && regOk t.g n (wXA t.w)) then failIssue t s stFaultCommand
    else
      let mode := bits (wImm t.w) 1 0
      let r := freshWord s
      let v := if mode = 3 then r.1 % 2 ^ (32 * n) else voteValue t n mode
      finish t (if mode = 3 then r.2 else s) (writeLanes t n (wXD t.w) (fun _ => v))

/-! Lane floating. -/

/-- Format code, element width and count of an LFP TYPE (R132). -/
def lfpShape (ty : Nat) : Nat × Nat × Nat :=
  match ty with
  | 0 => (fmtFP32, 32, 1)
  | 1 => (fmtFP64, 64, 1)
  | 2 => (fmtBF16, 16, 2)
  | _ => (fmtFP16, 16, 2)

/-- Registers an operand of the TYPE takes. -/
def lfpWords (ty : Nat) : Nat := if ty = 1 then 2 else 1

/-- An LFP operation on element codes. -/
def lfpElems (core slot : Nat) (w : BitVec 64) (op : Nat) (name : String) (sources : Nat)
    (f : Nat → Nat → Nat → Nat → Nat → Nat) (s : State) : Res :=
  issue core slot w mLFP op name s fun t s =>
    let ty := wType t.w
    let n := lfpWords ty
    let sh := lfpShape ty
    if 3 < ty || !(regOk t.g n (wXD t.w) && regOk t.g n (wXA t.w) &&
        (sources < 2 || regOk t.g n (wXB t.w)) && (sources < 3 || regOk t.g n (wXC t.w))) ||
        (op == 0x08 && decide (5 < bits (wImm t.w) 2 0)) then
      failIssue t s stFaultCommand
    else
      finish t s (writeLanes t n (wXD t.w) (fun l =>
        mapElems sh.2.1 sh.2.2 (f t.w sh.1) (laneWide n t.g (wXA t.w) l)
          (if 2 ≤ sources then laneWide n t.g (wXB t.w) l else 0) (if 3 ≤ sources then laneWide n t.g (wXC t.w) l else 0)))

/-- A floating operation of values, rounded once to the format (R134). -/
def rounded (f : Num → Num → Num → Num) (_w fmt a b c : Nat) : Nat :=
  encodeElem fmt (f (decodeElem fmt a) (decodeElem fmt b) (decodeElem fmt c))

def execFadd (core slot : Nat) (w : BitVec 64) (s : State) : Res :=
  lfpElems core slot w 0x00 "FADD" 2 (rounded (fun a b _ => addNum a b)) s

def execFsub (core slot : Nat) (w : BitVec 64) (s : State) : Res :=
  lfpElems core slot w 0x01 "FSUB" 2 (rounded (fun a b _ => subNum a b)) s

def execFmul (core slot : Nat) (w : BitVec 64) (s : State) : Res :=
  lfpElems core slot w 0x02 "FMUL" 2 (rounded (fun a b _ => mulNum a b)) s

def execFfma (core slot : Nat) (w : BitVec 64) (s : State) : Res :=
  lfpElems core slot w 0x03 "FFMA" 3 (rounded fmaNum) s

def execFmin (core slot : Nat) (w : BitVec 64) (s : State) : Res :=
  lfpElems core slot w 0x04 "FMIN" 2 (rounded (fun a b _ => minNum a b)) s

def execFmax (core slot : Nat) (w : BitVec 64) (s : State) : Res :=
  lfpElems core slot w 0x05 "FMAX" 2 (rounded (fun a b _ => maxNum a b)) s

/-- FABS: a NaN operand gives the canonical NaN (R172). -/
def execFabs (core slot : Nat) (w : BitVec 64) (s : State) : Res :=
  lfpElems core slot w 0x06 "FABS" 1 (rounded (fun a _ _ => a.abs)) s

/-- FNEG: a NaN operand gives the canonical NaN (R172). -/
def execFneg (core slot : Nat) (w : BitVec 64) (s : State) : Res :=
  lfpElems core slot w 0x07 "FNEG" 1 (rounded (fun a _ _ => a.neg)) s

/-- FCMP: 1 or 0 in each element; conditions 6 and 7 are reserved (R132). -/
def execFcmp (core slot : Nat) (w : BitVec 64) (s : State) : Res :=
  lfpElems core slot w 0x08 "FCMP" 2 (fun v fmt a b _ =>
    bnat (condNum (bits (wImm v) 2 0) (decodeElem fmt a) (decodeElem fmt b))) s

def execFdiv (core slot : Nat) (w : BitVec 64) (s : State) : Res :=
  lfpElems core slot w 0x09 "FDIV" 2 (rounded (fun a b _ => divNum a b)) s

def execFsqrt (core slot : Nat) (w : BitVec 64) (s : State) : Res :=
  lfpElems core slot w 0x0A "FSQRT" 1 (rounded (fun a _ _ => sqrtNum a)) s

/-- A function of the table of R174 on element codes; the numbers are those of R163. -/
def laneFn (fn : Nat) (_w fmt a _b _c : Nat) : Nat := encodeElem fmt (fnNum fn fmt (decodeElem fmt a) a)

def execFrcp (core slot : Nat) (w : BitVec 64) (s : State) : Res :=
  lfpElems core slot w 0x0B "FRCP" 1 (laneFn 0) s

def execFrsq (core slot : Nat) (w : BitVec 64) (s : State) : Res :=
  lfpElems core slot w 0x0C "FRSQ" 1 (laneFn 1) s

def execFexp2 (core slot : Nat) (w : BitVec 64) (s : State) : Res :=
  lfpElems core slot w 0x0D "FEXP2" 1 (laneFn 2) s

def execFlog2 (core slot : Nat) (w : BitVec 64) (s : State) : Res :=
  lfpElems core slot w 0x0E "FLOG2" 1 (laneFn 3) s

def execFsin (core slot : Nat) (w : BitVec 64) (s : State) : Res :=
  lfpElems core slot w 0x0F "FSIN" 1 (laneFn 6) s

def execFcos (core slot : Nat) (w : BitVec 64) (s : State) : Res :=
  lfpElems core slot w 0x10 "FCOS" 1 (laneFn 7) s

/-- Registers that hold n elements of a width: 1, 2 or 4; 0 when they fit no operand (R129). -/
def wordsFor (bitsN : Nat) : Nat := if bitsN ≤ 32 then 1 else if bitsN ≤ 64 then 2 else if bitsN ≤ 128 then 4 else 0

/-- A conversion of n elements from codes of one width to codes of another, packed from bit 0 (log entry 16). -/
def convertElems (n wFrom wTo : Nat) (f : Nat → Nat) (a : Nat) : Nat :=
  (List.range n).foldl (fun acc i => acc + (f ((a >>> (wFrom * i)) % 2 ^ wFrom) % 2 ^ wTo) * 2 ^ (wTo * i)) 0

/-- A lane conversion: source and destination element widths, count, and the map of codes. -/
def laneConvert (t : Thread) (s : State) (ok : Bool) (n wFrom wTo : Nat) (f : Nat → Nat) : Res :=
  let ns := wordsFor (n * wFrom)
  let nd := wordsFor (n * wTo)
  if !ok || ns = 0 || nd = 0 || !(regOk t.g ns (wXA t.w) && regOk t.g nd (wXD t.w)) then failIssue t s stFaultCommand
  else finish t s (writeLanes t nd (wXD t.w) (fun l => convertElems n wFrom wTo f (laneWide ns t.g (wXA t.w) l)))

/-- FCVT: to the format of code IMM16[7:0], an unscaled conversion target of R82. -/
def execFcvt (core slot : Nat) (w : BitVec 64) (s : State) : Res :=
  issue core slot w mLFP 0x11 "FCVT" s fun t s =>
    let ty := wType t.w
    let sh := lfpShape ty
    let code := bits (wImm t.w) 7 0
    laneConvert t s (decide (ty ≤ 3) && isTarget code && modeOf code == 0 && !isRaw (elemOf code)) sh.2.2 sh.2.1
      (elemBits (elemOf code)) (fun c => encodeElem (elemOf code) (decodeElem sh.1 c))

/-- A value as an integer of a LINT TYPE, to nearest, saturated; NaN gives 0 (R134). -/
def toInt (sgn : Bool) (w : Nat) (x : Num) : Nat :=
  if sgn then encodeInt w x
  else
    match x with
    | .nan => 0
    | .inf neg => if neg then 0 else 2 ^ w - 1
    | .fin .. => (clampInt 0 ((2 ^ w : Nat) - 1) (roundInt x)).toNat

/-- ICVT: integer to floating, or floating to integer with IMM16[8] (R132, R134). -/
def execIcvt (core slot : Nat) (w : BitVec 64) (s : State) : Res :=
  issue core slot w mLFP 0x12 "ICVT" s fun t s =>
    let ty := wType t.w
    let it := bits (wImm t.w) 3 0
    let fs := lfpShape ty
    let is := lintShape it
    let ok := decide (ty ≤ 3) && !bit it 2
    if bit (wImm t.w) 8 then
      laneConvert t s ok fs.2.2 fs.2.1 is.1 (fun c => toInt (lintSigned it) is.1 (decodeElem fs.1 c))
    else
      laneConvert t s ok is.2 is.1 fs.2.1 (fun c => encodeElem fs.1 (numOfInt (valueW (lintSigned it) is.1 c)))

/-! Scalar. -/

/-- A SALU operation: SD from the word, SA and SB. DIV, REM, MIN and MAX read them as signed (log entry 17). -/
def salu (core slot : Nat) (w : BitVec 64) (op : Nat) (name : String) (f : Nat → Nat → Nat → Nat) (s : State) : Res :=
  issue core slot w mSALU op name s fun t s =>
    finish t s (fun g => setScalar g (wSD t.w) (f t.w (scalar t.g (wSA t.w)) (scalar t.g (wSB t.w))))

def execSaluAdd (core slot : Nat) (w : BitVec 64) (s : State) : Res :=
  salu core slot w 0x00 "SALU_ADD" (fun _ a b => addW 64 a b) s

def execSaluSub (core slot : Nat) (w : BitVec 64) (s : State) : Res :=
  salu core slot w 0x01 "SALU_SUB" (fun _ a b => subW 64 a b) s

def execSaluMul (core slot : Nat) (w : BitVec 64) (s : State) : Res :=
  salu core slot w 0x02 "SALU_MUL" (fun _ a b => mulW 64 a b) s

def execSaluDiv (core slot : Nat) (w : BitVec 64) (s : State) : Res :=
  salu core slot w 0x03 "SALU_DIV" (fun _ a b => divW true 64 a b) s

def execSaluRem (core slot : Nat) (w : BitVec 64) (s : State) : Res :=
  salu core slot w 0x04 "SALU_REM" (fun _ a b => remW true 64 a b) s

def execSaluAnd (core slot : Nat) (w : BitVec 64) (s : State) : Res :=
  salu core slot w 0x05 "SALU_AND" (fun _ a b => a &&& b) s

def execSaluOr (core slot : Nat) (w : BitVec 64) (s : State) : Res :=
  salu core slot w 0x06 "SALU_OR" (fun _ a b => a ||| b) s

def execSaluXor (core slot : Nat) (w : BitVec 64) (s : State) : Res :=
  salu core slot w 0x07 "SALU_XOR" (fun _ a b => a ^^^ b) s

def execSaluShl (core slot : Nat) (w : BitVec 64) (s : State) : Res :=
  salu core slot w 0x08 "SALU_SHL" (fun _ a b => shlW 64 a b) s

def execSaluShr (core slot : Nat) (w : BitVec 64) (s : State) : Res :=
  salu core slot w 0x09 "SALU_SHR" (fun _ a b => shrW 64 a b) s

def execSaluSar (core slot : Nat) (w : BitVec 64) (s : State) : Res :=
  salu core slot w 0x0A "SALU_SAR" (fun _ a b => sarW 64 a b) s

def execSaluMin (core slot : Nat) (w : BitVec 64) (s : State) : Res :=
  salu core slot w 0x0B "SALU_MIN" (fun _ a b => minW true 64 a b) s

def execSaluMax (core slot : Nat) (w : BitVec 64) (s : State) : Res :=
  salu core slot w 0x0C "SALU_MAX" (fun _ a b => maxW true 64 a b) s

def execSaluCmp (core slot : Nat) (w : BitVec 64) (s : State) : Res :=
  salu core slot w 0x0D "SALU_CMP" (fun v a b => bnat (condInt (bits (wFlags v) 2 0) true 64 a b)) s

/-- LI: IMM16 into SD bits [16f+15:16f], f = FLAGS[1:0]; the other bits kept, or cleared first with FLAGS[2] (R132). -/
def execSaluLi (core slot : Nat) (w : BitVec 64) (s : State) : Res :=
  issue core slot w mSALU 0x0E "SALU_LI" s fun t s =>
    let f := bits (wFlags t.w) 1 0
    let old := if bit (wFlags t.w) 2 then 0 else scalar t.g (wSD t.w)
    finish t s (fun g => setScalar g (wSD t.w) (setBits old (16 * f + 15) (16 * f) (wImm t.w)))

def execSaluAddi (core slot : Nat) (w : BitVec 64) (s : State) : Res :=
  salu core slot w 0x0F "SALU_ADDI" (fun v a _ => addW 64 a (twos 64 (wImmS v))) s

/-- The value of an SREAD selector (R132); other selectors name nothing. -/
def selectorValue (s : State) (t : Thread) (sel : Nat) : Option Nat :=
  match sel with
  | 0 => some t.core
  | 1 => some (clusterOf s t.core)
  | 2 => some (dieOf s t.core)
  | 3 => some t.slot
  | 4 => some t.g.ctx
  | 5 => some (ctxPartition s t.g.ctx)
  | 6 => some s.tick.count.toNat
  | 7 => some s.tick.time.toNat
  | 8 => some s.tick.boundary.toNat
  | 9 => some t.g.scratchAt
  | 10 => some t.g.launchIdx
  | _ => none

/-- SREAD (R132). A selector of no meaning gives a free value (log entry 15). -/
def execSread (core slot : Nat) (w : BitVec 64) (s : State) : Res :=
  issue core slot w mSALU 0x10 "SREAD" s fun t s =>
    match selectorValue s t (wImm t.w) with
    | some v => finish t s (fun g => setScalar g (wSD t.w) v)
    | none => finish t (freshWord s).2 (fun g => setScalar g (wSD t.w) (freshWord s).1)

/-- XTOS: the lane register IMM16[7:0] of the lowest active thread (R132). -/
def execXtos (core slot : Nat) (w : BitVec 64) (s : State) : Res :=
  issue core slot w mSALU 0x11 "XTOS" s fun t s =>
    let r := bits (wImm t.w) 7 0
    if !regOk t.g 1 r then failIssue t s stFaultCommand
    else finish t s (fun g => setScalar g (wSD t.w) (lane t.g r (t.active.head?.getD 0)))

end Sys2Proof.Machine
end

