-- ==== Sys2Proof/Machine/LaneMemory.lean ====
section
/-!
DEFINITION. Lane memory and atomics (R133, R143, R146, R227, R268, R274, R275): classes LMEM, CMEM and ATOM but ATR, with
the store buffer and the data cache.
-/

namespace Sys2Proof.Machine

/-- Words of a data operand by SIZE (R133). -/
def sizeWords (size : Nat) : Nat := if size ≤ 2 then 1 else 2 ^ (size - 2)

/-! Local store. -/

/-- The local-store address of a thread: XA[20:0] + IMM16 (R133). -/
def lsAddr (t : Thread) (l : Nat) : Int := (lane t.g (wXA t.w) l % 2 ^ 21 : Nat) + wImmS t.w

/-- The access of n bytes is aligned and lies in the allocation (R133). -/
def lsGood (s : State) (t : Thread) (n : Nat) (a : Int) : Bool :=
  decide (0 ≤ a) && a.toNat % n == 0 && lsRange s t.core t.g.ctx a.toNat n

/-- The 4-byte words an access of n bytes covers. -/
def lsWords (a n : Nat) : List Nat := (List.range (ceilDiv n 4)).map (fun i => a / 4 + i)

/-- D of R143: the most words one bank delivers; the words count once unless `each`. -/
def replayD (words : List Nat) (each : Bool) : Nat :=
  let ws := if each then words else words.eraseDups
  (List.range 32).foldl (fun d b => max d (ws.countP (fun x => x % 32 == b))) 1

/-- The replay cycles of an access are counted (R143, R463). -/
def noteReplay (s : State) (t : Thread) (n : Nat) (each : Bool) : State :=
  let ws := (t.active.map (fun l => lsWords (lsAddr t l).toNat n)).flatten
  coreEvent s t.core 0x06 (some t.g.ctx) (replayD ws each - 1)

/-- LDL: bytes of the local store, extended with zeros to the register (R132, R133, log entry 19). -/
def execLdl (core slot : Nat) (w : BitVec 64) (s : State) : Res :=
  issue core slot w mLMEM 0x00 "LDL" s fun t s =>
    let size := wType t.w
    let n := 2 ^ size
    let k := sizeWords size
    if 4 < size || !(regOk t.g k (wXD t.w) && regOk t.g 1 (wXA t.w)) then failIssue t s stFaultCommand
    else if !t.active.all (fun l => lsGood s t n (lsAddr t l)) then failIssue t s stFaultAccess
    else
      finish t (noteReplay s t n false)
        (writeLanes t k (wXD t.w) (fun l => ofLE (lsRead s core t.g.ctx (lsAddr t l).toNat n)))

/-- STL, threads in ascending lane (R133, R268). -/
def execStl (core slot : Nat) (w : BitVec 64) (s : State) : Res :=
  issue core slot w mLMEM 0x01 "STL" s fun t s =>
    let size := wType t.w
    let n := 2 ^ size
    let k := sizeWords size
    if 4 < size || !(regOk t.g k (wXB t.w) && regOk t.g 1 (wXA t.w)) then failIssue t s stFaultCommand
    else if !t.active.all (fun l => lsGood s t n (lsAddr t l)) then failIssue t s stFaultAccess
    else
      finish t (t.active.foldl (fun s l =>
        lsWrite s core t.g.ctx (lsAddr t l).toNat (toLE n (laneWide k t.g (wXB t.w) l))) (noteReplay s t n false)) id

/-! The store buffer, the data cache and the fills of a core (R146, R230, R268, R270). -/

/-- Bytes by offset laid into a line. -/
def overlayAssoc (d : List Byte) (m : Assoc Byte) : List Byte := m.foldl (fun d e => setAt d e.1 e.2) d

/-- The stores of a core to a physical line that have not been performed at the home slice, oldest first. -/
def pendingStores (s : State) (core pa : Nat) : List (Assoc Byte) :=
  (s.mem.slices.map (fun e => e.2.reqs.filterMap (fun r => match r with
    | .store c _ _ x => if c = core && x.pa = pa then some x.data else none
    | _ => none))).flatten ++
  ((coreSt s core).stores.filter (fun e => e.pa == pa)).map SbEntry.data

/-- A line as the issuing core sees it: its own buffered stores laid over it (R146, R265). -/
def ownView (s : State) (core pa : Nat) (d : List Byte) : List Byte := (pendingStores s core pa).foldl overlayAssoc d

/-- Bytes by offset written to the line at its home slice, or at the stack when it has none there (R225). -/
def atticMerge (s : State) (master : Nat) (q : Option Nat) (pa : Nat) (m : Assoc Byte) : State :=
  m.foldl (fun s e => (atticWriteLine s master q (pa + e.1) [e.2]).st) s

/-- A buffered store performed at its home slice (R225, R270). -/
def performStore (s : State) (e : SbEntry) : State := atticMerge s e.ctx (some e.queue) e.pa e.data

/-- A store joins the requests of a slice: behind them, but before the stores to its line that came in the same cycle from cores above its
own (R240). -/
def placeStore (l : List AtticReq) (core at_ seq : Nat) (e : SbEntry) : List AtticReq :=
  let after (r : AtticReq) : Bool := match r with
    | .store c t _ x => t == at_ && x.pa == e.pa && decide (core < c)
    | .line _ _ _ _ _ => false
  l.takeWhile (fun r => !after r) ++ .store core at_ seq e :: l.dropWhile (fun r => !after r)

/-- A store of a core leaves for its home slice, or is performed where its line has none (R270). -/
def sendStore (core : Nat) (s : State) (e : SbEntry) : State :=
  match homeSlice s e.pa with
  | some slice =>
    let k := sliceSt s slice
    let seq := (coreSt s core).nextStore
    let s := setSlice s slice { k with reqs := placeStore k.reqs core s.tick.time.toNat seq e }
    modCore s core (fun k => { k with nextStore := seq + 1 })
  | none => performStore s e

/-- Every entry of a core's store buffer leaves (R273). -/
def sendStores (s : State) (core : Nat) : State :=
  let es := (coreSt s core).stores
  es.foldl (sendStore core) (modCore s core (fun k => { k with stores := [] }))

/-- Stores of a core numbered below `upto` have not been performed at their slices. -/
def storesAwaited (s : State) (core upto : Nat) : Bool :=
  anyValue s.mem.slices (fun _ k => k.reqs.any (fun r => match r with
    | .store c _ n _ => c == core && decide (n < upto)
    | .line _ _ _ _ _ => false))

/-- The groups of a core that wait for stores which are now performed have their fence over (R273). -/
def endFences (s : State) (core : Nat) : State :=
  let ended (g : Group) : Bool := match g.cond with
    | .fence upto => !storesAwaited s core upto
    | _ => false
  let s := modCore s core (fun k => { k with groups := mapValues k.groups (fun _ g => if ended g then { g with fenced := true } else g) })
  clearWhere s core ended

/-- An instruction that has a FENCE.ST of scope 2 to 5 before its effect (R273, R275, R286, R290): the core's stores leave its buffer, and
the group waits in the pending set until they are performed; then the instruction goes on. -/
def fenceFirst (t : Thread) (s : State) (k : State → Res) : Res :=
  if t.g.fenced then k s
  else
    let s := sendStores s t.core
    let upto := (coreSt s t.core).nextStore
    if storesAwaited s t.core upto then
      match groupAt s t.core t.slot with
      | some g => .next (park s t.core t.slot g (.fence upto))
      | none => .next s
    else k s

/-- The lines of a core's data cache that satisfy p are discarded; those on their way are hit by no later access. -/
def dropData (s : State) (core : Nat) (p : Nat → Nat → Nat → Bool) : State :=
  modCore s core (fun k => { k with
    dcache := dropCtxLines k.dcache (fun l => p l.ctx l.va l.pa)
    fills := k.fills.map (fun f => if !f.icache && p f.ctx f.va f.pa then { f with stale := true } else f) })

/-- The context's data-cache lines on a core are discarded (R268, R272, R290). -/
def discardData (s : State) (core ctx : Nat) : State := dropData s core (fun c _ _ => c == ctx)

/-- A line of a core's data cache takes stored bytes (R270). -/
def updateLines (s : State) (core pa off : Nat) (b : List Byte) : State :=
  modCore s core (fun k => { k with
    dcache := mapValues k.dcache (fun _ c => { c with ways := c.ways.map (fun w => w.map (fun l =>
      if l.pa = pa then { l with data := overlayBytes l.data off b } else l)) })
    fills := k.fills.map (fun f =>
      if !f.icache && f.pa = pa then { f with data := f.data.map (fun d => overlayBytes d off b) } else f) })

/-- A store into the store buffer, through a virtual page: merged into its line's entry; with 16 entries the oldest leaves for its home slice
first (R146, R265, log entry 20). -/
def bufferStore (s : State) (core ctx q va pa : Nat) (b : List Byte) : State :=
  let base := pa / 128 * 128
  let off := pa % 128
  let page := va / 65536 * 65536
  let s := updateLines s core base off b
  let k := coreSt s core
  if k.stores.any (fun e => e.ctx == ctx && e.pa == base) then
    setCore s core { k with stores := k.stores.map (fun e =>
      if e.ctx = ctx && e.pa = base then
        { e with queue := q, pages := addOnce e.pages page, data := putBytes e.data off b }
      else e) }
  else
    let s := match k.stores with
      | old :: rest => if 16 ≤ k.stores.length then sendStore core (setCore s core { k with stores := rest }) old else s
      | [] => s
    modCore s core (fun k => { k with stores := k.stores ++ [⟨ctx, q, base, [page], putBytes [] off b⟩] })

/-! Cached space. -/

/-- The cached-space address of a thread: the pair XA, bits [47:0], + IMM16 (R133). -/
def laneVa (t : Thread) (l : Nat) : Nat := twos 48 ((laneWide 2 t.g (wXA t.w) l % 2 ^ 48 : Nat) + wImmS t.w)

/-- The access is aligned to its size and lies in the cached space (R133, R210). -/
def vaGood (n va : Nat) : Bool := va % n == 0 && cachedVa va

/-- The translations of the active threads in ascending lane: thread, virtual and physical address, leaf. `none`: the
group waits for a translation (R155). -/
def xlateLanes (t : Thread) (acc : Nat) (s : State) : Option (List (Nat × Nat × Nat × Nat)) × State :=
  t.active.foldl (fun r l =>
    match r.1 with
    | none => r
    | some done =>
      let va := laneVa t l
      match xlate r.2 (.lane t.core t.slot) t.g.ctx va acc t.g.queue with
      | (some (pa, leaf), s) => (some (done ++ [(l, va, pa, leaf)]), s)
      | (none, s) => (none, wait_ s t.core t.slot t.g (.walk va))) (some [], s)

/-- The line of an access is one whose data an earlier load of the group waits for: a later access to its bytes keeps its place (R265). -/
def lineAhead (g : Group) (xs : List (Nat × Nat × Nat × Nat)) : Option Nat :=
  (xs.find? (fun x => g.loads.any (fun ld => ld.lanes.any (fun e => e.2.2 / 128 == x.2.2.1 / 128)))).map (fun x => x.2.1 / 128 * 128)

/-- The line of the group's first load whose data is on its way. -/
def Group.firstLoad (g : Group) : Option Nat := (g.loads.head?.bind (fun ld => ld.lanes.head?)).map (fun e => e.2.1 / 128 * 128)

/-- The bytes of a line that a load finds: in the data cache, or on their way with the sector here (R230). -/
def loadLine (s : State) (t : Thread) (va : Nat) : Option (List Byte × State) :=
  let k := coreSt s t.core
  match cacheLine k false t.g.ctx va with
  | some (l, k) => some (l.data, setCore s t.core k)
  | none =>
    match fillOf k false t.g.ctx va with
    | some f =>
      match f.data, sectorHere f va with
      | some d, true => some (d, s)
      | _, _ => none
    | none => none

/-- What the loads of an instruction find: the values by thread, the threads whose data is on its way, and the state; not ok when an access
met a fault. -/
structure Loads where
  vals : List (Nat × Nat)
  rest : List (Nat × Nat × Nat)
  ok   : Bool
  st   : State

/-- The load of one thread (R146, R227, R230): its value, or the line it waits for, asked for once. -/
def loadOne (t : Thread) (n : Nat) (r : Loads) (x : Nat × Nat × Nat × Nat) : Loads :=
  if !r.ok then r
  else
    let va := x.2.1
    let pa := x.2.2.1
    let leaf := x.2.2.2
    if leafStrict leaf then
      let m := memRead r.st t.g.ctx (some t.g.queue) pa n
      { r with vals := r.vals ++ [(x.1, ofLE m.data)], ok := m.ok, st := m.st }
    else
      match loadLine r.st t va with
      | some (d, s) => { r with vals := r.vals ++ [(x.1, fieldLE (ownView s t.core (pa / 128 * 128) d) (va % 128) n)], st := s }
      | none =>
        let rest := r.rest ++ [(x.1, va, pa)]
        match fillOf (coreSt r.st t.core) false t.g.ctx va with
        | some _ => { r with rest := rest }
        | none =>
          let m := askLine (coreEvent r.st t.core 0x04 (some t.g.ctx) 1) t.core false t.g.ctx t.g.queue va pa leaf
          { r with rest := rest, ok := m.ok, st := m.st }

/-- The values of some threads written to the k registers from xd on. -/
def putLanes (k xd : Nat) (vs : List (Nat × Nat)) (g : Group) : Group := vs.foldl (fun g e => setLaneWide k g xd e.1 e.2) g

/-- LDC: a load of the cached space, extended with zeros to the register (R132, R133, R146). The instruction completes; the threads whose
data is on its way have it when its sector arrives, and a later instruction that names their registers waits for it (R126, R230). -/
def execLdc (core slot : Nat) (w : BitVec 64) (s : State) : Res :=
  issue core slot w mCMEM 0x00 "LDC" s fun t s =>
    let size := wType t.w
    let n := 2 ^ size
    let k := sizeWords size
    if 4 < size || !(regOk t.g k (wXD t.w) && regOk t.g 2 (wXA t.w)) then failIssue t s stFaultCommand
    else if !t.active.all (fun l => vaGood n (laneVa t l)) then failIssue t s stFaultAccess
    else
      match xlateLanes t 1 s with
      | (none, s) => .next s
      | (some xs, s) =>
        let r := xs.foldl (loadOne t n) ⟨[], [], true, s⟩
        if !r.ok then .next r.st
        else
          finish t r.st (fun g =>
            let g := putLanes k (wXD t.w) r.vals g
            if r.rest.isEmpty then g else { g with loads := g.loads ++ [⟨wXD t.w, k, n, r.rest⟩] })

/-- One thread's store (R146, R227). -/
def storeOne (t : Thread) (n k : Nat) (s : State) (x : Nat × Nat × Nat × Nat) : State :=
  let b := toLE n (laneWide k t.g (wXB t.w) x.1)
  if leafStrict x.2.2.2 then (memWrite s t.g.ctx (some t.g.queue) x.2.2.1 b).st
  else bufferStore s t.core t.g.ctx t.g.queue x.2.1 x.2.2.1 b

/-- STC: a store to the cached space through the store buffer (R133, R146, R270). -/
def execStc (core slot : Nat) (w : BitVec 64) (s : State) : Res :=
  issue core slot w mCMEM 0x01 "STC" s fun t s =>
    let size := wType t.w
    let n := 2 ^ size
    let k := sizeWords size
    if 4 < size || !(regOk t.g k (wXB t.w) && regOk t.g 2 (wXA t.w)) then failIssue t s stFaultCommand
    else if !t.active.all (fun l => vaGood n (laneVa t l)) then failIssue t s stFaultAccess
    else
      match xlateLanes t 2 s with
      | (none, s) => .next s
      | (some xs, s) =>
        match lineAhead t.g xs with
        | some va => stallOn t s (.lineMiss false va)
        | none => finish t (xs.foldl (storeOne t n k) s) id

/-! Atomics. -/

/-- Words of an ATOM operand, and whether the word's fields are legal (R132, R133); `needScope` asks for a legal SCOPE. -/
def atomOk (t : Thread) (needScope : Bool) (addrWords : Nat) : Bool :=
  let size := wType t.w
  let k := sizeWords size
  let aop := wAop t.w
  (size == 2 || size == 3) && decide (aop ≤ 10) && (aop != 10 || size == 2) && (!needScope || decide (wScope t.w ≤ 5)) &&
    regOk t.g k (wXD t.w) && regOk t.g k (wXB t.w) && (aop != 9 || regOk t.g k (wXB t.w + k)) &&
    regOk t.g addrWords (wXA t.w)

/-- The new value an atomic of a thread stores, given the old one. -/
def atomValue (t : Thread) (l old : Nat) : Nat :=
  let k := sizeWords (wType t.w)
  atomicNew (wAop t.w) (32 * k) old (laneWide k t.g (wXB t.w) l) (laneWide k t.g (wXB t.w + k) l)

/-- One thread's atomic on local store: the old values so far, and the state. -/
def atlOne (t : Thread) (n : Nat) (r : List (Nat × Nat) × State) (l : Nat) : List (Nat × Nat) × State :=
  let a := (lsAddr t l).toNat
  let old := ofLE (lsRead r.2 t.core t.g.ctx a n)
  (r.1 ++ [(l, old)], lsWrite r.2 t.core t.g.ctx a (toLE n (atomValue t l old)))

/-- ATL: atomics on local store in ascending lane (R133, R274). -/
def execAtl (core slot : Nat) (w : BitVec 64) (s : State) : Res :=
  issue core slot w mATOM 0x00 "ATL" s fun t s =>
    let n := 2 ^ wType t.w
    if !atomOk t false 1 then failIssue t s stFaultCommand
    else if !t.active.all (fun l => lsGood s t n (lsAddr t l)) then failIssue t s stFaultAccess
    else
      let r := t.active.foldl (atlOne t n) ([], noteReplay s t n true)
      finish t r.2 (writeLanes t (sizeWords (wType t.w)) (wXD t.w) (fun l => (find r.1 l).getD 0))

/-- One thread's atomic on cached space, at the home slice or the stack controller (R227, R274). -/
def atcOne (t : Thread) (n : Nat) (r : List (Nat × Nat) × State) (x : Nat × Nat × Nat × Nat) : List (Nat × Nat) × State :=
  let q := some t.g.queue
  let pa := x.2.2.1
  let strict := leafStrict x.2.2.2
  let m := if strict then memRead r.2 t.g.ctx q pa n else atticReadLine r.2 t.g.ctx q pa n
  if !m.ok then (r.1, m.st)
  else
    let old := ofLE m.data
    let b := toLE n (atomValue t x.1 old)
    let m := if strict then memWrite m.st t.g.ctx q pa b else atticWriteLine m.st t.g.ctx q pa b
    (r.1 ++ [(x.1, old)], dropData m.st t.core (fun c _ p => c == t.g.ctx && p == pa / 128 * 128))

/-- ATC: atomics on cached space in ascending lane, with a FENCE.ALL of the scope before and after (R274, R275); at every scope the core's
own stores come first (R265, log entry 20). -/
def execAtc (core slot : Nat) (w : BitVec 64) (s : State) : Res :=
  issue core slot w mATOM 0x01 "ATC" s fun t s =>
    let n := 2 ^ wType t.w
    if !atomOk t true 2 then failIssue t s stFaultCommand
    else if !t.active.all (fun l => vaGood n (laneVa t l)) then failIssue t s stFaultAccess
    else
      match xlateLanes t 11 s with
      | (none, s) => .next s
      | (some xs, s) =>
        match t.g.firstLoad with
        | some va => stallOn t s (.lineMiss false va)
        | none =>
          fenceFirst t s fun s =>
            let r := xs.foldl (atcOne t n) ([], s)
            let s := if 2 ≤ wScope t.w then discardData r.2 core t.g.ctx else r.2
            finish t s (putLanes (sizeWords (wType t.w)) (wXD t.w) r.1)

/-! Events of the caches. -/

/-- STORE_BUFFER_DRAIN: entry i of a core's store buffer leaves for its home slice (R270). -/
def execStoreBufferDrain (core i : Nat) (s : State) : Res :=
  needs ((coreSt s core).stores[i]?) "STORE_BUFFER_DRAIN" fun e =>
    .next (sendStore core (modCore s core (fun k => { k with stores := removeAt k.stores i })) e)

/-- A load of a group takes the data of a fill whose sector is here: for each of its threads that waits for it, in the line as the core sees
it. -/
def LaneLoad.take (f : LineFill) (d : List Byte) (ld : LaneLoad) : List (Nat × Nat) × LaneLoad :=
  let here (e : Nat × Nat × Nat) : Bool := e.2.1 / 128 * 128 == f.va && sectorHere f e.2.1
  ((ld.lanes.filter here).map (fun e => (e.1, fieldLE d (e.2.1 % 128) ld.size)), { ld with lanes := ld.lanes.filter (fun e => !here e) })

/-- The loads of a group of the fill's context take the data that is here (R230). -/
def Group.takeSector (f : LineFill) (d : List Byte) (g : Group) : Group :=
  if g.ctx = f.ctx then
    let g := g.loads.foldl (fun g ld => putLanes ld.words ld.reg (ld.take f d).1 g) g
    { g with loads := (g.loads.map (fun ld => (ld.take f d).2)).filter (fun ld => !ld.lanes.isEmpty) }
  else g

/-- A group waits for the line, and what it waits for is here: its instruction's sector, or the data of a load (R230). -/
def servedBy (f : LineFill) (g : Group) : Bool :=
  g.ctx == f.ctx && match g.cond with
    | .lineMiss ic va => ic == f.icache && va == f.va && (!f.icache || (g.run.map (fun p => sectorHere f p.pc)).getD true)
    | _ => false

/-- A sector of a fill is here: data loads take their values, and the groups that waited for it go on (R230). -/
def deliverSector (s : State) (core : Nat) (f : LineFill) (d : List Byte) : State :=
  let s := if f.icache then s
    else
      let d := ownView s core f.pa d
      modCore s core (fun k => { k with groups := mapValues k.groups (fun _ g => g.takeSector f d) })
  clearWhere s core (servedBy f)

/-- A line whose four sectors are here is held by its cache, unless it was discarded on its way (R145, R230). -/
def keepLine (k : Core) (f : LineFill) (d : List Byte) : Core :=
  if f.stale then k
  else
    let set := lineSet f.icache f.va
    let ways := if f.icache then 4 else 8
    let depth := if f.icache then 2 else 3
    let c := (find (k.cache f.icache) set).getD (CacheSet.empty ways)
    k.withCache f.icache (insert (k.cache f.icache) set (c.place depth (c.victim depth) ⟨f.ctx, f.va, f.pa, d⟩))

/-- CACHE_SECTOR_ARRIVAL: the next sector of fill i of one of a core's caches arrives; accesses that wait for it go on, and the line is held
once its four sectors are here (R230). -/
def execCacheSectorArrival (core : Nat) (icache : Bool) (i : Nat) (s : State) : Res :=
  let k := coreSt s core
  match k.fills[i]? with
  | none => .refused (.notEnabled "CACHE_SECTOR_ARRIVAL")
  | some f =>
    match f.data with
    | none => .refused (.notEnabled "CACHE_SECTOR_ARRIVAL")
    | some d =>
      if f.icache ≠ icache then .refused (.notEnabled "CACHE_SECTOR_ARRIVAL")
      else
        let f := { f with arrived := f.arrived + 1 }
        let s := setCore s core
          (if f.arrived < 4 then { k with fills := setAt k.fills i f } else keepLine { k with fills := removeAt k.fills i } f d)
        .next (deliverSector s core f d)

/-- ICINV: the context's instruction-cache lines on the core leave (R147). -/
def dropCode (s : State) (core ctx : Nat) : State :=
  let s := modCore s core (fun k => { k with
    icache := dropCtxLines k.icache (fun l => l.ctx == ctx)
    fills := k.fills.filter (fun f => !f.icache || f.ctx != ctx) })
  clearWhere s core (fun g => g.ctx == ctx && match g.cond with
    | .lineMiss true _ => true
    | _ => false)

end Sys2Proof.Machine
end

