-- ==== Sys2Proof/Machine/Control.lean ====
section
/-!
DEFINITION. Control instructions (R137 to R141) and the life of a group on its core (R124 to R128, R139, R292): class
CTRL, residency, promotion, rotation and clock gating.
-/

namespace Sys2Proof.Machine

/-- The target of a branch (R131). -/
def branchTarget (t : Thread) : Nat := twos 48 ((t.p.pc : Int) + 8 * wOffset t.w)

/-- The instruction completes with the group as f leaves it, where f moves the path itself. -/
def finishAt (t : Thread) (s : State) (f : Group → Group) : Res :=
  let s := noted t s false
  match groupAt s t.core t.slot with
  | some g => .next (placeGroup s t.core t.slot (f g))
  | none => .next s

/-- The whole path goes to a target (R139). -/
def jumpTo (t : Thread) (s : State) (target : Nat) : Res := finishAt t s (fun g => movePc g target true)

/-- The running path's count of backward transfers, for a division whose running part or pushed part goes to a target at
or below its PC (R139, R158). -/
def countBack (pc target : Nat) (g : Group) : Group :=
  if target ≤ pc then { g with run := g.run.map (fun p => { p with back := p.back + 1 }) } else g

/-- The path divides (R137, R141): too deep a stack is FAULT_COMMAND. -/
def divideTo (t : Thread) (s : State) (run : Nat × Nat) (others : List (Nat × Nat)) (back : Nat) : Res :=
  if t.g.depth < t.g.stack.length + others.length then failIssue t s stFaultCommand
  else finishAt t s (fun g => divide (countBack t.p.pc back g) (wRpc t.w) run others)

/-- A branch on a lane register (R137): the not-taken threads continue, the taken ones are pushed. -/
def branchLanes (core slot : Nat) (w : BitVec 64) (op : Nat) (name : String) (takes : Nat → Bool) (s : State) : Res :=
  issue core slot w mCTRL op name s fun t s =>
    if !regOk t.g 1 (wBrX t.w) then failIssue t s stFaultCommand
    else
      let taken := t.active.filter (fun l => takes (lane t.g (wBrX t.w) l))
      if taken.isEmpty then finish t s id
      else if taken.length = t.active.length then jumpTo t s (branchTarget t)
      else
        let m := maskOf taken
        divideTo t s ((t.p.pc + 8) % 2 ^ 48, t.p.mask - m) [(branchTarget t, m)] (branchTarget t)

def execBz (core slot : Nat) (w : BitVec 64) (s : State) : Res :=
  branchLanes core slot w 0x00 "BZ" (fun v => v == 0) s

def execBnz (core slot : Nat) (w : BitVec 64) (s : State) : Res :=
  branchLanes core slot w 0x01 "BNZ" (fun v => v != 0) s

/-- A branch on a scalar register never divides (R137). -/
def branchScalar (core slot : Nat) (w : BitVec 64) (op : Nat) (name : String) (takes : Nat → Bool) (s : State) : Res :=
  issue core slot w mCTRL op name s fun t s =>
    if takes (scalar t.g (bits t.w 21 16)) then jumpTo t s (branchTarget t) else finish t s id

def execBsz (core slot : Nat) (w : BitVec 64) (s : State) : Res :=
  branchScalar core slot w 0x02 "BSZ" (fun v => v == 0) s

def execBsnz (core slot : Nat) (w : BitVec 64) (s : State) : Res :=
  branchScalar core slot w 0x03 "BSNZ" (fun v => v != 0) s

def execJmp (core slot : Nat) (w : BitVec 64) (s : State) : Res :=
  issue core slot w mCTRL 0x04 "JMP" s fun t s => jumpTo t s (branchTarget t)

/-- CALL: the return address to the pair XA of the active threads (R132). -/
def execCall (core slot : Nat) (w : BitVec 64) (s : State) : Res :=
  issue core slot w mCTRL 0x05 "CALL" s fun t s =>
    if !regOk t.g 2 (wBrX t.w) then failIssue t s stFaultCommand
    else
      finishAt t s (fun g =>
        movePc (writeLanes t 2 (wBrX t.w) (fun _ => (t.p.pc + 8) % 2 ^ 48) g) (branchTarget t) true)

/-- A number put in its place in a rising list without repeats. -/
def insertRising (x : Nat) : List Nat → List Nat
  | [] => [x]
  | y :: l => if x < y then x :: y :: l else if x = y then y :: l else y :: insertRising x l

/-- The target of a JR for a thread. -/
def jrTarget (t : Thread) (l : Nat) : Nat := laneWide 2 t.g (wBrX t.w) l % 2 ^ 48

/-- The distinct targets of a JR, ascending. -/
def jrTargets (t : Thread) : List Nat := t.active.foldl (fun ts l => insertRising (jrTarget t l) ts) []

/-- The threads that go to a target. -/
def jrMask (t : Thread) (target : Nat) : Nat := maskOf (t.active.filter (fun l => jrTarget t l == target))

/-- JR: the lowest target continues; the second-lowest ends on top of the pushed ones (R137). -/
def execJr (core slot : Nat) (w : BitVec 64) (s : State) : Res :=
  issue core slot w mCTRL 0x06 "JR" s fun t s =>
    if !regOk t.g 2 (wBrX t.w) then failIssue t s stFaultCommand
    else
      match jrTargets t with
      | [] => finish t s id
      | [a] => jumpTo t s a
      | a :: rest => divideTo t s (a, jrMask t a) (rest.reverse.map (fun b => (b, jrMask t b))) a

/-- The group after its running path's threads have exited (R125, R138). -/
def exitPath (g : Group) : Group :=
  match g.run with
  | some p => settle { g with live := g.live &&& (2 ^ 32 - 1 - p.mask % 2 ^ 32), run := none }
  | none => g

/-- EXIT: the path's threads exit; the group leaves residency with its last thread (R125, R138). -/
def execExit (core slot : Nat) (w : BitVec 64) (s : State) : Res :=
  issue core slot w mCTRL 0x07 "EXIT" s fun t s =>
    let s := noted t s false
    match groupAt s core slot with
    | none => .next s
    | some g =>
      let g := exitPath g
      if g.run.isNone && g.stack.isEmpty then .next (noteEnd (dropGroup s core slot) g.queue core)
      else .next (placeGroup s core slot g)

/-- PATH_ROTATION: the running path has made 64 backward transfers and the group has another path that can be scheduled (R139; with every
other path blocked the running one goes on). -/
def execPathRotation (core slot : Nat) (s : State) : Res :=
  let s := reloadPaths s core slot
  needs (groupAt s core slot) "PATH_ROTATION" fun g =>
    match g.run with
    | some p =>
      if 64 ≤ p.back && canRotate g && p.canRun && g.active && g.cond == .clear then
        .next (placeGroup (coreEvent s core 0x07 (some g.ctx) 1) core slot (settle (rotate g)))
      else .refused (.notEnabled "PATH_ROTATION")
    | none => .refused (.notEnabled "PATH_ROTATION")

/-! Residency (R123 to R128). -/

/-- Static-region bytes a group takes (R124). -/
def staticNeed (depth scratch : Nat) : Nat := scratch + (depth - 8) * 16

/-- Register blocks taken on a core (R124). -/
def blocksUsed (k : Core) : Nat := k.groups.foldl (fun n e => n + e.2.regs / 16) 0

/-- The lowest free slot of a core. -/
def freeSlot (k : Core) : Option Nat := (List.range 64).find? (fun i => (find k.groups i).isNone)

/-- The static ranges that resident groups of a context hold on a core. -/
def staticTaken (k : Core) (ctx : Nat) : List (Nat × Nat) :=
  (k.groups.filter (fun e => e.2.ctx == ctx)).map (fun e => (e.2.scratchAt, e.2.scratchAt + staticNeed e.2.depth e.2.scratch))

/-- The lowest place for n bytes in the static region: its start, or the end of a range taken (log entry 21). -/
def staticPlace (k : Core) (ctx size n : Nat) : Option Nat :=
  let taken := staticTaken k ctx
  let fits (a : Nat) : Bool := decide (a + n ≤ size) && taken.all (fun r => decide (a + n ≤ r.1) || decide (r.2 ≤ a))
  ((0 :: taken.map Prod.snd).filter fits).foldl (fun b a => match b with
    | some x => some (min x a)
    | none => some a) none

/-- The waiting group of a core that can become resident: the first in launch order whose context has none before it and whose submission
may run (R124), with its slot and static place. -/
def nextResident (s : State) (k : Core) : Option (Nat × LaunchReq × Nat × Nat) :=
  (List.zip (List.range k.launchQ.length) k.launchQ).findSome? (fun e =>
    let r := e.2
    if (k.launchQ.take e.1).any (fun x => x.ctx == r.ctx) || !mayRun s r.queue then none
    else
      match freeSlot k, find k.allocs r.ctx with
      | some slot, some a =>
        if 256 < blocksUsed k + r.regs / 16 then none
        else (staticPlace k r.ctx (a.static * 65536) (staticNeed r.depth r.scratch)).map (fun at_ => (e.1, r, slot, at_))
      | _, _ => none)

/-- A group as it starts (R123). -/
def newGroup (r : LaunchReq) (at_ clearedAt : Nat) : Group :=
  { ctx := r.ctx, queue := r.queue, regs := r.regs, depth := r.depth, scratch := r.scratch, scratchAt := at_,
    launchIdx := r.idx, lanes := [],
    scalars := (List.zip (List.range 16) r.args).foldl (fun m e => putD 0 m e.1 e.2) [],
    live := 2 ^ r.threads - 1, run := some ⟨r.entry, 2 ^ r.threads - 1, [], false, none, 0⟩, stack := [], nextDiv := 0,
    active := false, cond := .clear, clearedAt := clearedAt, loads := [], fenced := false }

/-- GROUP_RESIDENT: a waiting group takes a slot, register blocks and static space, and enters the pending set with its
condition cleared (R124, R127). -/
def execGroupResident (core : Nat) (s : State) : Res :=
  let k := coreSt s core
  needs (nextResident s k) "GROUP_RESIDENT" fun e =>
    .next (askWake (setCore s core { k with
      launchQ := removeAt k.launchQ e.1
      clearSeq := k.clearSeq + 1
      groups := insert k.groups e.2.2.1 (newGroup e.2.1 e.2.2.2 (k.clearSeq + 1)) }) core)

/-- The pending group of a core whose condition cleared earliest (R127). -/
def promotable (k : Core) : Option (Nat × Group) :=
  k.groups.foldl (fun b e =>
    if e.2.active || e.2.cond != .clear then b
    else
      match b with
      | some x => if e.2.clearedAt < x.2.clearedAt then some e else b
      | none => some e) none

/-- GROUP_PROMOTE: with fewer than 8 active groups, the pending one whose condition cleared earliest becomes active. -/
def execGroupPromote (core : Nat) (s : State) : Res :=
  let k := coreSt s core
  needs (promotable k) "GROUP_PROMOTE" fun e =>
    if 8 ≤ k.groups.countP (fun x => x.2.active) || k.gated then .refused (.notEnabled "GROUP_PROMOTE")
    else .next (setGroup s core e.1 { e.2 with active := true })

/-! Clock gating (R292). -/

/-- A group that waits on a counter or a barrier. -/
def sleeps (g : Group) : Bool :=
  !g.active && match g.cond with
    | .counters => waitsCounter g
    | .barrier _ => true
    | _ => false

/-- No station, copy, matrix, vector or cellar work of the core is in progress (R292). -/
def coreQuiet (s : State) (core : Nat) : Bool :=
  let k := coreSt s core
  !k.draughts.any Draught.inFlight && !k.copies.any Copy.running && k.array.run.isNone && k.array.loads.isEmpty &&
    k.array.queue.isEmpty && k.array.opened.isEmpty && k.array.closed.isEmpty && k.vec.exec.isNone && k.vec.queue.isEmpty &&
    !anyValue s.cellars (fun _ e =>
      let mine (c : CellCmd) : Bool := c.core == some core
      e.queue.any mine || e.waiting.any mine || (e.mv.map CellExec.cmd).any mine || (e.move.map CellExec.cmd).any mine)

/-- CORE_CLOCK_GATE: every resident group waits on a counter or barrier and no work of the core is in progress. -/
def execCoreClockGate (core : Nat) (s : State) : Res :=
  let k := coreSt s core
  enabled (!k.gated && !k.groups.isEmpty && k.groups.all (fun e => sleeps e.2) && coreQuiet s core) "CORE_CLOCK_GATE"
    (setCore s core { k with gated := true })

end Sys2Proof.Machine
end

