-- ==== Sys2Proof/Machine/Sync.lean ====
section
/-!
DEFINITION. Class SYNC: arrival counters (R148 to R150, R286), barriers (R287 to R290), fences (R272, R273), YIELD, cache
invalidation (R147) and PROG (R36); and the fetch of remote counters (R149).
-/

namespace Sys2Proof.Machine

/-- A remote counter is used: one that is not held is read from its backing word; it becomes the most recently used held one, and the 257th
leaves to its backing word (R149). -/
def touchCtr (s : State) (ctx n : Nat) : State :=
  match find s.ctxs ctx with
  | none => s
  | some c =>
    let r := if c.heldCtrs.contains n then (toLE 4 (getD 0 c.rctrs n).toNat, s) else devRead s (backingPa c n) 4
    let all := n :: c.heldCtrs.filter (· != n)
    let out := all.drop 256
    let s := backCtrs r.2 c out
    settleDue (modCtx s ctx (fun c => { c with
      heldCtrs := all.take 256
      rctrs := filterValues (putD 0 c.rctrs n (BitVec.ofNat 32 (ofLE r.1))) (fun m _ => !out.contains m) }))

/-- An instruction that names remote counter n goes on once it is held; until its fetch it is not ready (R126, R149). -/
def withRemote (t : Thread) (s : State) (n : Nat) (k : State → Res) : Res :=
  if holds s t.g.ctx n then k (touchCtr s t.g.ctx n) else holdOn t s (.counterFetch n)

/-- REMOTE_COUNTER_FETCHED: the counter becomes held, and the groups that waited for it go on (R149). -/
def execRemoteCounterFetched (ctx n : Nat) (s : State) : Res :=
  let waits (g : Group) : Bool := g.ctx == ctx && g.cond == .counterFetch n
  let cs := (s.cores.filter (fun e => anyValue e.2.groups (fun _ g => waits g))).map Prod.fst
  if cs.isEmpty then .refused (.notEnabled "REMOTE_COUNTER_FETCHED")
  else .next (cs.foldl (fun s c => clearWhere s c waits) (touchCtr s ctx n))

/-- The path waits on a counter below its threshold; another path that can run is scheduled, else the group waits
(R126, R140). -/
def blockPath (t : Thread) (s : State) (remote : Bool) (n : Nat) (thr : Word32) : Res :=
  finishAt t s (fun g =>
    match g.run with
    | some p => reschedule { g with run := some { p with pc := (p.pc + 8) % 2 ^ 48, blocked := some (.counter remote n thr) } }
    | none => g)

/-- The low 32 bits of SA. -/
def sa32 (t : Thread) : Word32 := BitVec.ofNat 32 (scalar t.g (wSA t.w))

/-- CWAIT (R148, R150). -/
def execCwait (core slot : Nat) (w : BitVec 64) (s : State) : Res :=
  issue core slot w mSYNC 0x00 "CWAIT" s fun t s =>
    let n := bits (wImm t.w) 5 0
    if bits (wImm t.w) 15 6 ≠ 0 || localCtrs s core t.g.ctx ≤ n then failIssue t s stFaultCommand
    else if thresholdMet (localCtr s core t.g.ctx n) (sa32 t) then finish t s id
    else blockPath t s false n (sa32 t)

/-- RCWAIT (R149, R150). -/
def execRcwait (core slot : Nat) (w : BitVec 64) (s : State) : Res :=
  issue core slot w mSYNC 0x01 "RCWAIT" s fun t s =>
    let n := bits (wImm t.w) 9 0
    if bits (wImm t.w) 15 10 ≠ 0 then failIssue t s stFaultCommand
    else
      withRemote t s n fun s =>
        if thresholdMet (remoteCtr s t.g.ctx n) (sa32 t) then finish t s id else blockPath t s true n (sa32 t)

/-- The counter that CSET, CADD and CREAD name: remote or local, or none where a field is wrong (R148, R150). -/
def ctrNamed (s : State) (t : Thread) : Option (Bool × Nat) :=
  let imm := wImm t.w
  if bit imm 15 then (if bits imm 14 10 = 0 then some (true, bits imm 9 0) else none)
  else if bits imm 14 6 = 0 && bits imm 5 0 < localCtrs s t.core t.g.ctx then some (false, bits imm 5 0)
  else none

/-- A write of a counter by an instruction; on a remote one at system scope only, after a FENCE.ST of scope 5 (R286). -/
def writeCtr (core slot : Nat) (w : BitVec 64) (op : Nat) (name : String)
    (localW remoteW : State → Thread → Nat → State) (s : State) : Res :=
  issue core slot w mSYNC op name s fun t s =>
    match ctrNamed s t with
    | none => failIssue t s stFaultCommand
    | some (false, n) => finish t (localW s t n) id
    | some (true, n) =>
      if bits (wFlags t.w) 4 2 ≠ 5 then failIssue t s stFaultCommand
      else withRemote t s n fun s => fenceFirst t s fun s => finish t (remoteW s t n) id

def execCset (core slot : Nat) (w : BitVec 64) (s : State) : Res :=
  writeCtr core slot w 0x02 "CSET" (fun s t n => setLocalCtr s t.core t.g.ctx n (sa32 t))
    (fun s t n => setRemoteCtr s t.g.ctx n (sa32 t)) s

def execCadd (core slot : Nat) (w : BitVec 64) (s : State) : Res :=
  writeCtr core slot w 0x03 "CADD" (fun s t n => addLocalCtr s t.core t.g.ctx n (sa32 t))
    (fun s t n => addRemoteCtr s t.g.ctx n (sa32 t)) s

/-- CREAD: the counter in SD (R150). -/
def execCread (core slot : Nat) (w : BitVec 64) (s : State) : Res :=
  issue core slot w mSYNC 0x04 "CREAD" s fun t s =>
    match ctrNamed s t with
    | none => failIssue t s stFaultCommand
    | some (false, n) => finish t s (fun g => setScalar g (wSD t.w) (localCtr s core t.g.ctx n).toNat)
    | some (true, n) =>
      withRemote t s n fun s => finish t s (fun g => setScalar g (wSD t.w) (remoteCtr s t.g.ctx n).toNat)

/-! Barriers. -/

/-- The members of a barrier. -/
def barrierCores (s : State) (b : BarrierSt) : List Nat := bitsSet (numCores s) b.members

/-- The arrivals, E and scope of a core in the running phase. -/
def barrierCount (b : BarrierSt) (c : Nat) : Nat × Nat × Nat := getD (0, 0, 0) b.counts c

/-- The core's arrived bit: its count has reached E (R290). -/
def arrivedBit (b : BarrierSt) (c : Nat) : Bool :=
  let k := barrierCount b c
  decide (0 < k.2.1) && decide (k.2.1 ≤ k.1)

/-- Every member's bit is 1. -/
def allArrived (s : State) (b : BarrierSt) : Bool := (barrierCores s b).all (arrivedBit b)

/-- Completion of a barrier on every member core (R290). -/
def completeBarrier (s : State) (ctx n : Nat) : State :=
  match (find s.ctxs ctx).bind (fun c => find c.bars n) with
  | none => s
  | some b =>
    let s := modCtx s ctx (fun c => { c with bars := insert c.bars n { b with counts := [], phase := b.phase + 1 } })
    (barrierCores s b).foldl (fun s c =>
      let s := if 2 ≤ (barrierCount b c).2.2 then discardData s c ctx else s
      clearWhere s c (fun g => g.ctx == ctx && g.cond == .barrier n)) s

/-- A barrier of one module completes as its last bit is set; one that spans modules contributes to its ring barrier while every
member's bit is set, and completes with the ring (R290, R387). -/
def barrierRaised (s : State) (ctx n : Nat) : State :=
  match (find s.ctxs ctx).bind (fun c => find c.bars n) with
  | none => s
  | some b =>
    if allArrived s b then
      match b.ring with
      | none => completeBarrier s ctx n
      | some _ => s
    else s

/-- The fields of a BAR that R289 and R140 refuse. -/
def barBad (s : State) (t : Thread) : Bool :=
  let n := bits (wImm t.w) 3 0
  let e := scalar t.g (wSA t.w)
  let fl := wFlags t.w
  bits (wImm t.w) 15 4 != 0 || bits fl 1 0 != 0 || bit fl 5 || wSB t.w != 0 || wSD t.w != 0 || wSC t.w != 0 ||
    decide (64 < e) || e == 0 || decide (5 < bits fl 4 2) || t.p.mask != t.g.live ||
    match (find s.ctxs t.g.ctx).bind (fun c => find c.bars n) with
    | none => true
    | some b =>
      let k := barrierCount b t.core
      !bit b.members t.core || (decide (0 < k.1) && k.2.1 != e)

/-- The arrival of a BAR and its wait (R290). -/
def arriveBar (t : Thread) (s : State) : Res :=
  let n := bits (wImm t.w) 3 0
  let scope := bits (wFlags t.w) 4 2
  let s := modCtx s t.g.ctx (fun c => { c with bars := modify c.bars n (fun b =>
    let k := barrierCount b t.core
    { b with counts := insert b.counts t.core (k.1 + 1, scalar t.g (wSA t.w), max k.2.2 scope) }) })
  let s := noted t s false
  match groupAt s t.core t.slot with
  | none => .next s
  | some g =>
    let g := movePc g (t.p.pc + 8) false
    let s := placeGroup s t.core t.slot g
    match groupAt s t.core t.slot with
    | none => .next s
    | some g => .next (barrierRaised (park s t.core t.slot g (.barrier n)) t.g.ctx n)

/-- BAR: a FENCE.ST of its scope, the arrival, and the wait (R289, R290). -/
def execBar (core slot : Nat) (w : BitVec 64) (s : State) : Res :=
  issue core slot w mSYNC 0x05 "BAR" s fun t s =>
    if barBad s t then failIssue t s stFaultCommand
    else
      let scope := bits (wFlags t.w) 4 2
      if 2 ≤ scope then fenceFirst t s (arriveBar t) else arriveBar t s

/-! Fences and the rest. -/

/-- FENCE (R272, R273): a load fence waits for the data of the loads before it; at scope 2 to 5 a store fence waits until the core's stores
are performed, and a load fence discards the context's data-cache lines. A kind that the table does not list orders nothing (log entry 22). -/
def execFence (core slot : Nat) (w : BitVec 64) (s : State) : Res :=
  issue core slot w mSYNC 0x06 "FENCE" s fun t s =>
    let fl := wFlags t.w
    let kind := bits fl 1 0
    if bit fl 5 || 5 < bits fl 4 2 then failIssue t s stFaultCommand
    else
      match (if bit kind 0 then t.g.firstLoad else none) with
      | some va => stallOn t s (.lineMiss false va)
      | none =>
        let go (s : State) : Res := finish t (if bit kind 0 && decide (2 ≤ bits fl 4 2) then discardData s core t.g.ctx else s) id
        if bit kind 1 && decide (2 ≤ bits fl 4 2) then fenceFirst t s go else go s

/-- YIELD: the group goes to the pending set with its condition cleared at once (R126). -/
def execYield (core slot : Nat) (w : BitVec 64) (s : State) : Res :=
  issue core slot w mSYNC 0x07 "YIELD" s fun t s =>
    let s := noted t s false
    match groupAt s core slot with
    | none => .next s
    | some g =>
      let s := placeGroup s core slot (movePc g (t.p.pc + 8) false)
      match groupAt s core slot with
      | some g => .next (if groupCanRun g then clearCond (park s core slot g .yielded) core slot else s)
      | none => .next s

/-- ICINV (R147). -/
def execIcinv (core slot : Nat) (w : BitVec 64) (s : State) : Res :=
  issue core slot w mSYNC 0x08 "ICINV" s fun t s => finish t (dropCode s core t.g.ctx) id

/-- DCINV: lines within [SA, SA + SB), or all of the context's with SB 0 (R147). -/
def execDcinv (core slot : Nat) (w : BitVec 64) (s : State) : Res :=
  issue core slot w mSYNC 0x09 "DCINV" s fun t s =>
    let a := scalar t.g (wSA t.w)
    let n := scalar t.g (wSB t.w)
    let ctx := t.g.ctx
    finish t (if n = 0 then discardData s core ctx
      else dropData s core (fun c va _ => c == ctx && decide (va < a + n) && decide (a < va + 128))) id

/-- The progress counter of a real-time submission rises by 1 (R36). -/
def raiseProgress (s : State) (q : Nat) : State :=
  match find s.queues q with
  | some u => if u.cls = 0 then modSub s q (fun b => { b with progress := b.progress + 1 }) else s
  | none => s

/-- PROG (R36). -/
def execProg (core slot : Nat) (w : BitVec 64) (s : State) : Res :=
  issue core slot w mSYNC 0x0A "PROG" s fun t s => finish t (raiseProgress s t.g.queue) id

end Sys2Proof.Machine
end

