-- ==== Sys2Proof/Machine/Copies.lean ====
section
/-!
DEFINITION. Asynchronous copies (R151, R152) and device-side doorbells (R154, R318).
-/

namespace Sys2Proof.Machine

/-! Copy descriptors (R151). -/

def cdSrcSpace (d : List Byte) : Nat := fieldLE d 0x00 1
def cdDstSpace (d : List Byte) : Nat := fieldLE d 0x01 1
def cdCtr (d : List Byte) : Nat := fieldLE d 0x02 1
def cdLength (d : List Byte) : Nat := fieldLE d 0x04 4
def cdSrcHandle (d : List Byte) : Nat := fieldLE d 0x08 4
def cdDstHandle (d : List Byte) : Nat := fieldLE d 0x0C 4
def cdSrc (d : List Byte) : Nat := fieldLE d 0x10 8
def cdDst (d : List Byte) : Nat := fieldLE d 0x18 8

/-- A local-store side lies in the allocation. -/
def cdLocalOk (s : State) (core ctx space a n : Nat) : Bool := space != 0 || lsRange s core ctx a n

/-- The descriptor keeps to its table (R148, R151). -/
def cdOk (s : State) (core ctx : Nat) (d : List Byte) : Bool :=
  let n := cdLength d
  decide (cdSrcSpace d ≤ 2) && decide (cdDstSpace d ≤ 2) && !bit (cdCtr d) 6 && fieldLE d 0x03 1 == 0 &&
    (!bit (cdCtr d) 7 || decide (bits (cdCtr d) 5 0 < localCtrs s core ctx)) &&
    decide (4 ≤ n) && decide (n ≤ 2 ^ 31) && n % 4 == 0 && cdSrc d % 4 == 0 && cdDst d % 4 == 0 &&
    (cdSrcSpace d == 2 || cdSrcHandle d == 0) && (cdDstSpace d == 2 || cdDstHandle d == 0) &&
    cdLocalOk s core ctx (cdSrcSpace d) (cdSrc d) n && cdLocalOk s core ctx (cdDstSpace d) (cdDst d) n

/-- Where a side of a copy lies: a local-store address, or a virtual one; none for a bad handle (R314). -/
def copySide (s : State) (ctx : Nat) (gen : Bool) (space h a n : Nat) (write : Bool) : Option Nat :=
  if space = 2 then (goodUse s ctx gen h [1] a n (!write) write).map (fun e => heBase e + a) else some a

/-- A virtual side that leaves its space (R209, R210): space code 1 is cached, 2 bulk. -/
def outsideSpace (space va n : Nat) : Bool :=
  match space with
  | 0 => false
  | 1 => decide (2 ^ 36 < va + n)
  | _ => cachedVa va || decide (2 ^ 48 < va + n)

/-- ACOPY: the descriptor at SA is copied and queued (R151, R152). -/
def execAcopy (core slot : Nat) (w : BitVec 64) (s : State) : Res :=
  issue core slot w mCOPY 0x00 "ACOPY" s fun t s =>
    let a := scalar t.g (wSA t.w)
    let ctx := t.g.ctx
    let k := coreSt s core
    if a % 32 ≠ 0 then failIssue t s stFaultCommand
    else if !lsRange s core ctx a 32 then failIssue t s stFaultAccess
    else if 32 ≤ k.copies.length then stallOn t s .copyFull
    else
      let d := lsRead s core ctx a 32
      let gen := genOf s t.g.queue ctx
      let n := cdLength d
      if !cdOk s core ctx d then failIssue t s stFaultCommand
      else
        match copySide s ctx gen (cdSrcSpace d) (cdSrcHandle d) (cdSrc d) n false,
            copySide s ctx gen (cdDstSpace d) (cdDstHandle d) (cdDst d) n true with
        | some a, some b =>
          if outsideSpace (cdSrcSpace d) a n || outsideSpace (cdDstSpace d) b n then failIssue t s stFaultAccess
          else
            finish t (setCore s core { k with
              nextCopy := k.nextCopy + 1
              copies := k.copies ++ [⟨k.nextCopy, ctx, t.g.queue, slot, d, gen, false, 0, none⟩] }) id
        | _, _ => .next (badHandle (noted t s true) t.g.queue ctx gen [cdSrcHandle d, cdDstHandle d])

/-- The address of one side of a copy in progress. -/
def sideAddr (s : State) (c : Copy) (write : Bool) : Nat :=
  let d := c.desc
  ((if write then copySide s c.ctx c.gen (cdDstSpace d) (cdDstHandle d) (cdDst d) (cdLength d) true
    else copySide s c.ctx c.gen (cdSrcSpace d) (cdSrcHandle d) (cdSrc d) (cdLength d) false)).getD 0

/-- ACOPY_START: the oldest queued copy starts once fewer than four run; the pages of its first piece that miss are asked for (R152). -/
def execAcopyStart (core : Nat) (s : State) : Res :=
  let k := coreSt s core
  match k.copies.find? (fun c => !c.running) with
  | none => .refused (.notEnabled "ACOPY_START")
  | some c =>
    if 4 ≤ k.copies.countP Copy.running || !mayRun s c.queue || k.held then .refused (.notEnabled "ACOPY_START")
    else
      let s := setCore s core { k with copies := k.copies.map (fun x => if x.id = c.id then { x with running := true } else x) }
      let n := min (cdLength c.desc) 65536
      let ask (s : State) (space va acc : Nat) : State :=
        if space = 0 then s else askPages s (.copy core c.id) c.ctx va n acc c.queue
      .next (ask (ask s (cdSrcSpace c.desc) (sideAddr s c false) 1) (cdDstSpace c.desc) (sideAddr s c true) 2)

/-- One piece of a copy: read, then written. -/
def copyPiece (s : State) (core : Nat) (c : Copy) (o n : Nat) : MemOut :=
  let who := Requester.copy core c.id
  let a := sideAddr s c false + o
  let b := sideAddr s c true + o
  let r := if cdSrcSpace c.desc = 0 then ⟨lsRead s core c.ctx a n, true, s⟩ else virtRead s who c.ctx c.queue a n
  if !r.ok then r
  else if cdDstSpace c.desc = 0 then ⟨[], true, lsWrite r.st core c.ctx b r.data⟩
  else virtWrite r.st who c.ctx c.queue b r.data

/-- The pieces of a copy from where it stands, until one faults; the bytes moved are kept (R152, R155). -/
def copyPieces (core : Nat) (c : Copy) (s : State) : MemOut :=
  ((pieces 65536 0 (cdLength c.desc)).filter (fun p => decide (c.done ≤ p.1))).foldl (fun (r : MemOut) p =>
    if !r.ok then r
    else
      let x := copyPiece r.st core c p.1 p.2
      if x.ok then
        ⟨[], true, modCore x.st core (fun k => { k with
          copies := k.copies.map (fun y => if y.id = c.id then { y with done := p.1 + p.2 } else y) })⟩
      else x) ⟨[], true, s⟩

/-- A submission's abort runs (R38, R40). -/
def aborting (s : State) (q : Nat) : Bool :=
  match find s.subs q with
  | some u => u.phase == .aborting
  | none => false

/-- A copy leaves its core (R152). -/
def leaveCopy (s : State) (core : Nat) (c : Copy) : State :=
  let s := modCore s core (fun k => { k with copies := k.copies.filter (fun x => x.id != c.id) })
  clearWhere (noteEnd s c.queue core) core (fun g => g.cond == .copyFull)

/-- ACOPY_COMPLETE: copy i of a core becomes wholly visible, and its counter rises (R152). It runs on from the piece it stands at; a piece
that misses or faults stops it there, and the copy is commanded again. A copy of an aborted submission finishes its running piece and is
discarded (R156). -/
def execAcopyComplete (core i : Nat) (s : State) : Res :=
  needs ((coreSt s core).copies[i]?) "ACOPY_COMPLETE" fun c =>
    if !c.running || c.stall.isSome || missing s (.copy core c.id) || (coreSt s core).held then .refused (.notEnabled "ACOPY_COMPLETE")
    else if aborting s c.queue then
      let r := copyPiece s core c c.done (min 65536 (cdLength c.desc - c.done))
      .next (leaveCopy (forgetReq r.st (.copy core c.id)) core c)
    else if !mayRun s c.queue then .refused (.notEnabled "ACOPY_COMPLETE")
    else
      let r := copyPieces core c s
      if !r.ok then .next r.st
      else
        let s := leaveCopy r.st core c
        .next (if bit (cdCtr c.desc) 7 then addLocalCtr s core c.ctx (bits (cdCtr c.desc) 5 0) 1 else s)

/-! Doorbells (R154, R318, R320). -/

/-- The doorbell of a queue is accepted with write index W (R318). -/
def bellOk (u : Queue) (w : Word32) : Bool :=
  decide ((w - u.write).toNat ≤ 2 ^ u.log2) && decide ((w - u.read).toNat ≤ 2 ^ u.log2)

/-- A doorbell taken into WRITE; a queue without a slot requests one (R318, R320). -/
def latchBell (s : State) (q : Nat) (w : Word32) : State :=
  let n := s.front.bells + 1
  settleDue (writeQueueTable (modQueue (s.withFront { s.front with bells := n }) q (fun u => { u with
    write := w
    lastBell := n
    request := if u.resident then none else (match u.request with
      | some r => some r
      | none => some n) })) q)

/-- DBELL: the path stalls until the group's earlier copies, stores and draughts are visible (R154); the group's other paths go on. -/
def execDbell (core slot : Nat) (w : BitVec 64) (s : State) : Res :=
  issue core slot w mISSUE 0x01 "DBELL" s fun t s =>
    let s := sendStores s core
    let k := coreSt s core
    let id := k.nextBell
    let bell : Bell := ⟨id, slot, t.g.queue, bits (scalar t.g (wSA t.w)) 12 0, BitVec.ofNat 32 (scalar t.g (wSB t.w)), wSD t.w, k.nextStore⟩
    let s := setCore s core { k with nextBell := id + 1, dbells := k.dbells ++ [bell] }
    finishAt t s (fun g =>
      match g.run with
      | some p => reschedule { g with run := some { p with pc := (p.pc + 8) % 2 ^ 48, blocked := some (.bell id) } }
      | none => g)

/-- The draught writes bulk space: by its last station, a STORE, or by the command of a CELLAR station, whose template is known once the
draught is active (R45, R154). -/
def writesBulk (d : Draught) : Bool :=
  descStation d.desc (descLen d.desc - 1) == 0x6 || ((descChain d.desc).contains 0x2 && (d.template.isEmpty || fieldLE d.template 0x20 4 != 0))

/-- The status of a DBELL (R154). -/
def bellStatus (s : State) (ctx q : Nat) (w : Word32) : Nat :=
  match find s.queues q with
  | none => 1
  | some u =>
    if !bit u.flags 0 || ctxPartition s u.ctx != ctxPartition s ctx then 1
    else if bellOk u w then 0 else 2

/-- DBELL_POST: the earlier work of the group is visible; its oldest doorbell is posted, its status written to SD, and its path goes on
(R154). -/
def execDbellPost (core slot : Nat) (s : State) : Res :=
  let k := coreSt s core
  match k.dbells.find? (fun b => b.slot == slot), groupAt s core slot with
  | some b, some g =>
    if k.copies.any (fun c => c.slot == slot && c.queue == g.queue) || storesAwaited s core b.upto ||
        k.draughts.any (fun d => d.slot == some slot && d.queue == g.queue && writesBulk d) || !mayRun s g.queue then
      .refused (.notEnabled "DBELL_POST")
    else
      let st := bellStatus s g.ctx b.rings b.index
      let s := if st = 0 then latchBell s b.rings b.index else s
      let s := modCore s core (fun k => { k with dbells := k.dbells.filter (fun x => x.id != b.id) })
      .next (match groupAt s core slot with
        | none => s
        | some g =>
          let waited := g.cond == .counters
          let g := unbell b.id (setScalar g b.sd st)
          let s := placeGroup s core slot (settle (if waited then reschedule g else g))
          match groupAt s core slot with
          | some g => if groupCanRun g && waited then clearCond s core slot else s
          | none => s)
  | _, _ => .refused (.notEnabled "DBELL_POST")

end Sys2Proof.Machine
end

