-- ==== Sys2Proof/Machine/Matrix.lean ====
section
/-!
DEFINITION. The bit-serial array: banks and loads (R96 to R101), runs (R94, R101 to R104), drains (R105), the matrix instructions
(R106 to R109), the batcher (R113 to R117), ownership and errors (R118 to R120).
-/

namespace Sys2Proof.Machine

/-- Change a core's array. -/
def modArray (s : State) (c : Nat) (f : ArraySt → ArraySt) : State := modCore s c (fun k => { k with array := f k.array })

/-- A bank of the array. -/
def ArraySt.bank (a : ArraySt) (b : Nat) : Bank := if b = 0 then a.bank0 else a.bank1

/-- Replace a bank. -/
def ArraySt.withBank (a : ArraySt) (b : Nat) (k : Bank) : ArraySt :=
  if b = 0 then { a with bank0 := k } else { a with bank1 := k }

/-- The other bank. -/
def otherBank (b : Nat) : Nat := 1 - b

/-- Matrix queue entries in use (R106, R108; log entry 24). -/
def ArraySt.inUse (a : ArraySt) : Nat :=
  a.loads.length + a.queue.length + match a.run with
    | some (.run _ _) => 1
    | some (.drain _) => 1
    | _ => 0

/-! Configuration words (R108). -/

def lcN (b : Nat) : Nat := bits b 32 24
def lcKb (b : Nat) : Nat := bits b 20 16
def lcPlanes (b : Nat) : Nat := bits b 14 8
def lcFormat (b : Nat) : Nat := bits b 7 0
def rcStride (b : Nat) : Nat := bits b 63 48
def rcRows (b : Nat) : Nat := bits b 40 34
def rcBase (b : Nat) : Nat := bits b 33 28
def rcKlen (b : Nat) : Nat := bits b 24 20
def rcKoff (b : Nat) : Nat := bits b 19 16
def rcSlices (b : Nat) : Nat := bits b 11 8
def rcFormat (b : Nat) : Nat := bits b 7 0
def dcStride (b : Nat) : Nat := bits b 63 48
def dcCols (b : Nat) : Nat := bits b 32 24
def dcRows (b : Nat) : Nat := bits b 20 14
def dcBase (b : Nat) : Nat := bits b 13 8
def dcFormat (b : Nat) : Nat := bits b 7 0
def qcDest (b : Nat) : Nat := bits b 52 32
def qcCtr (b : Nat) : Nat := bits b 29 24
def qcOut (b : Nat) : Nat := bits b 23 16
def qcSlices (b : Nat) : Nat := bits b 11 8
def qcFormat (b : Nat) : Nat := bits b 7 0

/-- The bank an operation names: FLAGS[0] of MLOAD, FLAGS[1] of MRUN (R107). -/
def opBank (o : MatOp) : Nat := bnat (bit (wFlags o.w.toNat) (if wOp o.w.toNat = 0 then 0 else 1))

/-- The wide mode is needed: P + 8S > 42 (R76, R103). -/
def needsWide (p s : Nat) : Bool := decide (42 < p + 8 * s)

/-- Rows of the accumulator in a mode. -/
def accRows (wide : Bool) : Nat := if wide then 32 else 64

/-- The FP64 budget (R78). -/
def fp64Budget (p s : Nat) : Bool := p == 64 && s == 8

/-- Bits of an entry's integer. -/
def entryBits (wide : Bool) : Nat := if wide then 96 else 48

/-- Rows that the batcher reserves in a mode (R113). -/
def reservedRows (a : ArraySt) (wide : Bool) : Nat := if wide then ceilDiv a.batchRows 2 else a.batchRows

/-- Rows first to first + n − 1 as a mask. -/
def rowMask (first n : Nat) : Nat := (2 ^ n - 1) <<< first

/-! Weight tiles (R96 to R98). -/

/-- The element format whose planes the array holds: ternary is held as INT2 (R63, R92). -/
def planeWidth (el : Nat) : Nat := if el = fmtTernary then 2 else elemBits el

/-- Bytes of scales per alignment block row of 256 columns in the plane layout (R96). -/
def planeScales (mode : Nat) : Nat :=
  match mode with
  | 1 => 256
  | 2 => 512
  | _ => 0

/-- Bytes of a plane-layout tile of k rows (R96). -/
def planeTileBytes (fmt k : Nat) : Nat := planeWidth (elemOf fmt) * k * 32 + k / 32 * planeScales (modeOf fmt)

/-- The code of element (k, c) of a plane-layout tile of `rows` rows (R96). -/
def planeCode (rd : Nat → Byte) (w rows k c : Nat) : Nat :=
  (List.range w).foldl (fun v e => v + (bnat (bit (rd (e * rows * 32 + k * 32 + c / 8)).toNat (c % 8))) * 2 ^ e) 0

/-- Alignment block b of column c of a plane-layout tile, its scales applied (R65, R96). -/
def planeBlock (rd : Nat → Byte) (fmt rows b c : Nat) : List Elt :=
  let el := elemOf fmt
  let w := planeWidth el
  let cs := (List.range 32).map (fun i => planeCode rd w rows (32 * b + i) c)
  let at_ := w * rows * 32
  match modeOf fmt with
  | 1 => scaleMx el (rd (at_ + b * 256 + c)).toNat cs
  | 2 => scaleFine el (rd (at_ + (b * 256 + c) * 2)).toNat (cs.take 16) ++
      scaleFine el (rd (at_ + (b * 256 + c) * 2 + 1)).toNat (cs.drop 16)
  | _ => unscaled el cs

/-- The alignment blocks of a column of a plane-layout tile. -/
def planeColumn (rd : Nat → Byte) (fmt rows c : Nat) : List (List Elt) :=
  (List.range (rows / 32)).map (fun b => planeBlock rd fmt rows b c)

/-- The alignment blocks of a column of a tile of rows of elements. -/
def columnBlocks (rows : List (List Elt)) (c : Nat) : List (List Elt) :=
  let col := rows.map (fun r => (r[c]?).getD ⟨.zero, 0⟩)
  chunksOf 32 (rows.length / 32 + 1) col

/-- A weight tile aligned at P planes (R70, R87, R98): per band, per column its blocks. -/
def alignTile (el p : Nat) (cols : List (List (List Elt))) : Nat × List (List Block) :=
  if p = 64 then
    let n := (cols.flatten).foldl (fun n b => max n (bandCount (b.map Elt.v))) 1
    (n, ((List.range n).map (fun k => cols.map (fun col => col.map (alignWeightBand el k)))).flatten)
  else (1, cols.map (fun col => col.map (alignWeights el p)))

/-- floor(log2) of a block scale of E4M3 by its code; none for zero and NaN. -/
def scaleLg (s : Nat) : Option Int :=
  let k := (decodeElem fmtE4M3 s).abs
  if usable k then some k.lg else none

/-- D of R74: how far two block scales' exponents differ. -/
def scaleGap (a b : Nat) : Nat :=
  match scaleLg a, scaleLg b with
  | some x, some y => (x - y).natAbs
  | _, _ => 0

/-- P planes are an exact budget of a weight format, with the largest D of its blocks in fine mode (R74, R467). -/
def weightExact (fmt p gap : Nat) : Bool :=
  match exactPlanes (elemOf fmt) with
  | none => false
  | some n => decide ((if modeOf fmt = 2 then n + 3 + gap else n) ≤ p)

/-- The largest D of a plane-layout tile in fine mode. -/
def planeGap (rd : Nat → Byte) (fmt rows cols : Nat) : Nat :=
  if modeOf fmt = 2 then
    let at_ := planeWidth (elemOf fmt) * rows * 32
    (List.range (rows / 32)).foldl (fun m b => (List.range cols).foldl (fun m c =>
      max m (scaleGap (rd (at_ + (b * 256 + c) * 2)).toNat (rd (at_ + (b * 256 + c) * 2 + 1)).toNat)) m) 0
  else 0

/-- Plane groups of a band. -/
def groupsOf (p : Nat) : Nat := ceilDiv p 16

/-- Planes of group g of a band. -/
def groupPlanes (p g : Nat) : Nat := min p (16 * g + 16) - 16 * g

/-- A bank holding `held` groups from `group` on of a plane-layout tile read from local store. -/
def bankOf (rd : Nat → Byte) (fmt p rows cols group held : Nat) (once reduced : Bool) (tag : Nat) : Bank :=
  let t := alignTile (elemOf fmt) p ((List.range cols).map (planeColumn rd fmt rows))
  let total := t.1 * groupsOf p
  { state := if once || decide (2 < total) then .stream else .resident
    tag := tag, fmt := fmt, planes := p, cols := cols, kblocks := rows / 32, group := group
    held := if held = 0 then total else held
    groups := total, used := 0, twosC := isTwos (elemOf fmt), tscale := one32, reduced := reduced
    exact := weightExact fmt p (planeGap rd fmt rows cols), cells := t.2 }

/-- How many groups a tile of P planes takes, seen before it is loaded: for 64 planes its bands count (R98). -/
def tileGroups (rd : Nat → Byte) (fmt p rows cols : Nat) : Nat :=
  if p = 64 then
    (((List.range cols).map (planeColumn rd fmt rows)).flatten.foldl (fun n b => max n (bandCount (b.map Elt.v))) 1) * 4
  else groupsOf p

/-- One byte of a context's local store. -/
def lsByte (s : State) (c ctx base : Nat) (i : Nat) : Byte := ((lsRead s c ctx (base + i) 1).head?).getD 0#8

/-! Activation rows (R71, R87, R102). -/

/-- Band k of an activation block at the FP64 budget (R87). -/
def alignActBand (el k : Nat) (es : List Elt) : Block :=
  let vs := es.map Elt.v
  if isTwos el then { exactBlock (bandElts k es) with kind := vs.map kindOf } else alignBand 63 k vs

/-- The bands of an activation row: each is its alignment blocks (R71, R87, R88). -/
def alignRow (el s p : Nat) (row : List Elt) : List (List Block) :=
  let blocks := chunksOf 32 (row.length / 32 + 1) row
  if fp64Budget p s then
    let n := blocks.foldl (fun n b => max n (bandCount (b.map Elt.v))) 1
    (List.range n).map (fun k => blocks.map (alignActBand el k))
  else [blocks.map (alignActs el s)]

/-- Bytes of an activation row of n elements (R102). -/
def actRowBytes (fmt n : Nat) : Nat := rowBytes fmt (if modeOf fmt = 0 then 0 else 3) n

/-- S slices are exact for an activation row of a format (R74, R467): in fine mode by the largest D of its blocks. -/
def actExact (fmt s p : Nat) (raw : List Byte) (n : Nat) : Bool :=
  let el := elemOf fmt
  if el = fmtFP64 then fp64Budget p s
  else if modeOf fmt = 2 then
    let u := runElemBytes el + 2
    let gap := (chunksOf u (ceilDiv n 32) raw).foldl (fun m r =>
      max m (scaleGap (fieldLE r (runElemBytes el) 1) (fieldLE r (runElemBytes el + 1) 1))) 0
    match exactPlanes el with
    | none => false
    | some k => decide (k + 3 + gap ≤ 8 * s - 1)
  else
    match exactSlices el with
    | none => false
    | some k => decide (k ≤ s)

/-- What a run reads: its accumulator base, its activation rows (bands of blocks, exactness), the first block of the tile
and the slices. -/
structure RunArgs where
  base  : Nat
  rows  : List (List (List Block) × Bool)
  koff  : Nat
  klen  : Nat
  slices : Nat
  actFmt : Nat

/-- Activation rows read and aligned. -/
def readActs (s : State) (c ctx a fmt n stride klen p slices : Nat) : List (List (List Block) × Bool) :=
  (List.range n).map (fun r =>
    let raw := lsRead s c ctx (a + r * stride) (actRowBytes fmt (32 * klen))
    (alignRow (elemOf fmt) slices p (decodeRow fmt (fun _ => []) (32 * klen) raw), actExact fmt slices p raw (32 * klen)))

/-- Blocks koff to koff + klen − 1 of column n of band bw of a bank. -/
def bankBlocks (k : Bank) (bw n koff klen : Nat) : List Block := (((k.cells[bw * k.cols + n]?).getD []).drop koff).take klen

/-- One group's passes on one entry (R78, R91, R101). At the FP64 budget the block products enter with the last group of the last band. -/
def groupEntry (k : Bank) (wide : Bool) (x : RunArgs) (bands : List (List Block)) (gi n : Nat) (en : AccEntry × Nat) :
    AccEntry × Nat :=
  let per := groupsOf k.planes
  if fp64Budget k.planes x.slices then
    if gi + 1 = k.groups then passFp64 ((List.range (k.groups / per)).map (fun bw => bankBlocks k bw n x.koff x.klen)) bands en else en
  else
    bands.foldl (fun en xs =>
      groupPasses (entryBits wide) k.twosC k.planes x.slices (gi % per) (bankBlocks k (gi / per) n x.koff x.klen) xs en) en

/-- The accumulator after a group's passes, and the ACC_INEXACT events. -/
def groupAcc (k : Bank) (wide : Bool) (x : RunArgs) (gi : Nat) (acc : Assoc AccEntry) : Assoc AccEntry × Nat :=
  (List.zip (List.range x.rows.length) x.rows).foldl (fun st r =>
    (List.range k.cols).foldl (fun (st : Assoc AccEntry × Nat) n =>
      let key := (x.base + r.1) * 256 + n
      let e := groupEntry k wide x r.2.1 gi n (getD AccEntry.zero st.1 key, 0)
      (putD AccEntry.zero st.1 key e.1, st.2 + e.2)) st) (acc, 0)

/-- Passes of a group over the rows (R94). -/
def groupPassCount (k : Bank) (x : RunArgs) (gi : Nat) : Nat :=
  x.rows.foldl (fun n r => n + r.1.length) 0 * groupPlanes k.planes (gi % groupsOf k.planes) * x.slices

/-- The passes of one group are made and counted (R91, R463, R467). -/
def doGroup (s : State) (c : Nat) (k : Bank) (x : RunArgs) (gi : Nat) : State :=
  let a := (coreSt s c).array
  let r := groupAcc k a.wide x gi a.acc
  let n := groupPassCount k x gi
  let per := groupPlanes k.planes (gi % groupsOf k.planes) * x.slices
  let el := elemOf k.fmt
  let f := reg s (obCore c + 0x84)
  let counts := decide (bits f 7 0 ≤ k.planes) && decide (k.planes ≤ bits f 15 8) &&
    (bits f 19 16 == 0 || bits f 19 16 == x.slices)
  let inexactRows := x.rows.foldl (fun m r => if k.exact && r.2 then m else m + r.1.length) 0
  let s := modArray s c (fun a => { a with acc := r.1 })
  let s := coreEvent s c 0x08 a.owner n
  let s := if counts && decide (el ≤ 16) then opCount s c el n else s
  let s := opCount s c 17 (inexactRows * per)
  let s := if k.reduced then opCount s c 18 n else s
  let s := opCount s c 19 (if gi < groupsOf k.planes then n - x.rows.length * per else n)
  opCount s c 20 r.2

/-- The groups of a bank from gi on, n of them. -/
def doGroups (s : State) (c : Nat) (k : Bank) (x : RunArgs) (gi n : Nat) : State :=
  (List.range n).foldl (fun s i => doGroup s c k x (gi + i)) s

/-- Rows zeroed (R104, R105). -/
def zeroRows (a : ArraySt) (mask : Nat) : ArraySt :=
  { a with acc := a.acc.filter (fun e => !bit mask (e.1 / 256)), rowCols := a.rowCols.filter (fun e => !bit mask e.1) }

/-- The accumulator switches mode: every entry is zero (R103). -/
def setMode (a : ArraySt) (wide : Bool) : ArraySt :=
  if a.wide = wide then a else { a with wide := wide, acc := [], dirty := 0, rowCols := [] }

/-! Drains (R82, R105). -/

/-- A row of entries in an output format. -/
def drainRow (a : ArraySt) (row cols fmt f tout : Nat) : List Byte :=
  let es := (List.range cols).map (fun n => getD AccEntry.zero a.acc (row * 256 + n))
  if isRaw (elemOf fmt) then (es.map (rawEntry (elemOf fmt == fmtACC96))).flatten
  else encodeRow fmt (tensorMag tout) (es.map (entryValue (decodeElem fmtFP64 f)))

/-- Bytes of a drained row. -/
def drainRowBytes (fmt cols : Nat) : Nat :=
  match elemOf fmt with
  | 0x11 => 8 * cols
  | 0x12 => 16 * cols
  | _ => rowBytes fmt (if modeOf fmt = 0 then 0 else 3) cols

/-- The output format may be drained to in a mode (R82, R105). -/
def drainFormatOk (fmt : Nat) (wide : Bool) : Bool :=
  if fmt = fmtACC48 then !wide else if fmt = fmtACC96 then wide else isTarget fmt && !isRaw (elemOf fmt) && modeOf fmt != 3

/-! Waiting groups. -/

/-- A matrix instruction of a group is queued or executes (R107 MFENCE). -/
def matrixBusy (a : ArraySt) (slot queue : Nat) : Bool :=
  let mine (o : MatOp) : Bool := o.slot == slot && o.queue == queue
  a.loads.any (fun j => mine j.op) || a.queue.any mine || match a.run with
    | some (.run o _) => mine o
    | some (.drain o) => mine o
    | _ => false

/-- After array work ends: groups that wait for a queue entry, or whose earlier matrix work is over, go on. -/
def matrixWake (s : State) (c : Nat) : State :=
  let a := (coreSt s c).array
  let s := if a.inUse < 16 then clearWhere s c (fun g => g.cond == .matrixFull) else s
  (((coreSt s c).groups.filter (fun e => e.2.cond == .mfence && !matrixBusy a e.1 e.2.queue)).map Prod.fst).foldl
    (fun s slot => clearCond s c slot) s

/-! Ownership (R118, R159). -/

/-- The owner has a submission with work on the core that has not completed, and is not saved. -/
def ownerWorks (s : State) (c o : Nat) : Bool :=
  anyValue s.subs (fun _ u => u.ctx == o && u.cores.contains c && u.phase != .saved && u.phase != .restoring)

/-- A core's array passes from an owner whose submissions there have completed; groups that wait for it go on (R118). -/
def passCore (s : State) (c : Nat) : State :=
  match (coreSt s c).array.owner with
  | none => s
  | some o =>
    if ownerWorks s c o then s
    else
      clearWhere (modCore s c (fun k => { k with array := ArraySt.fresh none, vec := VecSt.fresh })) c
        (fun g => g.cond == .ownership)

/-- Array and element-file ownership passes on every core (R118). -/
def passOwnership (s : State) : State := (s.cores.map Prod.fst).foldl passCore s

/-- The array and vector file of a core as a new owner finds them: what a pre-emption saved of it, if anything, else a fresh
state (R118). -/
def giveArray (s : State) (c ctx : Nat) : State :=
  match (find s.ctxs ctx).bind (fun x => x.saved.find? (fun r => r.core == c && r.array.isSome)) with
  | some r =>
    let s := modCtx s ctx (fun x => { x with saved := x.saved.map (fun y =>
      if y.core = c then { y with array := none, vec := none } else y) })
    modCore s c (fun k => { k with array := r.array.getD (ArraySt.fresh (some ctx)), vec := r.vec.getD VecSt.fresh })
  | none => modCore s c (fun k => { k with array := ArraySt.fresh (some ctx), vec := VecSt.fresh })

/-- The context owns the array of a core, taking it when nobody does. -/
def takeArray (s : State) (c ctx : Nat) : Option State :=
  match (coreSt s c).array.owner with
  | none => some (giveArray s c ctx)
  | some o => if o = ctx then some s else none

/-- Issue of a matrix instruction: a context that does not own the array waits (R118). -/
def issueMatrix (core slot : Nat) (w : BitVec 64) (op : Nat) (name : String) (s : State)
    (body : Thread → State → Res) : Res :=
  issue core slot w mMATRIX op name s fun t s =>
    match takeArray s core t.g.ctx with
    | none => stallOn t (coreEvent s core 0x0A (some t.g.ctx) 1) .ownership
    | some s => body t s

/-- The operation of an instruction. -/
def opOf (t : Thread) (a : ArraySt) (planes cols : Nat) : MatOp :=
  ⟨a.seq, BitVec.ofNat 64 t.w, BitVec.ofNat 64 (scalar t.g (wSA t.w)), BitVec.ofNat 64 (scalar t.g (wSB t.w)), t.slot,
    t.g.queue, t.g.ctx, planes, cols⟩

/-- A checked operation joins the queue, or its group waits for an entry (R106). -/
def enqueueOp (t : Thread) (s : State) (planes cols : Nat) (put : ArraySt → MatOp → ArraySt) : Res :=
  let a := (coreSt s t.core).array
  if 16 ≤ a.inUse then stallOn t s .matrixFull
  else finish t (modArray s t.core (fun a => put { a with seq := a.seq + 1 } (opOf t a planes cols))) id

/-! The batcher (R113 to R117). -/

/-- A batch closes: at once while fewer than two closed batches wait, else once one of them leaves (R114, R115). -/
def closeBatch (a : ArraySt) (b : Batch) : ArraySt :=
  if a.closed.length < 2 then
    { a with opened := a.opened.filter (· != b), closed := a.closed ++ [{ b with seq := a.seq, due := false }]
             seq := a.seq + 1 }
  else { a with opened := a.opened.map (fun x => if x = b then { b with due := true } else x) }

/-- Every open batch that satisfies p closes. -/
def closeBatches (a : ArraySt) (p : Batch → Bool) : ArraySt := (a.opened.filter p).foldl closeBatch a

/-- Batches due to close do, once a closed one has left. -/
def closeDue (a : ArraySt) : ArraySt := closeBatches a Batch.due

/-- The wide mode of a batch's run. -/
def batchWide (a : ArraySt) (b : Batch) : Bool := needsWide (a.bank b.bank).planes b.slices

/-- The first accumulator row of a batch (R113). -/
def batchBase (a : ArraySt) (wide : Bool) : Nat := accRows wide - reservedRows a wide

/-- A run has passes to make on a bank once those of `done` of its groups are over: on the bank it names, and on the other one for a tile of
more than one plane group (R98, R100); a tile of more than two alternates to its end (R101). -/
def readsBank (o : MatOp) (done b : Nat) : Bool :=
  if o.planes ≤ 16 then opBank o == b && done == 0
  else if o.planes ≤ 32 then (opBank o == b && done == 0) || (opBank o != b && decide (done ≤ 1))
  else true

/-- A run or a batch that reads a bank and was issued before `seq` has passes to make on it (R100). -/
def readsBefore (a : ArraySt) (b seq : Nat) : Bool :=
  a.queue.any (fun o => wOp o.w.toNat == 1 && readsBank o 0 b && decide (o.seq < seq)) ||
    a.closed.any (fun x => x.bank == b) || a.opened.any (fun x => x.bank == b) ||
    match a.run with
    | some (.run o g) => readsBank o g b && decide (o.seq < seq)
    | some (.batchRun x) => x.bank == b
    | _ => false

/-! Loads. -/

/-- A compute tile in progress reads a RESIDENT bank (R100, R111). -/
def residentInUse (k : Core) (b : Nat) : Bool :=
  k.draughts.any (fun x => x.resident && (x.bank == b || (k.array.bank x.bank).groups == 2) &&
    (List.zip x.stations (descChain x.desc)).any (fun y => y.2 == 0x3 && y.1.busy))

/-- MLOAD's budget after R445. -/
def reducedPlanes (s : State) (q el p : Nat) : Nat :=
  match find s.subs q with
  | some u => if u.level = 0 then p else max (ceilDiv p (2 ^ u.level)) (if isTwos el then 2 else 1)
  | none => p

/-- LCFG keeps to its table (R72, R97, R108, R109). -/
def lcfgOk (b : Nat) : Bool :=
  bits b 63 33 == 0 && bits b 23 21 == 0 && bits b 15 15 == 0 && decide (1 ≤ lcN b) && decide (lcN b ≤ 256) &&
    decide (1 ≤ lcKb b) && decide (lcKb b ≤ 16) && isWeight (lcFormat b) && elemOf (lcFormat b) != fmtCB2 &&
    planesOk (lcFormat b) (lcPlanes b)

/-- A load puts a group of its tile into a bank (R98). -/
def loadsInto (o : MatOp) (b : Nat) : Bool := opBank o == b || decide (16 < o.planes)

/-- MLOAD: a weight tile load is queued (R107). Its issue closes the open batches on the banks it loads into (R117). -/
def execMload (core slot : Nat) (w : BitVec 64) (s : State) : Res :=
  issueMatrix core slot w 0x00 "MLOAD" s fun t s =>
    let a := scalar t.g (wSA t.w)
    let b := scalar t.g (wSB t.w)
    let p := reducedPlanes s t.g.queue (elemOf (lcFormat b)) (lcPlanes b)
    if !lcfgOk b || a % 64 ≠ 0 || !lsRange s core t.g.ctx a (planeTileBytes (lcFormat b) (32 * lcKb b)) then
      failIssue t s stFaultCommand
    else
      enqueueOp t s p 0 (fun k o =>
        let k := closeBatches k (fun x => loadsInto o x.bank)
        { k with loads := k.loads ++ [⟨o, 0, false⟩] })

/-- The bank that the next group of a load goes to (R98). -/
def loadBank (j : LoadJob) : Nat := if j.group % 2 = 0 then opBank j.op else otherBank (opBank j.op)

/-- A load may start: its submission runs, or a run that executes streams its tile (R119). -/
def loadGoesOn (s : State) (core : Nat) (j : LoadJob) : Bool :=
  (match find s.subs j.op.queue with
   | some u => u.phase == .running || u.phase == .aborting
   | none => true) ||
    match (coreSt s core).array.run with
    | some (.run o _) => opBank o == opBank j.op && decide (j.op.seq < o.seq)
    | _ => false

/-- LOAD_PATH_START: the load at the head of the load path starts on its bank, or closes the batches that still gather on
it (R100, R101, R115). -/
def execLoadPathStart (core : Nat) (s : State) : Res :=
  let a := (coreSt s core).array
  match a.loads with
  | [] => .refused (.notEnabled "LOAD_PATH_START")
  | j :: t =>
    let b := loadBank j
    if j.started || arrayFrozen s core || !(loadGoesOn s core j) then .refused (.notEnabled "LOAD_PATH_START")
    else if a.opened.any (fun x => x.bank == b && !x.due) then
      .next (modArray s core (fun a => closeBatches a (fun x => x.bank == b)))
    else if (a.bank b).state = .stream || (a.bank b).state = .loading || readsBefore a b j.op.seq ||
        residentInUse (coreSt s core) b then
      .refused (.notEnabled "LOAD_PATH_START")
    else
      .next (modArray s core (fun a =>
        { (a.withBank b { Bank.none with state := .loading }) with loads := { j with started := true } :: t }))

/-- The submission of an operation still runs. -/
def opLives (s : State) (q : Nat) : Bool :=
  match find s.subs q with
  | some u => !u.stopped
  | none => false

/-- GROUP_LOAD_DONE: the group load at the head of the load path completes (R98, R100): its bank holds the group as the
local store holds the tile now (R101); the load leaves the path with its last group. -/
def execGroupLoadDone (core : Nat) (s : State) : Res :=
  let a := (coreSt s core).array
  match a.loads with
  | [] => .refused (.notEnabled "GROUP_LOAD_DONE")
  | j :: t =>
    if !j.started || arrayFrozen s core then .refused (.notEnabled "GROUP_LOAD_DONE")
    else
      let b := j.op.b.toNat
      let rd := lsByte s core j.op.ctx j.op.a.toNat
      let rows := 32 * lcKb b
      let once := bit (wFlags j.op.w.toNat) 1
      let k := bankOf rd (lcFormat b) j.op.planes rows (lcN b) j.group 1 once (j.op.planes != lcPlanes b) (wImm j.op.w.toNat)
      let rest := if j.group + 1 = k.groups || !opLives s j.op.queue then t
        else { j with group := j.group + 1, started := false } :: t
      let s := modArray s core (fun a => { (a.withBank (loadBank j) k) with loads := rest })
      .next (matrixWake (opCount s core 29 1) core)

/-! Runs. -/

/-- The most recent load into a bank that has not completed, else the bank's tile: planes, rows of blocks and columns. -/
def tileOfBank (a : ArraySt) (b : Nat) : Option (Nat × Nat × Nat) :=
  match (a.loads.filter (fun j => opBank j.op == b)).getLast? with
  | some j => some (j.op.planes, lcKb j.op.b.toNat, lcN j.op.b.toNat)
  | none =>
    let k := a.bank b
    if k.state = .empty then none else some (k.planes, k.kblocks, k.cols)

/-- The mode in which operations queued now will find the accumulator. -/
def modeAhead (a : ArraySt) : Bool :=
  match (a.queue.filter (fun o => wOp o.w.toNat == 1)).getLast? with
  | some o => needsWide o.planes (rcSlices o.b.toNat)
  | none =>
    match a.run with
    | some (.run o _) => needsWide o.planes (rcSlices o.b.toNat)
    | _ => a.wide

/-- RCFG keeps to its table for a tile of kb blocks in a mode (R72, R102, R108, R109, R113); each activation row is aligned to 64 bytes. -/
def rcfgOk (a : ArraySt) (b kb : Nat) (wide : Bool) : Bool :=
  bits b 47 41 == 0 && bits b 27 25 == 0 && bits b 15 12 == 0 && decide (1 ≤ rcStride b) && decide (1 ≤ rcRows b) &&
    decide (rcBase b + rcRows b ≤ accRows wide - reservedRows a wide) && decide (1 ≤ rcKlen b) && decide (rcKlen b ≤ 16) &&
    decide (rcKoff b + rcKlen b ≤ kb) && (decide (rcRows b ≤ 1) || rcStride b % 2 == 0) && decide (1 ≤ rcSlices b) && decide (rcSlices b ≤ 8) && isActivation (rcFormat b)

/-- Local-store range of n rows a stride apart. -/
def rowsInRange (s : State) (c ctx a n stride row : Nat) : Bool := lsRange s c ctx a ((n - 1) * stride + row)

/-- MRUN (R107). -/
def execMrun (core slot : Nat) (w : BitVec 64) (s : State) : Res :=
  issueMatrix core slot w 0x01 "MRUN" s fun t s =>
    let k := (coreSt s core).array
    let a := scalar t.g (wSA t.w)
    let b := scalar t.g (wSB t.w)
    match tileOfBank k (bnat (bit (wFlags t.w) 1)) with
    | none => failIssue t s stFaultCommand
    | some tile =>
      if !rcfgOk k b tile.2.1 (needsWide tile.1 (rcSlices b)) || a % 64 ≠ 0 ||
          !rowsInRange s core t.g.ctx a (rcRows b) (32 * rcStride b) (actRowBytes (rcFormat b) (32 * rcKlen b)) then
        failIssue t s stFaultCommand
      else enqueueOp t s tile.1 tile.2.2 (fun k o => { k with queue := k.queue ++ [o] })

/-- The rows an operation of the run path names. -/
def opRows (o : MatOp) : Nat :=
  let w := o.w.toNat
  let b := o.b.toNat
  match wOp w with
  | 1 => rowMask (rcBase b) (rcRows b)
  | 2 => rowMask (dcBase b) (dcRows b)
  | 3 => rowMask (bits (wImm w) 6 0) (bits (wImm w) 13 7)
  | _ => 0

/-- What an operation leaves a row with: the columns of the tile its run reads, nothing after a clear or a drain without KEEP; none where it
leaves the row as it is. -/
def rowAfter (o : MatOp) (r : Nat) : Option (Option Nat) :=
  if !bit (opRows o) r then none
  else
    match wOp o.w.toNat with
    | 1 => some (some o.cols)
    | 2 => if bit (wFlags o.w.toNat) 0 then none else some none
    | _ => some none

/-- The columns of the tile that a row holds when an operation queued now reaches it, if it holds one (R109). -/
def rowTile (a : ArraySt) (r : Nat) : Option Nat :=
  let exec := match a.run with
    | some (.run o _) => [o]
    | some (.drain o) => [o]
    | _ => []
  match (exec ++ a.queue).reverse.findSome? (fun o => rowAfter o r) with
  | some x => x
  | none => find a.rowCols r

/-- COLS of a drain match the tile of every row that holds one (R109, log entry 38). -/
def colsMatch (a : ArraySt) (b : Nat) : Bool :=
  (List.range (dcRows b)).all (fun i => match rowTile a (dcBase b + i) with
    | some n => n == dcCols b
    | none => true)

/-- DCFG keeps to its table in a mode (R105, R108, R109, R113). -/
def dcfgOk (a : ArraySt) (b : Nat) (wide : Bool) : Bool :=
  colsMatch a b &&
  bits b 47 33 == 0 && bits b 23 21 == 0 && decide (1 ≤ dcStride b) && decide (1 ≤ dcCols b) && decide (dcCols b ≤ 256) &&
    decide (1 ≤ dcRows b) && decide (dcBase b + dcRows b ≤ accRows wide - reservedRows a wide) &&
    drainFormatOk (dcFormat b) wide

/-- Bytes before the rows of a drain: the header of a raw tile (R81). -/
def drainHead (fmt : Nat) : Nat := if isRaw (elemOf fmt) then 16 else 0

/-- MDRAIN (R107). -/
def execMdrain (core slot : Nat) (w : BitVec 64) (s : State) : Res :=
  issueMatrix core slot w 0x02 "MDRAIN" s fun t s =>
    let k := (coreSt s core).array
    let a := scalar t.g (wSA t.w)
    let b := scalar t.g (wSB t.w)
    if !dcfgOk k b (modeAhead k) || a % 32 ≠ 0 ||
        !rowsInRange s core t.g.ctx (a + drainHead (dcFormat b)) (dcRows b) (32 * dcStride b)
          (drainRowBytes (dcFormat b) (dcCols b)) ||
        (bit (wFlags t.w) 1 && decide (localCtrs s core t.g.ctx ≤ bits (wImm t.w) 5 0)) then
      failIssue t s stFaultCommand
    else enqueueOp t s 0 0 (fun k o => { k with queue := k.queue ++ [o] })

/-- MCLR (R107). -/
def execMclr (core slot : Nat) (w : BitVec 64) (s : State) : Res :=
  issueMatrix core slot w 0x03 "MCLR" s fun t s =>
    let first := bits (wImm t.w) 6 0
    let n := bits (wImm t.w) 13 7
    if n = 0 || accRows (modeAhead (coreSt s core).array) < first + n then failIssue t s stFaultCommand
    else enqueueOp t s 0 0 (fun k o => { k with queue := k.queue ++ [o] })

/-- MTF (R107). -/
def execMtf (core slot : Nat) (w : BitVec 64) (s : State) : Res :=
  issueMatrix core slot w 0x04 "MTF" s fun t s => enqueueOp t s 0 0 (fun k o => { k with queue := k.queue ++ [o] })

/-- MREQ's configuration keeps to its table for a tile of kb blocks and n columns (R108, R109, R114). -/
def qcfgOk (s : State) (t : Thread) (b : Nat) : Bool :=
  bits b 63 53 == 0 && bits b 31 30 == 0 && bits b 15 12 == 0 && decide (1 ≤ qcSlices b) && decide (qcSlices b ≤ 8) &&
    isActivation (qcFormat b) && isTarget (qcOut b) && !isRaw (elemOf (qcOut b)) && modeOf (qcOut b) != 3 &&
    decide (qcCtr b < localCtrs s t.core t.g.ctx) && qcDest b % 32 == 0 && scalar t.g (wSA t.w) % 64 == 0

/-- The RESIDENT bank that holds a tag, of one plane group, with no load into it issued (R100, R114, R117). -/
def taggedBank (a : ArraySt) (tag : Nat) : Option Nat :=
  [0, 1].find? (fun b =>
    let k := a.bank b
    k.state == .resident && k.tag == tag && k.groups == 1 && !a.loads.any (fun j => loadsInto j.op b))

/-- How many requests a batch holds when full (R113). -/
def batchFull (a : ArraySt) (b : Batch) : Nat := reservedRows a (batchWide a b)

/-- A request joins the array's batches (R114, R115), or none: the status. -/
def joinBatch (a : ArraySt) (tag bank window : Nat) (b : Nat) (r : BatchReq) (ctx : Nat) : Nat × ArraySt :=
  let like (x : Batch) : Bool :=
    x.tag == tag && x.bank == bank && x.actFmt == qcFormat b && x.slices == qcSlices b && x.outFmt == qcOut b && !x.due
  let put (a : ArraySt) (x : Batch) : ArraySt :=
    let full := batchFull a x ≤ x.reqs.length || window = 0
    if full then closeBatches a (fun y => y == x) else a
  match a.opened.find? like with
  | some x =>
    let y : Batch := { x with reqs := x.reqs ++ [r] }
    (0, put { a with opened := a.opened.map (fun z => if z = x then y else z) } y)
  | none =>
    if 2 ≤ a.opened.length then (2, a)
    else
      let y : Batch := ⟨a.seq, false, tag, bank, qcFormat b, qcSlices b, qcOut b, ctx, [r]⟩
      (0, put { a with opened := a.opened ++ [y], seq := a.seq + 1 } y)

/-- ARRAY_BATCH_WINDOW of the core's partition (R116). -/
def batchWindow (s : State) (c : Nat) : Nat :=
  match partOfCore s c with
  | some p => obj s 0x7020 (p + 1)
  | none => 0

/-- MREQ: a request to the batcher, its status in SD (R114, R117). A group of another context finds no tag. -/
def execMreq (core slot : Nat) (w : BitVec 64) (s : State) : Res :=
  issue core slot w mMATRIX 0x05 "MREQ" s fun t s =>
    let k := (coreSt s core).array
    let a := scalar t.g (wSA t.w)
    let b := scalar t.g (wSB t.w)
    let answer (s : State) (v : Nat) : Res := finish t s (fun g => setScalar g (wSD t.w) v)
    if !qcfgOk s t b then failIssue t s stFaultCommand
    else if k.owner ≠ some t.g.ctx then answer s 1
    else if k.batchRows = 0 then answer s 3
    else
      match taggedBank k (wImm t.w) with
      | none => answer s 1
      | some bank =>
        let tile := k.bank bank
        if !lsRange s core t.g.ctx a (actRowBytes (qcFormat b) (32 * tile.kblocks)) ||
            !lsRange s core t.g.ctx (qcDest b) (drainRowBytes (qcOut b) tile.cols) then failIssue t s stFaultCommand
        else
          let r := joinBatch k (wImm t.w) bank (batchWindow s core) b ⟨a, qcDest b, qcCtr b, t.g.queue⟩ t.g.ctx
          let s := modArray s core (fun _ => r.2)
          answer (if r.1 = 0 then opCount s core 26 1 else s) r.1

/-- MFLUSH: open batches on a tag close (R115, R117). -/
def execMflush (core slot : Nat) (w : BitVec 64) (s : State) : Res :=
  issueMatrix core slot w 0x06 "MFLUSH" s fun t s =>
    finish t (modArray s core (fun a => closeBatches a (fun x => x.tag == wImm t.w))) id

/-- MBCFG: rows are reserved for the batcher once the queue is empty (R107, R113). -/
def execMbcfg (core slot : Nat) (w : BitVec 64) (s : State) : Res :=
  issueMatrix core slot w 0x07 "MBCFG" s fun t s =>
    let k := (coreSt s core).array
    let c := bits (wImm t.w) 6 0
    let first := if k.wide then 32 - ceilDiv c 2 else 64 - c
    if 64 < c then failIssue t s stFaultCommand
    else if k.inUse ≠ 0 then stallOn t s .matrixFull
    else if k.dirty &&& rowMask first (accRows k.wide - first) ≠ 0 then failIssue t s stFaultCommand
    else finish t (modArray s core (fun a => { a with batchRows := c })) id

/-- MFENCE: the group waits until its earlier matrix instructions are complete (R107). -/
def execMfence (core slot : Nat) (w : BitVec 64) (s : State) : Res :=
  issueMatrix core slot w 0x08 "MFENCE" s fun t s =>
    if matrixBusy (coreSt s core).array slot t.g.queue then stallOn t s .mfence else finish t s id

/-- The state code of a bank (R108). -/
def bankCode : BankState → Nat
  | .empty => 0
  | .loading => 1
  | .stream => 2
  | .resident => 3

/-- The MSTAT status word (R108). -/
def mstatWord (a : ArraySt) : Nat :=
  let tag (k : Bank) : Nat := if k.state = .resident then k.tag else 0
  tag a.bank1 * 2 ^ 48 + tag a.bank0 * 2 ^ 32 + a.batchRows * 2 ^ 17 + a.inUse * 2 ^ 12 + bnat a.wide * 2 ^ 11 +
    bankCode a.bank1.state * 2 ^ 4 + bankCode a.bank0.state

/-- MSTAT (R107, R108). -/
def execMstat (core slot : Nat) (w : BitVec 64) (s : State) : Res :=
  issueMatrix core slot w 0x09 "MSTAT" s fun t s =>
    finish t s (fun g => setScalar g (wSD t.w) (mstatWord (coreSt s core).array))

/-- BATCH_WINDOW_EXPIRE: the window of the i-th open batch expires and it closes (R115). -/
def execBatchWindowExpire (core i : Nat) (s : State) : Res :=
  needs ((coreSt s core).array.opened[i]?) "BATCH_WINDOW_EXPIRE" fun b =>
    if b.due || arrayFrozen s core then .refused (.notEnabled "BATCH_WINDOW_EXPIRE")
    else .next (coreEvent (modArray s core (fun a => closeBatch a b)) core 0x15 (some b.ctx) 1)

/-! The run path (R106, R110). -/

/-- A load issued before `seq` into the bank has not come as far as a run needs (R100, R101). -/
def loadAhead (a : ArraySt) (b seq : Nat) : Bool :=
  a.loads.any (fun j => opBank j.op == b && decide (j.op.seq < seq) && decide (j.group < 2))

/-- The run of an operation starts (R103, R104): none when its mode differs and a row is dirty. -/
def startRun (a : ArraySt) (wide clear : Bool) (rows : Nat) : Option ArraySt :=
  if a.wide != wide && a.dirty != 0 then none
  else
    let a := setMode a wide
    let a := if clear then zeroRows a rows else a
    some { a with dirty := a.dirty ||| rows }

/-- The operation at the head of the run path starts; a clear and a factor are done at once. -/
def startOp (s : State) (core : Nat) (o : MatOp) (rest : List MatOp) : Res :=
  let a := (coreSt s core).array
  let w := o.w.toNat
  let popped := modArray s core (fun a => { a with queue := rest })
  if a.holder.isSome && opRows o &&& a.holdRows ≠ 0 then .refused (.notEnabled "RUN_PATH_START")
  else
    match wOp w with
    | 1 =>
      let b := opBank o
      if loadAhead a b o.seq || (a.bank b).state = .loading then .refused (.notEnabled "RUN_PATH_START")
      else if (a.bank b).state = .empty || (a.bank b).group ≠ 0 then .next (matrixWake popped core)
      else
        match startRun a (needsWide o.planes (rcSlices o.b.toNat)) (bit (wFlags w) 0) (opRows o) with
        | none => .next (matrixWake (failSubmission popped o.queue stFaultCommand) core)
        | some a =>
          .next (modArray s core (fun _ => { a with
            queue := rest, run := some (.run o 0)
            rowCols := (bitsSet 64 (opRows o)).foldl (fun m r => insert m r o.cols) a.rowCols }))
    | 2 => .next (modArray popped core (fun a => { a with run := some (.drain o) }))
    | 3 =>
      .next (matrixWake (modArray popped core (fun a =>
        { zeroRows a (opRows o) with dirty := a.dirty &&& (2 ^ 64 - 1 - opRows o) })) core)
    | _ =>
      .next (matrixWake (modArray popped core (fun a =>
        { a with factor := o.a.toNat, tOut := o.b.toNat % 2 ^ 32 })) core)

/-- The queues of a batch's requests fail. -/
def failBatch (s : State) (b : Batch) (status : Nat) : State :=
  ((b.reqs.map BatchReq.queue).eraseDups).foldl (fun s q => failSubmission s q status) s

/-- A closed batch starts (R115). -/
def startBatch (s : State) (core : Nat) (b : Batch) (rest : List Batch) : Res :=
  let a := (coreSt s core).array
  let wide := batchWide a b
  let rows := rowMask (batchBase a wide) b.reqs.length
  let left := modArray s core (fun a => closeDue { a with closed := rest })
  if (a.bank b.bank).state ≠ .resident then .next left
  else
    match startRun a wide true rows with
    | none => .next (failBatch left b stFaultCommand)
    | some a => .next (opCount (modArray s core (fun _ => closeDue { a with closed := rest, run := some (.batchRun b) })) core 27 1)

/-- RUN_PATH_START: the entry at the head of the run path starts after its waits; a closed batch goes behind the entries
issued before it closed (R106, R115). -/
def execRunPathStart (core : Nat) (s : State) : Res :=
  let a := (coreSt s core).array
  if a.run.isSome || (coreSt s core).held || arrayFrozen s core then .refused (.notEnabled "RUN_PATH_START")
  else
    let first (o : MatOp) (rest : List MatOp) : Res :=
      if mayStart s core o.queue then startOp s core o rest else .refused (.notEnabled "RUN_PATH_START")
    match a.queue, a.closed with
    | o :: rest, b :: more => if o.seq < b.seq && mayStart s core o.queue then first o rest else startBatch s core b more
    | o :: rest, [] => first o rest
    | [], b :: more => startBatch s core b more
    | [], [] => .refused (.notEnabled "RUN_PATH_START")

/-- What a run operation reads. -/
def runArgs (s : State) (core : Nat) (o : MatOp) (k : Bank) : RunArgs :=
  let b := o.b.toNat
  { base := rcBase b
    rows := readActs s core o.ctx o.a.toNat (rcFormat b) (rcRows b) (32 * rcStride b) (rcKlen b) k.planes (rcSlices b)
    koff := rcKoff b, klen := rcKlen b, slices := rcSlices b, actFmt := rcFormat b }

/-- The bank of group g of a tile named by bank b. -/
def groupBank (b g : Nat) : Nat := if g % 2 = 0 then b else otherBank b

/-- Another queued run reads the group that bank b holds: it names the bank of its tile's first group, and no load into that bank or into b
came before it (R98, R100). -/
def readAgain (a : ArraySt) (b : Nat) : Bool :=
  let named := if (a.bank b).group % 2 = 0 then b else otherBank b
  let later (j : LoadJob) : Bool := !j.started && j.group == 0 && (loadsInto j.op b || loadsInto j.op named)
  let next := ((a.loads.filter later).map (fun j => j.op.seq)).head?
  a.queue.any (fun o => wOp o.w.toNat == 1 && opBank o == named && readsBank o 0 b && match next with
    | some n => decide (o.seq < n)
    | none => true)

/-- The next group of the load at the head starts in a bank that has become free (R101). -/
def reloadHead (a : ArraySt) (b : Nat) : ArraySt :=
  match a.loads with
  | j :: t =>
    if !j.started && decide (2 ≤ j.group) && loadBank j == b then
      { (a.withBank b { Bank.none with state := .loading }) with loads := { j with started := true } :: t }
    else a
  | [] => a

/-- A bank whose group was consumed becomes EMPTY, and the next group of its tile reloads into it (R100, R101). -/
def consumeBank (a : ArraySt) (b : Nat) : ArraySt :=
  if (a.bank b).groups ≤ 2 && readAgain a b then a else reloadHead (a.withBank b Bank.none) b

/-- GROUP_PASSES_DONE for a run of the run path: the streamed group's passes complete. -/
def streamPasses (s : State) (core : Nat) (o : MatOp) (g : Nat) : Res :=
  let a := (coreSt s core).array
  let b := groupBank (opBank o) g
  let k := a.bank b
  if k.state ≠ .stream || k.group ≠ g || arrayFrozen s core then .refused (.notEnabled "GROUP_PASSES_DONE")
  else
    let s := doGroups s core k (runArgs s core o k) g k.held
    .next (modArray s core (fun a => { consumeBank a b with run := some (.run o (g + k.held)) }))

/-- A bank parity error on a pass (R120): the bank becomes EMPTY and the submission of the work faults. -/
def parityError (s : State) (core b queue : Nat) : State :=
  failSubmission (opCount (modArray s core (fun a => a.withBank b Bank.none)) core 31 1) queue stFaultMemory

/-- An uncorrectable accumulator error (R120): the rows are zeroed and the submission of the work faults. -/
def accumulatorError (s : State) (core rows queue : Nat) : State :=
  failSubmission (opCount (modArray s core (fun a => zeroRows a rows)) core 31 1) queue stFaultMemory

/-- A corrected accumulator error (R120, R463, R467). -/
def accumulatorCorrected (s : State) (core : Nat) : State :=
  coreEvent (opCount s core 30 1) core 0x14 (coreSt s core).array.owner 1

/-- How many groups of the run's tile are over when the run may complete: all that were streamed. -/
def runOver (a : ArraySt) (o : MatOp) (g : Nat) : Bool :=
  let k := a.bank (groupBank (opBank o) g)
  !(k.state == .stream && k.group == g) && !a.loads.any (fun j => opBank j.op == opBank o && decide (j.op.seq < o.seq))

/-- The groups of RESIDENT banks that a run reads: those of the bank named, then those of the other. -/
def residentPasses (s : State) (core : Nat) (o : MatOp) : State :=
  let a := (coreSt s core).array
  let b := opBank o
  let k := a.bank b
  if k.state ≠ .resident then s
  else
    let s := doGroups s core k (runArgs s core o k) 0 k.held
    let k2 := a.bank (otherBank b)
    if k.groups = 2 && k.held = 1 && k2.state = .resident && k2.group = 1 then
      doGroups s core k2 (runArgs s core o k2) 1 1
    else s

/-- RUN_DONE: a run's results become visible (R110), with what the codes found (R120). Of a run that reads both banks, which one has the
parity error is a free value (log entry 39). -/
def execRunDone (core : Nat) (err : ArrayError) (s : State) : Res :=
  let a := (coreSt s core).array
  match a.run with
  | some (.run o g) =>
    if !runOver a o g || arrayFrozen s core then .refused (.notEnabled "RUN_DONE")
    else
      let idle (s : State) : State := matrixWake (noteEnd (modArray s core (fun a => { a with run := none })) o.queue core) core
      match err with
      | .bankParity =>
        let f := freshWord s
        let b := if o.planes ≤ 16 || f.1 % 2 = 0 then opBank o else otherBank (opBank o)
        .next (idle (parityError f.2 core b o.queue))
      | .accUncorrectable => .next (idle (accumulatorError (residentPasses s core o) core (opRows o) o.queue))
      | .accCorrected => .next (idle (accumulatorCorrected (residentPasses s core o) core))
      | .none => .next (idle (residentPasses s core o))
  | some (.batchRun b) =>
    if arrayFrozen s core then .refused (.notEnabled "RUN_DONE") else
    let k := a.bank b.bank
    let x : RunArgs :=
      { base := batchBase a a.wide
        rows := (b.reqs.map (fun r => readActs s core b.ctx r.src b.actFmt 1 0 k.kblocks k.planes b.slices)).flatten
        koff := 0, klen := k.kblocks, slices := b.slices, actFmt := b.actFmt }
    let rows := rowMask x.base b.reqs.length
    let done (s : State) : State := modArray s core (fun a => { a with run := some (.batchDrain b b.reqs.length) })
    let first := ((b.reqs.head?).map BatchReq.queue).getD 0
    match err with
    | .bankParity =>
      .next (modArray (failBatch (parityError s core b.bank first) b stFaultMemory) core (fun a => { a with run := none }))
    | .accUncorrectable =>
      .next (failBatch (accumulatorError (done (doGroups s core k x 0 k.held)) core rows first) b stFaultMemory)
    | .accCorrected => .next (accumulatorCorrected (done (doGroups s core k x 0 k.held)) core)
    | .none => .next (done (doGroups s core k x 0 k.held))
  | _ => .refused (.notEnabled "RUN_DONE")

/-- Rows drained to local store (R105). -/
def drainRows (s : State) (core ctx a base n stride cols fmt : Nat) : State :=
  let k := (coreSt s core).array
  let s := if isRaw (elemOf fmt) then lsWrite s core ctx a (rawHeader k.factor) else s
  (List.range n).foldl (fun s r =>
    lsWrite s core ctx (a + drainHead fmt + r * stride) (drainRow k (base + r) cols fmt k.factor k.tOut)) s

/-- Drained rows are zeroed and clean, unless KEEP (R103, R105). -/
def afterDrain (a : ArraySt) (rows : Nat) (keep : Bool) : ArraySt :=
  if keep then a else { zeroRows a rows with dirty := a.dirty &&& (2 ^ 64 - 1 - rows) }

/-- DRAIN_DONE for a drain of the run path (R105, R107): format and mode are those in force at the drain. -/
def drainOp (s : State) (core : Nat) (err : ArrayError) (o : MatOp) : Res :=
  let b := o.b.toNat
  let w := o.w.toNat
  let rows := opRows o
  let idle (s : State) : State := matrixWake (noteEnd (modArray s core (fun a => { a with run := none })) o.queue core) core
  match err with
  | .accUncorrectable => .next (idle (accumulatorError s core rows o.queue))
  | _ =>
    if !drainFormatOk (dcFormat b) (coreSt s core).array.wide then .next (idle (failSubmission s o.queue stFaultCommand))
    else
      let s := drainRows s core o.ctx o.a.toNat (dcBase b) (dcRows b) (32 * dcStride b) (dcCols b) (dcFormat b)
      let s := modArray s core (fun a => afterDrain a rows (bit (wFlags w) 0))
      let s := opCount s core 28 (dcRows b)
      let s := if bit (wFlags w) 1 then addLocalCtr s core o.ctx (bits (wImm w) 5 0) 1 else s
      .next (idle (if err = .accCorrected then accumulatorCorrected s core else s))

/-- DRAIN_DONE for the next request of a batch (R115). -/
def drainReq (s : State) (core : Nat) (err : ArrayError) (b : Batch) (left : Nat) : Res :=
  let a := (coreSt s core).array
  let i := b.reqs.length - left
  let row := batchBase a a.wide + i
  let next (s : State) : State :=
    modArray s core (fun a => closeDue { a with run := if left ≤ 1 then none else some (.batchDrain b (left - 1)) })
  match b.reqs[i]? with
  | none => .next (next s)
  | some r =>
    match err with
    | .accUncorrectable => .next (next (accumulatorError s core (rowMask row 1) r.queue))
    | _ =>
      let s := if opLives s r.queue then
        let s := drainRows s core b.ctx r.dest row 1 0 (a.bank b.bank).cols b.outFmt
        addLocalCtr (opCount s core 28 1) core b.ctx r.ctr 1
      else s
      let s := modArray s core (fun a => afterDrain a (rowMask row 1) false)
      .next (next (noteEnd (if err = .accCorrected then accumulatorCorrected s core else s) r.queue core))

/-- DRAIN_DONE: a drain's writes are visible and its counter rises (R105, R110). -/
def execDrainDone (core : Nat) (err : ArrayError) (s : State) : Res :=
  if arrayFrozen s core then .refused (.notEnabled "DRAIN_DONE") else
  match (coreSt s core).array.run with
  | some (.drain o) => drainOp s core err o
  | some (.batchDrain b left) => drainReq s core err b left
  | _ => .refused (.notEnabled "DRAIN_DONE")

end Sys2Proof.Machine
end

