-- ==== Sys2Proof/Machine/Vector.lean ====
section
/-!
DEFINITION. Class ELEM: the vector instructions (R159 to R165), VPROG with the program store (R170, R171), and the errors of
the vector file (R176).
-/

namespace Sys2Proof.Machine

/-! Fields of format V (R162). -/

def vMsk (w : Nat) : Nat := bits w 47 45
def vMen (w : Nat) : Bool := bit w 44
def vVc (w : Nat) : Nat := bits w 43 39
def vVb (w : Nat) : Nat := bits w 38 34
def vVa (w : Nat) : Nat := bits w 33 29
def vVd (w : Nat) : Nat := bits w 28 24
def vFmt (w : Nat) : Nat := bits w 23 16
def vSub (w : Nat) : Nat := bits w 15 12
def vSa (w : Nat) : Nat := bits (wImm w) 5 0
def vSb (w : Nat) : Nat := bits (wImm w) 11 6

/-- Change a core's vector file. -/
def modVec (s : State) (c : Nat) (f : VecSt → VecSt) : State := modCore s c (fun k => { k with vec := f k.vec })

/-- A vector register. -/
def vreg (v : VecSt) (r : Nat) : Nat := ((find v.vr r).getD 0).toNat

/-- Write a vector register. -/
def setVreg (v : VecSt) (r x : Nat) : VecSt := { v with vr := putD 0 v.vr r (BitVec.ofNat 16384 x) }

/-- A mask register. -/
def vmask (v : VecSt) (m : Nat) : Nat := ((find v.vm m).getD 0).toNat

/-- Write a mask register of n elements: bits from n on are zero (R161). -/
def setVmask (v : VecSt) (m n x : Nat) : VecSt := { v with vm := putD 0 v.vm m (BitVec.ofNat 2048 (x % 2 ^ n)) }

/-- Element i of width w of a register. -/
def elemAt (w r i : Nat) : Nat := (r >>> (w * i)) % 2 ^ w

/-- The register with elements from a function, the bits above n elements as `rest` gives. -/
def packReg (w n : Nat) (f : Nat → Nat) : Nat := (List.range n).foldl (fun acc i => acc + (f i % 2 ^ w) * 2 ^ (w * i)) 0

/-- Element i is selected (R161). -/
def selected (v : VecSt) (w i : Nat) : Bool := !vMen w || bit (vmask v (vMsk w)) i

/-- VD written with n elements of width w, the elements that the mask leaves out kept; bits above are zero (R161, R164). -/
def writeElems (v : VecSt) (op : VecOp) (w n : Nat) (f : Nat → Nat) : VecSt :=
  let i := op.w.toNat
  let old := vreg v (vVd i)
  setVreg v (vVd i) (packReg w n (fun k => if selected v i k then f k else elemAt w old k))

/-! Checks at issue (R162 to R164). -/

/-- Integer only, floating only, or either (R163). -/
def vecTypeOk (op fmt : Nat) : Bool :=
  match op with
  | 0x09 => isFloat fmt
  | 0x0A => isFloat fmt
  | 0x0E => !isFloat fmt
  | 0x0F => !isFloat fmt
  | _ => true

/-- SUB names something (R163). -/
def vecSubOk (op fmt sub : Nat) : Bool :=
  match op with
  | 0x08 => decide (sub ≤ (if isFloat fmt then 0 else 1))
  | 0x0A => decide (sub ≤ 12)
  | 0x0B => decide (sub ≤ (if isFloat fmt then 5 else 7))
  | 0x0E => decide (sub ≤ 3)
  | 0x0F => decide (sub ≤ 2)
  | 0x11 => decide (sub ≤ 2)
  | 0x13 => decide (sub ≤ 5)
  | _ => true

/-- The word keeps to R162 and R163. -/
def vecOk (w : Nat) : Bool :=
  let op := wOp w
  let f := vFmt w
  (if op = 0x0D then engineFmt f && engineFmt (bits (wImm w) 7 0) else computeFmt f) && vecTypeOk op f &&
    vecSubOk op f (vSub w)

/-- Issue of a vector instruction (R164, R165): checked, then queued; a full queue leaves the group as it is, and a
context that does not own the file waits (R159). -/
def vecIssue (core slot : Nat) (w : BitVec 64) (op : Nat) (name : String) (s : State) : Res :=
  issue core slot w mELEM op name s fun t s =>
    match takeArray s core t.g.ctx with
    | none => stallOn t (coreEvent s core 0x0A (some t.g.ctx) 1) .ownership
    | some s =>
      let a := scalar t.g (vSa t.w)
      let at_ := bits a 20 0
      if !vecOk t.w then failIssue t s stFaultCommand
      else if op ≤ 1 && (at_ % 64 ≠ 0 || !lsRange s core t.g.ctx at_ 2048) then failIssue t s stFaultAccess
      else if 16 ≤ (coreSt s core).vec.queue.length then .next s
      else
        finish t (modVec s core (fun v => { v with
          queue := v.queue ++ [⟨w, BitVec.ofNat 64 a, BitVec.ofNat 64 (scalar t.g (vSb t.w)), slot, t.g.queue, t.g.ctx⟩] })) id

def execVld (core slot : Nat) (w : BitVec 64) (s : State) : Res := vecIssue core slot w 0x00 "VLD" s
def execVst (core slot : Nat) (w : BitVec 64) (s : State) : Res := vecIssue core slot w 0x01 "VST" s
def execVadd (core slot : Nat) (w : BitVec 64) (s : State) : Res := vecIssue core slot w 0x02 "VADD" s
def execVsub (core slot : Nat) (w : BitVec 64) (s : State) : Res := vecIssue core slot w 0x03 "VSUB" s
def execVmul (core slot : Nat) (w : BitVec 64) (s : State) : Res := vecIssue core slot w 0x04 "VMUL" s
def execVfma (core slot : Nat) (w : BitVec 64) (s : State) : Res := vecIssue core slot w 0x05 "VFMA" s
def execVmin (core slot : Nat) (w : BitVec 64) (s : State) : Res := vecIssue core slot w 0x06 "VMIN" s
def execVmax (core slot : Nat) (w : BitVec 64) (s : State) : Res := vecIssue core slot w 0x07 "VMAX" s
def execVdiv (core slot : Nat) (w : BitVec 64) (s : State) : Res := vecIssue core slot w 0x08 "VDIV" s
def execVsqrt (core slot : Nat) (w : BitVec 64) (s : State) : Res := vecIssue core slot w 0x09 "VSQRT" s
def execVfn (core slot : Nat) (w : BitVec 64) (s : State) : Res := vecIssue core slot w 0x0A "VFN" s
def execVcmp (core slot : Nat) (w : BitVec 64) (s : State) : Res := vecIssue core slot w 0x0B "VCMP" s
def execVsel (core slot : Nat) (w : BitVec 64) (s : State) : Res := vecIssue core slot w 0x0C "VSEL" s
def execVcvt (core slot : Nat) (w : BitVec 64) (s : State) : Res := vecIssue core slot w 0x0D "VCVT" s
def execVlogic (core slot : Nat) (w : BitVec 64) (s : State) : Res := vecIssue core slot w 0x0E "VLOGIC" s
def execVshift (core slot : Nat) (w : BitVec 64) (s : State) : Res := vecIssue core slot w 0x0F "VSHIFT" s
def execVbcst (core slot : Nat) (w : BitVec 64) (s : State) : Res := vecIssue core slot w 0x10 "VBCST" s
def execVred (core slot : Nat) (w : BitVec 64) (s : State) : Res := vecIssue core slot w 0x11 "VRED" s
def execVperm (core slot : Nat) (w : BitVec 64) (s : State) : Res := vecIssue core slot w 0x12 "VPERM" s
def execVmask (core slot : Nat) (w : BitVec 64) (s : State) : Res := vecIssue core slot w 0x13 "VMASK" s
def execViota (core slot : Nat) (w : BitVec 64) (s : State) : Res := vecIssue core slot w 0x14 "VIOTA" s
def execVprog (core slot : Nat) (w : BitVec 64) (s : State) : Res := vecIssue core slot w 0x15 "VPROG" s

/-- A vector instruction of a group is queued or executes. -/
def vectorBusy (v : VecSt) (slot queue : Nat) : Bool :=
  (v.exec.toList ++ v.queue).any (fun o => o.slot == slot && o.queue == queue)

/-- VFENCE: the group waits until its earlier ELEM instructions are complete (R163). -/
def execVfence (core slot : Nat) (w : BitVec 64) (s : State) : Res :=
  issue core slot w mELEM 0x16 "VFENCE" s fun t s =>
    match takeArray s core t.g.ctx with
    | none => stallOn t (coreEvent s core 0x0A (some t.g.ctx) 1) .ownership
    | some s =>
      if !vecOk t.w then failIssue t s stFaultCommand
      else if vectorBusy (coreSt s core).vec slot t.g.queue then holdOn t s .vfence
      else finish t s id

/-! Results (R163, R164). -/

/-- The scalar register SA as a value of a format: FP64 bits for floating formats, INT64 bits for integer ones. -/
def scalarValue (fmt a : Nat) : Num := if isFloat fmt then decodeElem fmtFP64 a else numOfInt (signedOf 64 a)

/-- Element-wise results by operation, from the elements of VA, VB, VC and the element number (R163). -/
def vecElem (v : VecSt) (op : VecOp) (i : Nat) : Nat :=
  let w := op.w.toNat
  let fmt := vFmt w
  let wd := elemBits fmt
  let a := elemAt wd (vreg v (vVa w)) i
  let b := elemAt wd (vreg v (vVb w)) i
  let c := elemAt wd (vreg v (vVc w)) i
  match wOp w with
  | 0x02 => elAdd fmt a b
  | 0x03 => elSub fmt a b
  | 0x04 => elMul fmt a b
  | 0x05 => elFma fmt a b c
  | 0x06 => elMin fmt a b
  | 0x07 => elMax fmt a b
  | 0x08 => if vSub w = 1 then elRem fmt a b else elDiv fmt a b
  | 0x09 => elSqrt fmt a
  | 0x0A => elFn fmt (vSub w) a
  | 0x0C => if bit (vmask v (bits (wImm w) 2 0)) i then a else b
  | 0x0E =>
    (match vSub w with
     | 0 => a &&& b
     | 1 => a ||| b
     | 2 => a ^^^ b
     | _ => a &&& (2 ^ wd - 1 - b))
  | 0x0F => elShift fmt (vSub w) a b
  | 0x10 => encodeElem fmt (scalarValue fmt op.a.toNat)
  | 0x14 =>
    if isFloat fmt then encodeElem fmt (addNum (numOfInt i) (decodeElem fmtFP64 op.a.toNat))
    else (i + op.a.toNat) % 2 ^ wd
  | _ => a

/-- VPERM's index of element i: INT32, INT16 or INT8 by the element's width (R163, R173). -/
def permIndex (vb wd i : Nat) : Int :=
  let k := if 32 ≤ wd then 32 else wd
  signedOf k (elemAt k vb i)

/-- VPERM's element i. -/
def permElem (v : VecSt) (w i : Nat) : Nat :=
  let wd := elemBits (vFmt w)
  let x := permIndex (vreg v (vVb w)) wd i
  if 0 ≤ x ∧ x < (regElemCount (vFmt w) : Int) then elemAt wd (vreg v (vVa w)) x.toNat else 0

/-- Adjacent elements combined, an absent one leaving the other (R165). -/
def pairUp (f : Nat → Nat → Nat) : List (Option Nat) → List (Option Nat)
  | a :: b :: t =>
    (match a, b with
     | some x, some y => some (f x y)
     | some x, none => some x
     | none, y => y) :: pairUp f t
  | l => l

/-- The fixed tree of VRED (R165). -/
def treeOf (f : Nat → Nat → Nat) : Nat → List (Option Nat) → Option Nat
  | 0, l => (l.head?).join
  | n + 1, l => treeOf f n (pairUp f l)

/-- VRED: sum, max or min of the active elements, widened to 64 bits; 0 without one (R163, R165, R173). -/
def redValue (v : VecSt) (w : Nat) : Nat :=
  let fmt := vFmt w
  let wd := elemBits fmt
  let n := regElemCount fmt
  let es := (List.range n).map (fun i => if selected v w i then some (elemAt wd (vreg v (vVa w)) i) else none)
  let wide (x : Nat) : Nat := if isFloat fmt then elConvert fmt fmtFP64 x else twos 64 (signedOf wd x)
  match vSub w with
  | 0 =>
    if isFloat fmt then ((treeOf (elAdd fmt) 12 es).map wide).getD 0
    else twos 64 ((es.filterMap id).foldl (fun acc x => acc + signedOf wd x) 0)
  | 1 => ((treeOf (elMax fmt) 12 es).map wide).getD 0
  | _ => ((treeOf (elMin fmt) 12 es).map wide).getD 0

/-- VMASK's result on n bits (R163). -/
def maskValue (v : VecSt) (w n : Nat) : Nat :=
  let a := vmask v (bits (wImm w) 5 3)
  let b := vmask v (bits (wImm w) 8 6)
  match vSub w with
  | 0 => a &&& b
  | 1 => a ||| b
  | 2 => a ^^^ b
  | 3 => 2 ^ n - 1 - a % 2 ^ n
  | 4 => 2 ^ n - 1
  | _ => 0

/-- A mask written, the elements that MEN leaves out kept (R161, log entry 29). -/
def writeMask (v : VecSt) (w n x : Nat) : VecSt :=
  let m := bits (wImm w) 2 0
  let old := vmask v m
  setVmask v m n (maskOf ((List.range n).filter (fun i => if selected v w i then bit x i else bit old i)))

/-- A program held for a submission on the core. A copy serves the submission that read it and no other of its context,
so a change to the object reaches neither (R171: each submission reads the object on its own first use; DEDUCED, log
entry 40). -/
def heldProg (k : Core) (ctx h queue : Nat) : Option (List Byte) :=
  (k.progs.find? (fun p => p.ctx == ctx && p.h == h && p.queue == queue)).map ProgHeld.image

/-- A program used: it becomes the most recently used (R171). -/
def useProg (k : Core) (ctx h queue : Nat) : Core :=
  let same (p : ProgHeld) : Bool := p.ctx == ctx && p.h == h && p.queue == queue
  { k with progs := k.progs.filter same ++ k.progs.filter (fun p => !same p) }

/-- Elements that a VPROG of a program processes (R164, R170). -/
def progElems (p : List Byte) : Nat := 16384 / max (elemBits (pgIn p)) (elemBits (pgOut p))

/-- VPROG's element i (R168, R170). -/
def progElem (v : VecSt) (op : VecOp) (p : List Byte) (rd : Nat → Byte) (i : Nat) : Nat :=
  let wd := elemBits (pgIn p)
  let va := vreg v (vVa op.w.toNat)
  let val (k : Nat) : Num := if k < 16384 / wd then decodeElem (pgIn p) (elemAt wd va k) else .zero
  runProgram p ⟨val i, val (i ^^^ 1), op.b.toNat / 2 ^ 32, op.b.toNat % 2 ^ 32 + i, vecOperand p rd⟩

/-- The counter of R467 that an operation's elements raise. -/
def vecCounter (w : Nat) : Option Nat :=
  let f := isFloat (vFmt w)
  match wOp w with
  | 0x08 => some (if f then 22 else 24)
  | 0x09 => some 22
  | 0x0A => some 22
  | 0x0D => some 23
  | 0x0E => some 24
  | 0x0F => some 24
  | n => if (2 ≤ n && n ≤ 7) || n = 0x0B then some (if f then 21 else 24) else none

/-- The bytes of VST: those of the selected elements (R161). -/
def storeElems (s : State) (core : Nat) (op : VecOp) : State :=
  let v := (coreSt s core).vec
  let w := op.w.toNat
  let n := fmtBytes (vFmt w)
  let at_ := bits op.a.toNat 20 0
  (List.range (regElemCount (vFmt w))).foldl (fun s i =>
    if selected v w i then lsWrite s core op.ctx (at_ + i * n) (toLE n (elemAt (8 * n) (vreg v (vVd w)) i)) else s) s

/-- The result of an executing instruction is written (R163, R164, R170). -/
def vecWrite (s : State) (core : Nat) (op : VecOp) : State :=
  let v := (coreSt s core).vec
  let w := op.w.toNat
  let fmt := vFmt w
  let wd := elemBits fmt
  let n := regElemCount fmt
  match wOp w with
  | 0x00 =>
    let x := ofLE (lsRead s core op.ctx (bits op.a.toNat 20 0) 2048)
    modVec s core (fun v => writeElems v op wd n (elemAt wd x))
  | 0x01 => storeElems s core op
  | 0x0B =>
    let x := maskOf ((List.range n).filter (fun i =>
      elCmp fmt (vSub w) (elemAt wd (vreg v (vVa w)) i) (elemAt wd (vreg v (vVb w)) i)))
    modVec s core (fun v => writeMask v w n x)
  | 0x0D =>
    let src := bits (wImm w) 7 0
    let m := 16384 / max (elemBits src) wd
    modVec s core (fun v => writeElems v op wd m (fun i => elConvert src fmt (elemAt (elemBits src) (vreg v (vVa w)) i)))
  | 0x11 =>
    match groupAt s core op.slot with
    | some g => if g.queue = op.queue then setGroup s core op.slot (setScalar g (bits (wImm w) 5 0) (redValue v w)) else s
    | none => s
  | 0x12 => modVec s core (fun v => writeElems v op wd n (permElem v w))
  | 0x13 => modVec s core (fun v => writeMask v w n (maskValue v w n))
  | 0x15 =>
    match heldProg (coreSt s core) op.ctx (op.a.toNat % 2 ^ 32) op.queue with
    | some p =>
      let s := opCount s core 25 (pgCount p * progElems p)
      modVec s core (fun v => writeElems v op (elemBits (pgOut p)) (progElems p) (progElem v op p (lsByte s core op.ctx 0)))
    | none => s
  | _ => modVec s core (fun v => writeElems v op wd n (vecElem v op))

/-- Groups whose vector instructions are over go on past VFENCE. -/
def vectorWake (s : State) (c : Nat) : State :=
  let v := (coreSt s c).vec
  (((coreSt s c).groups.filter (fun e => e.2.cond == .vfence && !vectorBusy v e.1 e.2.queue)).map Prod.fst).foldl
    (fun s slot => clearCond s c slot) s

/-- The source vector registers of an operation. -/
def vecSources (w : Nat) : List Nat :=
  match wOp w with
  | 0x00 => []
  | 0x01 => [vVd w]
  | 0x05 => [vVa w, vVb w, vVc w]
  | 0x09 => [vVa w]
  | 0x0A => [vVa w]
  | 0x0D => [vVa w]
  | 0x10 => []
  | 0x11 => [vVa w]
  | 0x13 => []
  | 0x14 => []
  | 0x15 => [vVa w]
  | _ => [vVa w, vVb w]

/-- The operation writes a vector register: one that is masked reads its old value, which the elements left out keep. -/
def vecWritesVd (w : Nat) : Bool :=
  let op := wOp w
  !(op == 0x01 || op == 0x0B || op == 0x11 || op == 0x13)

/-- The masks an operation reads: its sources, the mask MSK, and the old mask that a masked VCMP or VMASK keeps bits of. -/
def vecMasks (w : Nat) : List Nat :=
  let op := wOp w
  (if op = 0x0C then [bits (wImm w) 2 0] else if op = 0x13 then [bits (wImm w) 5 3, bits (wImm w) 8 6] else []) ++
    (if vMen w then vMsk w :: (if op = 0x0B || op = 0x13 then [bits (wImm w) 2 0] else []) else [])

/-- The registers an instruction reads: a vector register, or a mask (R161, R176). -/
def vecReads (w : Nat) : List (Nat ⊕ Nat) :=
  ((vecSources w ++ if vMen w && vecWritesVd w then [vVd w] else []).map Sum.inl) ++ (vecMasks w).map Sum.inr

/-- The register that an uncorrectable error zeroes: one of those read, the free word telling which (R176, log entry 30). -/
def zeroRead (v : VecSt) (w free : Nat) : VecSt :=
  let l := vecReads w
  match (l[free % l.length]?) with
  | some (.inl r) => setVreg v r 0
  | some (.inr m) => setVmask v m 2048 0
  | none => v

/-- VECTOR_EXECUTE: the head of the vector queue starts (R165); a VPROG once its program is held, checked as it executes
(R170, R171); with what SECDED finds in the registers read (R176). -/
def execVectorExecute (core : Nat) (err : Ecc) (s : State) : Res :=
  let v := (coreSt s core).vec
  match v.exec, v.queue with
  | none, op :: rest =>
    let w := op.w.toNat
    let h := op.a.toNat % 2 ^ 32
    let prog := heldProg (coreSt s core) op.ctx h op.queue
    let popped := modVec s core (fun v => { v with queue := rest })
    if (wOp w = 0x15 && prog.isNone) || !mayStart s core op.queue then .refused (.notEnabled "VECTOR_EXECUTE")
    else if err ≠ .clean && (vecReads w).isEmpty then .refused (.notEnabled "VECTOR_EXECUTE")
    else if err = .uncorrectable then
      let r := freshWord popped
      .next (vectorWake (failSubmission (opCount (modVec r.2 core (fun v => zeroRead v w r.1)) core 31 1) op.queue stFaultMemory)
        core)
    else
      let ok := match prog with
        | some p => wOp w != 0x15 || (programOk (lsSize s core op.ctx) p && computeFmt (pgIn p))
        | none => true
      if !ok then .next (vectorWake (failSubmission popped op.queue stFaultCommand) core)
      else
        let s := modVec popped core (fun v => { v with exec := some op })
        let s := if wOp w = 0x15 then modCore s core (fun k => useProg k op.ctx h op.queue) else s
        .next (if err = .corrected then coreEvent (opCount s core 30 1) core 0x14 (some op.ctx) 1 else s)
  | _, _ => .refused (.notEnabled "VECTOR_EXECUTE")

/-- VECTOR_COMPLETE: the executing instruction writes its result (R165). -/
def execVectorComplete (core : Nat) (s : State) : Res :=
  match (coreSt s core).vec.exec with
  | none => .refused (.notEnabled "VECTOR_COMPLETE")
  | some op =>
    if arrayFrozen s core then .refused (.notEnabled "VECTOR_COMPLETE") else
    let w := op.w.toNat
    let s := vecWrite s core op
    let s := match vecCounter w with
      | some n => opCount s core n (if wOp w = 0x0D then 16384 / max (elemBits (bits (wImm w) 7 0)) (elemBits (vFmt w))
          else regElemCount (vFmt w))
      | none => s
    .next (vectorWake (noteEnd (modVec s core (fun v => { v with exec := none })) op.queue core) core)

/-! The program store (R171). -/

/-- Who on the core waits for program h of a context: the VPROG at the head of the queue, or a draught that is not yet
active; with its queue. -/
def progWaits (k : Core) (ctx h : Nat) : Option (Requester × Nat × Option Nat) :=
  let byVec := match k.vec.queue with
    | op :: _ => if op.ctx = ctx && wOp op.w.toNat = 0x15 && op.a.toNat % 2 ^ 32 = h then some (op.slot, op.queue) else none
    | [] => none
  match byVec with
  | some x => some (.lane 0 x.1, x.2, none)
  | none =>
    (k.draughts.find? (fun d => d.ctx == ctx && !d.active && (descChain d.desc).contains 0x4 &&
      (fieldLE d.desc 0x40 4 == h || fieldLE d.desc 0x44 4 == h))).map (fun d => (.station 0 d.order 12, d.queue, some d.order))

/-- A requester of a core. -/
def onCore (core : Nat) : Requester → Requester
  | .lane _ slot => .lane core slot
  | .station _ d st => .station core d st
  | r => r

/-- ELEMENT_PROGRAM_READ: a program object is read into the program store; the least recently used entry leaves a full
store (R166, R171). -/
def execElementProgramRead (core ctx h : Nat) (s : State) : Res :=
  let k := coreSt s core
  match progWaits k ctx h with
  | none => .refused (.notEnabled "ELEMENT_PROGRAM_READ")
  | some (who, q, _) =>
    if (heldProg k ctx h q).isSome || !mayRun s q || attached s (onCore core who) then
      .refused (.notEnabled "ELEMENT_PROGRAM_READ")
    else
      match goodUse s ctx (genOf s q ctx) h [1] 0 512 true false with
      | none => .next (badHandle s q ctx (genOf s q ctx) [h])
      | some e =>
        if heBase e % 512 ≠ 0 then .next (failSubmission s q stFaultCommand)
        else
          let r := virtRead s (onCore core who) ctx q (heBase e) 512
          if !r.ok then .next r.st
          else .next (modCore r.st core (fun k => { k with progs := (⟨ctx, h, q, r.data⟩ :: k.progs).take 8 }))

end Sys2Proof.Machine
end

