-- ==== Sys2Proof/Machine/Draughts.lean ====
section
/-!
DEFINITION. Draughts: the descriptor (R45), tile geometry (R46, R53), footprint and split (R51, R52, R54, R112), legality (R47,
R49, R65, R66, R72, R97, R112, R148), issue (R153), and what bytes of memory a tile names.
-/

namespace Sys2Proof.Machine

/-! The descriptor (R45). -/

def dsFlags (d : List Byte) : Nat := fieldLE d 0x01 1
def dsPrefetch (d : List Byte) : Nat := fieldLE d 0x03 1
def dsRows (d : List Byte) : Nat := fieldLE d 0x08 2
def dsCols (d : List Byte) : Nat := fieldLE d 0x0A 2
def dsOutCols (d : List Byte) : Nat := fieldLE d 0x0C 2
def dsAcc (d : List Byte) : Nat := fieldLE d 0x0E 2
def dsCount (d : List Byte) : Nat := fieldLE d 0x10 4
def dsSrcFmt (d : List Byte) : Nat := fieldLE d 0x14 1
def dsLsFmt (d : List Byte) : Nat := fieldLE d 0x15 1
def dsDstFmt (d : List Byte) : Nat := fieldLE d 0x16 1
def dsDstLay (d : List Byte) : Nat := bits (fieldLE d 0x17 1) 7 4
def dsSrcLay (d : List Byte) : Nat := bits (fieldLE d 0x17 1) 3 0
def dsSrcHandle (d : List Byte) : Nat := fieldLE d 0x18 4
def dsDstHandle (d : List Byte) : Nat := fieldLE d 0x1C 4
def dsSrcOff (d : List Byte) : Nat := fieldLE d 0x20 8
def dsDstOff (d : List Byte) : Nat := fieldLE d 0x28 8
def dsSrcStride (d : List Byte) : Nat := fieldLE d 0x30 4
def dsDstStride (d : List Byte) : Nat := fieldLE d 0x34 4
def dsLocal (d : List Byte) : Nat := fieldLE d 0x38 1
def dsDone (d : List Byte) : Nat := fieldLE d 0x39 1
def dsRemote (d : List Byte) : Nat := fieldLE d 0x3A 2
def dsProg (d : List Byte) (i : Nat) : Nat := fieldLE d (0x40 + 4 * i) 4
def dsStack (d : List Byte) : Nat := fieldLE d 0x48 1
def dsMode (d : List Byte) : Nat := fieldLE d 0x49 1
def dsPlanes (d : List Byte) : Nat := fieldLE d 0x4A 1
def dsSlices (d : List Byte) : Nat := fieldLE d 0x4B 1
def dsTemplate (d : List Byte) : Nat := fieldLE d 0x4C 4
def dsMask (d : List Byte) : Nat := fieldLE d 0x50 8
def dsOp (d : List Byte) : Nat := fieldLE d 0x58 1
def dsPeer (d : List Byte) : Nat := fieldLE d 0x59 1
def dsRCount (d : List Byte) : Nat := fieldLE d 0x5A 1
def dsRLen (d : List Byte) : Nat := fieldLE d 0x5B 1
def dsRoot (d : List Byte) : Nat := fieldLE d 0x5C 2
def dsRecv (d : List Byte) : Nat := fieldLE d 0x60 8

/-- The station codes of R44. -/
def stLOAD : Nat := 1
def stCELLAR : Nat := 2
def stARRAY : Nat := 3
def stELEMENT : Nat := 4
def stREDUCE : Nat := 5
def stSTORE : Nat := 6
def stSEND : Nat := 7
def stRECEIVE : Nat := 8

/-- The position of a station in the chain; the chain's length when it has none. -/
def descPos (d : List Byte) (code : Nat) : Nat := (findIdxOpt (fun c => c == code) (descChain d)).getD (descLen d)

/-- The chain has a station. -/
def descHas (d : List Byte) (code : Nat) : Bool := (descChain d).contains code

/-- ARRAY in bank-load mode. -/
def bankLoads (d : List Byte) : Bool := descHas d stARRAY && bit (dsMode d) 0

/-- ARRAY in compute mode. -/
def computes (d : List Byte) : Bool := descHas d stARRAY && !bit (dsMode d) 0

/-- The wide mode of a draught's array (R76, R103). -/
def dsWide (d : List Byte) : Bool := needsWide (dsPlanes d) (dsSlices d)

/-- The format ARRAY drains to (R111). -/
def drainFmt (d : List Byte) : Nat :=
  if descPos d stARRAY < descPos d stREDUCE && descHas d stREDUCE then (if dsWide d then fmtACC96 else fmtACC48)
  else dsDstFmt d

/-- Ternary or INT2 in layout 0x4 is loaded into a bank as it lies (R97, R111). -/
def packedBank (d : List Byte) : Bool :=
  bankLoads d && dsSrcLay d == 4 && (elemOf (dsLsFmt d) == fmtTernary || elemOf (dsLsFmt d) == fmtINT2) &&
    dsLsFmt d == dsSrcFmt d

/-- Tiles of a bank-load draught lie in local store in the plane layout (R111). -/
def planeBank (d : List Byte) : Bool := bankLoads d && !packedBank d

/-! Sizes in local store (R51). -/

/-- Bytes of a row of n elements in local store. -/
def lsRowBytes (fmt n : Nat) : Nat :=
  match elemOf fmt with
  | 0x11 => 8 * n
  | 0x12 => 16 * n
  | _ => rowBytes fmt 3 n

/-- Bytes of a tile of rows in local store: a raw one has a header (R81). -/
def tileBytes (fmt rows cols : Nat) : Nat := (if isRaw (elemOf fmt) then 16 else 0) + rows * lsRowBytes fmt cols

/-- What a station writes: its format, its bytes, and whether its shape has columns in the sense of R52. -/
structure StOut where
  fmt  : Nat
  size : Nat
  cols : Bool
  deriving DecidableEq, Repr

/-- The outputs of the stations of a chain for a tile of rows × cols (R51); `progs` gives the output formats of the
element programs. -/
def outsFrom (d : List Byte) (rows cols : Nat) : List Nat → List Nat → Nat → Bool → List StOut
  | [], _, _, _ => []
  | c :: t, progs, fmt, after =>
    let put (f : Nat) (after : Bool) : StOut := ⟨f, tileBytes f rows (if after then dsOutCols d else cols), !after⟩
    match c with
    | 0x3 =>
      if bankLoads d then ⟨fmt, 0, false⟩ :: outsFrom d rows cols t progs fmt after
      else put (drainFmt d) true :: outsFrom d rows cols t progs (drainFmt d) true
    | 0x4 =>
      let f := progs.headD fmt
      put f after :: outsFrom d rows cols t progs.tail f after
    | 0x5 => put fmt after :: outsFrom d rows cols t progs fmt after
    | 0x6 => put (dsDstFmt d) after :: outsFrom d rows cols t progs (dsDstFmt d) after
    | 0x7 => put (dsDstFmt d) after :: outsFrom d rows cols t progs (dsDstFmt d) after
    | _ =>
      let f := dsLsFmt d
      (if planeBank d then ⟨f, planeTileBytes f rows, false⟩
       else if packedBank d then ⟨f, cols * lsRowBytes f rows, false⟩
       else put f after) :: outsFrom d rows cols t progs f after

/-- The outputs of the whole chain. -/
def chainOuts (d : List Byte) (progs : List Nat) (rows cols : Nat) : List StOut :=
  outsFrom d rows cols (descChain d) progs (dsLsFmt d) false

/-- How many stations the footprint is taken over, and how many buffers the need counts (R51). -/
def measured (d : List Byte) : Nat := if descHas d stREDUCE then descPos d stREDUCE + 1 else descLen d
def buffersOf (d : List Byte) : Nat := if descHas d stREDUCE then dsRLen d else descLen d

/-- The tile footprint F (R51). -/
def footprint (d : List Byte) (progs : List Nat) (rows cols : Nat) : Nat :=
  ((chainOuts d progs rows cols).take (measured d)).foldl (fun m o => max m o.size) 0

/-- An output of size F has columns in its shape (R52). -/
def columnsCount (d : List Byte) (progs : List Nat) (rows cols : Nat) : Bool :=
  let f := footprint d progs rows cols
  ((chainOuts d progs rows cols).take (measured d)).any (fun o => o.size == f && o.cols)

/-- The halvings of a tile until its need fits the pool (R52, R112): how many, the tile's rows and columns, ACC_TILES, the tile
count and the need. None where no halving is left. -/
def splitFrom (d : List Byte) (progs : List Nat) (pool : Nat) :
    Nat → Nat → Nat → Nat → Nat → Nat → Option (Nat × Nat × Nat × Nat × Nat × Nat)
  | fuel, k, rows, cols, acc, count =>
    let need := 2 * buffersOf d * footprint d progs rows cols
    if need ≤ pool then some (k, rows, cols, acc, count, need)
    else
      match fuel with
      | 0 => none
      | fuel + 1 =>
        if bankLoads d then
          if rows ≤ 32 then none else splitFrom d progs pool fuel (k + 1) (rows / 2) cols acc (2 * count)
        else
          let byCols := if bit (dsFlags d) 1 then decide (32 < cols) && columnsCount d progs rows cols
            else !decide (1 < rows)
          if byCols then (if cols ≤ 32 then none else splitFrom d progs pool fuel (k + 1) rows (cols / 2) (2 * acc) (2 * count))
          else if rows ≤ 1 then none
          else splitFrom d progs pool fuel (k + 1) (rows / 2) cols acc (2 * count)

/-- The split of a descriptor in a pool (R52, R54). -/
def splitOf (d : List Byte) (progs : List Nat) (pool : Nat) : Option (Nat × Nat × Nat × Nat × Nat × Nat) :=
  splitFrom d progs pool 16 0 (dsRows d) (dsCols d) (dsAcc d) (dsCount d)

/-! Element programs named by a draught. -/

/-- The context's page of an address as its tables map it now. -/
def peekPage (s : State) (die ctx va : Nat) : Option (Nat × Nat) :=
  match (walk s die ctx va).1 with
  | .leaf e level => some (leafPa e (level == 2) va, e)
  | _ => none

/-- n bytes within a page of a context as its space shows them. -/
def peekVirt (s : State) (die ctx va n : Nat) : List Byte :=
  match peekPage s die ctx va with
  | some (pa, e) => if cachedVa va && !leafStrict e then seenThroughAttic s pa n else peek s pa n
  | none => zeroBytes n

/-- The image of program h: the core's copy, else the object. -/
def progImage (s : State) (core ctx q : Nat) (gen : Bool) (h : Nat) : List Byte :=
  match heldProg (coreSt s core) ctx h q with
  | some p => p
  | none =>
    match goodUse s ctx gen h [1] 0 512 true false with
    | some e => peekVirt s (dieOf s core) ctx (heBase e) 512
    | none => []

/-- The programs of a draught's ELEMENT stations in chain order (R169). -/
def progHandles (d : List Byte) : List Nat := (List.range ((descChain d).countP (· == stELEMENT))).map (dsProg d)

/-- The output formats of the element programs, as far as they can be read. -/
def progOuts (s : State) (core ctx q : Nat) (gen : Bool) (d : List Byte) : List Nat :=
  (progHandles d).map (fun h => pgOut (progImage s core ctx q gen h))

/-! Legality (R47, R49). -/

/-- A power of two in a range. -/
def pow2In (v lo hi : Nat) : Bool := decide (lo ≤ v) && decide (v ≤ hi) && v == 2 ^ Nat.log2 v

/-- The ranges and zero fields of the descriptor table, and its codes (R45, R60, R47). -/
def rangesOk (d : List Byte) : Bool :=
  let n := descLen d
  fieldLE d 0 1 == 1 && bits (dsFlags d) 7 3 == 0 && decide (1 ≤ n) && decide (n ≤ 8) && decide (dsPrefetch d ≤ 8) &&
    fieldLE d 0x04 4 < 2 ^ (4 * n) && (descChain d).all (fun c => decide (1 ≤ c) && decide (c ≤ 8)) &&
    pow2In (dsRows d) 1 4096 && pow2In (dsCols d) 32 16384 && decide (1 ≤ dsCount d) && decide (dsCount d ≤ 2 ^ 24) &&
    fmtOk (dsSrcFmt d) && fmtOk (dsLsFmt d) && fmtOk (dsDstFmt d) && decide (dsSrcLay d ≤ 4) && decide (dsDstLay d ≤ 4) &&
    !bit (dsLocal d) 6 && bits (dsDone d) 7 6 == 0 && bits (dsRemote d) 14 10 == 0 && fieldLE d 0x3C 4 == 0 &&
    decide (dsStack d ≤ 11) && bits (dsMode d) 7 2 == 0 && decide (1 ≤ dsPlanes d) && decide (dsPlanes d ≤ 64) &&
    decide (1 ≤ dsSlices d) && decide (dsSlices d ≤ 8) && dsMask d < 2 ^ 16 && decide (dsOp d ≤ 2) &&
    decide (dsPeer d ≤ 15) && fieldLE d 0x5E 2 == 0 && dsRecv d < 2 ^ 32 && allZero (sliceBytes d 0x68 24)

/-- Source, single entry, sink, end and repeats (R47). -/
def chainOk (d : List Byte) (root : Bool) : Bool :=
  let c := descChain d
  let last := descStation d (descLen d - 1)
  let count (x : Nat) : Nat := c.countP (· == x)
  [stLOAD, stRECEIVE, stCELLAR].contains (descStation d 0) && !(c.drop 1).any (fun x => x == stLOAD || x == stRECEIVE) &&
    !(c.dropLast).any (fun x => x == stSTORE || x == stSEND) &&
    (last == stSTORE || last == stSEND || (last == stREDUCE && !root) || (last == stARRAY && bankLoads d)) &&
    [stARRAY, stREDUCE, stCELLAR, stSTORE, stSEND].all (fun x => decide (count x ≤ 1)) && decide (count stELEMENT ≤ 2)

/-- The source layout suits the format: a scaled format lies in layout 0x3, or 0x4 where it is a coded one (R66). -/
def srcLayOk (d : List Byte) : Bool :=
  let f := dsSrcFmt d
  let el := elemOf f
  match dsSrcLay d with
  | 0 => modeOf f == 0 && el != fmtCB2
  | 1 => modeOf f == 0 && el != fmtCB2 && !isRaw el
  | 2 => modeOf f == 0 && el != fmtCB2 && !isRaw el && dsRows d % 32 == 0 && decide (dsRows d ≤ 512) && decide (dsCols d ≤ 256)
  | 3 => modeOf f != 0
  | _ => el == fmtCB2 || el == fmtTernary || el == fmtINT2

/-- The destination layout suits the format (R66). -/
def dstLayOk (d : List Byte) (cols : Nat) : Bool :=
  let f := dsDstFmt d
  let el := elemOf f
  match dsDstLay d with
  | 0 => modeOf f == 0 && el != fmtCB2
  | 1 => modeOf f == 0 && el != fmtCB2 && !isRaw el
  | 2 => modeOf f == 0 && el != fmtCB2 && !isRaw el && dsRows d % 32 == 0 && decide (dsRows d ≤ 512) &&
      decide (cols ≤ 256)
  | 3 => modeOf f != 0
  | _ => el == fmtCB2 || el == fmtTernary || el == fmtINT2

/-- SRC_FORMAT is decodable to LS_FORMAT (R47, R65, R82); a format that is no conversion target is moved unchanged (log entry 41). -/
def decodable (src ls : Nat) : Bool :=
  src == ls || (!isRaw (elemOf src) && modeOf ls != 3 && !(modeOf src == 3 && modeOf ls != 0) &&
    (isTarget ls && !isRaw (elemOf ls)))

/-- A format is encodable to DST_FORMAT (R47, R65, R82). A format that is no conversion target (ternary, binary, CB2, FP6 and FP4 without
a scale) is taken as DST_FORMAT when the tile has it already, and moved unchanged: nothing is converted (DESIGN CHOICE, log entry
41). -/
def encodable (x dst : Nat) : Bool := x == dst || (isTarget dst && !isRaw (elemOf dst))

/-- A KV format in local store is only moved: every station delivers it unchanged, a CELLAR by its command's D_FORMAT, which its template
shows (R65). -/
def kvOk (d : List Byte) : Bool :=
  modeOf (dsLsFmt d) != 3 ||
    ((descChain d).all (fun c => [stLOAD, stRECEIVE, stCELLAR, stSTORE, stSEND].contains c) && dsDstFmt d == dsLsFmt d &&
      (descStation d 0 == stCELLAR || dsSrcFmt d == dsLsFmt d))

/-- The formats that reach the stations (R47, R72, R97, R102, R169): `progs` are the program images. -/
def formatsOk (s : State) (core ctx : Nat) (progs : List (List Byte)) :
    List Nat → List (List Byte) → Nat → List Byte → Bool
  | [], _, _, _ => true
  | c :: t, ps, fmt, d =>
    match c with
    | 0x3 =>
      if bankLoads d then isWeight fmt && elemOf fmt != fmtCB2 && planesOk fmt (dsPlanes d) && formatsOk s core ctx progs t ps fmt d
      else
        let f := drainFmt d
        isActivation fmt && (if isRaw (elemOf f) then elemOf f == (if dsWide d then fmtACC96 else fmtACC48) else isTarget f) &&
          formatsOk s core ctx progs t ps f d
    | 0x4 =>
      match ps with
      | [] => false
      | p :: ps => programOk (lsSize s core ctx) p && pgIn p == fmt && formatsOk s core ctx progs t ps (pgOut p) d
    | 0x5 => elemOf fmt != fmtCB2 && modeOf fmt != 3 && formatsOk s core ctx progs t ps fmt d
    | 0x6 => encodable fmt (dsDstFmt d)
    | 0x7 => encodable fmt (dsDstFmt d)
    | _ => formatsOk s core ctx progs t ps (dsLsFmt d) d

/-- The accumulator rows that a compute draught uses when its tiles have `rows` rows: those of one row block where it is not halved, else
the rows that its row blocks take in turn (R111). -/
def accRowsUsed (d : List Byte) (rows : Nat) : Nat :=
  if rows = dsRows d then rows else min (accRows (dsWide d)) (dsCount d / dsAcc d * dsRows d)

/-- ARRAY's shape rules (R112); `rows` is the tile's rows after its split. -/
def arrayOk (a : ArraySt) (d : List Byte) (rows : Nat) : Bool :=
  if bankLoads d then
    descStation d (descLen d - 1) == stARRAY && (dsSrcLay d == 2 || dsSrcLay d == 4) && dsRows d % 32 == 0 &&
      decide (32 ≤ dsRows d) && decide (dsRows d ≤ 512) && decide (dsCols d ≤ 256) && dsOutCols d == 0 && dsAcc d == 0
  else if computes d then
    decide (1 ≤ dsOutCols d) && decide (dsOutCols d ≤ 256) && decide (1 ≤ dsAcc d) && decide (dsAcc d ≤ 4096) &&
      decide (dsRows d ≤ accRows (dsWide d)) && decide (dsCols d ≤ 512) && dsCount d % dsAcc d == 0 &&
      decide (accRowsUsed d rows ≤ accRows (dsWide d) - reservedRows a (dsWide d))
  else dsOutCols d == 0 && dsAcc d == 0

/-- The local reduce checks (R49), and the fields that are zero without REDUCE. -/
def reduceOk (s : State) (core : Nat) (d : List Byte) : Bool :=
  if descHas d stREDUCE then
    let root := core == dsRoot d
    decide (2 ≤ dsRCount d) && decide (dsRCount d ≤ 144) && decide (3 ≤ dsRLen d) && decide (dsRLen d ≤ 8) &&
      decide (dsRoot d < numCores s) && bit (dsMask d) (clusterOf s core) &&
      (if root then descLen d == dsRLen d && decide (descPos d stREDUCE + 1 < descLen d)
       else descPos d stREDUCE + 1 == descLen d)
  else dsMask d == 0 && dsRCount d == 0 && dsRLen d == 0 && dsRoot d == 0

/-- No station after REDUCE writes a tile larger than REDUCE's (R47). -/
def afterReduceOk (d : List Byte) (outs : List Nat) : Bool :=
  let l := chainOuts d outs (dsRows d) (dsCols d)
  match l.drop (descPos d stREDUCE) with
  | r :: t => t.all (fun o => decide (o.size ≤ r.size))
  | [] => true

/-- Counters that the descriptor names belong to the context (R148). -/
def countersOk (s : State) (core ctx : Nat) (d : List Byte) : Bool :=
  (!bit (dsLocal d) 7 || decide (bits (dsLocal d) 5 0 < localCtrs s core ctx)) &&
    (!bit (dsFlags d) 2 || decide (bits (dsDone d) 5 0 < localCtrs s core ctx))

/-- What the handles name (R47, R210): RECEIVE, STORE and a LOAD of CB2 a memory object in bulk space, any other LOAD a memory object or a
peer window, SEND a peer window. A handle that names nothing is met where it is used (R314). -/
def spaceOk (s : State) (ctx : Nat) (gen : Bool) (d : List Byte) : Bool :=
  let first := descStation d 0
  let last := descStation d (descLen d - 1)
  let named (h : Nat) (ok : HEntry → Bool) : Bool := ((handleEntry s ctx gen h).map ok).getD true
  let bulk (e : HEntry) : Bool := heKind e == 1 && !cachedVa (heBase e)
  (first != stRECEIVE || named (dsSrcHandle d) bulk) && (last != stSTORE || named (dsDstHandle d) bulk) &&
    (last != stSEND || named (dsDstHandle d) (fun e => heKind e == 2)) &&
    (first != stLOAD || named (dsSrcHandle d) (fun e =>
      if elemOf (dsSrcFmt d) = fmtCB2 then bulk e else heKind e == 1 || heKind e == 2)) &&
    (!descHas d stCELLAR || partOfStack s (dsStack d) == some (ctxPartition s ctx))

/-- The checks of a draught's start that need no program (R45, R47, R49, R112, R148); `rows` is the tile's rows after its split. -/
def fieldsLegal (s : State) (core ctx : Nat) (gen : Bool) (d : List Byte) (rows : Nat) : Bool :=
  rangesOk d && chainOk d (descHas d stREDUCE && core == dsRoot d) && kvOk d && arrayOk (coreSt s core).array d rows &&
    reduceOk s core d && countersOk s core ctx d && spaceOk s ctx gen d

/-- Every check that a draught's start makes on its core, but those on a cellar template (R47, R49, R171). -/
def draughtLegal (s : State) (core ctx : Nat) (gen : Bool) (d : List Byte) (rows : Nat) (progs : List (List Byte)) : Bool :=
  let root := descHas d stREDUCE && core == dsRoot d
  let outs := progs.map pgOut
  fieldsLegal s core ctx gen d rows &&
    formatsOk s core ctx progs (descChain d) progs (dsLsFmt d) d &&
    (descStation d 0 == stCELLAR || (decodable (dsSrcFmt d) (dsLsFmt d) && srcLayOk d)) &&
    (let last := descStation d (descLen d - 1)
     !(last == stSTORE || last == stSEND) || dstLayOk d (if computes d then dsOutCols d else dsCols d)) &&
    decide (footprint d outs (dsRows d) (dsCols d) ≤ 2 ^ 20) && (!root || afterReduceOk d outs)

/-! Issue (R54, R55, R153). -/

/-- A context's buffer pool on a core, in bytes (R50). -/
def poolBytes (s : State) (core ctx : Nat) : Nat :=
  match lsAlloc s core ctx with
  | some a => (a.units - a.static) * 65536
  | none => 0

/-- A draught with the split of its tile for the output formats of its element programs (R52 to R54, R112). A descriptor whose split cannot
be told keeps its tile; the start checks refuse it. -/
def splitDraught (s : State) (core : Nat) (x : Draught) (outs : List Nat) : Draught :=
  let d := x.desc
  match if rangesOk d then splitOf d outs (poolBytes s core x.ctx) else none with
  | some (k, rows, cols, acc, count, need) =>
    { x with split := k, rows := rows, cols := cols, acc := acc, count := count, need := need }
  | none => { x with split := 0, rows := dsRows d, cols := dsCols d, acc := dsAcc d, count := dsCount d, need := 0 }

/-- A station before it begins. -/
def StationSt.idle : StationSt := ⟨0, false, [], none, false, none, [], 0⟩

/-- An issued draught as it joins a core's queue. -/
def newDraught (s : State) (core ctx queue : Nat) (slot : Option Nat) (gen : Bool) (d : List Byte) : Draught :=
  let x : Draught :=
    { ctx := ctx, queue := queue, slot := slot, desc := d, gen := gen, split := 0, rows := 0, cols := 0, acc := 0, count := 0
      need := 0, active := false, order := (coreSt s core).nextDraught, template := [], progs := [], rel := ⟨0, 0, 0, 0, 0, 0, 0⟩
      binding := [], stations := List.replicate (descLen d) StationSt.idle, retired := 0, bank := bnat (bit (dsMode d) 1)
      tileCols := 0, resident := false, peers := [], members := [], tIn := none, tOut := none }
  splitDraught s core x (progOuts s core ctx queue gen d)

/-- A split counts in the record of its submission, whether its draught starts or not (R53, R54). -/
def noteSplit (s : State) (q split : Nat) : State := modSub s q (fun u => { u with splitLog2 := max u.splitLog2 split })

/-- A draught is issued on a core (R54, R55). -/
def issueDraught (s : State) (core ctx queue : Nat) (slot : Option Nat) (gen : Bool) (d : List Byte) : State :=
  let x := newDraught s core ctx queue slot gen d
  noteSplit (modCore s core (fun k => { k with draughts := k.draughts ++ [x], nextDraught := k.nextDraught + 1 })) queue x.split

/-- The core's draught queue is full (R55). -/
def draughtsFull (s : State) (core : Nat) : Bool := decide (16 ≤ (coreSt s core).draughts.length)

/-- DISSUE: the descriptor at SA is copied and issued; a thread that finds the queue full waits (R55, R153). -/
def execDissue (core slot : Nat) (w : BitVec 64) (s : State) : Res :=
  issue core slot w mISSUE 0x00 "DISSUE" s fun t s =>
    let a := scalar t.g (wSA t.w)
    if a % 128 ≠ 0 then failIssue t s stFaultCommand
    else if !lsRange s core t.g.ctx a 128 then failIssue t s stFaultAccess
    else if draughtsFull s core then stallOn t s .draughtFull
    else
      let gen := genOf s t.g.queue t.g.ctx
      finish t (issueDraught s core t.g.ctx t.g.queue (some slot) gen (lsRead s core t.g.ctx a 128)) id

/-! Geometry (R46, R53). -/

/-- Row and column of the matrix at which tile j of the split draught begins: 2^k consecutive tiles per unsplit one. No field gives the
number of row blocks of a draught without ARRAY in compute mode; there each tile is a row block, C = 1 (R46; DESIGN CHOICE, log
entry 42). -/
def tileAt (x : Draught) (j : Nat) : Nat × Nat :=
  let fr := dsRows x.desc / x.rows
  let fc := dsCols x.desc / x.cols
  let u := j / (fr * fc)
  let q := j % (fr * fc)
  let c := if computes x.desc then dsAcc x.desc else 1
  (u / c * dsRows x.desc + q / fc * x.rows, u % c * dsCols x.desc + q % fc * x.cols)

/-- Columns of a row of the matrix a tile belongs to. -/
def matrixCols (x : Draught) : Nat := (if computes x.desc then dsAcc x.desc else 1) * dsCols x.desc

/-- Rows of the matrix. -/
def matrixRows (x : Draught) : Nat :=
  dsCount x.desc / (if computes x.desc then dsAcc x.desc else 1) * dsRows x.desc

/-- Bytes of an unsplit tile in SRC_FORMAT: b of RECEIVE's threshold (R57). -/
def srcTileBytes (d : List Byte) : Nat :=
  let f := dsSrcFmt d
  if dsSrcLay d = 2 then planeTileBytes f (dsRows d)
  else if dsSrcLay d = 1 || (dsSrcLay d = 4 && bankLoads d) then tileBytes f (dsCols d) (dsRows d)
  else tileBytes f (dsRows d) (dsCols d)

/-- The tile of the unsplit draught that tile j is part of (R53). -/
def unsplitTile (x : Draught) (j : Nat) : Nat := j / ((dsRows x.desc / x.rows) * (dsCols x.desc / x.cols))

/-! Which bytes of an object a tile reads, in the order its decoder takes them. -/

/-- The bytes of a row that hold elements e to e + n − 1 of an unscaled format: their offset and length (R62, R63). -/
def elemSpan (el e n : Nat) : Nat × Nat :=
  if el = fmtTernary then (e / 5, (e % 5 + n + 4) / 5)
  else (e * elemBits el / 8, ceilDiv (e * elemBits el % 8 + n * elemBits el) 8)

/-- The same for any format: whole runs of a scaled or coded one (R66). -/
def rowSpan (fmt e n : Nat) : Nat × Nat :=
  if isRaw (elemOf fmt) then (lsRowBytes fmt e, lsRowBytes fmt n)
  else if modeOf fmt = 0 && elemOf fmt != fmtCB2 then elemSpan (elemOf fmt) e n
  else (rowBytes fmt 3 e, rowBytes fmt 3 n)

/-- The pieces of the source that tile j is made of: offset in the object and length. -/
def srcPieces (x : Draught) (j : Nat) : List (Nat × Nat) :=
  let d := x.desc
  let f := dsSrcFmt d
  let p := tileAt x j
  let off := dsSrcOff d
  let st := dsSrcStride d
  let lines (n first e len : Nat) : List (Nat × Nat) :=
    let sp := rowSpan f e len
    (List.range n).map (fun i => (off + (first + i) * st + sp.1, sp.2))
  if isRaw (elemOf f) then
    let base := off + (p.1 / dsRows d) * tileBytes f (dsRows d) (matrixCols x)
    (base, 16) :: (List.range x.rows).map (fun i =>
      (base + 16 + (p.1 % dsRows d + i) * lsRowBytes f (matrixCols x) + lsRowBytes f p.2, lsRowBytes f x.cols))
  else
    match dsSrcLay d with
    | 1 => lines x.cols p.2 p.1 x.rows
    | 2 => [(off + (p.1 / dsRows d) * planeTileBytes f (dsRows d), planeTileBytes f (dsRows d))]
    | 4 => if bankLoads d then lines x.cols p.2 p.1 x.rows else lines x.rows p.1 p.2 x.cols
    | _ => lines x.rows p.1 p.2 x.cols

/-- Pieces of an object at `base` as the pages they lie on: address and length. -/
def pageSpans (base : Nat) (l : List (Nat × Nat)) : List (Nat × Nat) :=
  (l.map (fun p => pieces 65536 (base + p.1) p.2)).flatten

/-- The extent of pieces: least offset and how many bytes up to the last. -/
def extent (l : List (Nat × Nat)) : Nat × Nat :=
  let lo := (l.map Prod.fst).foldl min ((l.headD (0, 0)).1)
  (lo, (l.map (fun p => p.1 + p.2)).foldl max 0 - lo)

end Sys2Proof.Machine
end

