-- ==== Sys2Proof/Machine/CellarCmds.lean ====
section
/-!
DEFINITION. Cellar commands: their fields (R185), limits and formats (R186, R187, R195), the ranges they name, and how a CELLAR
station forms one from its template (R183, R184).
-/

namespace Sys2Proof.Machine

def ccOp (c : List Byte) : Nat := fieldLE c 0x00 1
def ccFlags (c : List Byte) : Nat := fieldLE c 0x01 1
def ccCount (c : List Byte) : Nat := fieldLE c 0x02 1
def ccArg (c : List Byte) : Nat := fieldLE c 0x03 1
def ccSlices (c : List Byte) : Nat := fieldLE c 0x04 1
def ccAF (c : List Byte) : Nat := fieldLE c 0x05 1
def ccBF (c : List Byte) : Nat := fieldLE c 0x06 1
def ccDF (c : List Byte) : Nat := fieldLE c 0x07 1
def ccAH (c : List Byte) : Nat := fieldLE c 0x08 4
def ccBH (c : List Byte) : Nat := fieldLE c 0x0C 4
def ccAO (c : List Byte) : Nat := fieldLE c 0x10 8
def ccBO (c : List Byte) : Nat := fieldLE c 0x18 8
def ccDH (c : List Byte) : Nat := fieldLE c 0x20 4
def ccN (c : List Byte) : Nat := fieldLE c 0x24 4
def ccDO (c : List Byte) : Nat := fieldLE c 0x28 8
def ccK (c : List Byte) : Nat := fieldLE c 0x30 4
def ccStride (c : List Byte) : Nat := fieldLE c 0x34 4
def ccAStep (c : List Byte) : Nat := fieldLE c 0x38 4
def ccDStep (c : List Byte) : Nat := fieldLE c 0x3C 4

/-- FENCE, TRANS, ARM and the scratch flags (R185). -/
def ccFence (c : List Byte) : Bool := bit (ccFlags c) 0
def ccTrans (c : List Byte) : Bool := bit (ccFlags c) 1
def ccArm (c : List Byte) : Bool := bit (ccFlags c) 2
def ccScrA (c : List Byte) : Bool := bit (ccFlags c) 3
def ccScrB (c : List Byte) : Bool := bit (ccFlags c) 4
def ccScrD (c : List Byte) : Bool := bit (ccFlags c) 5

/-- Operations (R186). -/
def ocMATVEC : Nat := 1
def ocDECODE : Nat := 2
def ocKVPACK : Nat := 3
def ocGATHER : Nat := 4
def ocSCATTER : Nat := 5
def ocFILL : Nat := 6
def ocCOPY : Nat := 7
def ocREDUCE : Nat := 8
def ocCBLOAD : Nat := 9
def ocCBARM : Nat := 10

/-- The operation uses A, B and D (R186). -/
def usesA (op : Nat) : Bool := op != ocFILL && op != ocCBARM
def usesB (op : Nat) : Bool := op == ocMATVEC || op == ocGATHER || op == ocSCATTER
def usesD (op : Nat) : Bool := op != ocCBLOAD && op != ocCBARM

/-- KV4 and KV8 (R65). -/
def isKv (fmt : Nat) : Bool := fmt == 0x6B || fmt == 0x6C

/-- A formats of MATVEC (R195). -/
def matvecA (f : Nat) : Bool :=
  let el := elemOf f
  fmtOk f && (isKv f || f == fmtCB2 || ((el == 0x0F || el == 0x0E || el == 0x0D || el == 0x0C || el == 0x0B) && modeOf f ≤ 1) ||
    (decide (4 ≤ el) && decide (el ≤ 8) && (modeOf f == 1 || modeOf f == 2)) || f == fmtBF16 || f == fmtFP16)

/-- Budgets of MATVEC after their defaults (R195, R196): the planes of the integer with a KV operand are those of its
element. -/
def mvPlanes (c : List Byte) : Nat := if ccArg c = 0 then defaultPlanes (elemOf (ccAF c)) else ccArg c
def mvSlices (c : List Byte) : Nat := if ccSlices c = 0 then defaultSlices (elemOf (ccBF c)) else ccSlices c

/-- Bytes of a row of K weights of A (R194). -/
def aRow (c : List Byte) : Nat := rowBytes (ccAF c) 3 (if ccTrans c then ccN c else ccK c)

/-- Bytes between B vectors: each starts on a 64-byte boundary (R194). -/
def bPitch (c : List Byte) : Nat := ceilDiv (rowBytes (ccBF c) 3 (ccK c)) 64 * 64

/-- The range of A: bytes from A_OFFSET. -/
def aLen (c : List Byte) : Nat :=
  let rows (n len : Nat) : Nat := (n - 1) * ccStride c + len
  match ccOp c with
  | 0x1 => rows (if ccTrans c then ccK c else ccN c) (aRow c)
  | 0x2 => rows (ccN c) (rowBytes (ccAF c) 3 (ccK c))
  | 0x3 => rows (ccN c) (rowBytes (ccAF c) 3 (ccK c))
  | 0x5 => rows (ccN c) (ccK c)
  | 0x7 => ccN c
  | 0x8 => rows (ccCount c) (tileBytes (ccAF c) 1 (ccK c))
  | 0x9 => 524288
  | _ => 0

/-- The range of B. -/
def bLen (c : List Byte) : Nat :=
  match ccOp c with
  | 0x1 => (ccCount c - 1) * bPitch c + rowBytes (ccBF c) 3 (ccK c)
  | 0x4 => 4 * ccN c
  | 0x5 => 4 * ccN c
  | _ => 0

/-- The range of D. -/
def dLen (c : List Byte) : Nat :=
  match ccOp c with
  | 0x1 => tileBytes (ccDF c) (ccCount c) (ccN c)
  | 0x2 => tileBytes (ccDF c) (ccN c) (ccK c)
  | 0x3 => tileBytes (ccDF c) (ccN c) (ccK c)
  | 0x4 => ccN c * ccK c
  | 0x6 => ccN c
  | 0x7 => ccN c
  | 0x8 => tileBytes (ccDF c) 1 (ccK c)
  | _ => 0

/-- A conversion target of a cellar output; only KVPACK encodes into a KV format (R65). -/
def cellTarget (f : Nat) : Bool := isTarget f && !isRaw (elemOf f) && modeOf f != 3

/-- Formats of an operation (R187, R195, R198, R200, R201). -/
def ccFormatsOk (c : List Byte) : Bool :=
  let a := ccAF c
  let b := ccBF c
  let d := ccDF c
  fmtOk a && fmtOk b && fmtOk d &&
    match ccOp c with
    | 0x1 => matvecA a && isActivation b && b != fmtFP64 && (d == fmtACC48 || cellTarget d)
    | 0x2 => !isRaw (elemOf a) && cellTarget d
    | 0x3 => (a == fmtBF16 || a == fmtFP16 || a == fmtFP32) && isKv d
    | 0x8 => a == d && (a == fmtACC48 || a == fmtFP32 || a == fmtBF16 || a == fmtINT32) && (a != fmtACC48 || ccArg c == 0)
    | _ => true

/-- Fields that an operation leaves zero, and those with ranges of their own (R185, R195, R196). -/
def ccFieldsOk (c : List Byte) : Bool :=
  let op := ccOp c
  decide (1 ≤ op) && decide (op ≤ 10) && bits (ccFlags c) 7 6 == 0 &&
    (if op = 1 then decide (1 ≤ ccCount c) && decide (ccCount c ≤ 4) && decide (ccArg c ≤ 16) && decide (ccSlices c ≤ 2) &&
        decide (mvPlanes c ≤ 16) && decide (mvSlices c ≤ 2) && (if isKv (ccAF c) then ccArg c == 0 else !ccTrans c) &&
        (isKv (ccAF c) || planesOk (ccAF c) (mvPlanes c))
     else ccSlices c == 0 && !ccTrans c &&
       (if op = 8 then decide (2 ≤ ccCount c) && decide (ccCount c ≤ 16) && decide (ccArg c ≤ 2)
        else ccArg c == 0 && (if op = 9 || op = 10 then decide (ccCount c ≤ 7) else ccCount c == 0))) &&
    (op == 10 || !ccArm c) &&
    (!ccScrA c || ccAH c == 0) && (!ccScrB c || ccBH c == 0) && (!ccScrD c || ccDH c == 0)

/-- The limits of R187. -/
def ccLimitsOk (c : List Byte) : Bool :=
  let n := ccN c
  let k := ccK c
  match ccOp c with
  | 0x1 => decide (1 ≤ n) && decide (n ≤ 65536) && decide (32 ≤ k) && decide (k ≤ 65536) && k % 32 == 0 &&
      decide (ccCount c * n ≤ 65536) && decide (n * k ≤ 2 ^ 26) &&
      decide (ccCount c * k * elemBits (elemOf (ccBF c)) ≤ 8 * 524288)
  | 0x2 => k % 32 == 0 && decide (n * k ≤ 2 ^ 26)
  | 0x3 => k % 32 == 0 && decide (n * k ≤ 2 ^ 26)
  | 0x4 => decide (1 ≤ n) && decide (n ≤ 65536) && decide (4 ≤ k) && decide (k ≤ 65536) && k % 4 == 0 &&
      decide (n * k ≤ 2 ^ 26)
  | 0x5 => decide (1 ≤ n) && decide (n ≤ 65536) && decide (4 ≤ k) && decide (k ≤ 65536) && k % 4 == 0 &&
      decide (n * k ≤ 2 ^ 26)
  | 0x6 => decide (8 ≤ n) && decide (n ≤ 2 ^ 26) && n % 8 == 0
  | 0x7 => decide (8 ≤ n) && decide (n ≤ 2 ^ 26) && n % 8 == 0
  | 0x8 => decide (1 ≤ k) && decide (k ≤ 65536)
  | _ => true

/-! The command of a CELLAR station (R183, R184). -/

/-- The command of tile t of a template. -/
def commandOf (tpl : List Byte) (t : Nat) : List Byte :=
  overlayBytes (overlayBytes tpl 0x10 (toLE 8 ((ccAO tpl + t * ccAStep tpl) % 2 ^ 64))) 0x28
    (toLE 8 ((ccDO tpl + t * ccDStep tpl) % 2 ^ 64))

/-- An operand names the station's input tile, and the result its output tile (R184). -/
def aTile (c : List Byte) : Bool := usesA (ccOp c) && ccAH c == 0 && !ccScrA c
def bTile (c : List Byte) : Bool := usesB (ccOp c) && ccBH c == 0 && !ccScrB c
def dTile (c : List Byte) : Bool := usesD (ccOp c) && ccDH c == 0 && !ccScrD c

/-- Rows and columns of the result that a command returns. -/
def resultShape (c : List Byte) : Nat × Nat :=
  match ccOp c with
  | 0x1 => (ccCount c, ccN c)
  | 0x8 => (1, ccK c)
  | _ => (ccN c, ccK c)

/-- The result is exactly the output tile of rows × cols in LS_FORMAT (R184). GATHER gives the tile's rows of K bytes; the table that
SCATTER writes has the tile's rows. -/
def resultFits (c : List Byte) (ls rows cols : Nat) : Bool :=
  ccDF c == ls &&
    match ccOp c with
    | 0x4 => ccN c == rows && ccK c == lsRowBytes ls cols
    | 0x5 => ccK c == lsRowBytes ls cols && (rows == 1 || ccStride c == ccK c)
    | 0x6 => ccN c == tileBytes ls rows cols
    | 0x7 => ccN c == tileBytes ls rows cols
    | _ => resultShape c == (rows, cols)

/-- Bytes of B in the input tile: the vectors of MATVEC are rows of the tile, one after another (R194). -/
def bTileLen (c : List Byte) : Nat := if ccOp c = 1 then ccCount c * rowBytes (ccBF c) 3 (ccK c) else bLen c

/-- A template suits its station (R65, R184): `inp` is the bytes of its input tile, none when CELLAR is station 0. What the tile holds
is read in the formats of the template. -/
def templateOk (tpl : List Byte) (ls rows cols : Nat) (inp : Option Nat) : Bool :=
  !(aTile tpl && bTile tpl) &&
    (match inp with
     | none => !aTile tpl && !bTile tpl
     | some n => (!aTile tpl || aLen tpl ≤ n) && (!bTile tpl || bTileLen tpl ≤ n)) &&
    (modeOf ls != 3 || ccDF tpl == ls) &&
    (if dTile tpl then resultFits tpl ls rows cols else decide (16 ≤ tileBytes ls rows cols))

/-! Cellar engines. -/

/-- A cellar engine. -/
def cellar (s : State) (st : Nat) : CellarSt := (find s.cellars st).getD CellarSt.reset

/-- Set a cellar engine. -/
def setCellar (s : State) (st : Nat) (e : CellarSt) : State := s.withCellars (insert s.cellars st e)

/-- Change a cellar engine. -/
def modCellar (s : State) (st : Nat) (f : CellarSt → CellarSt) : State := setCellar s st (f (cellar s st))

/-- Commands that an engine holds. -/
def CellarSt.all (e : CellarSt) : List CellCmd :=
  e.queue ++ e.fillWaits ++ (e.mv.toList ++ e.move.toList ++ e.fill.toList).map CellExec.cmd

/-- A draught is bound to a slot of a stack (R193). -/
def Draught.boundTo (d : Draught) (st slot : Nat) : Bool := d.binding.any (fun b => b.stack == st && b.slot == slot)

/-- Draughts, those of pre-empted submissions among them, and commands bound to a slot (R193). -/
def slotBound (s : State) (st slot : Nat) : Bool :=
  anyValue s.cores (fun _ k => k.draughts.any (fun d => d.boundTo st slot)) ||
    anyValue s.ctxs (fun _ x => x.saved.any (fun r => r.draughts.any (fun d => d.boundTo st slot))) ||
    (cellar s st).all.any (fun c => c.slotA == some slot) || (cellar s st).waiting.any (fun c => c.slotA == some slot)

/-- The use of a slot as it stands: a RETIRING one whose bindings have ended is scratch (R193). -/
def slotUse (s : State) (st slot : Nat) : SlotUse :=
  match ((cellar s st).slots[slot]?).getD .scratch with
  | .retiring => if slotBound s st slot then .retiring else .scratch
  | u => u

/-- An identifier of a stack. -/
def codebook (s : State) (st id : Nat) : Codebook := ((cellar s st).ids[id]?).getD Codebook.reset

/-- Change an identifier. -/
def modId (s : State) (st id : Nat) (f : Codebook → Codebook) : State :=
  modCellar s st (fun e => { e with ids := e.ids.modify id f })

/-- An identifier's active generation: its slot and count (R192, R193). -/
def activeGen (s : State) (st id : Nat) : Option (Nat × Nat) :=
  (codebook s st id).active.map (fun k => (k, (codebook s st id).gen.toNat))

/-- Entry i of the codebook in a slot: its eight E4M3 codes (R64). -/
def codeEntry (s : State) (st slot i : Nat) : List Byte :=
  (List.range 8).map (fun j => getD 0#8 (cellar s st).sram (slot * 524288 + 8 * i + j))

end Sys2Proof.Machine
end

