-- ==== Sys2Proof/Machine/Tiles.lean ====
section
/-!
DEFINITION. Tiles in local store: how LOAD and RECEIVE make one from the source's bytes (R44, R66, R67, R82, R96, R97), how the
stations read it, and how STORE and SEND write it (R62, R63, R66, R81 to R83).
-/

namespace Sys2Proof.Machine

/-! Element codes. -/

/-- n codes from element e of an unscaled row, from the bytes of their span (R62, R63). -/
def codesAt (el e n : Nat) (b : List Byte) : List Nat :=
  if el = fmtTernary then (ternaryCodes b (e % 5 + n)).drop (e % 5)
  else
    let v := ofLE b
    let w := elemBits el
    (List.range n).map (fun i => (v >>> (e * w % 8 + i * w)) % 2 ^ w)

/-- Codes of an unscaled row packed from bit 0, unused bits zero (R62, R63). -/
def packCodes (el : Nat) (cs : List Nat) : List Byte :=
  if el = fmtTernary then (chunksOf 5 (cs.length / 5 + 1) cs).map (fun l => ternaryByte (l.map codeDigit))
  else packBits (elemBits el) cs

/-- A coded or scaled format, stored in runs. -/
def inRuns (fmt : Nat) : Bool := modeOf fmt != 0 || elemOf fmt == fmtCB2

/-- Elements e to e + n − 1 of a row from the bytes of their span (R62 to R66). -/
def spanElts (fmt : Nat) (cb : Codebook8) (e n : Nat) (b : List Byte) : List Elt :=
  if inRuns fmt then decodeRow fmt cb n b else unscaled (elemOf fmt) (codesAt (elemOf fmt) e n b)

/-- Columns become rows. -/
def transpose {α : Type} (d : α) (n : Nat) (l : List (List α)) : List (List α) :=
  (List.range n).map (fun i => l.map (fun row => (row[i]?).getD d))

/-! The plane layout (R96). -/

/-- Byte i of a string. -/
def byteOf (b : List Byte) (i : Nat) : Byte := (b[i]?).getD 0#8

/-- Rows r0 to r0 + rows − 1 of a plane-layout tile of R rows. -/
def planeSlice (fmt full r0 rows : Nat) (b : List Byte) : List Byte :=
  let w := planeWidth (elemOf fmt)
  let sc := planeScales (modeOf fmt)
  ((List.range w).map (fun e => sliceBytes b (e * full * 32 + r0 * 32) (rows * 32))).flatten ++
    sliceBytes b (w * full * 32 + r0 / 32 * sc) (rows / 32 * sc)

/-- Byte y of row k of plane e from the codes of the columns. -/
def planeByte (cols : List (List Nat)) (e k y : Nat) : Byte :=
  BitVec.ofNat 8 (maskOf ((List.range 8).filter (fun i =>
    match cols[8 * y + i]? with
    | some col => bit ((col[k]?).getD 0) e
    | none => false)))

/-- The planes of columns of codes. -/
def planesOfCodes (w rows : Nat) (codes : List (List Nat)) : List Byte :=
  ((List.range w).map (fun e =>
    ((List.range rows).map (fun k => (List.range 32).map (planeByte codes e k))).flatten)).flatten

/-- A plane-layout tile from its columns, each a list of runs of 32 weights with their scales. -/
def planesOf (fmt rows : Nat) (cols : List (List (List Byte))) : List Byte :=
  let el := elemOf fmt
  let sc := planeScales (modeOf fmt) / 256
  let planes := planesOfCodes (planeWidth el) rows (cols.map (fun col => (col.map (runCodes el)).flatten))
  let scales := (List.range (rows / 32)).map (fun b =>
    ((List.range 256).map (fun c =>
      match (cols[c]?).bind (fun col => col[b]?) with
      | some run => sliceBytes run (runElemBytes el) sc
      | none => zeroBytes sc)).flatten)
  planes ++ scales.flatten

/-- The runs of a column of elements in a format; t is the tensor scale (R83). -/
def encodeColumn (fmt t : Nat) (es : List Num) : List (List Byte) :=
  (chunksOf 32 (es.length / 32 + 1) es).map (fun r => encodeRun fmt (tensorMag t) (padRun r))

/-! LOAD and RECEIVE. -/

/-- Values of source elements with the tensor scale of the header (R65, R67). -/
def sourceVals (fmt t : Nat) (es : List Elt) : List Num := es.map (fun x => applyTensor fmt t x.v)

/-- The source header leaves the stored bits usable as they are (R67). -/
def plainTensor (fmt t : Nat) : Bool := modeOf fmt != 2 || ((tensorMag t).isFin && !(tensorMag t).isZero)

/-- CB2 units decoded to runs of FP8 E4M3 MX: the codes of the codebook's entries and the unit's scale are kept (R64, R180). -/
def cb2Runs (cb : Codebook8) (n : Nat) (b : List Byte) : List (List Byte) :=
  (chunksOf 9 (ceilDiv n 32) b).map (fun u =>
    ((List.range 4).map (fun g => cb (fieldLE u (2 * g) 2))).flatten ++ sliceBytes u 8 1)

/-- Stored runs of a format moved unchanged; a ternary byte from 243 on, which stands for five zeros, is written as such (R63). -/
def moveRuns (fmt : Nat) (b : List Byte) : List Byte :=
  if elemOf fmt = fmtTernary then
    ((chunksOf (7 + runScaleBytes (modeOf fmt)) (b.length + 1) b).map (fun u =>
      packCodes fmtTernary (runCodes fmtTernary u) ++ u.drop 7)).flatten
  else b

/-- A column of weights of a stored row in layout 0x4 as runs of LS_FORMAT: CB2 decoded to FP8 E4M3 MX keeps its codes and
scales (R64, R97). -/
def weightRuns (src ls t : Nat) (cb : Codebook8) (rows : Nat) (b : List Byte) : List (List Byte) :=
  if src = fmtCB2 && ls = 0x24 then cb2Runs cb rows b
  else encodeColumn ls t (sourceVals src t (decodeRow src cb rows b))

/-- The tile's bytes in the plane layout (R96, R111). -/
def loadPlanes (x : Draught) (j t : Nat) (cb : Nat → Codebook8) (raw : List (List Byte)) : List Byte :=
  let d := x.desc
  let src := dsSrcFmt d
  let ls := dsLsFmt d
  if dsSrcLay d = 2 then
    let b := raw.headD []
    let r0 := (tileAt x j).1 % dsRows d
    if src = ls && plainTensor src t then planeSlice src (dsRows d) r0 x.rows b
    else planesOf ls x.rows ((List.range x.cols).map (fun c =>
      encodeColumn ls t (sourceVals src t (((planeColumn (byteOf b) src (dsRows d) c).flatten.drop r0).take x.rows))))
  else planesOf ls x.rows ((List.zip (List.range raw.length) raw).map (fun r => weightRuns src ls t (cb r.1) x.rows r.2))

/-- The codes of an unscaled tile by row. -/
def loadCodes (x : Draught) (j : Nat) (raw : List (List Byte)) : List (List Nat) :=
  let d := x.desc
  let el := elemOf (dsSrcFmt d)
  let p := tileAt x j
  match dsSrcLay d with
  | 1 => transpose 0 x.rows (raw.map (codesAt el p.1 x.rows))
  | 2 =>
    let b := raw.headD []
    (List.range x.rows).map (fun r => (List.range x.cols).map (fun c =>
      planeCode (byteOf b) (planeWidth el) (dsRows d) (p.1 % dsRows d + r) (p.2 + c)))
  | _ => raw.map (codesAt el p.2 x.cols)

/-- The tile's bytes as rows (R62, R66). A tile whose SRC_FORMAT and LS_FORMAT are one fine format keeps its stored block scales: its
elements are moved, not encoded, with the T of the source header (R67; DESIGN CHOICE, log entry 45). -/
def loadRows (x : Draught) (j t : Nat) (cb : Nat → Codebook8) (raw : List (List Byte)) : List Byte :=
  let d := x.desc
  let src := dsSrcFmt d
  let ls := dsLsFmt d
  if isRaw (elemOf src) then raw.flatten
  else if inRuns src then
    if src = ls && plainTensor src t then (raw.map (moveRuns src)).flatten
    else if src = fmtCB2 && ls = 0x24 then
      ((List.zip (List.range raw.length) raw).map (fun r => (cb2Runs (cb r.1) x.cols r.2).flatten)).flatten
    else ((List.zip (List.range raw.length) raw).map (fun r =>
      encodeRow ls (tensorMag t) (sourceVals src t (decodeRow src (cb r.1) x.cols r.2)))).flatten
  else
    let cs := loadCodes x j raw
    if src = ls then (cs.map (packCodes (elemOf ls))).flatten
    else (cs.map (fun r => encodeRow ls (tensorMag one32) (r.map (decodeElem (elemOf src))))).flatten

/-- The tensor scale recorded with a loaded tile (R67). -/
def loadScale (d : List Byte) (t : Nat) : Nat :=
  if modeOf (dsLsFmt d) = 2 && modeOf (dsSrcFmt d) = 2 then t else one32

/-- A tile of ternary or INT2 weights for the bank in layout 0x4, unchanged but for ternary bytes from 243 on (R63, R111). -/
def packedTile (x : Draught) (raw : List (List Byte)) : List Byte :=
  let f := dsLsFmt x.desc
  if modeOf f = 0 && elemOf f = fmtTernary then
    (raw.map (fun b => packCodes fmtTernary (ternaryCodes b x.rows))).flatten
  else (raw.map (moveRuns f)).flatten

/-- The tile that LOAD or RECEIVE writes: `cb` gives the codebook of each piece. An encoding into a fine LS_FORMAT uses the
source's T, or 1.0 (R67). -/
def loadTile (x : Draught) (j t : Nat) (cb : Nat → Codebook8) (raw : List (List Byte)) : Tile :=
  let d := x.desc
  let tsc := loadScale d t
  let tt := if modeOf (dsSrcFmt d) = 2 then t else one32
  { idx := j, fmt := dsLsFmt d, layout := if planeBank d then 2 else if packedBank d then 4 else 0
    rows := x.rows, cols := x.cols, tscale := tsc
    bytes := if planeBank d then loadPlanes x j tt cb raw else if packedBank d then packedTile x raw else loadRows x j tt cb raw }

/-! Reading a tile of rows. -/

/-- The bytes of row r of a tile of rows. -/
def tileRow (t : Tile) (r : Nat) : List Byte :=
  let n := lsRowBytes t.fmt t.cols
  sliceBytes t.bytes ((if isRaw (elemOf t.fmt) then 16 else 0) + r * n) n

/-- Elements of row r without the tensor scale. -/
def tileElts (t : Tile) (r : Nat) : List Elt := decodeRow t.fmt (fun _ => []) t.cols (tileRow t r)

/-- F of a raw tile (R81). -/
def tileFactor (t : Tile) : Nat := fieldLE t.bytes 0 8

/-- Entry c of row r of a raw tile. -/
def tileEntry (t : Tile) (r c : Nat) : AccEntry :=
  let wide := elemOf t.fmt == fmtACC96
  let n := if wide then 16 else 8
  readRaw wide (sliceBytes (tileRow t r) (n * c) n)

/-- The values of row r (R82): entries of a raw tile times F, else elements with the tile's tensor scale. -/
def tileVals (t : Tile) (r : Nat) : List Num :=
  if isRaw (elemOf t.fmt) then
    (List.range t.cols).map (fun c => entryValue (decodeElem fmtFP64 (tileFactor t)) (tileEntry t r c))
  else (tileElts t r).map (fun x => applyTensor t.fmt t.tscale x.v)

/-! ELEMENT (R169). -/

/-- Index by which a program numbers the tile's rows and columns: ROW and COL of its first element (R169). -/
def elemOrigin (x : Draught) (st j : Nat) : Nat × Nat :=
  let p := tileAt x j
  if computes x.desc && decide (descPos x.desc stARRAY < st) then
    ((p.1 % dsRows x.desc), 0)
  else p

/-- The output tile of an element program: COL runs over the matrix, so each element has its own indices. -/
def elementTile (p : List Byte) (rd : Nat → Byte) (row0 col0 : Nat) (t : Tile) : Tile :=
  let row (r : Nat) : List Nat :=
    let vs := tileVals t r
    (List.range t.cols).map (fun c =>
      runProgram p ⟨(vs[c]?).getD .zero, (vs[c ^^^ 1]?).getD .zero, row0 + r, col0 + c, vecOperand p rd⟩)
  { t with fmt := pgOut p, layout := 0, tscale := one32
           bytes := ((List.range t.rows).map (fun r => packCodes (elemOf (pgOut p)) (row r))).flatten }

/-! REDUCE (R47, R81). -/

/-- A sum of values rounded once to an element format; NaN and infinities as R172 adds them. -/
def sumNums (l : List Num) : Num :=
  match l with
  | [] => .zero
  | a :: t => t.foldl addNum a

/-- Values combined by REDUCE_OP. -/
def combineNums (op : Nat) (l : List Num) : Num :=
  match l with
  | [] => .zero
  | a :: t =>
    match op with
    | 0 => sumNums l
    | 1 => t.foldl maxNum a
    | _ => t.foldl minNum a

/-- Raw entries combined, with the ACC_INEXACT events: the sum by R77, max and min by value, NaN when one is NaN (log entry 31). -/
def combineRaw (op n : Nat) (l : List AccEntry) : AccEntry × Nat :=
  match l with
  | [] => (AccEntry.zero, 0)
  | a :: t =>
    let val (e : AccEntry) : Num := entryValue (numOfInt 1) e
    let pick (less : Num → Num → Bool) : AccEntry × Nat :=
      (if l.any (fun e => e.special == 3) then ⟨0, 0, 3⟩ else t.foldl (fun m e => if less (val m) (val e) then e else m) a, 0)
    match op with
    | 0 => t.foldl (fun acc e => let r := combineEntries n acc.1 e; (r.1, acc.2 + r.2)) (a, 0)
    | 1 => pick ltNum
    | _ => pick (fun x y => ltNum y x)

/-- The tile of a reduce root from the members' tiles, in ascending logical core, with its ACC_INEXACT events (R47, R77, R81). -/
def reduceTile (op : Nat) (ts : List Tile) : Option (Tile × Nat) :=
  match ts with
  | [] => none
  | t :: _ =>
    let el := elemOf t.fmt
    if isRaw el then
      let wide := el == fmtACC96
      let same := ts.all (fun x => tileFactor x == tileFactor t)
      let entry (r c : Nat) : AccEntry × Nat :=
        if same then combineRaw op (entryBits wide) (ts.map (fun x => tileEntry x r c)) else (⟨0, 0, 3⟩, 0)
      let rows := (List.range t.rows).map (fun r => (List.range t.cols).map (entry r))
      some ({ t with bytes := rawHeader (tileFactor t) ++ (rows.map (fun l => (l.map (fun e => rawEntry wide e.1)).flatten)).flatten },
        (rows.flatten.map Prod.snd).foldl (· + ·) 0)
    else
      let row (r : Nat) : List Num :=
        let vs := ts.map (fun x => tileVals x r)
        (List.range t.cols).map (fun c => combineNums op (vs.map (fun v => (v[c]?).getD .zero)))
      some ({ t with bytes := ((List.range t.rows).map (fun r => encodeRow t.fmt (tensorMag t.tscale) (row r))).flatten }, 0)

/-! STORE and SEND. -/

/-- A piece of the destination: whole bytes, or codes that share their first or last byte with others: the element
number in the row, the codes, and whether what follows them in the last byte is kept. -/
inductive Piece where
  | whole (off : Nat) (b : List Byte)
  | part (off : Nat) (el e : Nat) (cs : List Nat) (keep : Bool)
  deriving DecidableEq, Repr

/-- Codes at element e of a row that begins at `base`. -/
def codePiece (base el e : Nat) (cs : List Nat) (rowEnds : Bool) : Piece :=
  let sp := elemSpan el e cs.length
  let w := elemBits el
  let aligned := if el = fmtTernary then e % 5 == 0 else e * w % 8 == 0
  let full := if el = fmtTernary then (e + cs.length) % 5 == 0 else (e + cs.length) * w % 8 == 0
  if aligned && (full || rowEnds) then .whole (base + sp.1) (packCodes el cs)
  else .part (base + sp.1) el e cs (!full && !rowEnds)

/-- Offset and length of a piece. -/
def Piece.span : Piece → Nat × Nat
  | .whole off b => (off, b.length)
  | .part off el e cs _ => (off, (elemSpan el e cs.length).2)

/-- The bytes of a piece over what the object holds there. -/
def Piece.bytes (old : List Byte) : Piece → List Byte
  | .whole _ b => b
  | .part _ el e cs keep =>
    let n := (elemSpan el e cs.length).2
    if el = fmtTernary then
      let prev := ternaryCodes old (5 * n)
      packCodes el (prev.take (e % 5) ++ cs ++ (if keep then prev.drop (e % 5 + cs.length) else []))
    else
      let w := elemBits el
      let head := e * w % 8
      let v := ofLE old
      let body := cs.foldr (fun c acc => c % 2 ^ w + 2 ^ w * acc) 0
      let end_ := head + cs.length * w
      toLE n (v % 2 ^ head + body * 2 ^ head + (if keep then v / 2 ^ end_ * 2 ^ end_ else 0))

/-- Codes of row r of a tile in an unscaled destination: moved when the format is its own, else converted once (R82). -/
def outCodes (t : Tile) (dst r : Nat) : List Nat :=
  let el := elemOf dst
  if t.fmt = dst then codesAt el 0 t.cols (tileRow t r) else (tileVals t r).map (encodeElem el)

/-- Bytes of row r in a destination stored in runs (R65, R82, R83). -/
def outRuns (t : Tile) (dst tOut r : Nat) : List Byte :=
  if t.fmt = dst && (modeOf dst != 2 || (t.tscale == tOut && plainTensor dst tOut)) then tileRow t r else encodeRow dst (tensorMag tOut) (tileVals t r)

/-- The pieces that STORE or SEND writes of a tile at row p.1 and column p.2 of the destination matrix; `rows` and `cols` are
the matrix's. The header of a raw tile goes with the first part of its split (R53, R81). -/
def outPieces (x : Draught) (t : Tile) (p : Nat × Nat) (rows cols tOut : Nat) : List Piece :=
  let d := x.desc
  let dst := dsDstFmt d
  let el := elemOf dst
  let off := dsDstOff d
  let st := dsDstStride d
  let full := dsRows d
  if isRaw el then
    let base := off + p.1 / full * tileBytes dst full cols
    (if p.1 % full = 0 && p.2 = 0 then [.whole base (sliceBytes t.bytes 0 16)] else []) ++ (List.range t.rows).map (fun r =>
      .whole (base + 16 + (p.1 % full + r) * lsRowBytes dst cols + lsRowBytes dst p.2) (tileRow t r))
  else if inRuns dst then
    (List.range t.rows).map (fun r => .whole (off + (p.1 + r) * st + rowBytes dst 3 p.2) (outRuns t dst tOut r))
  else
    match dsDstLay d with
    | 1 =>
      (List.zip (List.range t.cols) (transpose 0 t.cols ((List.range t.rows).map (outCodes t dst)))).map (fun c =>
        codePiece (off + (p.2 + c.1) * st) el p.1 c.2 (p.1 + t.rows == rows))
    | 2 =>
      let base := off + p.1 / full * planeTileBytes dst full
      let b := planesOfCodes (planeWidth el) t.rows (transpose 0 t.cols ((List.range t.rows).map (outCodes t dst)))
      (List.range (planeWidth el)).map (fun e =>
        .whole (base + e * full * 32 + p.1 % full * 32) (sliceBytes b (e * t.rows * 32) (t.rows * 32)))
    | _ =>
      (List.range t.rows).map (fun r =>
        codePiece (off + (p.1 + r) * st) el p.2 (outCodes t dst r) (p.2 + t.cols == cols))

end Sys2Proof.Machine
end

