-- ==== Sys2Proof/Machine/Stations.lean ====
section
/-!
DEFINITION. The stations (R44, R48, R55 to R58, R111, R112, R374): activation of a draught, the start and the end of a tile at a
station, passes of a compute tile, reduce groups (R49), and retirement.
-/

namespace Sys2Proof.Machine

/-- Change a draught of a core. -/
def modDraught (s : State) (core d : Nat) (f : Draught → Draught) : State :=
  modCore s core (fun k => { k with draughts := k.draughts.map (fun x => if x.order = d then f x else x) })

/-- Change a station of a draught. -/
def modStation (s : State) (core d st : Nat) (f : StationSt → StationSt) : State :=
  modDraught s core d (fun x => { x with stations := x.stations.modify st f })

/-- A station of a draught. -/
def stationOf (x : Draught) (st : Nat) : StationSt := (x.stations[st]?).getD StationSt.idle

/-! Activation (R55, R56, R171, R183, R193). -/

/-- Tiles that station 0 holds or reads beyond the one that station 1 works on (R56). -/
def heldAhead (x : Draught) : Nat :=
  let y := stationOf x 0
  y.outs.length + bnat y.busy - bnat (stationOf x 1).busy

/-- Those beyond its own two buffers: each takes a prefetch buffer (R56). -/
def prefetched (x : Draught) : Nat := heldAhead x - 2

/-- Prefetch buffers of a draught's size F. -/
def prefetchBytes (x : Draught) : Nat :=
  prefetched x * footprint x.desc (x.progs.map pgOut) x.rows x.cols

/-- Pool bytes that active draughts of a context hold on a core. -/
def poolUsed (k : Core) (ctx : Nat) : Nat :=
  k.draughts.foldl (fun n x => if x.active && x.ctx = ctx then n + x.need else n) 0

/-- Prefetch bytes of a context on a core. -/
def poolPrefetch (k : Core) (ctx : Nat) : Nat :=
  k.draughts.foldl (fun n x => if x.active && x.ctx = ctx then n + prefetchBytes x else n) 0

/-- The tile that station 0 is reading is given up, with the answers it awaits. -/
def giveUpTile (s : State) (core : Nat) (x : Draught) : State :=
  let who := Requester.station core x.order 0
  let s := stopPrefetch s who
  s.withPorts (mapValues s.ports (fun _ p => p.orphan x.queue (fun w => w == who)))

/-- A draught without its newest prefetched tile: that tile is read again (R56). -/
def dropNewest (s : State) (core : Nat) (x : Draught) : State :=
  if (stationOf x 0).busy then giveUpTile s core x
  else modStation s core x.order 0 (fun y => { y with outs := y.outs.dropLast, next := y.next - 1 })

/-- Prefetched tiles are discarded, newest first, until `need` fits (R56). -/
def makeRoom (core ctx pool need : Nat) : Nat → State → State
  | 0, s => s
  | n + 1, s =>
    let k := coreSt s core
    if poolUsed k ctx + need + poolPrefetch k ctx ≤ pool then s
    else
      match (k.draughts.filter (fun x => x.active && x.ctx == ctx && decide (0 < prefetched x))).getLast? with
      | none => s
      | some v => makeRoom core ctx pool need n (dropNewest s core v)

/-- The pages that the source of a draught lies on: address and length of its part in each. -/
def sourcePages (s : State) (x : Draught) : List (Nat × Nat) :=
  match handleEntry s x.ctx x.gen (dsSrcHandle x.desc) with
  | none => []
  | some e => pageSpans (heBase e) ((List.range x.count).map (srcPieces x)).flatten

/-- The physical pages of a draught's source, as the tables map them now; none where a page is not mapped. -/
def sourceMap (s : State) (core : Nat) (x : Draught) : List (Option Nat) :=
  ((sourcePages s x).map (fun p => p.1 / 65536)).eraseDups.map (fun v =>
    (peekPage s (dieOf s core) x.ctx (v * 65536)).map Prod.fst)

/-- The stacks that the source of a CB2 draught lies in (R180, R193): those of its mapped pages; a page that is not mapped yet may come to
lie in any stack of the partition. -/
def sourceStacks (s : State) (core : Nat) (x : Draught) : List Nat × List Nat :=
  let m := sourceMap s core x
  let sure := (m.filterMap (fun p => p.bind stackOf)).eraseDups
  let rest := if m.any Option.isNone then
    (List.range 12).filter (fun st => partOfStack s st == some (ctxPartition s x.ctx) && !sure.contains st) else []
  (sure, rest)

/-- Some source page of a CB2 draught lies in the store room (R180). -/
def sourceInStore (s : State) (core : Nat) (x : Draught) : Bool :=
  (sourceMap s core x).any (fun p => (p.map inStoreRoom).getD false)

/-- The codebook identifier of a handle (R190). -/
def cbidOf (s : State) (x : Draught) (h : Nat) : Nat := ((handleEntry s x.ctx x.gen h).map heCbid).getD 0

/-- A command decodes CB2. -/
def decodesCb2 (tpl : List Byte) : Bool := (ccOp tpl == ocMATVEC || ccOp tpl == ocDECODE) && ccAF tpl == fmtCB2

/-- LOAD or RECEIVE reads CB2. -/
def loadsCb2 (d : List Byte) : Bool := descStation d 0 != stCELLAR && elemOf (dsSrcFmt d) == fmtCB2

/-- The bindings that a draught makes as it starts, or none where a stack it decodes in has no active generation (R190,
R193). -/
def bindingsOf (s : State) (core : Nat) (x : Draught) (tpl : List Byte) : Option (List CbBinding) :=
  let src := if loadsCb2 x.desc then sourceStacks s core x else ([], [])
  let id := cbidOf s x (dsSrcHandle x.desc)
  let must : List (Nat × Nat) := src.1.map (fun st => (st, id)) ++
    (if descHas x.desc stCELLAR && decodesCb2 tpl then [(dsStack x.desc, cbidOf s x (ccAH tpl))] else [])
  let bind (w : Nat × Nat) : Option CbBinding := (activeGen s w.1 w.2).map (fun g => ⟨w.1, w.2, g.1, g.2⟩)
  if must.all (fun w => (bind w).isSome) then some (must.filterMap bind ++ (src.2.map (fun st => (st, id))).filterMap bind) else none

/-- The programs of a draught's ELEMENT stations, when the core holds them all. -/
def heldProgs (s : State) (core : Nat) (x : Draught) : Option (List (List Byte)) :=
  let l := (progHandles x.desc).map (fun h => heldProg (coreSt s core) x.ctx h x.queue)
  if l.all Option.isSome then some (l.filterMap id) else none

/-- The input tile's bytes of a CELLAR station that is not station 0. -/
def cellarInput (x : Draught) (progs : List Nat) : Option Nat :=
  let i := descPos x.desc stCELLAR
  if i = 0 then none else ((chainOuts x.desc progs x.rows x.cols)[i - 1]?).map StOut.size

/-- The template's handles name usable objects (R183, R314). -/
def templateHandles (s : State) (x : Draught) (tpl : List Byte) : Bool :=
  let op := ccOp tpl
  let good (used : Bool) (h : Nat) (r w : Bool) : Bool := !used || h == 0 || (goodUse s x.ctx x.gen h [1] 0 0 r w).isSome
  good (usesA op) (ccAH tpl) true false && good (usesB op) (ccBH tpl) true false && good (usesD op) (ccDH tpl) false true

/-- The template's handles relocated (R183). -/
def relocate (s : State) (x : Draught) (tpl : List Byte) : Relocated :=
  let base (h : Nat) : Nat := ((handleEntry s x.ctx x.gen h).map heBase).getD 0
  let size (h : Nat) : Nat := ((handleEntry s x.ctx x.gen h).map heSize).getD 0
  ⟨base (ccAH tpl), size (ccAH tpl), base (ccBH tpl), size (ccBH tpl), base (ccDH tpl), size (ccDH tpl), cbidOf s x (ccAH tpl)⟩

/-- The start of a draught whose programs and template are at hand, its split told from them (R47, R53 to R55, R111, R171, R183, R193). -/
def startDraught (s : State) (core : Nat) (x : Draught) (progs : List (List Byte)) (tpl : List Byte) : State :=
  let bad (s : State) : State := failSubmission s x.queue stFaultCommand
  let s := noteSplit s x.queue x.split
  if !draughtLegal s core x.ctx x.gen x.desc x.rows progs || x.need = 0 || poolBytes s core x.ctx < x.need ||
      (loadsCb2 x.desc && sourceInStore s core x) then bad s
  else if descHas x.desc stCELLAR && !templateHandles s x tpl then
    badHandle s x.queue x.ctx x.gen [ccAH tpl, ccBH tpl, ccDH tpl]
  else if descHas x.desc stCELLAR && !templateOk tpl (dsLsFmt x.desc) x.rows x.cols (cellarInput x (progs.map pgOut)) then bad s
  else
    match bindingsOf s core x tpl with
    | none => bad s
    | some bs =>
      let s := makeRoom core x.ctx (poolBytes s core x.ctx) x.need 4096 s
      let s := modCore s core (fun k => (progHandles x.desc).foldl (fun k h => useProg k x.ctx h x.queue) k)
      let a := (coreSt s core).array
      modDraught s core x.order (fun _ => { x with
        active := true, template := tpl, rel := relocate s x tpl, progs := progs, binding := bs
        resident := computes x.desc && (a.bank x.bank).state == .resident })

/-- DRAUGHT_ACTIVATE: the oldest queued draught of a core becomes active once its need is free (R55). Its template is read
here; its programs are read by ELEMENT_PROGRAM_READ before. -/
def execDraughtActivate (core : Nat) (s : State) : Res :=
  let k := coreSt s core
  match k.draughts.find? (fun x => !x.active) with
  | none => .refused (.notEnabled "DRAUGHT_ACTIVATE")
  | some x =>
    let who := Requester.station core x.order (8 + stCELLAR)
    if 4 ≤ k.draughts.countP Draught.active || !mayRun s x.queue || k.held || attached s who then
      .refused (.notEnabled "DRAUGHT_ACTIVATE")
    else if !fieldsLegal s core x.ctx x.gen x.desc x.rows then .next (failSubmission s x.queue stFaultCommand)
    else
      match heldProgs s core x with
      | none => .refused (.notEnabled "DRAUGHT_ACTIVATE")
      | some progs =>
        let x := splitDraught s core x (progs.map pgOut)
        let pool := poolBytes s core x.ctx
        if decide (pool < poolUsed k x.ctx + x.need) && decide (x.need ≤ pool) then .refused (.notEnabled "DRAUGHT_ACTIVATE")
        else if descHas x.desc stCELLAR then
          match goodUse s x.ctx x.gen (dsTemplate x.desc) [1] 0 64 true false with
          | none => .next (badHandle s x.queue x.ctx x.gen [dsTemplate x.desc])
          | some e =>
            let r := virtRead s who x.ctx x.queue (heBase e) 64
            if !r.ok then .next r.st else .next (startDraught r.st core x progs r.data)
        else .next (startDraught s core x progs [])

/-! Retirement (R48, R57, R58). -/

/-- The oldest tile of a draught that some station or buffer has not finished with. A tile that ARRAY only accumulates is over, and retires,
as soon as ARRAY has run it: its row block's drain is the output of the block's last tile (R48; DESIGN CHOICE, log entry 48). -/
def oldestTile (x : Draught) : Nat :=
  x.stations.foldl (fun m y => y.outs.foldl (fun m t => min m t.idx) m) (stationOf x 0).next

/-- Groups that wait for a draught-queue entry go on. -/
def draughtWake (s : State) (core : Nat) : State :=
  if draughtsFull s core then s else clearWhere s core (fun g => g.cond == .draughtFull)

/-- n increments of a local counter. -/
def bumpCtr (s : State) (core ctx ctr : Nat) : Nat → State
  | 0 => s
  | n + 1 => addLocalCtr (bumpCtr s core ctx ctr n) core ctx ctr 1

/-- Tiles that are over retire in ascending order: their counter rises; with the last one DONE_CTR and PROGRESS, and the
draught leaves (R36, R48, R57). -/
def retire (s : State) (core d : Nat) : State :=
  match draughtAt s core d with
  | none => s
  | some x =>
    let n := oldestTile x - x.retired
    let s := modDraught s core d (fun x => { x with retired := oldestTile x })
    let s := if n = 0 then s else coreEvent s core 0x0C (some x.ctx) n
    let s := if bit (dsLocal x.desc) 7 then bumpCtr s core x.ctx (bits (dsLocal x.desc) 5 0) n else s
    if x.count ≤ oldestTile x && x.stations.all (fun y => !y.busy) then
      let s := if bit (dsFlags x.desc) 2 then addLocalCtr s core x.ctx (bits (dsDone x.desc) 5 0) 1 else s
      let s := if bit (dsFlags x.desc) 0 then raiseProgress s x.queue else s
      let s := modCore s core (fun k => { k with
        draughts := k.draughts.filter (fun y => y.order != d)
        array := { k.array with holder := k.array.holder.filter (fun o => o != d) } })
      draughtWake (noteEnd s x.queue core) core
    else s

/-! Tensor headers (R67). -/

/-- The number under which a station keeps a peer's answer that is a tensor header. -/
def scalePart : Nat := 2 ^ 20

/-- A peer's memory is read for a station: a READ of n bytes (R374). -/
def askPeer (s : State) (core d st : Nat) (x : Draught) (e : HEntry) (part off n : Nat) : State :=
  portRequest s (dsPeer x.desc) (.station core d st) x.queue part (fun p => { p with arg := n }) pkREAD (hePeerCtx e)
    ((heBase e + off) % 2 ^ 48)

/-- The tensor scale of a draught's source or destination, read once: from memory, or from the peer whose window the handle names. None
while it is awaited, or where the handle is used badly. The state holds it. -/
def tensorHeader (s : State) (core d st : Nat) (x : Draught) (dst : Bool) : Option Nat × State :=
  let cached := if dst then x.tOut else x.tIn
  let h := if dst then dsDstHandle x.desc else dsSrcHandle x.desc
  let off := if dst then dsDstOff x.desc else dsSrcOff x.desc
  let known (s : State) (b : List Byte) : Option Nat × State :=
    let t := fieldLE b 0 4
    (some t, modDraught s core d (fun y => if dst then { y with tOut := some t } else { y with tIn := some t }))
  match cached with
  | some t => (some t, s)
  | none =>
    match if off < 64 then none else goodUse s x.ctx x.gen h [1, 2] (off - 64) 64 true false with
    | none => (none, badHandle s x.queue x.ctx x.gen [h])
    | some e =>
      if heKind e = 2 then
        match find (stationOf x st).parts scalePart with
        | some b => known (modStation s core d st (fun y => { y with parts := erase y.parts scalePart })) b
        | none =>
          if !windowPort s x.ctx (dsPeer x.desc) e then (none, failSubmission s x.queue stFaultAccess)
          else (none, askPeer (modStation s core d st (fun y => { y with waits := true, awaits := y.awaits + 1 })) core d st x e scalePart
            (off - 64) 64)
      else
        let r := virtRead s (.station core d st) x.ctx x.queue (heBase e + off - 64) 64
        if !r.ok then (none, r.st) else known r.st r.data

/-- The scale of a header where the format is in fine mode, else 1.0. -/
def needTensor (s : State) (core d st : Nat) (x : Draught) (dst : Bool) (fmt : Nat) : Option Nat × State :=
  if modeOf fmt = 2 then tensorHeader s core d st x dst else (some one32, s)

/-! The start of a tile (R48, R56, R57, R112). -/

/-- The tile that a station would begin: of the tile before it, or the next of the draught. -/
def nextTile (x : Draught) (st : Nat) : Option Nat :=
  if st = 0 then (if (stationOf x 0).next < x.count then some (stationOf x 0).next else none)
  else ((stationOf x (st - 1)).outs.head?).map Tile.idx

/-- The tile that station 1 works on, or will. -/
def consumerTile (x : Draught) : Nat :=
  match (stationOf x 0).outs with
  | t :: _ => t.idx
  | [] => (stationOf x 0).next

/-- Some page of tile j of the source is strict (R279). -/
def strictSource (s : State) (core : Nat) (x : Draught) (j : Nat) : Bool :=
  match handleEntry s x.ctx x.gen (dsSrcHandle x.desc) with
  | none => false
  | some e => (pageSpans (heBase e) (srcPieces x j)).any (fun p =>
      match peekPage s (dieOf s core) x.ctx p.1 with
      | some r => leafStrict r.2
      | none => false)

/-- An output buffer is free (R48, R56): two of its own, and at a source, beyond the two tiles after the one that station 1 works on,
prefetch buffers from pool space that nothing holds, while no draught waits. -/
def bufferFree (s : State) (core : Nat) (x : Draught) (st j : Nat) : Bool :=
  let y := stationOf x st
  let k := coreSt s core
  let code := descStation x.desc st
  if st = 0 && (code = stLOAD || code = stRECEIVE) && 1 < descLen x.desc then
    decide (j ≤ consumerTile x + dsPrefetch x.desc) && (j == consumerTile x || !strictSource s core x j) &&
      (decide (heldAhead x < 2) ||
        (decide (heldAhead x < dsPrefetch x.desc) && !k.draughts.any (fun z => !z.active) &&
          decide (poolUsed k x.ctx + poolPrefetch k x.ctx + footprint x.desc (x.progs.map pgOut) x.rows x.cols ≤
            poolBytes s core x.ctx)))
  else decide (y.outs.length < 2)

/-- A station with the same sequencer works on a tile of another draught (R44, R55). The array's bank loads and its runs go by
different paths: a tile that awaits its next bank does not stop the load of that bank (R100, R111). -/
def sequencerBusy (k : Core) (w : Draught) (code : Nat) : Bool :=
  k.draughts.any (fun x => (List.zip x.stations (descChain x.desc)).any (fun y => y.2 == code && y.1.busy &&
    (code != stARRAY || bankLoads x.desc == bankLoads w.desc)))

/-- RECEIVE's condition for tile j (R57): t and b are those of the unsplit tile that tile j is part of, so that a split changes nothing
(R53; DEDUCED, log entry 49). The enable bit of REMOTE_CTR is not looked at: a RECEIVE always waits on its counter (DESIGN CHOICE,
log entry 50). -/
def received (s : State) (x : Draught) (j : Nat) : Bool :=
  thresholdMet (remoteCtr s x.ctx (bits (dsRemote x.desc) 9 0))
    (BitVec.ofNat 32 (dsRecv x.desc + (unsplitTile x j + 1) * srcTileBytes x.desc))

/-- The root's draught of a member's group (R47). -/
def rootDraught (s : State) (x : Draught) : Option Draught :=
  (coreSt s (dsRoot x.desc)).draughts.find? (fun y =>
    y.active && y.ctx == x.ctx && descReduces y.desc && descTag y.desc == descTag x.desc)

/-- The bank of a compute tile's next rows is at hand, or the tile needs no more (R100, R111). -/
def bankReady (a : ArraySt) (x : Draught) : Bool :=
  let k := a.bank x.bank
  if x.resident then k.state == .resident else k.state == .stream

/-- The first accumulator row of the row block of tile j (R111). -/
def blockBase (x : Draught) (j : Nat) : Nat :=
  if x.rows = dsRows x.desc then 0
  else (tileAt x j).1 / dsRows x.desc * (dsRows x.desc / x.rows) % (accRows (dsWide x.desc) / x.rows) * x.rows

/-- The accumulator rows of the row block of tile j. -/
def blockRows (x : Draught) (j : Nat) : Nat := rowMask (blockBase x j) (dsRows x.desc)

/-- A bank is free for a station's load (R100). -/
def bankFree (k : Core) (b : Nat) : Bool :=
  let a := k.array
  (a.bank b).state != .stream && (a.bank b).state != .loading && !readsBefore a b a.seq && !residentInUse k b

/-- The plane budget of a bank-load draught (R445). -/
def bankPlanes (s : State) (x : Draught) : Nat := reducedPlanes s x.queue (elemOf (dsLsFmt x.desc)) (dsPlanes x.desc)

/-- A bank-load draught's tile takes both banks: it has plane groups for both (R98). -/
def takesBoth (s : State) (x : Draught) : Bool := decide (16 < bankPlanes s x)

/-- What ARRAY needs to begin tile j (R100, R106, R111, R112, R118). -/
def arrayFree (s : State) (core : Nat) (x : Draught) (j : Nat) : Bool :=
  let a := (coreSt s core).array
  (takeArray s core x.ctx).isSome &&
    if bankLoads x.desc then
      !a.loads.any LoadJob.started && bankFree (coreSt s core) x.bank &&
        (!takesBoth s x || bankFree (coreSt s core) (otherBank x.bank))
    else
      (a.holder.isNone || a.holder == some x.order) && bankReady a x &&
        (match a.run with
         | some (.run o _) => opRows o &&& blockRows x j == 0
         | some (.drain o) => opRows o &&& blockRows x j == 0
         | _ => true)

/-- The accumulator rows of a tile row (R111). -/
def tileBase (x : Draught) (j : Nat) : Nat :=
  if x.rows = dsRows x.desc then 0
  else (tileAt x j).1 / x.rows % (accRows (dsWide x.desc) / x.rows) * x.rows

/-- Tile j is the first of its row block: column 0 of the reduction. -/
def firstOfBlock (x : Draught) (j : Nat) : Bool := (tileAt x j).2 == 0

/-- The array begins a tile: a bank is loaded into, or a row block is held, its rows cleared at the first tile (R100, R103,
R104, R111, R112). None when the accumulator is in the other mode with dirty rows (R103). -/
def arrayBegin (s : State) (core : Nat) (x : Draught) (j : Nat) : Option State :=
  let s := (takeArray s core x.ctx).getD s
  if bankLoads x.desc then
    let load (b : Nat) (a : ArraySt) : ArraySt := a.withBank b { Bank.none with state := .loading }
    some (modArray s core (fun a => if takesBoth s x then load (otherBank x.bank) (load x.bank a) else load x.bank a))
  else
    let a := (coreSt s core).array
    match startRun a (dsWide x.desc) (firstOfBlock x j && x.tileCols == 0) (rowMask (tileBase x j) x.rows) with
    | none => none
    | some a => some (modArray s core (fun _ => { a with holder := some x.order, holdRows := blockRows x j }))

/-- The page of the first piece of a tile is asked for; the others are as the tile comes to them (R254). -/
def askPieces (s : State) (who : Requester) (x : Draught) (base acc : Nat) (l : List (Nat × Nat)) : State :=
  match l with
  | [] => s
  | p :: _ => askPages s who x.ctx (base + p.1) 1 acc x.queue

/-- The position of a station's output in the destination matrix: row and column, and the matrix's rows and columns. -/
def outPlace (x : Draught) (st j : Nat) : (Nat × Nat) × Nat × Nat :=
  let p := tileAt x j
  if computes x.desc && decide (descPos x.desc stARRAY < st) then ((p.1, 0), matrixRows x, dsOutCols x.desc)
  else (p, matrixRows x, matrixCols x)

/-- Reads of a peer's memory for tile j: runs of at most 4 KiB of each piece (R374). -/
def remoteRuns (x : Draught) (j : Nat) : List (Nat × Nat) :=
  ((srcPieces x j).map (fun p => (List.range (ceilDiv p.2 4096)).map (fun i =>
    (p.1 + 4096 * i, min 4096 (p.2 - 4096 * i))))).flatten

/-- LOAD from a peer window begins: one READ per run (R374). -/
def beginRemote (s : State) (core d : Nat) (x : Draught) (j : Nat) (e : HEntry) : State :=
  let n := dsPeer x.desc
  let runs := remoteRuns x j
  if !windowPort s x.ctx n e then failSubmission s x.queue stFaultAccess
  else
    let s := modStation s core d 0 (fun y => { y with waits := true, parts := [], awaits := runs.length })
    (List.zip (List.range runs.length) runs).foldl (fun s r => askPeer s core d 0 x e r.1 r.2.1 r.2.2) s

/-- The writes of a SEND tile leave: one WRITE per run of up to 4 KiB, in order (R374). A WRITE carries whole bytes: the bits of a byte that
a row shares with a neighbouring tile are sent as zero (R62; DESIGN CHOICE, log entry 46). -/
def beginSend (s : State) (core d st : Nat) (x : Draught) (t : Tile) (tOut : Nat) (e : HEntry) : State :=
  let n := dsPeer x.desc
  let o := outPlace x st t.idx
  let ps := outPieces x t o.1 o.2.1 o.2.2 tOut
  let runs := cutRuns (joinRuns (ps.map (fun p => ((Piece.span p).1, Piece.bytes [] p))))
  if !windowPort s x.ctx n e then failSubmission s x.queue stFaultAccess
  else
    let ctr := if bit (dsRemote x.desc) 15 then 0x8000 + bits (dsRemote x.desc) 9 0 else 0
    let s := modStation s core d st (fun y => { y with waits := true, awaits := runs.length })
    runs.foldl (fun s r =>
      portRequest s n (.station core d st) x.queue 0 (fun p => { p with payload := r.2, counter := ctr }) pkWRITE (hePeerCtx e)
        ((heBase e + r.1) % 2 ^ 48)) s

/-- SEND's tile: its writes leave once the destination's tensor header is at hand. -/
def sendTile (s : State) (core d st : Nat) (x : Draught) (t : Tile) : State :=
  let o := outPlace x st t.idx
  let sp := extent ((outPieces x t o.1 o.2.1 o.2.2 one32).map Piece.span)
  match goodUse s x.ctx x.gen (dsDstHandle x.desc) [2] sp.1 sp.2 false true with
  | none => badHandle s x.queue x.ctx x.gen [dsDstHandle x.desc]
  | some e =>
    match needTensor s core d st x true (dsDstFmt x.desc) with
    | (none, s) => s
    | (some tOut, s) => beginSend s core d st x t tOut e

/-- The command of a CELLAR station goes to its stack's sources (R182, R183). -/
def beginCellar (s : State) (core d st : Nat) (x : Draught) (j : Nat) (inp : Option Tile) : State :=
  let c := commandOf x.template j
  let r := x.rel
  let bound := if decodesCb2 x.template then x.binding.find? (fun b => b.stack == dsStack x.desc && b.id == r.cbA) else none
  let cmd : CellCmd :=
    { cmd := c, ctx := x.ctx, queue := x.queue, core := some core, draught := d, tileIdx := j, tile := inp
      aBase := r.aBase, bBase := r.bBase, dBase := r.dBase, aSize := r.aSize, bSize := r.bSize, dSize := r.dSize
      cbA := r.cbA, slotA := bound.map CbBinding.slot, gen := BitVec.ofNat 32 ((bound.map CbBinding.gen).getD 0), maps := PageMap.empty }
  let s := modStation s core d st (fun y => { y with waits := true, got := none })
  modCellar s (dsStack x.desc) (fun e => { e with waiting := e.waiting ++ [cmd] })

/-- A station begins tile j: what it asks for before it can finish. -/
def beginTile (s : State) (core d st : Nat) (x : Draught) (j : Nat) : State :=
  let who := Requester.station core d st
  let s := modStation s core d st (fun y => { y with busy := true, next := j })
  let inp := if st = 0 then none else (stationOf x (st - 1)).outs.head?
  match descStation x.desc st with
  | 0x1 =>
    match handleEntry s x.ctx x.gen (dsSrcHandle x.desc) with
    | some e =>
      if heKind e = 2 then
        (match goodUse s x.ctx x.gen (dsSrcHandle x.desc) [2] (extent (srcPieces x j)).1 (extent (srcPieces x j)).2 true false with
         | some e => beginRemote s core d x j e
         | none => badHandle s x.queue x.ctx x.gen [dsSrcHandle x.desc])
      else askPieces s who x (heBase e) 1 (srcPieces x j)
    | none => s
  | 0x8 =>
    match handleEntry s x.ctx x.gen (dsSrcHandle x.desc) with
    | some e => askPieces s who x (heBase e) 1 (srcPieces x j)
    | none => s
  | 0x2 => beginCellar s core d st x j inp
  | 0x3 =>
    match arrayBegin s core x j with
    | some s => s
    | none => failSubmission s x.queue stFaultCommand
  | 0x6 =>
    match handleEntry s x.ctx x.gen (dsDstHandle x.desc), inp with
    | some e, some t =>
      let o := outPlace x st j
      askPieces s who x (heBase e) 2 ((outPieces x t o.1 o.2.1 o.2.2 one32).map Piece.span)
    | _, _ => s
  | 0x7 =>
    match inp with
    | none => s
    | some t => sendTile s core d st x t
  | _ => s

/-- The sequencer that serves a station: the array's bank loads and its runs have one each (R44, R55). -/
def sequencerOf (d : List Byte) (code : Nat) : Nat := if code = stARRAY && !bankLoads d then 16 + code else code

/-- The tile that a station may begin now: whole in its input, an output buffer free, and what the station needs at hand (R48). -/
def startable (s : State) (core : Nat) (x : Draught) (st : Nat) : Option Nat :=
  (nextTile x st).filter (fun j =>
    let y := stationOf x st
    let code := descStation x.desc st
    x.active && !y.busy && y.stall.isNone && mayRun s x.queue && !(coreSt s core).held && !sequencerBusy (coreSt s core) x code &&
      bufferFree s core x st j && (code != stRECEIVE || received s x j) && (code != stARRAY || arrayFree s core x j) &&
      (code != stREDUCE || core == dsRoot x.desc || (rootDraught s x).isSome))

/-- The draughts that have a tile for a sequencer, in order of activation. -/
def contenders (s : State) (core seq : Nat) : List Nat :=
  ((coreSt s core).draughts.filter (fun x => (List.range (descLen x.desc)).any (fun st =>
    sequencerOf x.desc (descStation x.desc st) == seq && (startable s core x st).isSome))).map Draught.order

/-- The draught that a sequencer serves next: in rotation in order of activation after the one it served last (R55). -/
def nextServed (s : State) (core seq : Nat) : Option Nat :=
  let l := contenders s core seq
  match find (coreSt s core).turns seq with
  | some last => (l.find? (fun o => decide (last < o))).or l.head?
  | none => l.head?

/-- STATION_TILE_START: a station begins the tile that is whole in its input once an output buffer is free (R48); a station that several
draughts share serves them in rotation (R55). -/
def execStationTileStart (core d st : Nat) (s : State) : Res :=
  needs (draughtAt s core d) "STATION_TILE_START" fun x =>
    let code := descStation x.desc st
    let seq := sequencerOf x.desc code
    match if st < descLen x.desc then startable s core x st else none with
    | some j =>
      if nextServed s core seq ≠ some d then .refused (.notEnabled "STATION_TILE_START")
      else
        let s := modCore s core (fun k => { k with turns := insert k.turns seq d })
        let s := if code = stRECEIVE then touchCtr s x.ctx (bits (dsRemote x.desc) 9 0) else s
        .next (beginTile s core d st x j)
    | none => .refused (.notEnabled "STATION_TILE_START")

/-! The end of a tile. -/

/-- Work in flight of a submission may finish: it runs, or its abort, pre-emption or dump waits for that (R40, R59, R471). -/
def mayFinish (s : State) (q : Nat) : Bool :=
  mayRun s q || (match find s.subs q with
    | some u => u.phase == .aborting || u.phase == .preempting || u.phase == .frozen
    | none => false)

/-- The station's input is freed, its output is handed on, and what is over retires (R48). -/
def handOn (s : State) (core d st : Nat) (out : Option Tile) : State :=
  let s := if st = 0 then s else modStation s core d (st - 1) (fun y => { y with outs := y.outs.drop 1 })
  let s := modStation s core d st (fun y => { y with
    busy := false, waits := false, got := none, parts := [], next := y.next + 1
    outs := match out with
      | some t => y.outs ++ [t]
      | none => y.outs })
  retire s core d

/-- The codebook of each piece of a CB2 source, with the stack that holds the piece: the generation bound there (R64, R193). -/
def pieceBooks (s : State) (core : Nat) (x : Draught) (base j : Nat) (i : Nat) : Option (Nat × Codebook8) :=
  match (srcPieces x j)[i]? with
  | none => none
  | some p =>
    ((peekPage s (dieOf s core) x.ctx (base + p.1)).bind (fun r => stackOf r.1)).bind (fun st =>
      (x.binding.find? (fun b => b.stack == st && b.id == cbidOf s x (dsSrcHandle x.desc))).map (fun b => (st, codeEntry s st b.slot)))

/-- The elements that the base dies decode for a LOAD of CB2, 32 in each run of 9 bytes, counted at the stack of each piece (R180, R467). -/
def countDecoded (s : State) (books : Nat → Option (Nat × Codebook8)) (raw : List (List Byte)) : State :=
  (List.zip (List.range raw.length) raw).foldl (fun s p =>
    match books p.1 with
    | some b => celCount s b.1 2 (32 * (p.2.length / 9))
    | none => s) s

/-- The loaded tile goes on, once its tensor header is at hand. -/
def finishLoad (s : State) (core d st : Nat) (x : Draught) (j : Nat) (books : Nat → Option (Nat × Codebook8))
    (raw : List (List Byte)) : State :=
  let coded := elemOf (dsSrcFmt x.desc) == fmtCB2
  if coded && !(List.range raw.length).all (fun i => (books i).isSome) then failSubmission s x.queue stFaultCommand
  else
    match needTensor s core d st x false (dsSrcFmt x.desc) with
    | (none, s) => s
    | (some t, s) =>
      let s := if coded then countDecoded s books raw else s
      handOn s core d st (some (loadTile x j t (fun i => ((books i).map Prod.snd).getD (fun _ => zeroBytes 8)) raw))

/-- What a station keeps of a tile, part by part in order, without a tensor header. -/
def partsOf (y : StationSt) : List (List Byte) := ((erase y.parts scalePart).map Prod.snd)

/-- Bytes cut into pieces of the lengths given. -/
def cutBytes : List Nat → List Byte → List (List Byte)
  | [], _ => []
  | n :: t, b => b.take n :: cutBytes t (b.drop n)

/-- One more part of a tile is done, with the bytes it brought. -/
def keepPart (s : State) (core d st i : Nat) (b : List Byte) : State :=
  modStation s core d st (fun y => { y with parts := insert y.parts i b })

/-- The pages of a tile are read in order from the first that it does not have yet; what was read stays (R254). False where one waits for
its translation, or failed. -/
def readTile (s : State) (core d st : Nat) (x : Draught) (spans : List (Nat × Nat)) : Bool × State :=
  ((List.zip (List.range spans.length) spans).drop (partsOf (stationOf x st)).length).foldl (fun (r : Bool × State) p =>
    if !r.1 then r
    else
      let m := virtRead r.2 (.station core d st) x.ctx x.queue p.2.1 p.2.2
      (m.ok, if m.ok then keepPart m.st core d st p.1 m.data else m.st)) (true, s)

/-- LOAD and RECEIVE (R44, R254, R314). -/
def doneLoad (s : State) (core d st : Nat) (x : Draught) (j : Nat) : State :=
  let l := srcPieces x j
  let sp := extent l
  match goodUse s x.ctx x.gen (dsSrcHandle x.desc) (if descStation x.desc st = stLOAD then [1, 2] else [1]) sp.1 sp.2 true false with
  | none => badHandle s x.queue x.ctx x.gen [dsSrcHandle x.desc]
  | some e =>
    let cut (s : State) : List (List Byte) :=
      cutBytes (l.map Prod.snd) (partsOf ((draughtAt s core d).elim (stationOf x st) (fun x => stationOf x st))).flatten
    if heKind e = 2 then finishLoad s core d st x j (fun _ => none) (cut s)
    else
      match readTile s core d st x (pageSpans (heBase e) l) with
      | (false, s) => s
      | (true, s) => finishLoad s core d st x j (pieceBooks s core x (heBase e) j) (cut s)

/-- The bank that a station loads from its tile, with all its plane groups. -/
def stationBank (s : State) (x : Draught) (t : Tile) : Bank :=
  let p := bankPlanes s x
  let reduced := p != dsPlanes x.desc
  let k := if t.layout = 4 then
      let n := lsRowBytes t.fmt t.rows
      let cols := (List.range t.cols).map (fun c => chunksOf 32 (t.rows / 32 + 1)
        (decodeRow t.fmt (fun _ => []) t.rows (sliceBytes t.bytes (c * n) n)))
      let al := alignTile (elemOf t.fmt) p cols
      { bankOf (byteOf []) t.fmt p 0 0 0 0 true reduced 0 with
        cols := t.cols, kblocks := t.rows / 32, held := al.1 * groupsOf p, groups := al.1 * groupsOf p
        exact := weightExact t.fmt p 0, cells := al.2 }
    else bankOf (byteOf t.bytes) t.fmt p t.rows t.cols 0 0 true reduced 0
  { k with tscale := t.tscale }

/-- ARRAY in bank-load mode: the tile is one load with ONCE set, into the draught's next bank (R98, R111). The groups of a tile of more than
16 planes go to both banks in turn; those beyond the second stand in the banks with them, where the array reloads them from the
station's tile as their bank frees (R101; DESIGN CHOICE, log entry 47). -/
def doneBank (s : State) (core d st : Nat) (x : Draught) (t : Tile) : State :=
  let k := stationBank s x t
  let even : Bank := if k.groups ≤ 1 then k else { k with held := ceilDiv k.groups 2 }
  let odd : Bank := { k with group := 1, held := k.groups / 2 }
  let s := modArray s core (fun a =>
    let a := a.withBank x.bank even
    if k.groups ≤ 1 then (if takesBoth s x then a.withBank (otherBank x.bank) Bank.none else a) else a.withBank (otherBank x.bank) odd)
  let s := opCount s core 29 k.groups
  let s := modDraught s core d (fun y => { y with bank := otherBank y.bank })
  handOn (matrixWake s core) core d st none

/-! Compute tiles (R111). -/

/-- The last row part of an unsplit tile: it is the one that consumes the banks. -/
def lastRows (x : Draught) (j : Nat) : Bool := (tileAt x j).1 % dsRows x.desc + x.rows == dsRows x.desc

/-- Where the rest of a compute tile reads: segments of bank, first row and length, `left` columns from row `pos` of the
bank in use on. -/
def segments (a : ArraySt) (b pos left : Nat) : Option (List (Nat × Nat × Nat)) :=
  let have_ := 32 * (a.bank b).kblocks
  if pos + left ≤ have_ then some [(b, pos, left)]
  else if 1 < (a.bank b).groups then none
  else if have_ ≤ pos then
    let o := otherBank b
    let p := pos - have_ + (a.bank o).used
    if (a.bank o).state == .stream && decide (p + left ≤ 32 * (a.bank o).kblocks) then some [(o, p, left)] else none
  else
    let o := otherBank b
    let rest := pos + left - have_
    if (a.bank o).state == .stream && decide ((a.bank o).used + rest ≤ 32 * (a.bank o).kblocks) then
      some [(b, pos, have_ - pos), (o, (a.bank o).used, rest)]
    else none

/-- The first row of the sequence, from the start of the bank in use, that the tile's next columns take. -/
def tilePos (a : ArraySt) (x : Draught) (j : Nat) : Nat :=
  let c := (tileAt x j).2 % dsCols x.desc + x.tileCols
  if x.resident then c
  else if lastRows x j then (a.bank x.bank).used
  else (a.bank x.bank).used + c

/-- The activation rows of a tile's columns from `c` on, n of them, aligned (R71, R102). -/
def tileActs (x : Draught) (t : Tile) (p c n : Nat) : List (List (List Block) × Bool) :=
  (List.range t.rows).map (fun r =>
    let es := ((tileElts t r).drop c).take n
    let sp := rowSpan t.fmt c n
    (alignRow (elemOf t.fmt) (dsSlices x.desc) p es, actExact t.fmt (dsSlices x.desc) p (sliceBytes (tileRow t r) sp.1 sp.2) n))

/-- The groups of the tile that begins in bank b, in order: each from the bank that holds it (R98, R101). -/
def runGroups (s : State) (core b : Nat) (x : RunArgs) : State :=
  let a := (coreSt s core).array
  let k := a.bank b
  (List.range k.groups).foldl (fun s g =>
    let o := a.bank (groupBank b g)
    if g % 2 = 0 || (o.group = 1 && o.groups = k.groups && o.state = k.state) then doGroup s core o x g else s) s

/-- A tile that begins in bank b is consumed: the banks that hold it are EMPTY (R100). -/
def emptyTile (a : ArraySt) (b : Nat) : ArraySt :=
  let a' := a.withBank b Bank.none
  if 1 < (a.bank b).groups then a'.withBank (otherBank b) Bank.none else a'

/-- One run of a compute tile on a bank: rows lo to lo + n − 1 of the bank, columns c to c + n − 1 of the tile. -/
def runSegment (s : State) (core : Nat) (x : Draught) (t : Tile) (b lo n c : Nat) : State :=
  let k := (coreSt s core).array.bank b
  let args : RunArgs :=
    { base := tileBase x t.idx, rows := tileActs x t k.planes c n, koff := lo / 32, klen := n / 32
      slices := dsSlices x.desc, actFmt := t.fmt }
  runGroups s core b args

/-- F is set at the first run of a row block (R111). -/
def setFactor (s : State) (core : Nat) (x : Draught) (t : Tile) (b : Nat) : State :=
  if firstOfBlock x t.idx && x.tileCols = 0 then
    modArray s core (fun a => { a with factor := factorOf (a.bank b).tscale t.tscale })
  else s

/-- GROUP_PASSES_DONE for a compute tile: the passes up to the end of the streamed bank in use are over, and the bank is EMPTY;
the tile goes on in the other bank (R100, R111). -/
def stationPasses (s : State) (core : Nat) (x : Draught) (t : Tile) : Res :=
  let a := (coreSt s core).array
  let k := a.bank x.bank
  let left := x.cols - x.tileCols
  let n := 32 * k.kblocks - k.used
  if x.resident || !lastRows x t.idx || k.state != .stream || n = 0 || left < n then .refused (.notEnabled "GROUP_PASSES_DONE")
  else
    let s := setFactor s core x t x.bank
    let s := runSegment s core x t x.bank k.used n x.tileCols
    let s := modArray s core (fun a => emptyTile a x.bank)
    .next (modDraught s core x.order (fun y => { y with bank := otherBank y.bank, tileCols := y.tileCols + n }))

/-- The compute station's tile in progress on a core. -/
def computing (k : Core) : Option (Draught × Tile) :=
  (k.draughts.find? (fun x => computes x.desc && (stationOf x (descPos x.desc stARRAY)).busy)).bind (fun x =>
    ((stationOf x (descPos x.desc stARRAY - 1)).outs.head?).map (fun t => (x, t)))

/-- GROUP_PASSES_DONE (R101): of the run path's run, or of the compute station's tile. -/
def execGroupPassesDone (core : Nat) (s : State) : Res :=
  let k := coreSt s core
  match k.array.run with
  | some (.run o g) => streamPasses s core o g
  | _ =>
    match computing k with
    | some (x, t) => if mayFinish s x.queue then stationPasses s core x t else .refused (.notEnabled "GROUP_PASSES_DONE")
    | none => .refused (.notEnabled "GROUP_PASSES_DONE")

/-- The row block's drain: this tile's rows, in the format of R111, then zeroed (R105, R111). -/
def drainTile (s : State) (core : Nat) (x : Draught) (t : Tile) (tOut : Nat) : Tile × State :=
  let a := { (coreSt s core).array with tOut := tOut }
  let fmt := drainFmt x.desc
  let base := tileBase x t.idx
  let rows := ((List.range x.rows).map (fun r => drainRow a (base + r) (dsOutCols x.desc) fmt a.factor tOut)).flatten
  let out : Tile :=
    { idx := t.idx, fmt := fmt, layout := 0, rows := x.rows, cols := dsOutCols x.desc
      tscale := if modeOf fmt = 2 then tOut else one32
      bytes := (if isRaw (elemOf fmt) then rawHeader a.factor else []) ++ rows }
  let mask := rowMask base x.rows
  let last := lastRows x t.idx
  (out, opCount (modArray s core (fun _ =>
    { afterDrain a mask false with holder := if last then none else a.holder })) core 28 x.rows)

/-- The tile is the last of its rows' reduction: the rows drain (R111). -/
def drainsAt (x : Draught) (j : Nat) : Bool := (tileAt x j).2 + x.cols == matrixCols x

/-- ARRAY in compute mode: what is left of the tile runs, and at the end of the row block the rows drain (R111). -/
def doneCompute (s : State) (core d st : Nat) (x : Draught) (t : Tile) : Option State :=
  let a := (coreSt s core).array
  let left := x.cols - x.tileCols
  let pos := tilePos a x t.idx
  let segs := if left = 0 then some []
    else if x.resident then (if pos + left ≤ 32 * (a.bank x.bank).kblocks then some [(x.bank, pos, left)] else none)
    else if lastRows x t.idx then
      (if (a.bank x.bank).state == .stream && pos + left ≤ 32 * (a.bank x.bank).kblocks then some [(x.bank, pos, left)] else none)
    else segments a x.bank pos left
  match segs with
  | none => if x.resident then some (failSubmission s x.queue stFaultCommand) else none
  | some l =>
    match if drainsAt x t.idx then needTensor s core d st x true (drainFmt x.desc) else (some one32, s) with
    | (none, s) => some s
    | (some tOut, s) =>
    let s := match l with
      | sg :: _ => setFactor s core x t sg.1
      | [] => s
    let s := (l.foldl (fun (r : State × Nat) sg => (runSegment r.1 core x t sg.1 sg.2.1 sg.2.2 r.2, r.2 + sg.2.2))
      (s, x.tileCols)).1
    let s := if x.resident || !lastRows x t.idx || left = 0 then s
      else
        let k := (coreSt s core).array.bank x.bank
        if k.used + left = 32 * k.kblocks then
          modDraught (modArray s core (fun a => emptyTile a x.bank)) core d (fun y => { y with bank := otherBank y.bank })
        else modArray s core (fun a => a.withBank x.bank { k with used := k.used + left })
    let s := modDraught s core d (fun y => { y with tileCols := 0 })
    if drainsAt x t.idx then
      let r := drainTile s core x t tOut
      some (handOn (matrixWake r.2 core) core d st (some r.1))
    else some (handOn (matrixWake s core) core d st none)

/-- ELEMENT: which program of the draught a station applies (R169). -/
def programAt (x : Draught) (st : Nat) : List Byte :=
  (x.progs[((descChain x.desc).take st).countP (fun c => c == stELEMENT)]?).getD []

/-- ELEMENT (R169). -/
def doneElement (s : State) (core d st : Nat) (x : Draught) (t : Tile) : State :=
  let p := programAt x st
  let o := elemOrigin x st t.idx
  let s := opCount s core 25 (pgCount p * t.rows * t.cols)
  handOn s core d st (some (elementTile p (lsByte s core x.ctx 0) o.1 o.2 t))

/-! Reduce groups (R47, R49). -/

/-- The values that members name alike (R47). -/
def agreement (d : List Byte) : List Nat :=
  [dsMask d, dsRCount d, dsRLen d, dsRoot d, dsOp d, dsRows d, dsCols d, dsOutCols d, dsAcc d, dsCount d,
    bnat (bit (dsFlags d) 1), dsPlanes d, dsSlices d, dsSrcFmt d, dsLsFmt d] ++ (descChain d).take (descPos d stREDUCE)

/-- A member's tile reaches the root (R49): a tile sent again takes the place of the first, and one the root has combined
already is dropped. None: the group fails. -/
def joinRoot (root : Draught) (core : Nat) (x : Draught) (t : Tile) : Option Draught :=
  let own := addOnce root.members (dsRoot root.desc)
  let members := addOnce own core
  if agreement root.desc != agreement x.desc || dsRCount root.desc < members.length then none
  else
    let old := decide (t.idx < (stationOf root (descPos root.desc stREDUCE)).next) &&
      !root.peers.any (fun p => p.1 == core && p.2.1 == t.idx)
    let kept := root.peers.filter (fun p => !(p.1 == core && p.2.1 == t.idx))
    some { root with members := members, peers := if old then kept else kept ++ [(core, t.idx, t)] }

/-- REDUCE on a member that is not the root: its tile goes to the root and retires (R44, R49). -/
def doneMember (s : State) (core d st : Nat) (x : Draught) (t : Tile) : Option State :=
  match rootDraught s x with
  | none => none
  | some root =>
    match joinRoot root core x t with
    | none => some (failSubmission s x.queue stFaultCommand)
    | some r =>
      some (handOn (modDraught s (dsRoot x.desc) root.order (fun _ => r)) core d st none)

/-- Insertion by rising core. -/
def insertByCore (p : Nat × Tile) : List (Nat × Tile) → List (Nat × Tile)
  | [] => [p]
  | q :: t => if p.1 ≤ q.1 then p :: q :: t else q :: insertByCore p t

/-- REDUCE on the root: it takes tile t with those of REDUCE_COUNT members, its own included, in ascending core (R49). -/
def doneRoot (s : State) (core d st : Nat) (x : Draught) (t : Tile) : Option State :=
  let others := (x.peers.filter (fun p => p.2.1 == t.idx)).map (fun p => (p.1, p.2.2))
  if others.length + 1 < dsRCount x.desc then none
  else
    let ts := (others.foldl (fun l p => insertByCore p l) [(core, t)]).map Prod.snd
    (reduceTile (dsOp x.desc) ts).map (fun out =>
      let s := modDraught s core d (fun y => { y with peers := y.peers.filter (fun p => p.2.1 != t.idx) })
      handOn (opCount s core 20 out.2) core d st (some { out.1 with idx := t.idx }))

/-- The pages of the pieces of a destination at `base`: the piece, the offset in it, address and length. -/
def outSpans (base : Nat) (ps : List Piece) : List (Piece × Nat × Nat × Nat) :=
  (ps.map (fun p =>
    let at_ := base + p.span.1
    (pieces 65536 at_ p.span.2).map (fun r => (p, r.1 - at_, r.1, r.2)))).flatten

/-- The bytes of a piece that lie on one page, over what the page holds there. -/
def spanBytes (s : State) (p : Piece) (o pa n : Nat) : List Byte :=
  let old := match p with
    | .whole _ _ => []
    | .part _ _ _ _ _ => zeroBytes o ++ peek s pa n ++ zeroBytes (p.span.2 - o - n)
  sliceBytes (p.bytes old) o n

/-- A tile's bytes are written page by page from the first page that it has not written yet; earlier pages stay written (R254). False where
one waits for its translation, or failed. -/
def writeTile (s : State) (core d st : Nat) (x : Draught) (spans : List (Piece × Nat × Nat × Nat)) : Bool × State :=
  ((List.zip (List.range spans.length) spans).drop (partsOf (stationOf x st)).length).foldl (fun (r : Bool × State) p =>
    if !r.1 then r
    else
      let (piece, o, va, n) := p.2
      match xlate r.2 (.station core d st) x.ctx va 2 x.queue with
      | (none, s) => (false, s)
      | (some (pa, leaf), s) =>
        let m := pageWrite s x.ctx x.queue va pa leaf (spanBytes s piece o pa n)
        (m.ok, if m.ok then keepPart m.st core d st p.1 [] else m.st)) (true, s)

/-- STORE (R44, R58, R254): the tile's pieces are written in the destination's order. -/
def doneStore (s : State) (core d st : Nat) (x : Draught) (t : Tile) : State :=
  let o := outPlace x st t.idx
  match needTensor s core d st x true (dsDstFmt x.desc) with
  | (none, s) => s
  | (some tOut, s) =>
    let ps := outPieces x t o.1 o.2.1 o.2.2 tOut
    let sp := extent (ps.map Piece.span)
    match goodUse s x.ctx x.gen (dsDstHandle x.desc) [1] sp.1 sp.2 false true with
    | none => badHandle s x.queue x.ctx x.gen [dsDstHandle x.desc]
    | some e =>
      let r := writeTile s core d st x (outSpans (heBase e) ps)
      if r.1 then handOn r.2 core d st none else r.2

/-- STATION_TILE_DONE: a station finishes its tile (R48). -/
def execStationTileDone (core d st : Nat) (s : State) : Res :=
  needs (draughtAt s core d) "STATION_TILE_DONE" fun x =>
    let y := stationOf x st
    let who := Requester.station core d st
    let inp := if st = 0 then none else (stationOf x (st - 1)).outs.head?
    let or_ (o : Option State) : Res :=
      match o with
      | some s => .next s
      | none => .refused (.notEnabled "STATION_TILE_DONE")
    let fromTile (f : Tile → Option State) : Res := or_ (inp.bind f)
    if !y.busy || y.waits || y.stall.isSome || missing s who || !mayFinish s x.queue then
      .refused (.notEnabled "STATION_TILE_DONE")
    else
      match descStation x.desc st with
      | 0x1 => .next (doneLoad s core d st x y.next)
      | 0x8 => .next (doneLoad s core d st x y.next)
      | 0x2 => or_ (y.got.map (fun t => handOn s core d st (some t)))
      | 0x3 => if bankLoads x.desc then fromTile (fun t => some (doneBank s core d st x t))
          else fromTile (fun t => doneCompute s core d st x t)
      | 0x4 => fromTile (fun t => some (doneElement s core d st x t))
      | 0x5 => fromTile (fun t =>
          if core = dsRoot x.desc then doneRoot s core d st x t else doneMember s core d st x t)
      | 0x6 => fromTile (fun t => some (doneStore s core d st x t))
      | 0x7 => fromTile (fun t =>
          some (if modeOf (dsDstFmt x.desc) = 2 && x.tOut.isNone then sendTile s core d st x t else handOn s core d st none))
      | _ => .refused (.notEnabled "STATION_TILE_DONE")

end Sys2Proof.Machine
end

