-- ==== Sys2Proof/Machine/Cellar.lean ====
section
/-!
DEFINITION. Cellar engines (R178 to R207): entry to the queue, the start of each operation with its checks and its arithmetic,
completion, codebook fills and failures.
-/

namespace Sys2Proof.Machine

/-! Operands (R179, R184, R185). -/

/-- Where an operand lies. -/
inductive Place where
  | tile
  | scratch (a : Nat)
  | obj (va : Nat)
  deriving DecidableEq, Repr

/-- The place of an operand from its scratch flag, handle, object base and offset. -/
def placeOf (scr : Bool) (h base off : Nat) : Place :=
  if scr then .scratch off else if h = 0 then .tile else .obj (base + off)

/-- A is a table of which rows are named by indices (R200), and so is D. -/
def aTable (c : List Byte) : Bool := ccOp c == ocGATHER
def dTable (c : List Byte) : Bool := ccOp c == ocSCATTER

/-- Where an operand begins; a table, at the first byte of what holds it. -/
def placeA (c : CellCmd) : Place := placeOf (ccScrA c.cmd) (ccAH c.cmd) c.aBase (if aTable c.cmd then 0 else ccAO c.cmd)
def placeB (c : CellCmd) : Place := placeOf (ccScrB c.cmd) (ccBH c.cmd) c.bBase (ccBO c.cmd)
def placeD (c : CellCmd) : Place := placeOf (ccScrD c.cmd) (ccDH c.cmd) c.dBase (if dTable c.cmd then 0 else ccDO c.cmd)

/-- The offset of row 0 of a table; in a tile, its first byte. -/
def tableOff (p : Place) (off : Nat) : Nat := if p = .tile then 0 else off

/-- An operand's offset before the tile's steps: where its tensor header stands (R67, R183). -/
def headOff (off step : Nat) (c : CellCmd) : Nat := (off + 2 ^ 64 * (1 + c.tileIdx * step / 2 ^ 64) - c.tileIdx * step) % 2 ^ 64

/-- The bytes of A that a command may touch, from an offset on: all of the object for a table of rows (R200). -/
def rangeA (c : CellCmd) : Nat × Nat := if aTable c.cmd then (0, c.aSize) else (ccAO c.cmd, aLen c.cmd)

/-- The bytes of D that a command may touch. -/
def rangeD (c : CellCmd) : Nat × Nat := if dTable c.cmd then (0, c.dSize) else (ccDO c.cmd, dLen c.cmd)

/-- The ranges of objects that a command names: used, offset, length, object size, base, whether it is written. -/
def objRanges (c : CellCmd) : List (Nat × Nat × Nat × Nat × Bool) :=
  let x := c.cmd
  let op := ccOp x
  let one (used scr : Bool) (h off len size base : Nat) (w : Bool) : List (Nat × Nat × Nat × Nat × Bool) :=
    if used && !scr && h != 0 then [(off, len, size, base, w)] else []
  let head (used scr : Bool) (h fmt off step size base : Nat) : List (Nat × Nat × Nat × Nat × Bool) :=
    if used && modeOf fmt = 2 then one used scr h (headOff off step c + 2 ^ 64 - 64) 64 (size + 2 ^ 64) (base + 2 ^ 64) false else []
  one (usesA op) (ccScrA x) (ccAH x) (rangeA c).1 (rangeA c).2 c.aSize c.aBase false ++
    one (usesB op) (ccScrB x) (ccBH x) (ccBO x) (bLen x) c.bSize c.bBase false ++
    one (usesD op) (ccScrD x) (ccDH x) (rangeD c).1 (rangeD c).2 c.dSize c.dBase true ++
    head (op == ocMATVEC || op == ocDECODE) (ccScrA x) (ccAH x) (ccAF x) (ccAO x) (ccAStep x) c.aSize c.aBase ++
    head (op == ocMATVEC) (ccScrB x) (ccBH x) (ccBF x) (ccBO x) 0 c.bSize c.bBase ++
    head (op == ocMATVEC || op == ocDECODE) (ccScrD x) (ccDH x) (ccDF x) (ccDO x) (ccDStep x) c.dSize c.dBase

/-- A range lies in its object, and in bulk space (R179, R187). A header's offsets carry 2^64 so that one below zero shows. -/
def rangeInside (r : Nat × Nat × Nat × Nat × Bool) : Bool :=
  let carry := if 2 ^ 64 ≤ r.2.2.2.1 then 2 ^ 64 else 0
  decide (carry ≤ r.1) && decide (r.1 + r.2.1 ≤ r.2.2.1) && !cachedVa (r.2.2.2.1 - carry + (r.1 - carry))

/-- The virtual address of a range. -/
def rangeVa (r : Nat × Nat × Nat × Nat × Bool) : Nat :=
  let carry := if 2 ^ 64 ≤ r.2.2.2.1 then 2 ^ 64 else 0
  r.2.2.2.1 - carry + (r.1 - carry)

/-- The pages of a command's ranges that are still to be translated for its requester, in order (R242, R254): whether all are now, and the
pages so far. A page that misses is asked for, and the rest waits for it. -/
def mapPages (s : State) (who : Requester) (ctx q : Nat) (m : PageMap) (l : List (Nat × Bool)) : Bool × PageMap × State :=
  (l.drop m.done).foldl (fun (r : Bool × PageMap × State) p =>
    if !r.1 then r
    else
      match xlate r.2.2 who ctx p.1 (if p.2 then 2 else 1) q with
      | (some (pa, _), s) => (true, ⟨insert r.2.1.pages (p.1 / 65536) (pa / 65536), r.2.1.done + 1⟩, s)
      | (none, s) => (false, r.2.1, s)) (true, m, s)

/-- The pages of ranges of virtual addresses. -/
def pagesOf (l : List (Nat × Nat × Bool)) : List (Nat × Bool) :=
  (l.map (fun r => (pieces 65536 r.1 r.2.1).map (fun p => (p.1, r.2.2)))).flatten

/-- The requester of a command. -/
def cellRequester (s : State) (c : CellCmd) : Requester :=
  match c.core with
  | some k => .station k c.draught (((draughtAt s k c.draught).map (fun x => descPos x.desc stCELLAR)).getD 0)
  | none => .frontEnd c.queue

/-! Entry to the queue (R182). -/

/-- A waiting command may enter: room in the queue and within its source's limit, and its source neither stalls nor stops. -/
def canEnter (s : State) (st : Nat) (c : CellCmd) : Bool :=
  let queue := (cellar s st).queue
  let mine := queue.countP (fun x => x.core == c.core)
  mayRun s c.queue && decide (queue.length < 64) && decide (mine < if c.core.isSome then 8 else 16) && !attached s (cellRequester s c)

/-- CELLAR_COMMAND_ENQUEUE: the first waiting command that may enter does, once every page of its ranges is translated (R182,
R187, R242). -/
def execCellarCommandEnqueue (stack : Nat) (s : State) : Res :=
  match (cellar s stack).waiting.find? (canEnter s stack) with
  | none => .refused (.notEnabled "CELLAR_COMMAND_ENQUEUE")
  | some c =>
    let leave (s : State) : State := modCellar s stack (fun e => { e with waiting := e.waiting.erase c })
    if ccOp c.cmd = 0 || 10 < ccOp c.cmd || !(objRanges c).all rangeInside then
      .next (failSubmission (leave s) c.queue stFaultCommand)
    else
      match mapPages s (cellRequester s c) c.ctx c.queue c.maps (pagesOf ((objRanges c).map (fun r => (rangeVa r, r.2.1, r.2.2.2.2)))) with
      | (false, m, s) => .next (modCellar s stack (fun e => { e with
          waiting := e.waiting.map (fun x => if x = c then { c with maps := m } else x) }))
      | (true, m, s) => .next (modCellar (leave s) stack (fun e => { e with queue := e.queue ++ [{ c with maps := m }] }))

/-! Bytes of operands. -/

/-- The physical address of a virtual one of a command. -/
def physOf (c : CellCmd) (va : Nat) : Nat := (find c.maps.pages (va / 65536)).getD 0 * 65536 + va % 65536

/-- The physical pieces of a virtual range. -/
def physSpans (c : CellCmd) (va n : Nat) : List (Nat × Nat) := (pieces 65536 va n).map (fun p => (physOf c p.1, p.2))

/-- n bytes of a cellar engine's SRAM. -/
def sramRead (s : State) (st a n : Nat) : List Byte := (List.range n).map (fun i => getD 0#8 (cellar s st).sram (a + i))

/-- n bytes of an operand from offset o on. -/
def operandBytes (s : State) (st : Nat) (c : CellCmd) (p : Place) (o n : Nat) : List Byte :=
  match p with
  | .tile => sliceBytes ((c.tile.map Tile.bytes).getD []) o n
  | .scratch a => sramRead s st (a + o) n
  | .obj va => ((physSpans c (va + o) n).map (fun x => peek s x.1 x.2)).flatten

/-- The poisoned units that a read of an operand meets, by address (R206). -/
def operandPoison (s : State) (c : CellCmd) (p : Place) (o n : Nat) : List Nat :=
  match p with
  | .obj va => ((physSpans c (va + o) n).map (fun x => poisonedIn s x.1 x.2)).flatten.map (fun u => u * 32)
  | _ => []

/-- The unit of some spans in which an uncorrectable error lies: an event that does not name it leaves it free. -/
def errorIn (s : State) (spans : List (Nat × Nat)) : Option (Nat × State) :=
  let w := freshWord s
  (spans[w.1 % spans.length]?).map (fun p => errorUnit w.2 p.1 p.2)

/-- A command's writes at an operand, piece by piece; a scratch address a is written 2^48 + a. -/
def operandWrites (c : CellCmd) (p : Place) (o : Nat) (b : List Byte) : List (Nat × List Byte) :=
  match p with
  | .tile => []
  | .scratch a => [(2 ^ 48 + a + o, b)]
  | .obj va => ((physSpans c (va + o) b.length).foldl (fun (r : List (Nat × List Byte) × List Byte) x =>
      (r.1 ++ [(x.1, r.2.take x.2)], r.2.drop x.2)) ([], b)).1

/-- The tensor scale of an operand: its tile's, or that of its header (R67, R194). -/
def operandScale (s : State) (st : Nat) (c : CellCmd) (p : Place) (fmt off step base : Nat) (scr : Bool) : Nat :=
  if modeOf fmt ≠ 2 then one32
  else
    match p with
    | .tile => (c.tile.map Tile.tscale).getD one32
    | _ =>
      let h := headOff off step c - 64
      fieldLE (operandBytes s st c (if scr then .scratch h else .obj (base + h)) 0 4) 0 4

def scaleA (s : State) (st : Nat) (c : CellCmd) : Nat :=
  operandScale s st c (placeA c) (ccAF c.cmd) (ccAO c.cmd) (ccAStep c.cmd) c.aBase (ccScrA c.cmd)
def scaleB (s : State) (st : Nat) (c : CellCmd) : Nat :=
  operandScale s st c (placeB c) (ccBF c.cmd) (ccBO c.cmd) 0 c.bBase (ccScrB c.cmd)

/-- The tensor scale with which a result is encoded: the destination's header, or for an output tile T of A when A is in fine
mode, else 1.0 (R67). -/
def scaleD (s : State) (st : Nat) (c : CellCmd) : Nat :=
  match placeD c with
  | .tile => if modeOf (ccDF c.cmd) = 2 && modeOf (ccAF c.cmd) = 2 then scaleA s st c else one32
  | p => operandScale s st c p (ccDF c.cmd) (ccDO c.cmd) (ccDStep c.cmd) c.dBase (ccScrD c.cmd)

/-! Checks before a command starts (R179, R185, R187, R206, R222). -/

/-- n bytes of SRAM from a lie in slots that are scratch. -/
def scratchOk (s : State) (st a n : Nat) : Bool :=
  decide (a + n ≤ 8 * 524288) && (n == 0 ||
    ((List.range 8).filter (fun k => decide (a < (k + 1) * 524288) && decide (k * 524288 < a + n))).all
      (fun k => slotUse s st k == .scratch))

/-- The scratch ranges of a command, but for the rows of a table. -/
def scratchRanges (c : CellCmd) : List (Nat × Nat) :=
  let x := c.cmd
  let op := ccOp x
  (if usesA op && ccScrA x && !aTable x then [(ccAO x, aLen x)] else []) ++
    (if usesB op && ccScrB x then [(ccBO x, bLen x)] else []) ++
    (if usesD op && ccScrD x && !dTable x then [(ccDO x, dLen x)] else [])

/-- The physical spans of a command's object ranges, and whether each is written. -/
def objSpans (c : CellCmd) : List (Nat × Nat × Bool) :=
  ((objRanges c).map (fun r => (physSpans c (rangeVa r) r.2.1).map (fun x => (x.1, x.2, r.2.2.2.2)))).flatten

/-- Two lists of spans share a byte. -/
def spansMeet (a b : List (Nat × Nat)) : Bool :=
  a.any (fun x => b.any (fun y => decide (x.1 < y.1 + y.2) && decide (y.1 < x.1 + x.2)))

/-- The bytes of an operand as spans: scratch from 2^48 on. -/
def placeSpans (c : CellCmd) (p : Place) (n : Nat) : List (Nat × Nat) :=
  match p with
  | .tile => []
  | .scratch a => [(2 ^ 48 + a, n)]
  | .obj va => physSpans c va n

/-- What a command must keep to beyond its fields. -/
def cmdShapeOk (c : CellCmd) : Bool :=
  let x := c.cmd
  (ccOp x != ocCOPY || !spansMeet (placeSpans c (placeA c) (ccN x)) (placeSpans c (placeD c) (ccN x))) &&
    (ccOp x != ocCBLOAD || (match placeA c with
      | .obj va => physOf c va % 4096 == 0
      | _ => false)) &&
    (!decodesCb2 x || c.slotA.isSome)

/-- The status with which a command fails before it starts, if any. -/
def cmdFault (s : State) (st : Nat) (c : CellCmd) : Option Nat :=
  let spans := objSpans c
  if !ccFieldsOk c.cmd || !ccFormatsOk c.cmd || !ccLimitsOk c.cmd || !cmdShapeOk c ||
      !(scratchRanges c).all (fun r => scratchOk s st r.1 r.2) then some stFaultCommand
  else if !spans.all (fun x => stackOf x.1 == some st) then some stFaultCommand
  else if !spans.all (fun x => accessOk s c.ctx x.1 x.2.1 x.2.2) then some stFaultAccess
  else if !stackUp s st then some stFaultMemory
  else none

/-! Arithmetic (R194 to R201). -/

/-- Rows n at A_OFFSET + n × A_STRIDE, each of `len` bytes. -/
def rowsOfA (s : State) (st : Nat) (c : CellCmd) (n len : Nat) : List (List Byte) :=
  (List.range n).map (fun i => operandBytes s st c (placeA c) (i * ccStride c.cmd) len)

/-- The B vectors as rows of K elements: a row of the input tile, or at 64-byte boundaries (R194). -/
def rowsOfB (s : State) (st : Nat) (c : CellCmd) : List (List Byte) :=
  let len := rowBytes (ccBF c.cmd) 3 (ccK c.cmd)
  let pitch := if placeB c = .tile then len else bPitch c.cmd
  (List.range (ccCount c.cmd)).map (fun v => operandBytes s st c (placeB c) (v * pitch) len)

/-- The codebook of a command. -/
def bookOf (s : State) (st : Nat) (c : CellCmd) : Codebook8 :=
  match c.slotA with
  | some k => codeEntry s st k
  | none => fun _ => zeroBytes 8

/-- The weight budget of a MATVEC with its submission's level (R195, R196, R445). -/
def cellPlanes (s : State) (c : CellCmd) : Nat := reducedPlanes s c.queue (elemOf (ccAF c.cmd)) (mvPlanes c.cmd)

/-- A weight block with what multiplies its sub-sums: 1 × 2^0, or the significand of its scale (R196). -/
structure WBlock where
  blk : Block
  sig : Nat
  exp : Int
  deriving DecidableEq, Repr

/-- The blocks of a row of weights at P planes. -/
def weightBlocks (fmt p n : Nat) (cb : Codebook8) (b : List Byte) : List WBlock :=
  (chunksOf 32 (n / 32 + 1) (decodeRow fmt cb n b)).map (fun es => ⟨alignWeights (elemOf fmt) p es, 1, 0⟩)

/-- The blocks of a key-value row: integers with the significand and exponent of their scale (R196). -/
def kvBlocks (fmt p n : Nat) (b : List Byte) : List WBlock :=
  let el := elemOf fmt
  let u := runElemBytes el + 2
  (chunksOf u (ceilDiv n 32) b).map (fun r =>
    let es := unscaled el (runCodes el r)
    match (decodeElem fmtFP16 (fieldLE r (runElemBytes el) 2)).abs with
    | .fin _ m e =>
      if m = 0 then ⟨⟨0, List.replicate 32 0, List.replicate 32 1⟩, 0, 0⟩ else ⟨alignWeights el p es, m, e⟩
    | _ => ⟨⟨0, List.replicate 32 0, List.replicate 32 4⟩, 1, 0⟩)

/-- One block pair of a MATVEC (R77, R79, R80, R196): slices, then planes. -/
def pairInto (twosC : Bool) (p sl : Nat) (en : AccEntry × Nat) (w : WBlock) (x : Block) : AccEntry × Nat :=
  let en := ({ en.1 with special := joinSpecial en.1.special (blockSpecial w.blk x) }, en.2)
  if pairIdle w.blk x then en
  else
    (List.range sl).foldl (fun en i => (List.range p).foldl (fun (en : AccEntry × Nat) j =>
      let r := addContribution 48 en.1 (w.sig * subSum twosC p sl j i w.blk x) (w.blk.step + w.exp + x.step + j + 8 * i)
      (r.1, en.2 + r.2)) en) en

/-- One element of a product: a row's blocks with a vector's. -/
def dotBlocks (twosC : Bool) (p sl : Nat) (ws : List WBlock) (xs : List Block) : AccEntry × Nat :=
  (List.zip ws xs).foldl (fun en b => pairInto twosC p sl en b.1 b.2) (AccEntry.zero, 0)

/-- One element of a product with TRANS: column n of the rows, each term exact (R196). -/
def dotTrans (rows : List (List WBlock)) (xs : List Block) (n : Nat) : AccEntry × Nat :=
  (List.zip (List.range rows.length) rows).foldl (fun (en : AccEntry × Nat) r =>
    match r.2[n / 32]?, xs[r.1 / 32]? with
    | some w, some x =>
      let wk := (w.blk.kind[n % 32]?).getD 1
      let xk := (x.kind[r.1 % 32]?).getD 1
      let v := (w.blk.ints[n % 32]?).getD 0 * (x.ints[r.1 % 32]?).getD 0 * w.sig
      let e := { en.1 with special := joinSpecial en.1.special (pairSpecial wk xk) }
      if v = 0 then (e, en.2)
      else let a := addContribution 48 e v (w.blk.step + w.exp + x.step); (a.1, en.2 + a.2)
    | _, _ => en) (AccEntry.zero, 0)

/-- The entries of a MATVEC, vector by vector, and its ACC_INEXACT events (R194 to R196). -/
def matvecEntries (s : State) (st : Nat) (c : CellCmd) : List (List AccEntry) × Nat :=
  let x := c.cmd
  let af := ccAF x
  let p := cellPlanes s c
  let sl := mvSlices x
  let twosC := isTwos (elemOf af)
  let xs := (rowsOfB s st c).map (fun b =>
    (chunksOf 32 (ccK x / 32 + 1) (decodeRow (ccBF x) (fun _ => []) (ccK x) b)).map (alignActs (elemOf (ccBF x)) sl))
  let rows := (rowsOfA s st c (if ccTrans x then ccK x else ccN x) (aRow x)).map (fun b =>
    if isKv af then kvBlocks af p (if ccTrans x then ccN x else ccK x) b else weightBlocks af p (ccK x) (bookOf s st c) b)
  let out := xs.map (fun v =>
    if ccTrans x then (List.range (ccN x)).map (dotTrans rows v) else rows.map (fun w => dotBlocks twosC p sl w v))
  (out.map (fun l => l.map Prod.fst), out.flatten.foldl (fun n e => n + e.2) 0)

/-- The bytes of a MATVEC's results (R81, R82, R195). -/
def matvecBytes (s : State) (st : Nat) (c : CellCmd) (es : List (List AccEntry)) : List Byte :=
  let d := ccDF c.cmd
  let f := factorOf (scaleA s st c) (scaleB s st c)
  if d = fmtACC48 then rawHeader f ++ (es.map (fun l => (l.map (rawEntry false)).flatten)).flatten
  else (es.map (fun l => encodeRow d (tensorMag (scaleD s st c)) (l.map (entryValue (decodeElem fmtFP64 f))))).flatten

/-- One row of DECODE or KVPACK: kept when the format is its own and its scale the same, else converted once (R82, R198 to
R200). CB2 decoded to FP8 E4M3 MX keeps the codes of its entries and its scales (R64). -/
def convertRow (s : State) (st : Nat) (c : CellCmd) (b : List Byte) : List Byte :=
  let x := c.cmd
  let tA := scaleA s st c
  let tD := scaleD s st c
  if ccAF x = ccDF x && (modeOf (ccAF x) != 2 || tA == tD) then moveRuns (ccAF x) b
  else if ccAF x = fmtCB2 && ccDF x = 0x24 then (cb2Runs (bookOf s st c) (ccK x) b).flatten
  else
    let vs := (decodeRow (ccAF x) (bookOf s st c) (ccK x) b).map (fun e => applyTensor (ccAF x) tA e.v)
    encodeRow (ccDF x) (tensorMag tD) vs

/-- The indices of GATHER and SCATTER. -/
def indices (s : State) (st : Nat) (c : CellCmd) : List Int :=
  let b := operandBytes s st c (placeB c) 0 (4 * ccN c.cmd)
  (List.range (ccN c.cmd)).map (fun i => signedOf 32 (fieldLE b (4 * i) 4))

/-- The offset of table row i in what holds the table, where the row lies inside its `size` bytes; row 0 is at `off` (R200). -/
def tableRow (c : CellCmd) (size off : Nat) (i : Int) : Option Nat :=
  let o := (off : Int) + i * (ccStride c.cmd : Int)
  if o < 0 || (size : Int) < o + ccK c.cmd then none else some o.toNat

/-- The bytes of what holds a table. -/
def tableSize (p : Place) (size tileLen : Nat) : Nat :=
  match p with
  | .tile => tileLen
  | .scratch _ => 8 * 524288
  | .obj _ => size

/-- The bytes of a command's output tile. -/
def outTileLen (s : State) (c : CellCmd) : Nat :=
  ((c.core.bind (fun k => draughtAt s k c.draught)).map (fun d => tileBytes (dsLsFmt d.desc) d.rows d.cols)).getD 0

/-- The rows that GATHER reads and SCATTER writes, in list order: the offset of each in what holds the table, or none outside it. -/
def tableRows (s : State) (st : Nat) (c : CellCmd) : List (Option Nat) :=
  let x := c.cmd
  let row := if aTable x then
      tableRow c (tableSize (placeA c) c.aSize ((c.tile.map (fun t => t.bytes.length)).getD 0)) (tableOff (placeA c) (ccAO x))
    else tableRow c (tableSize (placeD c) c.dSize (outTileLen s c)) (tableOff (placeD c) (ccDO x))
  (indices s st c).map row

/-- The scratch that the rows of a command's table lie in. -/
def tableScratch (s : State) (st : Nat) (c : CellCmd) : List (Nat × Nat) :=
  if (aTable c.cmd && ccScrA c.cmd) || (dTable c.cmd && ccScrD c.cmd) then
    (tableRows s st c).filterMap (fun o => o.map (fun a => (a, ccK c.cmd)))
  else []

/-- Adjacent pairs added, then pairs of pairs, each addition rounded once (R201). -/
def pairSums (fmt : Nat) : List Num → List Num
  | a :: b :: t => decodeElem fmt (encodeElem fmt (addNum a b)) :: pairSums fmt t
  | l => l

/-- The fixed tree over up to 16 inputs. -/
def treeSum (fmt : Nat) (l : List Num) : Num := (pairSums fmt (pairSums fmt (pairSums fmt (pairSums fmt l)))).headD .zero

/-- One element of REDUCE from its codes (R172, R201). -/
def reduceCode (fmt op : Nat) (cs : List Nat) : Nat :=
  match cs with
  | [] => 0
  | a :: t =>
    if fmt = fmtINT32 then
      match op with
      | 0 => t.foldl (addW 32) a
      | 1 => t.foldl (maxW true 32) a
      | _ => t.foldl (minW true 32) a
    else
      let vs := cs.map (decodeElem fmt)
      encodeElem fmt (if op = 0 then treeSum fmt vs else combineNums op vs)

/-- The bytes of REDUCE's result and its ACC_INEXACT events (R201). -/
def reduceBytes (s : State) (st : Nat) (c : CellCmd) : List Byte × Nat :=
  let x := c.cmd
  let k := ccK x
  let f := ccAF x
  let rows := rowsOfA s st c (ccCount x) (tileBytes f 1 k)
  if f = fmtACC48 then
    let same := rows.all (fun r => fieldLE r 0 8 == fieldLE (rows.headD []) 0 8)
    let one (i : Nat) : AccEntry × Nat :=
      match rows.map (fun r => readRaw false (sliceBytes r (16 + 8 * i) 8)) with
      | [] => (AccEntry.zero, 0)
      | a :: t => if same then t.foldl (fun acc e => let r := combineEntries 48 acc.1 e; (r.1, acc.2 + r.2)) (a, 0)
          else (⟨0, 0, 3⟩, 0)
    let es := (List.range k).map one
    (sliceBytes (rows.headD []) 0 16 ++ (es.map (fun e => rawEntry false e.1)).flatten, es.foldl (fun n e => n + e.2) 0)
  else
    let w := elemBits (elemOf f) / 8
    (((List.range k).map (fun i => toLE w (reduceCode f (ccArg x) (rows.map (fun r => fieldLE r (w * i) w))))).flatten, 0)

/-! The start of a command (R188). -/

/-- A unit of the engine. -/
def unitBusy (e : CellarSt) (mv : Bool) : Bool := if mv then e.mv.isSome else e.move.isSome

/-- A command of a context of which a submission is frozen for its dump is held (R205, R471). -/
def cmdHeld (s : State) (c : CellCmd) : Bool := anyValue s.subs (fun _ u => u.ctx == c.ctx && u.phase == .frozen)

/-- The command at the queue head, when it has an operation and may start (R188). -/
def headCmd (s : State) (st op : Nat) : Option CellCmd :=
  let e := cellar s st
  match e.queue with
  | [] => none
  | c :: _ =>
    if ccOp c.cmd = op && !cmdHeld s c && (!ccFence c.cmd || (e.mv.isNone && e.move.isNone && e.fill.isNone && e.fillWaits.isEmpty)) then some c
    else none

/-- The head leaves the queue. -/
def popHead (s : State) (st : Nat) : State := modCellar s st (fun e => { e with queue := e.queue.drop 1 })

/-- The source of a command still waits for it (R205). -/
def cmdAlive (s : State) (c : CellCmd) : Bool :=
  match c.core with
  | none => s.front.feCopies.any (fun f => f.id == c.draught && f.onStack.isSome)
  | some k =>
    match draughtAt s k c.draught with
    | none => false
    | some x => let y := stationOf x (descPos x.desc stCELLAR); y.waits && y.next == c.tileIdx

/-- A command fails: it has no effect, and its submission its status (R179, R187). -/
def failCmd (s : State) (st : Nat) (c : CellCmd) (status : Nat) : State :=
  celCount (if cmdAlive s c then failSubmission s c.queue status else s) st 7 1

/-- Reads of a command meet uncorrectable errors (R206, R223): its submission fails first. -/
def cmdPoison (s : State) (st : Nat) (c : CellCmd) (units : List Nat) : State :=
  units.foldl stackUncorrectable (failCmd s st c stFaultMemory)

/-- The spans of its operands that a command reads, by operand: (place, offset, length). -/
def readSpans (s : State) (st : Nat) (c : CellCmd) : List (Place × Nat × Nat) :=
  let x := c.cmd
  let rows (n len : Nat) : List (Place × Nat × Nat) := (List.range n).map (fun i => (placeA c, i * ccStride x, len))
  let b : List (Place × Nat × Nat) := if usesB (ccOp x) then [(placeB c, 0, bLen x)] else []
  match ccOp x with
  | 0x1 => rows (if ccTrans x then ccK x else ccN x) (aRow x) ++ b
  | 0x2 => rows (ccN x) (rowBytes (ccAF x) 3 (ccK x))
  | 0x3 => rows (ccN x) (rowBytes (ccAF x) 3 (ccK x))
  | 0x4 => b ++ (tableRows s st c).filterMap (fun o => o.map (fun a => (placeA c, a, ccK x)))
  | 0x5 => b ++ rows (ccN x) (ccK x)
  | 0x8 => rows (ccCount x) (tileBytes (ccAF x) 1 (ccK x))
  | 0x6 => []
  | _ => (placeA c, 0, aLen x) :: b

/-- A command starts on its unit: checked, read, and worked out; it is delivered and written as it completes. -/
def startCmd (st op : Nat) (mv : Bool) (name : String) (work : State → CellCmd → CellExec × State) (s : State) : Res :=
  match headCmd s st op with
  | none => .refused (.notEnabled name)
  | some c =>
    if unitBusy (cellar s st) mv then .refused (.notEnabled name)
    else
      match cmdFault s st c with
      | some status => .next (failCmd (popHead s st) st c status)
      | none =>
        match ((readSpans s st c).map (fun r => operandPoison s c r.1 r.2.1 r.2.2)).flatten.eraseDups with
        | [] =>
          let rows := tableScratch s st c
          if !rows.all (fun r => scratchOk s st r.1 r.2) then .next (failCmd (popHead s st) st c stFaultCommand)
          else
            let r := work (popHead s st) c
            let e' := { r.1 with scratch := scratchRanges c ++ rows }
            .next (modCellar r.2 st (fun e => if mv then { e with mv := some e' } else { e with move := some e' }))
        | bad => .next (cmdPoison (popHead s st) st c bad)

/-- What a command delivers: a tile, or writes at D. -/
def deliver (c : CellCmd) (b : List Byte) (tscale inexact : Nat) : CellExec :=
  ⟨c, if placeD c = .tile then b else [], operandWrites c (placeD c) 0 b, tscale, inexact, []⟩

/-- MATVEC (R194 to R196). -/
def execMatvec (stack : Nat) (s : State) : Res :=
  startCmd stack ocMATVEC true "MATVEC" (fun s c =>
    let r := matvecEntries s stack c
    let x := c.cmd
    let s := celCount s stack 1 (ccN x * ccK x)
    (deliver c (matvecBytes s stack c r.1) (if modeOf (ccDF x) = 2 then scaleD s stack c else one32) r.2, s)) s

/-- DECODE (R200). -/
def execDecode (stack : Nat) (s : State) : Res :=
  startCmd stack ocDECODE false "DECODE" (fun s c =>
    let x := c.cmd
    let rows := rowsOfA s stack c (ccN x) (rowBytes (ccAF x) 3 (ccK x))
    (deliver c (rows.map (convertRow s stack c)).flatten (if modeOf (ccDF x) = 2 then scaleD s stack c else one32) 0,
      celCount s stack 2 (ccN x * ccK x))) s

/-- KVPACK (R198). -/
def execKvpack (stack : Nat) (s : State) : Res :=
  startCmd stack ocKVPACK false "KVPACK" (fun s c =>
    let x := c.cmd
    let rows := rowsOfA s stack c (ccN x) (rowBytes (ccAF x) 3 (ccK x))
    (deliver c (rows.map (convertRow s stack c)).flatten one32 0, celCount s stack 3 (ccN x * ccK x / 32))) s

/-- GATHER (R200): a row outside the object reads zero. -/
def execGather (stack : Nat) (s : State) : Res :=
  startCmd stack ocGATHER false "GATHER" (fun s c =>
    let x := c.cmd
    let row (o : Option Nat) : List Byte :=
      match o with
      | some o => operandBytes s stack c (placeA c) o (ccK x)
      | none => zeroBytes (ccK x)
    (deliver c ((tableRows s stack c).map row).flatten one32 0, celCount s stack 4 (2 * ccN x * ccK x))) s

/-- SCATTER (R200): rows in list order; a row outside the object writes nothing. A_STRIDE is between the rows of A and between those of
the table (R185, R200; DEDUCED, log entry 51). -/
def execScatter (stack : Nat) (s : State) : Res :=
  startCmd stack ocSCATTER false "SCATTER" (fun s c =>
    let x := c.cmd
    let rows := (List.zip (List.range (ccN x)) (tableRows s stack c)).filterMap (fun r =>
      r.2.map (fun o => (o, operandBytes s stack c (placeA c) (r.1 * ccStride x) (ccK x))))
    let tile := rows.foldl (fun b r => overlayBytes b r.1 r.2) (zeroBytes (outTileLen s c))
    (⟨c, if placeD c = .tile then tile else [], (rows.map (fun r => operandWrites c (placeD c) r.1 r.2)).flatten, one32, 0, []⟩,
      celCount s stack 4 (2 * ccN x * ccK x))) s

/-- CELLAR_FILL (R200): the pattern in B_OFFSET, N ÷ 8 times. -/
def execCellarFill (stack : Nat) (s : State) : Res :=
  startCmd stack ocFILL false "CELLAR_FILL" (fun s c =>
    let n := ccN c.cmd
    (deliver c ((List.replicate (n / 8) (toLE 8 (ccBO c.cmd))).flatten) one32 0, celCount s stack 4 n)) s

/-- CELLAR_COPY (R200). -/
def execCellarCopy (stack : Nat) (s : State) : Res :=
  startCmd stack ocCOPY false "CELLAR_COPY" (fun s c =>
    let n := ccN c.cmd
    (deliver c (operandBytes s stack c (placeA c) 0 n) one32 0, celCount s stack 4 (2 * n))) s

/-- CELLAR_REDUCE (R201). -/
def execCellarReduce (stack : Nat) (s : State) : Res :=
  startCmd stack ocREDUCE false "CELLAR_REDUCE" (fun s c =>
    let x := c.cmd
    let r := reduceBytes s stack c
    (deliver c r.1 one32 r.2, celCount s stack 4 ((ccCount x + 1) * tileBytes (ccAF x) 1 (ccK x)))) s

/-! Results (R184, R189, R205). -/

/-- The result record (R189); CYCLES is a measured time (log entry 9). -/
def resultRecord (c : CellCmd) (cycles inexact : Nat) : List Byte :=
  let cb := match c.slotA with
    | some _ => if decodesCb2 c.cmd then c.cbA else 0xFF
    | none => 0xFF
  toLE 1 0 ++ toLE 1 cb ++ zeroBytes 2 ++ toLE 4 (if cb = 0xFF then 0 else c.gen.toNat) ++ toLE 4 (min cycles 0xFFFFFFFF) ++
    toLE 4 (min inexact 0xFFFFFFFF)

/-- The tile that goes back to a CELLAR station (R184). -/
def resultTile (x : Draught) (e : CellExec) (record : List Byte) : Tile :=
  let ls := dsLsFmt x.desc
  { idx := e.cmd.tileIdx, fmt := ls, layout := 0, rows := x.rows, cols := x.cols, tscale := e.tscale
    bytes := if dTile e.cmd.cmd then e.result else sliceBytes record 0 (tileBytes ls x.rows x.cols) }

/-- A command's result reaches its source: the station that waits for it, or the front-end command it is (R182, R205). A
station that has stopped discards it. -/
def returnResult (s : State) (e : CellExec) : State :=
  let c := e.cmd
  match c.core with
  | none =>
    s.withFront { s.front with feCopies := s.front.feCopies.filter (fun f => !(f.id == c.draught && f.onStack.isSome)) }
  | some k =>
    match draughtAt s k c.draught with
    | none => s
    | some x =>
      let t := freshTime s
      modStation t.2 k c.draught (descPos x.desc stCELLAR) (fun y =>
        if y.waits && y.next = c.tileIdx then { y with got := some (resultTile x e (resultRecord c t.1 e.inexact)), waits := false } else y)

/-- Bytes written to SRAM. -/
def sramWrite (s : State) (st a : Nat) (b : List Byte) : State :=
  modCellar s st (fun e => { e with sram := putBytes e.sram a b })

/-- One write of a command. -/
def cellWrite (st : Nat) (s : State) (w : Nat × List Byte) : State :=
  if 2 ^ 48 ≤ w.1 then sramWrite s st (w.1 - 2 ^ 48) w.2
  else
    settleDue (devWrite s w.1 w.2)

/-- CBARM: at the queue head it sets or clears the arm flag (R188, R192). -/
def execCbarm (stack : Nat) (s : State) : Res :=
  match headCmd s stack ocCBARM with
  | none => .refused (.notEnabled "CBARM")
  | some c =>
    match cmdFault s stack c with
    | some status => .next (failCmd (popHead s stack) stack c status)
    | none =>
      .next (returnResult (modId (popHead s stack) stack (ccCount c.cmd) (fun i => { i with armed := ccArm c.cmd }))
        ⟨c, [], [], one32, 0, []⟩)

/-! Codebooks (R190 to R193, R206). -/

/-- The highest-numbered scratch slot that no executing command uses as scratch (R191, R207). -/
def scratchSlot (s : State) (st : Nat) : Option Nat :=
  ((List.range 8).filter (fun k => slotUse s st k == .scratch)).getLast?

/-- An executing command uses a slot as scratch (R207). -/
def scratchInUse (s : State) (st slot : Nat) : Bool :=
  ((cellar s st).mv.toList ++ (cellar s st).move.toList).any (fun e =>
    e.scratch.any (fun r => decide (r.1 < (slot + 1) * 524288) && decide (slot * 524288 < r.1 + r.2)))

/-- The slot that a fill of an identifier would take now: the one it fills already, else a scratch one. -/
def fillSlot (s : State) (st id : Nat) : Option Nat :=
  match (codebook s st id).shadow with
  | some k => some k
  | none => scratchSlot s st

/-- A fill of an identifier is running or over: its shadow. -/
def fillState (i : Codebook) : Nat :=
  if i.active.isSome then 4 else 1

/-- The fill of a command starts into a slot (R191, R192). A running fill of the same identifier is restarted. -/
def beginFill (s : State) (st slot : Nat) (c : CellCmd) : State :=
  let id := ccCount c.cmd
  let s := modCellar s st (fun e => { e with
    slots := setAt e.slots slot (.generation id)
    fill := some ⟨c, [], [], one32, 0, []⟩ })
  modId s st id (fun i => { i with shadow := some slot, state := fillState i })

/-- The fill path is free for a command: nothing fills, or the same identifier does and starts again (R191). -/
def fillFree (s : State) (st : Nat) (c : CellCmd) : Bool :=
  match (cellar s st).fill with
  | none => true
  | some e => ccCount e.cmd.cmd == ccCount c.cmd

/-- The first waiting fill starts, or fails where it can find no slot, and the fill of its identifier that it replaces is over (R191, R207).
None while it must wait: for the fill path, for a RETIRING slot, or for a command that uses its slot as scratch. -/
def fillStep (s : State) (st : Nat) : Option State :=
  match (cellar s st).fillWaits with
  | [] => none
  | c :: rest =>
    let id := ccCount c.cmd
    let left := modCellar s st (fun e => { e with fillWaits := rest })
    if !fillFree s st c then none
    else
      match fillSlot s st id with
      | none =>
        if (List.range 8).any (fun k => slotUse s st k == .retiring) then none else some (failCmd left st c stFaultCommand)
      | some slot =>
        if (codebook s st id).shadow.isNone && scratchInUse s st slot then none
        else
          some (match (cellar s st).fill with
            | some e => returnResult (beginFill left st slot c) e
            | none => beginFill left st slot c)

/-- Waiting fills start in order, as long as the first can. -/
def fillSteps (st : Nat) : Nat → State → State
  | 0, s => s
  | n + 1, s =>
    match fillStep s st with
    | some t => fillSteps st n t
    | none => s

/-- Waiting fills of a stack start (R191, R207). -/
def fillNext (s : State) (st : Nat) : State := fillSteps st (cellar s st).fillWaits.length s

/-- CBLOAD: it passes to the fill path at the queue head (R188, R191). The command it restarts completes. -/
def execCbload (stack : Nat) (s : State) : Res :=
  match headCmd s stack ocCBLOAD with
  | none => .refused (.notEnabled "CBLOAD")
  | some c =>
    match cmdFault s stack c with
    | some status => .next (failCmd (popHead s stack) stack c status)
    | none => .next (fillNext (modCellar (popHead s stack) stack (fun e => { e with fillWaits := e.fillWaits ++ [c] })) stack)

/-- CODEBOOK_FILL_DONE: the image is in the shadow's slot, and the identifier READY or ACTIVE_READY (R191, R192). An
uncorrectable error of the image ends the fill without it (R206). -/
def execCodebookFillDone (stack : Nat) (err : Ecc) (s : State) : Res :=
  needs (cellar s stack).fill "CODEBOOK_FILL_DONE" fun e =>
    let c := e.cmd
    let id := ccCount c.cmd
    let s := modCellar s stack (fun e => { e with fill := none })
    let r : List Nat × State := match err, placeA c with
      | .uncorrectable, .obj va => ((errorIn s (physSpans c va 524288)).map (fun u => ([u.1], u.2))).getD ([], s)
      | _, p => (operandPoison s c p 0 524288, s)
    let s := r.2
    match (codebook s stack id).shadow with
    | none => .next (fillNext s stack)
    | some slot =>
      match r.1 with
      | u :: bad =>
        let s := modCellar s stack (fun e => { e with slots := setAt e.slots slot .scratch })
        let s := modId s stack id (fun i => { i with shadow := none, state := if i.active.isSome then 3 else 0 })
        .next (fillNext (cmdPoison s stack c (u :: bad)) stack)
      | [] =>
        let s := match err with
          | .corrected => stackCorrected s stack
          | _ => s
        let s := sramWrite s stack (slot * 524288) (operandBytes s stack c (placeA c) 0 524288)
        let s := modId s stack id (fun i => { i with state := if i.active.isSome then 5 else 2 })
        .next (fillNext (returnResult (celCount s stack 4 524288) e) stack)

/-- The commands and draughts bound to a slot, those of pre-empted submissions among them, meet its failure (R206). -/
def failBound (s : State) (st slot : Nat) : State :=
  let e := cellar s st
  let cmds := (e.queue ++ e.waiting ++ (e.mv.toList ++ e.move.toList).map CellExec.cmd).filter (fun c => c.slotA == some slot)
  let here := (s.cores.map (fun k => k.2.draughts)).flatten
  let saved := (s.ctxs.map (fun x => (x.2.saved.map SavedCore.draughts).flatten)).flatten
  let draughts := (here ++ saved).filter (fun d => d.boundTo st slot)
  let s := modCellar s st (fun e => { e with
    mv := e.mv.filter (fun x => x.cmd.slotA != some slot)
    move := e.move.filter (fun x => x.cmd.slotA != some slot) })
  (cmds.map CellCmd.queue ++ draughts.map Draught.queue).eraseDups.foldl (fun s q => failSubmission s q stFaultMemory) s

/-- CODEBOOK_FAIL: an uncorrectable error of a generation (R206). -/
def codebookFail (s : State) (st slot : Nat) : State :=
  let s := orReg s (offCel st + 8) 4
  let s := failBound s st slot
  match ((cellar s st).slots[slot]?).getD .scratch with
  | .generation id =>
    let s := modCellar s st (fun e => { e with slots := setAt e.slots slot .retiring })
    if (codebook s st id).active = some slot then
      modId s st id (fun i => { i with active := none, state := if i.state = 4 then 1 else if i.state = 5 then 2 else 6 })
    else s
  | _ => s

/-- A corrected error of the SRAM (R206, R208). -/
def sramCorrected (s : State) (st : Nat) : State := countHigh (orReg s (offCel st + 8) 2) (offCel st + 8)

/-- An armed switch of an identifier whose fill has completed is made (R192). -/
def switchId (st : Nat) (s : State) (id : Nat) : State :=
  let i := codebook s st id
  if i.armed && (i.state == 2 || i.state == 5) then
    let s := match i.active with
      | some k => modCellar s st (fun e => { e with slots := setAt e.slots k .retiring })
      | none => s
    modId s st id (fun i => { i with active := i.shadow, shadow := none, armed := false, state := 3, gen := i.gen + 1 })
  else s

/-- Every armed codebook switch (R25, R192), and fills that waited for a slot. -/
def switchCodebooks (s : State) : State :=
  (s.cellars.map Prod.fst).foldl (fun s st => fillNext ((List.range 8).foldl (switchId st) s) st) s

/-- Codebooks and scratch as a stack passes to another partition (R190): generation counts are never reused. -/
def resetCodebooks (s : State) (st : Nat) : State :=
  modCellar s st (fun e => { e with
    slots := List.replicate 8 .scratch
    ids := e.ids.map (fun i => { Codebook.reset with gen := i.gen })
    fill := none, fillWaits := [] })

/-! Completion (R188, R206). -/

/-- A command leaves its unit and its writes are made, its result delivered. -/
def completeCmd (s : State) (st : Nat) (e : CellExec) : State :=
  let s := e.writes.foldl (cellWrite st) s
  let s := if ccOp e.cmd.cmd = ocMATVEC then celCount s st 0 1 else s
  fillNext (returnResult (celCount s st 6 e.inexact) e) st

/-- CELLAR_COMMAND_COMPLETE (R188, R189, R206): what the command met decides whether it delivers. -/
def execCellarCommandComplete (stack : Nat) (unit : CellarUnit) (err : CellarError) (s : State) : Res :=
  let cur := match unit with
    | .matvec => (cellar s stack).mv
    | .move => (cellar s stack).move
  needs cur "CELLAR_COMMAND_COMPLETE" fun e =>
    let c := e.cmd
    let s0 := modCellar s stack (fun k => match unit with
      | .matvec => { k with mv := none }
      | .move => { k with move := none })
    let usesSram := c.slotA.isSome || !e.scratch.isEmpty
    match err with
    | .none => .next (completeCmd s0 stack e)
    | .sramCorrected => enabled usesSram "CELLAR_COMMAND_COMPLETE" (completeCmd (sramCorrected s0 stack) stack e)
    | .sramUncorrectable =>
      match c.slotA with
      | some slot => .next (fillNext (failCmd (codebookFail s stack slot) stack c stFaultMemory) stack)
      | none => enabled usesSram "CELLAR_COMMAND_COMPLETE"
          (fillNext (failCmd (orReg s0 (offCel stack + 8) 4) stack c stFaultMemory) stack)
    | .dramUncorrectable =>
      match errorIn s0 ((readSpans s stack c).map (fun r => match r.1 with
        | .obj va => physSpans c (va + r.2.1) r.2.2
        | _ => [])).flatten with
      | some u => .next (fillNext (cmdPoison u.2 stack c [u.1]) stack)
      | none => .refused (.notEnabled "CELLAR_COMMAND_COMPLETE")

end Sys2Proof.Machine
end

