-- ==== Sys2Proof/Machine/Walks.lean ====
section
/-!
DEFINITION. The commands of translation: walks (R245, R248), fault records and responses (R250 to R253), invalidations
(R257 to R259).
-/

namespace Sys2Proof.Machine

/-- WALK_START: the oldest miss of a die takes a walker, or joins the walk of its context and page (R248). -/
def execWalkStart (die : Nat) (s : State) : Res :=
  let s := enterMisses s die
  match missesOf s die with
  | [] => .refused (.notEnabled "WALK_START")
  | m :: rest =>
    let same (w : Miss) : Bool := w.ctx == m.ctx && samePage w.va m.va
    let ws := walksOf s die
    if ws.any same then
      .next (setWalks (setMisses s die rest) die
        (ws.map (fun w => if same w then { w with reqs := w.reqs ++ m.reqs } else w)))
    else if ws.length < 16 then
      .next (dieEvent (setWalks (setMisses s die rest) die (ws ++ [{ m with nocache := false }])) die 0x80 (some m.ctx) 1)
    else .refused (.notEnabled "WALK_START")

/-- The result of a walk for one of its requesters (R245, R248); after an invalidation no cache takes it, and it is the request's alone
(R257). -/
def walkDeliver (m : Miss) (ch : Chain) (s : State) (r : MissReq) : State :=
  match judgeChain s r.who r.va r.acc r.rt ch with
  | .ok leaf block =>
    let e : TlbEntry := ⟨m.ctx, r.va / 65536 * 65536, block, leaf⟩
    let s := if m.nocache then s.withTrans { s.trans with given := s.trans.given ++ [⟨r.who, r.queue, e⟩] } else fillPath s r.who e
    releaseReq (touchStack s m.ctx (leafPa leaf block r.va)) r.who
  | o => deliverOutcome s m.ctx r.va r o

/-- The walk completes a translation for one of its requesters. -/
def walkServes (ch : Chain) (s : State) (r : MissReq) : Bool :=
  match judgeChain s r.who r.va r.acc r.rt ch with
  | .ok _ _ => true
  | _ => false

/-- WALK_COMPLETE: a walk of a die ends; its entries fill the caches when it completes a translation, unless an invalidation was accepted
while it ran (R245, R247, R248, R257). -/
def execWalkComplete (die i : Nat) (s : State) : Res :=
  needs ((walksOf s die)[i]?) "WALK_COMPLETE" fun m =>
    let w := walk s die m.ctx m.va
    let s := histogram (setWalks s die (removeAt (walksOf s die) i)) (44 + die)
    let s := if m.nocache || !m.reqs.any (walkServes w.1 s) then s else w.2.foldl (fun s l => fillWalk s die m.ctx m.va l) s
    .next (chainPoison (m.reqs.foldl (walkDeliver m w.1) s) w.1)

/-- A token leaves. -/
def dropToken (s : State) (t : Token) : State :=
  s.withTrans { s.trans with tokens := s.trans.tokens.filter (fun k => k.token != t.token) }

/-- A token is free: the requesters attached to it, and those that wait for a token, repeat their access (R250, R252). -/
def freeToken (s : State) (t : Token) : State :=
  retryWaiting (t.who.foldl (fun s w => releaseReq s w.1) (dropToken s t))

/-- FAULT_RECORD_WRITE: the oldest waiting record is written at HEAD, HEAD advances, and the interrupt is raised (R251).
The token of a fabric-ingress fault is free once its record is written (R376). -/
def execFaultRecordWrite (s : State) : Res :=
  match s.trans.records with
  | [] => .refused (.notEnabled "FAULT_RECORD_WRITE")
  | b :: rest =>
    if bit (reg s offFaultCfg) 31 && !faultRingFull s then
      let head := reg s offFaultHead
      let s := hostPost s 0 (regPair s offFaultBase + head % 2 ^ faultRingLog2 s * 64) b
      let s := setReg (s.withTrans { s.trans with records := rest }) offFaultHead ((head + 1) % 2 ^ 32)
      let s := if bit (reg s offFaultCfg) 30 then sendMsix s 0 0 else s
      let s := if fieldLE b 0x08 1 = 0 && fieldLE b 0x0B 1 = 5 then
          (s.trans.tokens.filter (fun t => t.token.toNat == fieldLE b 0x30 4)).foldl freeToken s
        else s
      .next (noteRingFull s)
    else .refused (.notEnabled "FAULT_RECORD_WRITE")

/-- The token that TR_FAULT_RESP_TOKEN names, if it is outstanding (R252). -/
def respToken (s : State) : Option Token :=
  s.trans.tokens.find? (fun t => t.token.toNat == reg s offRespToken)

/-- FAULT_RESUME: every requester of the token repeats its access (R252). A token that is not outstanding: no effect. -/
def execFaultResume (s : State) : Res :=
  pfWrite 0x10001C s <| match respToken s with
  | none => .next s
  | some t => .next (freeToken s t)

/-- The submissions attached to a token complete with FAULT_TRANSLATION (R252). -/
def terminateToken (s : State) (t : Token) : State :=
  t.who.foldl (fun s w => failSubmission s w.2 stFaultTranslation) s

/-- FAULT_TERMINATE: every submission attached to the token completes with FAULT_TRANSLATION (R252). -/
def execFaultTerminate (s : State) : Res :=
  pfWrite 0x10001C s <| match respToken s with
  | none => .next s
  | some t => .next (retryWaiting (terminateToken (dropToken s t) t))

/-- A token has been outstanding for the limit of boundaries (R253). -/
def overdue (s : State) (t : Token) : Bool := decide (t.tick.toNat + obj s 0x4010 1 ≤ s.tick.count.toNat)

/-- What the limit does to a token (R253): it is withdrawn, its submissions end, its context is lost. -/
def timeoutToken (s : State) (t : Token) : State := retryWaiting (loseContext (terminateToken (withdrawToken s t) t) t.ctx 2)

/-- The tokens that are overdue at a boundary are resolved at its step 2, oldest first (R253). -/
def resolveOverdue (s : State) : State :=
  (s.trans.tokens.filter (overdue s)).foldl (fun s t => if s.trans.tokens.contains t then timeoutToken s t else s) s

/-- FAULT_TIMEOUT: a token reached its limit of boundaries, and is resolved as step 2 of a boundary resolves it (R253). -/
def execFaultTimeout (token : BitVec 32) (s : State) : Res :=
  match s.trans.tokens.find? (fun t => t.token == token) with
  | none => .refused (.notEnabled "FAULT_TIMEOUT")
  | some t => if overdue s t then .next (timeoutToken s t) else .refused (.notEnabled "FAULT_TIMEOUT")

/-- An invalidation through the registers is accepted (R257 to R259, R262). -/
def acceptInv (s : State) (range : Option (Nat × Nat)) : State :=
  if (s.trans.invals.countP Inval.reg) < 16 then
    let ctx := bits (reg s offInvCtx) 11 0
    let s := invalidate s ctx range
    let s := s.withTrans { s.trans with invals := s.trans.invals ++ [⟨ctx, range, true, none⟩] }
    setRegField s offInvSeq 31 16 (bits (reg s offInvSeq) 31 16 + 1)
  else orReg s offInvStatus 0x100

/-- INVALIDATE_BY_TAG: TR_INV_GO with RANGE 0 (R257, R262). -/
def execInvalidateByTag (s : State) : Res :=
  pfWrite 0x100034 s (enabled (!bit (reg s offInvCtx) 12) "INVALIDATE_BY_TAG" (acceptInv s none))

/-- The range of virtual addresses that TR_INV_BASE and TR_INV_PAGES name. -/
def invRange (s : State) : Nat × Nat :=
  let lo := bits (regPair s offInvBase) 47 16 * 65536
  (lo, lo + reg s offInvPages * 65536)

/-- INVALIDATE_BY_RANGE: TR_INV_GO with RANGE 1 (R258, R262). -/
def execInvalidateByRange (s : State) : Res :=
  pfWrite 0x100034 s (enabled (bit (reg s offInvCtx) 12) "INVALIDATE_BY_RANGE" (acceptInv s (some (invRange s))))

/-- A page of a context is one that an invalidation names. -/
def Inval.names (v : Inval) (ctx va : Nat) : Bool :=
  v.ctx == ctx && match v.range with
    | none => true
    | some r => decide (r.1 < r.2) && decide (va / 65536 * 65536 < r.2) && decide (r.1 < va / 65536 * 65536 + 65536)

/-- A cellar command uses pages that an invalidation names. -/
def Inval.usedBy (v : Inval) (c : CellCmd) : Bool := c.maps.pages.any (fun e => v.names c.ctx (e.1 * 65536))

/-- A request that was translated with an entry that an invalidation names, or by a walk that ran when it was accepted, is still on its way
to its target (R257, R258): a line, a store, a translation given to its request, or a command of a cellar engine. -/
def inFlightOf (s : State) (v : Inval) : Bool :=
  (s.trans.walksA ++ s.trans.walksB).any (fun m => v.names m.ctx m.va && m.nocache) ||
    s.trans.given.any (fun g => v.names g.entry.ctx g.entry.page) ||
    anyValue s.cores (fun _ k => k.stores.any (fun e => e.pages.any (v.names e.ctx)) || k.fills.any (fun f => v.names f.ctx f.va)) ||
    anyValue s.mem.slices (fun _ k => k.reqs.any (fun r => match r with
      | .line _ _ c va _ => v.names c va
      | .store _ _ _ e => e.pages.any (v.names e.ctx))) ||
    anyValue s.cellars (fun _ e => (e.queue ++ e.waiting ++ e.fillWaits).any v.usedBy ||
      (e.mv.toList ++ e.move.toList ++ e.fill.toList).any (fun x => v.usedBy x.cmd))

/-- What waited for an invalidation ends (R327): a queue's command, and the destruction of a context. -/
def endInval (s : State) (v : Inval) : State :=
  let s := if v.reg then setRegField s offInvSeq 15 0 (bits (reg s offInvSeq) 15 0 + 1) else s
  let s := match v.queue with
    | some q => modSub s q (fun u => { u with work := u.work - 1 })
    | none => s
  match find s.ctxs v.ctx with
  | some c => if c.state = .free then settleDue (writeDirectory (s.withCtxs (erase s.ctxs v.ctx)) v.ctx) else s
  | none => s

/-- INVALIDATION_DRAIN_DONE: the oldest invalidation completes once its in-flight uses have drained (R257 to R259). -/
def execInvalidationDrainDone (s : State) : Res :=
  match s.trans.invals with
  | [] => .refused (.notEnabled "INVALIDATION_DRAIN_DONE")
  | v :: rest =>
    if inFlightOf s v then .refused (.notEnabled "INVALIDATION_DRAIN_DONE")
    else
      .next (endInval (s.withTrans { s.trans with invals := rest }) v)

end Sys2Proof.Machine
end

