-- ==== Sys2Proof/Machine/MemorySystem.lean ====
section
/-!
DEFINITION. The events of the memory system: stacks (R216 to R224), attic slices (R225 to R229), the store room (R232 to R235) and
page moves (R236, R237, R364).
-/

namespace Sys2Proof.Machine

/-! Stacks. -/

/-- The pseudo-channel of an address (R214). -/
def channelOf (pa : Nat) : Nat := pa % 2 ^ 36 / 2048 % 64

/-- The request is the next that its channel may perform: no aged entry waits, or it is the oldest aged one (R218). -/
def agedFirst (k : StackSt) (ch tag : Nat) : Bool :=
  match k.aged.find? (fun e => e.1 == ch) with
  | none => true
  | some e => e.2 == tag

/-- A request lies in one 32-byte unit of a stack. -/
def unitReq (stack : Nat) (r : MemReq) : Bool :=
  let n := if r.write then r.data.length else r.len
  decide (1 ≤ n) && r.pa / 32 == (r.pa + n - 1) / 32 && stackOf r.pa == some stack

/-- The read that a request makes of its unit, if it makes one: every read, and the read half of a partial write (R217). -/
def readsUnit (r : MemReq) : Bool := !r.write || r.data.length != 32

/-- The unit is found uncorrectable (R217, R220, R223): the write is dropped, and the submission has its status. -/
def unitFails (s : State) (r : MemReq) : State := poisonHit s r.master r.queue (r.pa / 32 * 32)

/-- STACK_ACCESS: a pseudo-channel controller performs a request on a unit (R217, R218, R220, R222, R342). -/
def execStackAccess (stack : Nat) (req : MemReq) (ecc : Ecc) (s : State) : Res :=
  let k := stackSt s stack
  let ch := channelOf req.pa
  if !unitReq stack req || !agedFirst k ch req.tag then .refused (.notEnabled "STACK_ACCESS")
  else
    let s := setStack s stack { k with aged := k.aged.erase (ch, req.tag) }
    let n := if req.write then req.data.length else req.len
    if !accessOk s req.master req.pa n req.write then .next (faultOf s req.queue stFaultAccess)
    else if !stackUp s stack then .next (faultOf s req.queue stFaultMemory)
    else
      let s := histogram s stack
      let poisoned := s.mem.poison.contains (req.pa / 32)
      if readsUnit req && (poisoned || ecc == .uncorrectable) then .next (unitFails s req)
      else
        let s := if readsUnit req && ecc == .corrected then stackCorrected s stack else s
        .next (if req.write then poke s req.pa req.data else s)

/-- REORDER_ENTRY_AGED: an entry has waited 1.0 µs (R218). A channel's queue holds 48 entries. -/
def execReorderEntryAged (stack channel tag : Nat) (s : State) : Res :=
  let k := stackSt s stack
  enabled (decide (stack < 12) && decide (channel < 64) && !k.aged.contains (channel, tag) &&
      decide (k.aged.countP (fun e => e.1 == channel) < 48)) "REORDER_ENTRY_AGED"
    (setStack s stack { k with aged := k.aged ++ [(channel, tag)] })

/-- SCRUB_READ: the scrubber reads its next unit, in ascending order and from the start again at the end (R220, R221). -/
def execScrubRead (stack : Nat) (ecc : Ecc) (s : State) : Res :=
  let k := stackSt s stack
  if !k.scrubbing || !stackUp s stack then .refused (.notEnabled "SCRUB_READ")
  else
    let unit := stack * 2 ^ 31 + k.scrubPos
    let s := setStack s stack { k with scrubPos := (k.scrubPos + 1) % 2 ^ 31 }
    if s.mem.poison.contains unit || ecc == .uncorrectable then .next (stackUncorrectable s (unit * 32))
    else if ecc == .corrected then .next (stackCorrected s stack)
    else .next s

/-- PW_EVENT (R460). -/
def offPwEvent : Nat := 0x30801C

/-- STACK_TEMP_READOUT, in 0.125 °C: the thermal actions on a stack (R216, R446). -/
def execStackTempReadout (stack : Nat) (temp : Int) (s : State) : Res :=
  if 12 ≤ stack || (stackSt s stack).state = .absent then .refused (.notEnabled "STACK_TEMP_READOUT")
  else
    let s := setStack s stack { stackSt s stack with temp := temp }
    let s := if 760 ≤ temp then
        orReg (setStack s stack { stackSt s stack with hot := true }) offPwEvent 0x40
      else if temp < 720 then setStack s stack { stackSt s stack with hot := false }
      else s
    .next (if 840 ≤ temp && stackUp s stack then stackOffline s stack else s)

/-- STACK_LINK_ERROR: an interface link error, which retraining clears or not (R222). -/
def execStackLinkError (stack : Nat) (cleared : Bool) (s : State) : Res :=
  if 12 ≤ stack || !stackUp s stack then .refused (.notEnabled "STACK_LINK_ERROR")
  else
    let s := orReg s (offStk stack + 4) 8
    .next (if cleared then s else stackOffline s stack)

/-! Attic slices (R225 to R229). -/

/-- The line of a slice's request. -/
def reqLine : AtticReq → Nat
  | .line _ _ _ _ pa => pa / 128 * 128
  | .store _ _ _ e => e.pa / 128 * 128

/-- The submissions whose groups wait for a line, or for the data of a load from it. -/
def lineQueues (s : State) (core : Nat) (icache : Bool) (ctx va : Nat) : List Nat :=
  let loads (g : Group) : Bool := !icache && g.loads.any (fun ld => ld.lanes.any (fun e => e.2.1 / 128 * 128 == va))
  (((coreSt s core).groups.filter (fun e => e.2.ctx == ctx && (e.2.cond == .lineMiss icache va || loads e.2))).map
    (fun e => e.2.queue)).eraseDups

/-- The submissions that a slice's request belongs to. -/
def reqQueues (s : State) : AtticReq → List Nat
  | .line core icache ctx va _ => lineQueues s core icache ctx va
  | .store _ _ _ e => [e.queue]

/-- An error of the slice's codes in the line of a request (R228): a clean line is fetched again; in a dirty one it is an uncorrectable error
of a unit of its stack, after the fault of the submissions `qs` that met it (R33, R223). The event does not name the unit, which is free. -/
def atticError (s : State) (slice pa : Nat) (qs : List Nat) : AtticError → State
  | .none => s
  | .corrected => clusterEvent (countHigh s (offAtc slice + 0x14)) slice 0x44 none 1
  | .uncorrectable =>
    match atticFind s slice pa with
    | none => s
    | some (_, l) =>
      let s := setAtticSet s slice pa ((atticSetOf s slice pa).drop (fun x => x.pa == l.pa))
      if l.dirty then
        let s := qs.foldl (fun s q => failSubmission s q stFaultMemory) (orReg s (offAtc slice + 0x14) 4)
        let u := errorUnit s l.pa 128
        stackUncorrectable u.2 u.1
      else orReg s (offAtc slice + 0x14) 2

/-- A line's data reaches its fill (R230). -/
def deliverLine (s : State) (core : Nat) (icache : Bool) (ctx va : Nat) (d : List Byte) : State :=
  modCore s core (fun k => { k with fills := k.fills.map (fun f =>
    if f.icache == icache && f.ctx == ctx && f.va == va && f.data.isNone then { f with data := some d } else f) })

/-- A line request served (R211, R225, R230): its data, or the fault of every submission that waits for it. -/
def serveLine (s : State) (core : Nat) (icache : Bool) (ctx va pa : Nat) : State :=
  let qs := lineQueues s core icache ctx va
  let r := atticRead s ctx qs.head? pa 128
  if r.ok then deliverLine r.st core icache ctx va (if icache then r.data else ownView r.st core pa r.data)
  else
    let s := modCore r.st core (fun k => { k with fills := k.fills.filter (fun f => !(f.icache == icache && f.ctx == ctx && f.va == va)) })
    match qs.head? with
    | none => s
    | some q =>
      let status := (find s.subs q).map Submission.fault
      (qs.drop 1).foldl (fun s q => failSubmission s q (status.getD stFaultMemory)) s

/-- ATTIC_ACCESS: the home slice serves its oldest request (R225, R226, R228, R240). -/
def execAtticAccess (slice : Nat) (err : AtticError) (s : State) : Res :=
  let k := sliceSt s slice
  match k.reqs with
  | [] => .refused (.notEnabled "ATTIC_ACCESS")
  | r :: rest =>
    let held := atticFind s slice (reqLine r)
    if err != .none && held.isNone then .refused (.notEnabled "ATTIC_ACCESS")
    else
      let s := setSlice s slice { k with reqs := rest }
      let s := clusterEvent s slice (if held.isSome then 0x40 else 0x41) none 1
      let wb := held.isNone && (match ((atticSetOf s slice (reqLine r)).ways[(atticSetOf s slice (reqLine r)).victim 4]?).join with
        | some l => l.dirty
        | none => false)
      let s := if wb then clusterEvent s slice 0x42 none 1 else s
      let s := atticError s slice (reqLine r) (reqQueues s r) err
      match r with
      | .line core icache ctx va pa => .next (serveLine s core icache ctx va pa)
      | .store core _ _ e => .next (endFences (performStore s e) core)

/-- Whether a flush is limited to a range, and the range (R239). -/
def flushRange (s : State) (slice : Nat) : Option (Nat × Nat) :=
  let o := offAtc slice
  if bit (reg s (o + 4)) 1 then
    let b := bits (regPair s (o + 8)) 43 7 * 128
    some (b, b + 128 * reg s (o + 0x10))
  else none

/-- Every dirty line of a slice in a range is written back, and the range's lines leave (R229). -/
def flushSlice (range : Option (Nat × Nat)) (s : State) (slice : Nat) : State :=
  let inside (l : AtticLine) : Bool :=
    match range with
    | none => true
    | some r => decide (r.1 ≤ l.pa) && decide (l.pa < r.2)
  let lines := (((sliceSt s slice).lines.map (fun e => e.2.items)).flatten).filter inside
  let s := lines.foldl (fun s l => if l.dirty then clusterEvent (writeBack s l) slice 0x42 none 1 else s) s
  let k := sliceSt s slice
  setSlice s slice { k with lines := mapValues k.lines (fun _ c => c.drop inside) }

/-- The slices of a partition. -/
def partSlices (s : State) (p : Nat) : List Nat := bitsSet 16 (partClusters s p)

/-- The slices of a partition are marked as flushing or not. -/
def markFlush (s : State) (p : Nat) (b : Bool) : State :=
  (partSlices s p).foldl (fun s c => setSlice s c { sliceSt s c with busy := b }) s

/-- ATTIC_FLUSH: GO starts a flush of the partition's slices; the range is that of the slice written (R229, R239). The lines leave
here, and the flush is over with ATTIC_FLUSH_DONE. -/
def execAtticFlush (slice : Nat) (s : State) : Res :=
  pfWrite (offAtc slice + 4) s <| match partOfCluster s slice with
  | none => .next s
  | some p =>
    if 16 ≤ slice || (sliceSt s slice).busy then .next s
    else .next (markFlush ((partSlices s p).foldl (flushSlice (flushRange s slice)) s) p true)

/-- A CLUSTERS change whose flush runs waits no longer (R494). -/
def noteFlushed (s : State) (p : Nat) : State :=
  s.withDict { s.dict with clusters := s.dict.clusters.map (fun c => if c.partition = p then { c with flushed := true } else c) }

/-- ATTIC_FLUSH_DONE: the flush of a partition's slices is over (R229, R494). -/
def execAtticFlushDone (p : Nat) (s : State) : Res :=
  enabled ((partSlices s p).any (fun c => (sliceSt s c).busy)) "ATTIC_FLUSH_DONE" (noteFlushed (markFlush s p false) p)

/-! The store room (R232 to R235). -/

/-- A change of SR_COUNT divides the header caches anew: lines that a part no longer holds leave (R346). -/
def trimHeaders (s : State) : State :=
  (List.range 16).foldl (fun s p =>
    let k := pkgSt s p
    let kept := k.headers.filter (fun e => partOfSegment s (srBase + e.1 * 8 * 4096) == e.2)
    setPkg s p { k with headers := (List.range 16).foldl (capHeaders s) kept }) s

/-- The blocks that n bytes at pa touch. -/
def blocksOf (pa n : Nat) : List (Nat × Nat) := pieces 4096 pa n

/-- A block's request reads it: every read, and a write of a part (R234). -/
def readsBlock (write : Bool) (p : Nat × Nat) : Bool := !write || p.2 != 4096

/-- One block of a request: its bytes written, or the poison it meets; a link error that a retry does not clear poisons a block that is
written whole too (R234, R235). -/
def blockAccess (req : MemReq) (out : BlockOutcome) (r : State × List Byte) (p : Nat × Nat) : State × List Byte :=
  let s := useHeader r.1 p.1
  let poisoned := s.mem.srPoison.contains (p.1 / 4096)
  let s :=
    if readsBlock req.write p && (poisoned || out == .linkLost || out == .crcMismatch) then
      poisonHit s req.master req.queue (p.1 / 4096 * 4096)
    else if req.write then (if out = .linkLost then noteBlock s p.1 else poke s p.1 (r.2.take p.2))
    else s
  (s, r.2.drop p.2)

/-- STORE_ROOM_ACCESS: a controller reads or writes whole blocks (R232 to R235, R342). -/
def execStoreRoomAccess (req : MemReq) (out : BlockOutcome) (s : State) : Res :=
  let n := if req.write then req.data.length else req.len
  if n = 0 || !inStoreRoom req.pa || !inStoreRoom (req.pa + n - 1) then .refused (.notEnabled "STORE_ROOM_ACCESS")
  else if !accessOk s req.master req.pa n req.write then .next (faultOf s req.queue stFaultAccess)
  else if !(blocksOf req.pa n).all (fun p => memUp s p.1) then .next (faultOf s req.queue stFaultMemory)
  else
    let pk := pkgOf req.pa
    let s := histogram s (12 + pk)
    let s := match out with
      | .linkRetry => countHigh (orReg s (offPkg pk + 4) 2) (offPkg pk + 4)
      | .linkLost => countHigh (orReg s (offPkg pk + 4) 2) (offPkg pk + 4)
      | _ => s
    .next ((blocksOf req.pa n).foldl (blockAccess req out) (s, req.data)).1

/-! Page moves (R236, R237, R364). -/

/-- The tables' entry for a page of a context, and the physical address of its L3 entry. -/
def leafChain (s : State) (ctx va : Nat) : Chain × Nat :=
  match find s.ctxs ctx with
  | none => (.unread stFaultAccess 0, 0)
  | some c =>
    let r := walkFrom s ctx va 3 1 c.l1
    (r.1, ((r.2.getLast?.map (fun e => leafAddr e.2)).getD 0) + 8 * tableIndex 3 va)

/-- The leaf of a page of a context, with the physical address of its entry: not a block's. -/
def leafOf (s : State) (ctx va : Nat) : Option (Nat × Nat) :=
  match leafChain s ctx va with
  | (.leaf e 3, slot) => some (slot, e)
  | _ => none

/-- A move may start: no move that came before it still reads or writes the page it writes (R364). -/
def moveFree (l : List PageMove) (i : Nat) (m : PageMove) : Bool :=
  (l.take i).all (fun x => x.src != m.dst && x.dst != m.src && x.dst != m.dst)

/-- PAGE_MOVE_START: the partition's first queued move that may start, while fewer than 16 run (R236). -/
def execPageMoveStart (p : Nat) (s : State) : Res :=
  let l := s.mem.moves
  let cand := (List.range l.length).find? (fun i => match l[i]? with
    | some m => m.partition == p && !m.running && moveFree l i m
    | none => false)
  match cand with
  | none => .refused (.notEnabled "PAGE_MOVE_START")
  | some i =>
    enabled (decide (l.countP (fun m => m.partition == p && m.running) < 16)) "PAGE_MOVE_START"
      (s.withMem { s.mem with moves := l.modify i (fun m => { m with running := true }) })

/-- Writes that waited for a page under move repeat their translation: the groups that wait at translation with no miss under way (R236). -/
def releaseWrites (s : State) : State :=
  let stalled (s : State) (c slot : Nat) (g : Group) : Bool := match g.cond with
    | .walk _ => !missing s (.lane c slot) && !missing s (.fetch c slot)
    | _ => false
  (s.cores.map Prod.fst).foldl (fun s c =>
    (((coreSt s c).groups.filter (fun e => stalled s c e.1 e.2)).map Prod.fst).foldl (fun s slot => clearCond s c slot) s) s

/-- A kernel command that waited for its move ends (R327); a move that fails ends it with its status. -/
def endMove (s : State) (m : PageMove) : State :=
  match m.queue with
  | some q => modSub s q (fun u => { u with work := u.work - 1 })
  | none => s

/-! Key-value pools, as far as page moves touch them (R359 to R364). -/

def pbMask (pl : Pool) : Nat := fieldLE pl.block 0x02 2
def pbCtx (pl : Pool) : Nat := fieldLE pl.block 0x04 2
def pbTokens (pl : Pool) : Nat := fieldLE pl.block 0x08 4
def pbMaxSeq (pl : Pool) : Nat := fieldLE pl.block 0x0C 4
def pbVa (pl : Pool) : Nat := fieldLE pl.block 0x10 8
def pbNs (pl : Pool) : Nat := fieldLE pl.block 0x18 4
def pbNr (pl : Pool) : Nat := fieldLE pl.block 0x1C 4
def pbMaxStripes (pl : Pool) : Nat := fieldLE pl.block 0x20 4
def pbReqLog2 (pl : Pool) : Nat := fieldLE pl.block 0x24 4
def pbSeqPa (pl : Pool) : Nat := fieldLE pl.block 0x28 8
def pbListPa (pl : Pool) : Nat := fieldLE pl.block 0x30 8
def pbReqPa (pl : Pool) : Nat := fieldLE pl.block 0x38 8
def pbStatePa (pl : Pool) : Nat := fieldLE pl.block 0x40 8

/-- The stacks of a stripe, ascending. -/
def pbStacks (pl : Pool) : List Nat := bitsSet 12 (pbMask pl)

/-- The virtual address of page k of stripe i (R360). -/
def stripeVa (pl : Pool) (i k : Nat) : Nat := pbVa pl + (i * (pbStacks pl).length + k) * 65536

/-- The pages of stripe i as the tables map them (R360); an unmapped page is none. -/
def stripePages (s : State) (pl : Pool) (i : Nat) : List (Option Nat) :=
  (List.range (pbStacks pl).length).map (fun k => (leafOf s (pbCtx pl) (stripeVa pl i k)).map (fun e => leafAddr e.2))

/-- Physical addresses of a sequence entry and a page-list entry (R361). -/
def seqPa (pl : Pool) (q : Nat) : Nat := pbSeqPa pl + 32 * q
def listPa (pl : Pool) (q j : Nat) : Nat := pbListPa pl + (q * pbMaxStripes pl + j) * 4

/-- The stripes of a sequence, oldest first, as its page list names them. -/
def seqStripes (s : State) (pl : Pool) (q : Nat) : List Nat :=
  (List.range (ofLE (peek s (seqPa pl q + 8) 4))).map (fun j => bits (ofLE (peek s (listPa pl q j) 4)) 30 0)

/-- Which stripes of a pool the store room backs. -/
def backedBySr (pl : Pool) (i : Nat) : Bool := ((pl.stripes[i]?).map Stripe.inSr).getD false

/-- The page list of a sequence and its counts, written for the stripes it holds (R361). -/
def writeList (s : State) (pl : Pool) (q : Nat) (l : List Nat) : State :=
  let s := (List.zip (List.range l.length) l).foldl (fun s e =>
    devWrite s (listPa pl q e.1) (toLE 4 (e.2 + (if backedBySr pl e.2 then 2 ^ 31 else 0)))) s
  devWrite s (seqPa pl q + 8) (toLE 4 l.length ++ toLE 4 (l.countP (backedBySr pl)))

/-- A pool, and set a pool. -/
def poolOf (s : State) (p : Nat) : Pool := (find s.part.pools p).getD Pool.reset
def setPool (s : State) (p : Nat) (pl : Pool) : State := s.withPart { s.part with pools := insert s.part.pools p pl }

/-- No page: a stack whose spare a failed swap left mapped has none. -/
def noPage : Nat := 2 ^ 44

/-- After a failed swap, the stripes are backed where the moves have left them, and the list entries say where; a stack's spare is the
page that no stripe holds (R364). -/
def poolRefresh (s : State) (p : Nat) (loose : List Nat) : State :=
  let pl := poolOf s p
  let at_ (i : Nat) (x : Stripe) : Stripe :=
    let pages := (List.zip (stripePages s pl i) x.pages).map (fun e => e.1.getD e.2)
    { x with pages := pages, inSr := pages.any inStoreRoom }
  let stripes := (List.zip (List.range pl.stripes.length) pl.stripes).map (fun e => at_ e.1 e.2)
  let held := (stripes.map Stripe.pages).flatten
  let spare (st old : Nat) : Nat :=
    ((old :: loose.filter (fun a => stackOf a == some st)).find? (fun a => !held.contains a)).getD noPage
  let pl := { pl with stripes := stripes, spares := (List.zip (pbStacks pl) pl.spares).map (fun e => spare e.1 e.2) }
  let s := setPool s p pl
  ((stripes.filterMap Stripe.user).eraseDups).foldl (fun s q => writeList s pl q (seqStripes s pl q)) s

/-- A move of a pool's swap is over: a swap that a failure stopped is read from the tables again (R364). -/
def poolMoved (s : State) (m : PageMove) (loose : List Nat) : State :=
  if m.queue.isSome || !(poolOf s m.partition).broken then s
  else
    let s := settleDue (poolRefresh s m.partition loose)
    if s.mem.moves.any (fun x => x.queue.isNone && x.partition == m.partition) then s
    else setPool s m.partition { poolOf s m.partition with broken := false }

/-- A move of a pool's swap that fails stops every queued move of the pool (R364). -/
def swapFails (s : State) (m : PageMove) : State :=
  if m.queue.isSome then s
  else
    let gone (x : PageMove) : Bool := !x.running && x.queue.isNone && x.partition == m.partition
    let loose := m.dst :: (s.mem.moves.filter gone).map PageMove.dst
    let s := orReg (s.withMem { s.mem with moves := s.mem.moves.filter (fun x => !gone x) }) (offPool m.partition + 8) 2
    poolMoved (setPool s m.partition { poolOf s m.partition with broken := true }) m loose

/-- A move fails: nothing has moved (R236, R364). -/
def moveFails (s : State) (m : PageMove) (status : Nat) : State :=
  let s := swapFails (releaseWrites s) m
  match m.queue with
  | some q => failSubmission (endMove s m) q status
  | none => s

/-- The page is copied, its leaf switched and its translations invalidated (R236). -/
def finishMove (s : State) (m : PageMove) (slot e : Nat) : State :=
  let s := useHeaders (useHeaders s m.src 65536) m.dst 65536
  let s := poke s m.dst (peek s m.src 65536)
  let s := settleDue (devWrite s slot (toLE 8 (setBits e 43 16 (m.dst / 65536))))
  let s := invalidate s m.ctx (some (m.va / 65536 * 65536, m.va / 65536 * 65536 + 65536))
  let s := releaseWrites s
  endMove (poolMoved s m [m.src]) m

/-- PAGE_MOVE_DONE: move i of those that run for a partition is over (R236, R240, R364). It waits for the drain of the
invalidation; a page that cannot be read, is pinned, or whose leaf is no more that page of bulk space does not move (R246). -/
def execPageMoveDone (p i : Nat) (s : State) : Res :=
  needs ((s.mem.moves.filter (fun m => m.partition == p && m.running))[i]?) "PAGE_MOVE_DONE" fun m =>
    let s := s.withMem { s.mem with moves := s.mem.moves.erase m }
    let page := m.va / 65536 * 65536
    if inFlightOf s ⟨m.ctx, some (page, page + 65536), false, none⟩ then .refused (.notEnabled "PAGE_MOVE_DONE")
    else
      match leafChain s m.ctx m.va with
      | (.leaf e 3, slot) =>
        if !leafBulk e || leafPin e || leafAddr e != m.src then .next (moveFails s m stFaultCommand)
        else if !rangeUp s m.src 65536 || !rangeUp s m.dst 65536 then .next (moveFails s m stFaultMemory)
        else
          match poisonedIn s m.src 65536 with
          | [] => .next (finishMove s m slot e)
          | bad => .next (poisonHits (moveFails s m stFaultMemory) m.ctx none m.src bad)
      | (.unread code pa, _) => .next (chainPoison (moveFails s m code) (.unread code pa))
      | _ => .next (moveFails s m stFaultCommand)

end Sys2Proof.Machine
end

