-- ==== Sys2Proof/Machine/FrontEnd.lean ====
section
/-!
DEFINITION. The front end: doorbells, queue slots, prefetch and its checks (R316 to R322, R347, R496), fence waits (R324), host
apertures (R302 to R307), and what the rows of queue commands share: the order of dispatch and the checks of a command's form
(R323 to R325).
-/

namespace Sys2Proof.Machine

/-- A host write of a register of a virtual function, in block 0 or the mailbox's block 7 (R302, R305, R342, R413, R452). -/
def vfWrite (fn block : Nat) (s : State) (r : Res) : Res :=
  if (if block = 0 then feDrops s else regsDrop s) || s.front.d3hot.contains fn then .next s
  else if regsGranted s fn block true then r
  else .next (orVfEvent s fn 8)

/-! Doorbells (R318, R320, R334, R335). -/

/-- A function that is in D3hot takes no host access (R302). -/
def asleep (s : State) (fn : Nat) : Bool := s.front.d3hot.contains fn

/-- FE_DOORBELL: write index W of queue q (R318). -/
def execFeDoorbell (q : Nat) (w : BitVec 32) (s : State) : Res :=
  pfWrite 0x10000 s <|
    match find s.queues q with
    | some u => .next (if bellOk u w then latchBell s q w else orReg s offFeStatus 8)
    | none => .next (orReg s offFeStatus 8)

/-- The queue of a virtual function with a doorbell index. -/
def vfQueue (s : State) (fn k : Nat) : Option Nat :=
  ((s.queues.filter (fun e => e.2.fnIndex == k && fnOfQueue s e.1 == fn)).map Prod.fst).head?

/-- FE_VF_DOORBELL: write index W of the queue with FN_INDEX k (R318, R335). -/
def execFeVfDoorbell (fn k : Nat) (w : BitVec 32) (s : State) : Res :=
  if fn = 0 || 64 ≤ fn || 64 ≤ k then .refused (.notEnabled "FE_VF_DOORBELL")
  else vfWrite fn 0 s <|
    match vfQueue s fn k with
    | none => .next (orVfEvent s fn 4)
    | some q =>
      match find s.queues q with
      | some u => .next (if bellOk u w then latchBell s q w else orVfEvent s fn 4)
      | none => .next (orVfEvent s fn 4)

/-- Entries of the kernel ring, as a power of two (R334). -/
def kringLog2 (s : State) : Nat :=
  let m := bits (reg s offKringCfg) 4 0
  if 4 ≤ m && m ≤ 16 then m else 4

/-- FE_KRING_DOORBELL: the kernel ring's write index (R318, R334). -/
def execFeKringDoorbell (w : BitVec 32) (s : State) : Res :=
  pfWrite 0x034 s <|
  if (w - s.front.kWrite).toNat ≤ 2 ^ kringLog2 s && (w - s.front.kRead).toNat ≤ 2 ^ kringLog2 s then
    .next (s.withFront { s.front with kWrite := w })
  else .next (orReg s offFeStatus 8)

/-! Queue slots (R320, R321, R347). -/

/-- The partition of a queue. -/
def partOfQueue (s : State) (u : Queue) : Nat := ctxPartition s u.ctx

/-- Resident queues of a partition, and its reserve. -/
def slotsHeld (s : State) (p : Nat) : Nat := s.queues.countP (fun e => e.2.resident && partOfQueue s e.2 == p)
def slotsMin (s : State) (p : Nat) : Nat := obj s (0x7010 + p) 6

/-- A shared slot is free: the shared part is what no reserve takes (R347). -/
def sharedSlotFree (s : State) : Bool :=
  let used := (List.range 16).foldl (fun n p => n + (slotsHeld s p - slotsMin s p)) 0
  let kept := (List.range 16).foldl (fun n p => n + slotsMin s p) 0
  decide (used + kept < 128) && decide (s.queues.countP (fun e => e.2.resident) < 128)

/-- Shared buffers in use (R321): two of a resident real-time queue, one of a queue that holds a buffer two entries ahead. -/
def sharedBuffers (s : State) : Nat :=
  s.queues.foldl (fun n e => n + (if !e.2.resident then 0 else if e.2.cls = 0 then 2 else e.2.fetched.length - 2)) 0

/-- A slot is free: READ = WRITE and nothing running (R320). -/
def queueIdle (s : State) (q : Nat) (u : Queue) : Bool := u.resident && u.read == u.write && (find s.subs q).isNone

/-- The queue to evict: the oldest last doorbell among the free slots of partitions above their reserve (R320, R347). -/
def evictQueue (s : State) : Option Nat :=
  let cand := s.queues.filter (fun e => queueIdle s e.1 e.2 && decide (slotsMin s (partOfQueue s e.2) < slotsHeld s (partOfQueue s e.2)))
  (cand.foldl (fun (b : Option (Nat × Nat)) e =>
    match b with
    | none => some (e.2.lastBell, e.1)
    | some x => if e.2.lastBell < x.1 then some (e.2.lastBell, e.1) else b) none).map Prod.snd

/-- How a queue can take a slot: none cannot; some none takes a free one; some (some v) evicts v. -/
def slotFor (s : State) (u : Queue) : Option (Option Nat) :=
  let p := partOfQueue s u
  if u.cls = 0 && decide (126 < sharedBuffers s) then none
  else if slotsHeld s p < slotsMin s p && s.queues.countP (fun e => e.2.resident) < 128 then some none
  else if sharedSlotFree s then some none
  else (evictQueue s).map some

/-- The requests for slots, in the order of their doorbells. -/
def slotRequests (s : State) : List (Nat × Queue) :=
  let all := s.queues.filter (fun e => e.2.request.isSome)
  all.foldl (fun l e =>
    let before := l.filter (fun x => decide ((x.2.request.getD 0) ≤ (e.2.request.getD 0)))
    let after := l.filter (fun x => !decide ((x.2.request.getD 0) ≤ (e.2.request.getD 0)))
    before ++ e :: after) []

/-- QUEUE_SLOT_LOAD: the first request that can be served takes its slot (R320, R321, R347). -/
def execQueueSlotLoad (s : State) : Res :=
  match (slotRequests s).find? (fun e => (slotFor s e.2).isSome) with
  | none => .refused (.notEnabled "QUEUE_SLOT_LOAD")
  | some e =>
    let s := match slotFor s e.2 with
      | some (some v) => modQueue s v (fun u => { u with resident := false, fetched := [] })
      | _ => s
    .next (modQueue s e.1 (fun u => { u with resident := true, request := none }))

/-! Prefetch (R317, R319, R321, R325, R496). -/

def reCbLen (e : List Byte) : Nat := fieldLE e 0x04 4
def reCbAddr (e : List Byte) : Nat := fieldLE e 0x08 8
def reFence (e : List Byte) : Nat := fieldLE e 0x10 8
def reFallback (e : List Byte) : Nat := fieldLE e 0x20 4
def reProgress (e : List Byte) : Nat := fieldLE e 0x24 4
def reDeadline (e : List Byte) : Nat := bits (fieldLE e 0x28 1) 3 0
def reThrottle (e : List Byte) : Bool := bit (fieldLE e 0x28 1) 4
def reCheck (e : List Byte) : Nat := fieldLE e 0x29 1
def rePriority (e : List Byte) : Nat := bits (fieldLE e 0x02 1) 2 0

/-- A range lies in the stacks of a partition, or in any stack for the kernel ring (none). -/
def inStacks (s : State) (p : Option Nat) (pa n : Nat) : Bool :=
  match p with
  | some p => inPartStacks s p pa n
  | none => (stacksOf pa n).isSome

/-- A ring entry keeps to R317, and a real-time one to the limits of R35 that do not depend on the period. -/
def entryOk (s : State) (p : Option Nat) (rt : Bool) (e : List Byte) : Bool :=
  fieldLE e 0x00 1 == 1 && bits (fieldLE e 0x01 1) 7 2 == 0 && bits (fieldLE e 0x02 1) 7 3 == 0 && fieldLE e 0x03 1 == 0 &&
    decide (16 ≤ reCbLen e) && decide (reCbLen e ≤ 65536) && reCbLen e % 16 == 0 && reCbAddr e % 64 == 0 &&
    inStacks s p (reCbAddr e) (reCbLen e) && reFence e % 8 == 0 && bits (fieldLE e 0x28 1) 7 5 == 0 &&
    allZero ((e.drop 0x2A).take 22) &&
    (!fenceEn e || bit (reFence e) 63 || inStacks s p (reFence e) 8) &&
    (if rt then decide (1 ≤ reDeadline e) && decide (1 ≤ reCheck e)
     else reFallback e == 0 && reProgress e == 0 && fieldLE e 0x28 1 == 0 && reCheck e == 0)

/-- The fallback buffer of an entry as a generation of the context's table names it: none for a bad handle (R314, R496). -/
def resolveFallback (s : State) (ctx : Nat) (gen : Bool) (e : List Byte) : Option (Nat × Nat) :=
  match handleEntry s ctx gen (reFallback e) with
  | none => none
  | some h => (goodUse s ctx gen (reFallback e) [3] 0 (heSize h) true false).map (fun h => (heBase h, heSize h))

/-- The status that the checks before admission give an entry of a queue, in the order of R33; 0 passes them. -/
def entryStatus (s : State) (q : Nat) (u : Queue) (e : List Byte) : Nat :=
  let p := partOfQueue s u
  if !entryOk s (some p) (u.cls == 0) e then stFaultCommand
  else if !accessOk s u.ctx (reCbAddr e) (reCbLen e) false || (fenceEn e && !fenceOk s q e) then stRefusedAccess
  else if u.cls = 0 then
    match resolveFallback s u.ctx (((find s.ctxs u.ctx).map Context.gen).getD false) e with
    | some f => if accessOk s u.ctx f.1 f.2 false then 0 else stRefusedAccess
    | none => 0
  else 0

/-- Entries of the head that have their status complete, in ring order, while nothing of the queue runs (R325). -/
def settleHead (q : Nat) : Nat → State → State
  | 0, s => s
  | n + 1, s =>
    match find s.queues q with
    | none => s
    | some u =>
      if (find s.subs q).isSome then s
      else
        match u.fetched.find? (fun f => f.idx == u.read) with
        | some f => if f.status = 0 then s else settleHead q n (completeHead s q f.status f.entry)
        | none => s

/-- The context of a queue is lost. -/
def ctxLost (s : State) (ctx : Nat) : Bool :=
  match find s.ctxs ctx with
  | some c => c.state == .lost || c.state == .free
  | none => true

/-- A third entry may be fetched: a shared buffer is free, and no queue of a lower number waits for one (R321). -/
def thirdOk (s : State) (q : Nat) : Bool :=
  decide (sharedBuffers s < 128) &&
    !s.queues.any (fun e => decide (e.1 < q) && e.2.resident && e.2.cls != 0 && e.2.fetched.length == 2 &&
      decide (2 < (e.2.write - e.2.read).toNat))

/-- The reading of n bytes by the front end meets an uncorrectable error, or memory that does not answer: the event's, or a
poisoned unit (R325). -/
def readFails (s : State) (pa n : Nat) (ecc : Ecc) : Bool :=
  ecc == .uncorrectable || !rangeUp s pa n || !(poisonedIn s pa n).isEmpty

/-- What the error that a front-end read met does to its stack (R220, R223). -/
def readError (s : State) (pa n : Nat) (ecc : Ecc) : State :=
  match ecc with
  | .corrected =>
    match stackOf pa with
    | some st => stackCorrected s st
    | none => s
  | .uncorrectable => let u := errorUnit s pa n; stackUncorrectable u.2 u.1
  | .clean => devNote s pa n

/-- An entry fetched with its status. -/
def addFetched (s : State) (q : Nat) (i : Word32) (e : List Byte) (status : Nat) (fb : Option (Nat × Nat)) (bad : Bool) : State :=
  let f : Fetched :=
    { idx := i, entry := e, buffer := none, fallback := none, fbBase := (fb.getD (0, 0)).1, fbSize := (fb.getD (0, 0)).2
      badHandle := bad, status := status, met := 0 }
  modQueue s q (fun u => { u with fetched := u.fetched ++ [f] })

/-- RING_ENTRY_FETCH of a queue: the next entry in ring order is read and checked (R319, R321, R325, R333). -/
def fetchEntry (s : State) (q : Nat) (u : Queue) (ecc : Ecc) : Res :=
  let n := u.fetched.length
  let i := u.read + BitVec.ofNat 32 n
  if !u.resident || (u.write - i).toNat = 0 || !(n < 2 || (n == 2 && u.cls != 0 && thirdOk s q)) then
    .refused (.notEnabled "RING_ENTRY_FETCH")
  else
    let pa := u.ringBase + i.toNat % 2 ^ u.log2 * 64
    let e := peek s pa 64
    let t :=
      if ctxLost s u.ctx then addFetched s q i e stRefusedLost none false
      else if !accessOk s u.ctx pa 64 false then addFetched s q i (zeroBytes 64) stRefusedAccess none false
      else if readFails s pa 64 ecc then readError (addFetched s q i e stFaultMemory none false) pa 64 ecc
      else
        let s := readError s pa 64 ecc
        let st := entryStatus s q u e
        let fb := if st = 0 && u.cls = 0 then resolveFallback s u.ctx (((find s.ctxs u.ctx).map Context.gen).getD false) e else none
        addFetched s q i e st fb (st == 0 && u.cls == 0 && fb.isNone)
    .next (settleHead q (n + 1) t)

/-- RING_ENTRY_FETCH of the kernel ring: its next entry is read and checked (R325, R327, R334). -/
def fetchKernel (s : State) (ecc : Ecc) : Res :=
  if !bit (reg s offFeCtrl) 1 || s.front.kFetched.isSome || (s.front.kWrite - s.front.kRead).toNat = 0 then
    .refused (.notEnabled "RING_ENTRY_FETCH")
  else
    let i := s.front.kRead.toNat
    let pa := regPair s offKringBase + i % 2 ^ kringLog2 s * 64
    let e := peek s pa 64
    let fin (s : State) (e : List Byte) (st : Nat) : State := settleDue (completeEntry s kring (unadmittedRecord i e st 0 0))
    if !accessOk s 4096 pa 64 false then .next (fin s (zeroBytes 64) stRefusedAccess)
    else if readFails s pa 64 ecc then .next (readError (fin s e stFaultMemory) pa 64 ecc)
    else
      let s := readError s pa 64 ecc
      if !entryOk s none false e then .next (fin s e stFaultCommand)
      else if !accessOk s 4096 (reCbAddr e) (reCbLen e) false || (fenceEn e && !fenceOk s kring e) then
        .next (fin s e stRefusedAccess)
      else .next (s.withFront { s.front with kFetched := some e })

/-- RING_ENTRY_FETCH (R321): of a queue, or of the kernel ring. -/
def execRingEntryFetch (q : Nat) (ecc : Ecc) (s : State) : Res :=
  if q = kring then fetchKernel s ecc
  else needs (find s.queues q) "RING_ENTRY_FETCH" (fun u => fetchEntry s q u ecc)

/-- A submission as it begins, from its entry and buffers. -/
def newSubmission (s : State) (ctx part : Nat) (idx : Word32) (entry buffer fallback : List Byte) (phase : SubPhase) : Submission :=
  { ctx := ctx, partition := part, idx := idx, entry := entry, buffer := buffer, fallback := fallback, pos := 0, phase := phase
    isFallback := false, fallbackRan := false, wasPreempted := false, stopped := false, fault := 0, faultAt := 0
    hung := false, splitLog2 := 0, progress := 0, consec := 0, crossed := 0, waitTicks := 0, deferrals := 0, coreNs := 0
    start := s.tick.time.toNat, ends := [], cores := [], gen := false, level := 0, throttled := false, checked := false
    held := false, window := 0, abortAt := 0, frozeTick := 0, windowOver := false, work := 0, place := [], maps := PageMap.empty }

/-! Commands of a buffer (R323 to R325). -/

def cmOp (c : List Byte) : Nat := fieldLE c 0 1
def cmFlags (c : List Byte) : Nat := fieldLE c 1 1
def cmLen (c : List Byte) : Nat := fieldLE c 2 2
def cmArg (c : List Byte) : Nat := fieldLE c 4 4
def cmOrder (c : List Byte) : Bool := bit (cmFlags c) 7

/-- Length of a command in 16-byte units by its table; 0 for a reserved OP (R324). -/
def opUnits (op : Nat) : Nat :=
  match op with
  | 0x00 => 1
  | 0x01 => 2
  | 0x02 => 11
  | 0x03 => 9
  | 0x04 => 3
  | 0x05 => 2
  | 0x06 => 2
  | 0x07 => 1
  | 0x40 => 1
  | 0x41 => 1
  | 0x42 => 5
  | 0x43 => 1
  | 0x44 => 2
  | 0x45 => 1
  | _ => 0

/-- The buffer that a submission executes. -/
def Submission.code (u : Submission) : List Byte := if u.isFallback then u.fallback else u.buffer

/-- The bytes from the next command on. -/
def nextCmd (u : Submission) : List Byte := u.code.drop u.pos

/-- The next command has a reserved OP. -/
def reservedNext (u : Submission) : Bool := decide (u.pos < u.code.length) && opUnits (cmOp (nextCmd u)) == 0

/-- What stands before offset `pos` of a buffer: only NOP and FENCE_WAIT, and how many FENCE_WAIT (R324). -/
def waitsBefore (buf : List Byte) (pos : Nat) : Nat → Nat → Bool × Nat → Bool × Nat
  | 0, _, r => r
  | n + 1, at_, r =>
    if pos ≤ at_ then r
    else
      let c := buf.drop at_
      let r' := if cmOp c = 0 then r else if cmOp c = 1 then (r.1, r.2 + 1) else (false, r.2)
      waitsBefore buf pos n (at_ + 16 * max 1 (cmLen c)) r'

/-- The fence waits of a buffer that hold its eligibility: address and value, at most 8 (R324). -/
def fenceWaits (buf : List Byte) : Nat → List (Nat × Nat)
  | 0 => []
  | n + 1 =>
    if buf.length < 16 then []
    else if cmOp buf = 0 && cmLen buf ≠ 0 then fenceWaits (buf.drop (16 * cmLen buf)) n
    else if cmOp buf = 1 && cmLen buf = 2 then (fieldLE buf 8 8, fieldLE buf 16 8) :: fenceWaits (buf.drop 32) n
    else []

/-- The waits of a fetched entry. -/
def waitsOf (f : Fetched) : List (Nat × Nat) :=
  match f.buffer with
  | some b => (fenceWaits b (b.length / 16)).take 8
  | none => []

/-- COMMAND_BUFFER_FETCH of an entry of a queue, checked by the access table in force as the read is made (R319, R321, R325, R343,
R496). -/
def fetchBuffer (s : State) (q : Nat) (u : Queue) (fallback : Bool) (ecc : Ecc) : Res :=
  let want (f : Fetched) : Bool :=
    f.status == 0 && (if fallback then !f.badHandle && f.fbSize != 0 && f.fallback.isNone else f.buffer.isNone)
  match u.fetched.find? want with
  | none => .refused (.notEnabled "COMMAND_BUFFER_FETCH")
  | some f =>
    let pa := if fallback then f.fbBase else reCbAddr f.entry
    let n := if fallback then f.fbSize else reCbLen f.entry
    let put (s : State) (g : Fetched → Fetched) : State :=
      modQueue s q (fun u => { u with fetched := u.fetched.map (fun x => if x.idx = f.idx then g x else x) })
    if !accessOk s u.ctx pa n false then .next (settleHead q 4 (put s (fun x => { x with status := stRefusedAccess })))
    else if readFails s pa n ecc then
      .next (readError (settleHead q 4 (put s (fun x => { x with status := stFaultMemory }))) pa n ecc)
    else
      let d := peek s pa n
      .next (put (readError s pa n ecc) (fun x => if fallback then { x with fallback := some d } else { x with buffer := some d }))

/-- A kernel submission or queue's submission whose next command has a reserved OP fails, at once or, with ORDER, once the work before
it is over (R325); `busy` says work is left. -/
def failReserved (s : State) (q : Nat) (busy : Bool) : State :=
  match find s.subs q with
  | some u => if reservedNext u && !u.stopped && !(cmOrder (nextCmd u) && busy) then failSubmission s q stFaultCommand else s
  | none => s

/-- COMMAND_BUFFER_FETCH of the kernel ring's entry: it executes at once (R327). -/
def fetchKernelBuffer (s : State) (ecc : Ecc) : Res :=
  match s.front.kFetched with
  | none => .refused (.notEnabled "COMMAND_BUFFER_FETCH")
  | some e =>
    if (find s.subs kring).isSome || asleep s 0 then .refused (.notEnabled "COMMAND_BUFFER_FETCH")
    else
      let pa := reCbAddr e
      let n := reCbLen e
      if !accessOk s 4096 pa n false then
        .next (settleDue (completeEntry s kring (unadmittedRecord s.front.kRead.toNat e stRefusedAccess 0 0)))
      else if readFails s pa n ecc then
        .next (readError (settleDue (completeEntry s kring (unadmittedRecord s.front.kRead.toNat e stFaultMemory 0 0))) pa n ecc)
      else
        let u := newSubmission s 4096 0 s.front.kRead e (peek s pa n) [] .running
        let s := readError s pa n ecc
        .next (failReserved (s.withSubs (insert s.subs kring u)) kring false)

/-- COMMAND_BUFFER_FETCH (R321): a command or fallback buffer is read into the buffer store. -/
def execCommandBufferFetch (q : Nat) (fallback : Bool) (ecc : Ecc) (s : State) : Res :=
  if q = kring then (if fallback then .refused (.notEnabled "COMMAND_BUFFER_FETCH") else fetchKernelBuffer s ecc)
  else needs (find s.queues q) "COMMAND_BUFFER_FETCH" (fun u => fetchBuffer s q u fallback ecc)

/-! Fence waits (R324). -/

/-- An address coded as FENCE_ADDR: aligned to 8, in host memory or in the bulk stacked memory that the ring may name (R317, R324). -/
def fenceCoded (s : State) (p : Option Nat) (a : Nat) : Bool := a % 8 == 0 && (bit a 63 || inStacks s p a 8)

/-- What a read of a fence word finds, for the submissions of a queue: its value, or the status of a wait that cannot be read. An
uncorrectable error has its effects (R220, R223); the losses that it makes due follow the submission's own fault. -/
def waitWord (s : State) (q master : Nat) (p : Option Nat) (a : Nat) : (Nat ⊕ Nat) × State :=
  if !fenceCoded s p a then (.inr stFaultCommand, s)
  else if bit a 63 then
    let r := hostRead s (fnOfQueue s q) (bits a 62 0) 8
    (.inl (ofLE r.1), r.2)
  else if !accessOk s master a 8 false then (.inr stFaultAccess, s)
  else if !memUp s a then (.inr stFaultMemory, s)
  else
    let r := devRead s a 8
    (if (poisonedIn s a 8).isEmpty then .inl (ofLE r.1) else .inr stFaultMemory, r.2)

/-- A wait holds no longer: its word reached the value, or it cannot be read and fails at its dispatch. -/
def waitMet (v : Nat) : Nat ⊕ Nat → Bool
  | .inl x => decide (v ≤ x)
  | .inr _ => true

/-- Wait i of a fetched entry is polled, if it is not met yet. -/
def pollWait (q : Nat) (idx : Word32) (s : State) (i : Nat) : State :=
  match find s.queues q with
  | none => s
  | some u =>
    match u.fetched.find? (fun f => f.idx == idx) with
    | none => s
    | some f =>
      if bit f.met i then s
      else
        match (waitsOf f)[i]? with
        | none => s
        | some w =>
          let r := waitWord s q u.ctx (some (ctxPartition s u.ctx)) w.1
          if waitMet w.2 r.1 then
            modQueue r.2 q (fun u => { u with fetched := u.fetched.map (fun x =>
              if x.idx = idx then { x with met := setBit x.met i true } else x) })
          else r.2

/-- FENCE_WAIT_POLL: the words of waiting entries are read again (R324). -/
def execFenceWaitPoll (s : State) : Res :=
  .next (settleDue (s.queues.foldl
    (fun s e => e.2.fetched.foldl (fun s f => (List.range (waitsOf f).length).foldl (pollWait e.1 f.idx) s) s) s))

/-- Every wait of an entry is met. -/
def waitsMet (f : Fetched) : Bool := (List.range (waitsOf f).length).all (fun i => bit f.met i)

/-! Context slots (R312). -/

/-- The queue is a real-time one, and its reserved mask. -/
def isRt (s : State) (q : Nat) : Bool := ((find s.queues q).map Queue.cls) == some 0
def rtMaskOf (s : State) (q : Nat) : Nat := ((find s.queues q).map Queue.rtMask).getD 0

/-- A submission of a real-time queue keeps the cores of its mask: until its work is over, or, while it is pre-empted, until the window
ends (R34). -/
def keepsCores (s : State) (q : Nat) (u : Submission) : Bool :=
  isRt s q && (u.phase != .saved || !u.windowOver)

/-- A submission of a queue must still wait after its release: for its context's slot, a restore, the dump of another submission
of its context, or cores that a real-time queue keeps (R34, R312, R358, R471). -/
def mustWait (s : State) (q : Nat) (u : Submission) : Bool :=
  (match find s.ctxs u.ctx with
   | some c => c.loading || c.restoring
   | none => false) ||
    s.subs.any (fun e => e.1 != q && e.2.ctx == u.ctx && e.2.phase == .frozen) ||
    s.subs.any (fun e => e.1 != q && e.1 != kring && keepsCores s e.1 e.2 && u.cores.any (fun c => bit (rtMaskOf s e.1) c) &&
      !isRt s q)

/-- Submissions that wait no longer go on. `passes` says that reserved cores pass now: their core time begins here (R354). -/
def unhold (passes : Bool) (s : State) : State :=
  s.withSubs (mapValues s.subs (fun q u =>
    if u.held && u.phase == .running && !mustWait s q u then
      { u with held := false, start := if passes then s.tick.time.toNat else u.start }
    else u))

/-- CONTEXT_SLOT_LOAD: the context's load completes and its work starts (R312). -/
def execContextSlotLoad (ctx : Nat) (s : State) : Res :=
  match find s.ctxs ctx with
  | some c =>
    if c.loading then .next (unhold false (modCtx s ctx (fun c => { c with loading := false })))
    else .refused (.notEnabled "CONTEXT_SLOT_LOAD")
  | none => .refused (.notEnabled "CONTEXT_SLOT_LOAD")

/-! Work of a submission (R325). -/

/-- A store of a queue is on its way to an attic slice. -/
def storeWaits (s : State) (q : Nat) : Bool :=
  anyValue s.mem.slices (fun _ k => k.reqs.any (fun r => match r with
    | .store _ _ _ e => e.queue == q
    | .line _ _ _ _ _ => false))

/-- Something of a stopped submission still executes. -/
def executesOf (s : State) (q : Nat) : Bool :=
  anyValue s.cores (fun _ k => k.executes q) || storeWaits s q ||
    anyValue s.cellars (fun _ e => (e.mv.toList ++ e.move.toList ++ e.fill.toList).any (fun x => x.cmd.queue == q))

/-- Work of a submission is left (R325). -/
def workLeft (s : State) (q : Nat) : Bool :=
  (match find s.subs q with
   | some u => u.work != 0
   | none => false) ||
    s.front.feCopies.any (fun f => f.queue == q) || executesOf s q ||
    anyValue s.cores (fun _ k => k.works q) ||
    anyValue s.cellars (fun _ e => (e.all ++ e.waiting).any (fun c => c.queue == q))

/-- FLAGS bits that a command's table allows, next to ORDER (R323, R324). -/
def opFlags (op : Nat) : Nat := if op = 0x04 then 3 else if op = 0x41 then 1 else 0

/-- The zero fields of a command, its privilege, and the place of a FENCE_WAIT (R324, R325, R327). -/
def formOk (s : State) (kernel : Bool) (u : Submission) (c : List Byte) : Bool :=
  let op := cmOp c
  let a := cmArg c
  let z (o n : Nat) : Bool := allZero ((c.drop o).take n)
  cmLen c == opUnits op && decide (16 * cmLen c ≤ c.length) && bits (cmFlags c) 6 0 / (opFlags op + 1) == 0 &&
    (if kernel then !(0x02 ≤ op && op ≤ 0x05) && op != 0x07 else !(0x40 ≤ op && op ≤ 0x45)) &&
    match op with
    | 0x00 => a == 0 && z 8 8
    | 0x01 =>
      let w := waitsBefore u.code u.pos (u.code.length / 16) 0 (true, 0)
      a == 0 && z 0x18 8 && fenceCoded s (if kernel then none else some u.partition) (fieldLE c 8 8) && (kernel || w.1) && decide (w.2 < 8)
    | 0x02 => decide (1 ≤ a) && decide (a ≤ 65536)
    | 0x03 => decide (a < 65536) && z 8 8
    | 0x04 => a == 0 && z 0x28 8
    | 0x05 => decide (1 ≤ a) && z 0x0C 4
    | 0x06 => (if kernel then decide (a < 4096) else a == 0) && z 0x18 8 && fieldLE c 8 8 % 65536 == 0 &&
        decide (fieldLE c 8 8 < 2 ^ 48) && decide (1 ≤ fieldLE c 0x10 8) && decide (fieldLE c 0x10 8 ≤ 2 ^ 32)
    | 0x07 => decide (a ≤ 1) && z 8 8
    | 0x40 => decide (a < 4096)
    | 0x41 => decide (a < 4096) && z 8 8
    | 0x42 => decide (a < 8192) && z 8 8
    | 0x43 => decide (a < 8192) && z 8 8
    | 0x44 => decide (a < 4096) && z 0x18 8
    | 0x45 => decide (a < 4096) && z 8 8
    | _ => false

/-- The next command of a running submission, if it has OP op and may be dispatched now (R325, R327). -/
def dispatchable (s : State) (q op : Nat) : Option (Submission × List Byte) :=
  match find s.subs q with
  | none => none
  | some u =>
    let c := nextCmd u
    if mayRun s q && decide (u.pos < u.code.length) && cmOp c == op && !attached s (.frontEnd q) &&
        !((q == kring || cmOrder c) && workLeft s q) then some (u, c)
    else none

/-- A command was dispatched: the submission goes on to the next one. -/
def advance (s : State) (q op : Nat) : State :=
  let s := modSub s q (fun u => { u with pos := u.pos + 16 * opUnits op })
  failReserved s q (workLeft s q)

/-- The dispatch of a command: a breach of its form is FAULT_COMMAND (R325), else its meaning follows. -/
def dispatchCmd (s : State) (q op : Nat) (name : String) (k : Submission → List Byte → Res) : Res :=
  match dispatchable s q op with
  | none => .refused (.notEnabled name)
  | some (u, c) => if formOk s (q == kring) u c then k u c else .next (failSubmission s q stFaultCommand)

/-- The command fails with a status (R325, R327). -/
def failCmdOf (s : State) (q status : Nat) : Res := .next (failSubmission s q status)

/-! Host apertures (R302 to R307). -/

/-- A host access at a physical address as a master: written or dropped, or its data (R304, R306, R307). -/
def hostAccess (s : State) (master pa : Nat) (acc : HostAccess) (err : State → State) : State :=
  let n := acc.len
  if reservedPa pa || !accessOk s master pa n acc.write then
    let s := err s
    if acc.write then s else emit s (.aperture (zeroBytes n))
  else if acc.write then (memWrite s master none pa (sliceBytes acc.data 0 n)).st
  else
    let r := memRead s master none pa n
    emit r.st (.aperture r.data)

/-- An access that maps nowhere. -/
def noAccess (s : State) (acc : HostAccess) (err : State → State) : State :=
  let s := err s
  if acc.write then s else emit s (.aperture (zeroBytes acc.len))

/-- BAR2_ACCESS: window off / 4 GiB (R304). -/
def execBar2Access (off : Nat) (acc : HostAccess) (s : State) : Res :=
  if 2 ^ 36 ≤ off || acc.len = 0 then .refused (.notEnabled "BAR2_ACCESS")
  else if asleep s 0 then .next s
  else
    let w := reg s (0x080 + 4 * (off / 2 ^ 32))
    let err (s : State) : State := orReg s offFeStatus 4
    .next (if bit w 31 then hostAccess s 4096 (bits w 11 0 * 2 ^ 32 + off % 2 ^ 32) acc err else noAccess s acc err)

/-- CONTEXT_WINDOW_ACCESS: a context window of a virtual function (R306). -/
def execContextWindowAccess (fn off : Nat) (acc : HostAccess) (s : State) : Res :=
  if fn = 0 || 64 ≤ fn || off < 0x10000 || 0x100000 ≤ off || acc.len = 0 then .refused (.notEnabled "CONTEXT_WINDOW_ACCESS")
  else if asleep s fn then .next s
  else
    let w := vfReg s fn (0x1400 + 4 * ((off - 0x10000) / 0x10000))
    let err (s : State) : State := orVfEvent s fn 2
    .next (if bit w 31 then hostAccess s (4096 + fn) (bits w 27 0 * 65536 + off % 0x10000) acc err else noAccess s acc err)

/-- D3HOT_ENTRY: a function's admissions, records and messages are held (R302). -/
def execD3hotEntry (fn : Nat) (s : State) : Res :=
  if 64 ≤ fn || asleep s fn then .refused (.notEnabled "D3HOT_ENTRY")
  else .next (s.withFront { s.front with d3hot := fn :: s.front.d3hot })

/-- One thing held is written or sent. -/
def sendHeld (fn : Nat) (s : State) : HeldOut → State
  | .hostWrite a d => hostWrite s fn a d
  | .msix v => emit s (.msix fn v)

/-- D0_RETURN: what was held is written and sent in order (R302). -/
def execD0Return (fn : Nat) (s : State) : Res :=
  if !asleep s fn then .refused (.notEnabled "D0_RETURN")
  else
    let out := (find s.front.heldOut fn).getD []
    .next (out.foldl (sendHeld fn)
      (s.withFront { s.front with d3hot := s.front.d3hot.filter (· != fn), heldOut := erase s.front.heldOut fn }))

/-- The contexts of a function. -/
def ctxsOfFn (s : State) (fn : Nat) : List Nat := (s.ctxs.filter (fun e => e.2.fn == fn && e.2.state != .free)).map Prod.fst

/-- A mailbox's answers that are withheld are sent to nobody (R414). -/
def dropMailbox (s : State) (fn : Nat) : State :=
  let mine (t : Option Transport) : Option Transport := t.filter (fun x => x != .mailbox fn)
  s.withDict { s.dict with
    staged := s.dict.staged.map (fun x => { x with who := mine x.who })
    clusters := s.dict.clusters.map (fun x => { x with who := mine x.who })
    open_ := s.dict.open_.filter (· != .mailbox fn)
    mboxBusy := s.dict.mboxBusy.filter (· != fn) }

/-- VF_FLR: the function's window and event registers clear, then its contexts are lost with reason FLR (R300, R414). -/
def execVfFlr (fn : Nat) (s : State) : Res :=
  if fn = 0 || 64 ≤ fn then .refused (.notEnabled "VF_FLR")
  else
    let s := s.withVfRegs (s.vfRegs.filter (fun e => !(e.1 / 0x100000 == fn && decide (0x1000 ≤ e.1 % 0x100000) &&
      decide (e.1 % 0x100000 < 0x2000))))
    .next ((ctxsOfFn s fn).foldl (fun s c => loseContext s c 6) (dropMailbox s fn))

end Sys2Proof.Machine
end

