-- ==== Sys2Proof/Machine/Objects.lean ====
section
/-!
DEFINITION. The objects of the parameter dictionary (R394 to R401, and the object tables of the other chapters): what an object is, its
value, and the rights of a master (R397, R407).
-/

namespace Sys2Proof.Machine

/-! Types (R395). -/

def tyBOOL : Nat := 0x01
def tyI16 : Nat := 0x03
def tyU8 : Nat := 0x06
def tyU16 : Nat := 0x07
def tyU32 : Nat := 0x08
def tyU64 : Nat := 0x09
def tyVSTR : Nat := 0x0C
def tyDOM : Nat := 0x0E
def tyDATE : Nat := 0x0F

/-- Bytes of a numeric type. -/
def tySize (ty : Nat) : Nat :=
  if ty = tyBOOL || ty = tyU8 then 1 else if ty = tyI16 || ty = tyU16 then 2 else if ty = tyU32 then 4 else 8

/-- A right: 0 none, 1 RO, 2 RW, 3 RW own partition only, as R404 codes it. -/
abbrev Right := Nat

/-- An object: type, size, rights of the four classes, whether it commits at a boundary, its range, the partition that its index or
subindex names, and its default. -/
structure ObjDesc where
  ty    : Nat
  size  : Nat
  pf    : Right
  vf    : Right
  mc    : Right
  ring  : Right
  next  : Bool
  range : Option (Nat × Nat)
  part  : Option Nat
  dflt  : Nat

/-- An object that every class reads and none writes. -/
def ro (ty : Nat) (range : Option (Nat × Nat)) (dflt : Nat) : ObjDesc :=
  ⟨ty, tySize ty, 1, 1, 1, 1, false, range, none, dflt⟩

/-- A next-boundary object with the rights of PF, VF, MC and ring. -/
def nb (ty : Nat) (pf vf mc ring : Right) (range : Option (Nat × Nat)) (part : Option Nat) (dflt : Nat) : ObjDesc :=
  ⟨ty, tySize ty, pf, vf, mc, ring, true, range, part, dflt⟩

/-- A string as a little-endian number. -/
def strLE (s : String) : Nat := ofLE (s.toList.map (fun c => BitVec.ofNat 8 c.toNat))

/-- The part number of a grade (R2, R399). With no fuses loaded the grade is not known: the model answers as
QM-144 (DESIGN CHOICE, log entry 57). -/
def partNumber (s : State) : String :=
  match (s.power.fuses.map Fuses.cores).getD 144 with
  | 112 => "QM-112"
  | 128 => "QM-128"
  | _ => "QM-144"

/-- The grade's core count (R2). With no fuses loaded the grade is not known: the model answers as
QM-144 (DESIGN CHOICE, log entry 57). -/
def gradeCores (s : State) : Nat := (s.power.fuses.map Fuses.cores).getD 144

/-- An object that a partition's index or subindex names exists for partitions 0 to 15. -/
def perPart (idx base : Nat) : Option Nat := if base ≤ idx && idx ≤ base + 15 then some (idx - base) else none

/-- The objects of identity, communication and calendar (R399). -/
def identityObj (s : State) (idx sub : Nat) : Option ObjDesc :=
  match idx, sub with
  | 0x1000, 1 => some { ro tyVSTR none (strLE "Feluenan") with size := 8 }
  | 0x1000, 2 => some { ro tyVSTR none (strLE (partNumber s)) with size := 6 }
  | 0x1000, 3 => some { ro tyVSTR none 0 with size := 16 }
  | 0x1000, 4 => some (ro tyU16 none 0)
  | 0x1000, 5 => some (ro tyU32 none 0)
  | 0x1001, 1 => some (ro tyU8 (some (112, 144)) (gradeCores s))
  | 0x1001, 2 => some { ro tyDOM none 0 with size := 20 }
  | 0x1002, n => if 1 ≤ n && n ≤ gradeCores s then some (ro tyU16 none 0) else none
  | 0x1003, 1 => some (ro tyU8 none 0)
  | 0x1003, 2 => some (ro tyU8 none 0)
  | 0x1004, 1 => some (ro tyU16 (some (0, 256)) 256)
  | 0x1010, 1 => some ⟨tyDATE, 8, 2, 1, 2, 1, false, some (calendarDefault, calLast), none, calendarDefault⟩
  | 0x1010, 2 => some (ro tyBOOL (some (0, 1)) 0)
  | 0x1010, 3 => some (ro tyU8 (some (1, 7)) 6)
  | _, _ => none

/-- The objects of tick, clocks and power (R20, R431, R458). -/
def controlObj (s : State) (idx sub : Nat) : Option ObjDesc :=
  match idx, sub with
  | 0x2000, 1 => some (nb tyU16 2 1 2 2 (some (5, 200)) none 20)
  | 0x2000, 2 => some (ro tyU16 none 20)
  | 0x2000, 3 => some (ro tyU64 none 0)
  | 0x2000, 4 => some (ro tyU64 none 0)
  | 0x2000, 5 => some (nb tyU8 2 1 2 1 (some (1, 64)) none 8)
  | 0x2000, 6 => some (ro tyU8 none 3)
  | 0x2001, n => if 1 ≤ n && n ≤ 16 then some (nb tyU64 2 1 2 0 none (some (n - 1)) 0) else none
  | 0x2100, 1 => some (ro tyU8 (some (0, 1)) 0)
  | 0x2100, 2 => some (ro tyU16 (some (0, 65535)) 0)
  | 0x2100, 3 => some (ro tyU32 none 0)
  | 0x2101, n => if 1 ≤ n && n ≤ 16 then some (ro tyU8 (some (3, 6)) 3) else none
  | 0x2200, 1 => some (ro tyU32 none (moduleRating s))
  | 0x2200, 2 => some (ro tyU16 none 0)
  | 0x2200, 3 => some (ro tyU32 none 0)
  | 0x2201, n => if 1 ≤ n && n ≤ 2 then some (ro tyI16 none 0) else none
  | 0x2202, 1 => some (nb tyI16 2 1 2 1 (some (560, 760)) none 760)
  | 0x2203, 1 => some (ro tyU32 none 0)
  | 0x2204, 1 => some (ro tyU8 none 0)
  | 0x2204, 2 => some (ro tyU8 none 0)
  | 0x2204, 3 => some ⟨tyU8, 1, 0, 0, 2, 0, false, some (1, 2), none, 0⟩
  | _, _ =>
    match perPart idx 0x2010, perPart idx 0x2210, perPart idx 0x2220 with
    | some p, _, _ => if 1 ≤ sub && sub ≤ 32 then some (nb tyU32 2 3 2 0 none (some p) 0) else none
    | _, some p, _ =>
      if 1 ≤ sub && sub ≤ 16 then some (nb tyU16 2 3 2 0 (some (0, 8192)) (some p) 0)
      else if sub = 17 then some (nb tyU8 2 3 2 0 (some (0, 3)) (some p) 0)
      else none
    | _, _, some p =>
      if sub = 1 then some { ro tyU8 (some (3, 6)) 3 with ring := 0, part := some p }
      else if sub = 2 then some { ro tyU8 (some (0, 3)) 0 with ring := 0, part := some p }
      else if sub = 3 then some { ro tyU32 none 0 with ring := 0, part := some p }
      else none
    | _, _, _ => none

/-- The objects of partitions, memory, translation, fabric and ring (R238, R261, R337, R344, R391). -/
def deviceObj (s : State) (idx sub : Nat) : Option ObjDesc :=
  let d := objDefault s idx sub
  match idx, sub with
  | 0x4000, 1 => some (nb tyU16 2 1 2 1 (some (1, 168)) none 24)
  | 0x4001, n => if 1 ≤ n && n ≤ 12 then some (ro tyU8 (some (0, 3)) 0) else none
  | 0x4002, n => if 1 ≤ n && n ≤ 12 then some (ro tyI16 none 0) else none
  | 0x4003, n => if 1 ≤ n && n ≤ 12 then some (ro tyU8 (some (0, 64)) 0) else none
  | 0x4004, n => if 1 ≤ n && n ≤ 16 then some (ro tyU32 none 0) else none
  | 0x4010, 1 => some (nb tyU16 2 1 2 1 (some (1, 1000)) none 50)
  | 0x5000, 1 => some (ro tyU8 (some (0, 63)) 0)
  | 0x5000, 2 => some (nb tyBOOL 2 1 2 1 (some (0, 1)) none 1)
  | 0x5000, 3 => some (ro tyU8 (some (0, 255)) 255)
  | 0x5000, 4 => some (ro tyU64 none 0)
  | 0x5000, 5 => some (nb tyBOOL 2 1 2 0 (some (1, 1)) none 0)
  | 0x5001, n => if 1 ≤ n && n ≤ 64 then some (nb tyU8 2 1 2 0 (some (0, 255)) none 255) else none
  | 0x5002, n => if 1 ≤ n && n ≤ 64 then some (nb tyU64 2 1 2 1 none none 0) else none
  | _, _ =>
    match perPart idx 0x3000, perPart idx 0x3010 with
    | some p, _ =>
      let x (ty : Nat) (range : Option (Nat × Nat)) : Option ObjDesc := some (nb ty 2 1 2 0 range (some p) d)
      match sub with
      | 1 => x tyU16 none
      | 2 => x tyU16 none
      | 3 => x tyU16 (some (0, 1021))
      | 4 => x tyU16 (some (0, 1022))
      | 5 => x tyU64 none
      | _ => none
    | _, some p =>
      if sub = 4 then some (nb tyU32 2 1 2 0 none (some p) d)
      else if 1 ≤ sub && sub ≤ 20 then some (nb tyU16 2 1 2 0 (some (0, 256)) (some p) d)
      else none
    | _, _ => none

/-- The objects of observability and policy (R116, R204, R344, R359, R474). -/
def policyObj (s : State) (idx sub : Nat) : Option ObjDesc :=
  let d := objDefault s idx sub
  match idx, sub with
  | 0x7020, n => if 1 ≤ n && n ≤ 16 then some (nb tyU32 2 3 2 0 (some (0, 50000)) (some (n - 1)) d) else none
  | 0x7021, n => if 1 ≤ n && n ≤ 16 then some (nb tyU8 2 3 2 0 (some (5, 64)) (some (n - 1)) d) else none
  | _, _ =>
    match perPart idx 0x6010, perPart idx 0x6020, perPart idx 0x7010, perPart idx 0x7030 with
    | some p, _, _, _ =>
      (match sub with
       | 1 => some (nb tyU64 2 3 2 0 none (some p) d)
       | 2 => some (nb tyU8 2 3 2 0 (some (10, 20)) (some p) d)
       | 3 => some (nb tyU32 2 3 2 0 (some (1024, 4294967295)) (some p) d)
       | 4 => some (nb tyU16 2 3 2 0 (some (0, 4096)) (some p) d)
       | _ => none)
    | _, some p, _, _ =>
      (match sub with
       | 1 => some (nb tyU64 2 3 2 0 none (some p) d)
       | 2 => some { ro tyU32 none 0 with part := some p }
       | _ => none)
    | _, _, some p, _ =>
      let x (ty lo hi : Nat) : Option ObjDesc := some (nb ty 2 1 2 0 (some (lo, hi)) (some p) d)
      (match sub with
       | 1 => x tyU8 1 255
       | 2 => x tyU8 1 64
       | 3 => x tyU16 1 1000
       | 4 => x tyU16 0 1000
       | 5 => x tyU8 0 48
       | 6 => x tyU8 0 128
       | _ => none)
    | _, _, _, some p =>
      (match sub with
       | 1 => some (nb tyU64 2 3 2 0 none (some p) d)
       | 2 => some (nb tyU16 2 3 2 0 none (some p) d)
       | _ => none)
    | _, _, _, _ => none

/-- The object index:subindex, if it exists (R394, R398). -/
def objDesc (s : State) (idx sub : Nat) : Option ObjDesc :=
  if idx / 0x1000 = 1 then identityObj s idx sub
  else if idx / 0x1000 = 2 then controlObj s idx sub
  else if idx / 0x1000 = 3 || idx / 0x1000 = 4 || idx / 0x1000 = 5 then deviceObj s idx sub
  else policyObj s idx sub

/-- The index exists (R398). -/
def idxExists (idx : Nat) : Bool :=
  (0x1000 ≤ idx && idx ≤ 0x1004) || idx == 0x1010 || idx == 0x2000 || idx == 0x2001 || (0x2010 ≤ idx && idx ≤ 0x201F) ||
    idx == 0x2100 || idx == 0x2101 || (0x2200 ≤ idx && idx ≤ 0x2204) || (0x2210 ≤ idx && idx ≤ 0x222F) ||
    (0x3000 ≤ idx && idx ≤ 0x301F) || (0x4000 ≤ idx && idx ≤ 0x4004) || idx == 0x4010 || (0x5000 ≤ idx && idx ≤ 0x5002) ||
    (0x6010 ≤ idx && idx ≤ 0x602F) || (0x7010 ≤ idx && idx ≤ 0x701F) || idx == 0x7020 || idx == 0x7021 ||
    (0x7030 ≤ idx && idx ≤ 0x703F)

/-! Values. -/

/-- STAGE of PW_START_STATUS and START_STAGE (R459). -/
def stageCode (s : State) : Nat :=
  if s.clock.hold then 10
  else
    match s.power.phase with
    | .failed => 15
    | .done => 9
    | .off => 0
    | .held => 0
    | _ => s.power.stage

/-- A stack state's code (R222, R238). -/
def stackStateCode : StackState → Nat
  | .absent => 0
  | .online => 1
  | .degraded => 2
  | .offline => 3

/-- BOARD_REVISION (R482). -/
def boardRevision (s : State) : Nat := Sys2Proof.Config.moduleRevision.toNat * 256 + s.pins.bbHeld % 16

/-- A partition's power state. -/
def partPower (s : State) (p : Nat) : PartPower := (find s.power.parts p).getD PartPower.reset

/-- A die's power state. -/
def diePower (s : State) (d : Nat) : DiePower := (find s.power.dies d).getD DiePower.reset

/-- The divider in force for a cluster (R417). -/
def divider (s : State) (c : Nat) : Nat := (s.clock.dividers[c]?).getD 3

/-- Free stage entries (R24, R399). -/
def stageFree (s : State) : Nat := 256 - s.dict.staged.length

/-- The value of an object as a little-endian number (R396): what software wrote and committed, or what the device reports. -/
def objValue (s : State) (idx sub : Nat) : Nat :=
  match idx, sub with
  | 0x1000, 1 => strLE "Feluenan"
  | 0x1000, 2 => strLE (partNumber s)
  | 0x1000, 3 => ofLE ((s.power.fuses.map Fuses.serial).getD [])
  | 0x1000, 4 => boardRevision s
  | 0x1000, 5 => (s.power.image.map ImageHeader.version).getD 0
  | 0x1001, 1 => gradeCores s
  | 0x1001, 2 => (s.power.fuses.map Fuses.enable).getD 0
  | 0x1002, n => pcoreOf s (n - 1)
  | 0x1003, 1 => s.dict.eidPcie
  | 0x1003, 2 => s.dict.eidI3c
  | 0x1004, 1 => stageFree s
  | 0x1010, 1 => s.dict.calendar
  | 0x1010, 2 => bnat s.dict.calValid
  | 0x1010, 3 => weekday s.dict.calendar
  | 0x2000, 2 => s.tick.period
  | 0x2000, 3 => s.tick.count.toNat
  | 0x2000, 4 => s.tick.boundary.toNat
  | 0x2000, 6 => s.tick.lock
  | 0x2100, 1 => bnat s.clock.onOsc
  | 0x2100, 2 => s.clock.monCount
  | 0x2100, 3 => s.clock.failovers.toNat
  | 0x2101, n => divider s (n - 1)
  | 0x2200, 1 => moduleRating s
  | 0x2200, 2 => s.power.volt
  | 0x2200, 3 => s.power.tickPower
  | 0x2201, n => twos 16 (diePower s (n - 1)).temp
  | 0x2203, 1 => getD 0 s.power.degraded 16
  | 0x2204, 1 => stageCode s
  | 0x2204, 2 => s.power.cause
  | 0x2204, 3 => 0
  | 0x4001, n => stackStateCode (stackSt s (n - 1)).state
  | 0x4002, n => twos 16 (stackSt s (n - 1)).temp
  | 0x4003, n => (stackSt s (n - 1)).retire.length
  | 0x4004, n => (pkgSt s (n - 1)).poisoned
  | 0x5000, 1 => s.ring.position
  | 0x5000, 3 => s.ring.master.getD 255
  | 0x5000, 4 => s.ring.census
  | 0x5000, 5 => 0
  | _, _ =>
    match perPart idx 0x2220 with
    | some p =>
      if sub = 1 then (partPower s p).target else if sub = 2 then (partPower s p).level else (partPower s p).power
    | none => obj s idx sub

/-! Masters (R342, R397, R408 to R410). -/

/-- The master classes. -/
inductive MClass where
  | pf | vf | mc | ring
  deriving DecidableEq, Repr

/-- The class and the access-table row of a transport's requester (R340, R408 to R410). -/
def classOf : Transport → MClass × Nat
  | .mailbox fn => if fn = 0 then (.pf, 4096) else (.vf, 4096 + fn)
  | .mctpPcie _ _ => (.pf, 4096)
  | .mctpI3c _ _ => (.mc, 4160)
  | .ring src => (.ring, 4161 + src)

/-- The right of a class. -/
def ObjDesc.right (d : ObjDesc) : MClass → Right
  | .pf => d.pf
  | .vf => d.vf
  | .mc => d.mc
  | .ring => d.ring

/-- The partition of a master bound to one (R341). -/
def masterPart (s : State) (row : Nat) : Nat := rowPart (accRow s row)

/-- The row grants the DICT right of an index's range (R341). -/
def dictGrant (s : State) (row idx : Nat) (write : Bool) : Bool :=
  rowValid (accRow s row) && rowDict (accRow s row) (idx / 0x1000) write

/-- An object that reads zero for a virtual function of another partition (R238, R337, R431). -/
def zeroForOther (idx : Nat) : Bool := (0x3000 ≤ idx && idx ≤ 0x300F) || idx == 0x2101 || (0x4001 ≤ idx && idx ≤ 0x4003)

/-- The object concerns a partition: its index or subindex names it, or the cluster or stack it names belongs to it. -/
def concerns (s : State) (d : ObjDesc) (idx sub p : Nat) : Bool :=
  if idx = 0x2101 then partOfCluster s (sub - 1) == some p
  else if 0x4001 ≤ idx && idx ≤ 0x4003 then partOfStack s (sub - 1) == some p
  else d.part == some p

/-- The master reaches an object that names a partition (R342). -/
def reaches (s : State) (c : MClass) (row : Nat) (d : ObjDesc) : Bool :=
  match c, d.part with
  | .vf, some p => masterPart s row == p
  | .ring, some p => masterPart s row == p
  | _, _ => true

/-! Abort codes (R407). -/

def abTRANSPORT : Nat := 0x06000002
def abFORMAT : Nat := 0x06000001
def abUNAVAILABLE : Nat := 0x08000001
def abBUSY : Nat := 0x05000002
def abNO_OBJECT : Nat := 0x01000001
def abNO_SUBINDEX : Nat := 0x01000002
def abACCESS : Nat := 0x02000001
def abREAD_ONLY : Nat := 0x02000002
def abTYPE : Nat := 0x03000001
def abLENGTH : Nat := 0x03000002
def abRANGE : Nat := 0x04000001
def abRESOURCE : Nat := 0x05000001
def abCONFLICT : Nat := 0x04000002
def abSUPERSEDED : Nat := 0x07000001
def abRESET : Nat := 0x07000002

/-- The object of an access, or the abort code of the first check it fails up to READ_ONLY (R407); in recovery, over I3C, only the
identity objects answer (R453). -/
def objAccess (s : State) (t : Transport) (idx sub : Nat) (write : Bool) : ObjDesc ⊕ Nat :=
  let c := (classOf t).1
  let row := (classOf t).2
  if !idxExists idx then .inr abNO_OBJECT
  else
    match objDesc s idx sub with
    | none => .inr abNO_SUBINDEX
    | some d =>
      let r := d.right c
      if r = 0 then .inr abACCESS
      else if write && r = 1 then .inr (if dictGrant s row idx false then abREAD_ONLY else abACCESS)
      else if !write && c == .vf && zeroForOther idx then (if dictGrant s row idx false then .inl d else .inr abACCESS)
      else if !reaches s c row d then .inr abACCESS
      else if dictGrant s row idx write then .inl d
      else .inr abACCESS

/-- The value that a master reads (R238, R337, R397, R431, R448). -/
def readValue (s : State) (t : Transport) (d : ObjDesc) (idx sub : Nat) : Nat :=
  let c := (classOf t).1
  let p := masterPart s (classOf t).2
  if c == .vf && zeroForOther idx && !concerns s d idx sub p then 0
  else if c == .vf && idx == 0x2203 then getD 0 s.power.degraded p
  else objValue s idx sub

/-- The value lies in its object's range (R395, R407), and in the areas that its definition names (R28, R470, R474). -/
def inRange (s : State) (d : ObjDesc) (idx sub v : Nat) : Bool :=
  (match d.range with
   | some r => d.ty == tyDATE || (decide (r.1 ≤ v) && decide (v ≤ r.2))
   | none => true) &&
    (if idx = 0x1010 then calOk v
     else if idx = 0x5001 then decide (v ≤ 15) || v == 255
     else if 0x3000 ≤ idx && idx ≤ 0x300F then
       (if sub = 2 then decide (v < 4096) else if sub = 5 then !bit v 0 else true)
     else
       match d.part with
       | none => true
       | some p =>
         if idx = 0x2001 then v == 0 || (v % 32768 == 0 && inPartStacks s p v 32768)
         else if idx = 0x6010 + p && sub = 1 then
           v == 0 || (v % 4096 == 0 && inPartStacks s p v (64 + 32 * 2 ^ obj s idx 2))
         else if idx = 0x6020 + p && sub = 1 then v == 0 || (v % 65536 == 0 && inPartStacks s p v (2 ^ 26))
         else true)

end Sys2Proof.Machine
end

