-- ==== Sys2Proof/Machine/Governor.lean ====
section
/-!
DEFINITION. The power governor: targets, relief, degrade levels, thermal targets, divider steps, fast holds and DEGRADED (R438 to R448),
and the wake governors of the dies (R293, R441, R442, R466).
-/

namespace Sys2Proof.Machine

/-- Set a partition's power state, a die's power state, a wake governor. -/
def setPartPower (s : State) (p : Nat) (v : PartPower) : State :=
  s.withPower { s.power with parts := insert s.power.parts p v }
def setDiePower (s : State) (d : Nat) (v : DiePower) : State :=
  s.withPower { s.power with dies := insert s.power.dies d v }
def governor (s : State) (d : Nat) : Governor := (find s.govs d).getD Governor.reset
def setGovernor (s : State) (d : Nat) (g : Governor) : State := s.withGovs (insert s.govs d g)

/-! Budgets (R440, R443, R444). -/

/-- POWER_BUDGET in 0.1 W, and DEGRADE_MAX. -/
def powerBudget (s : State) (p : Nat) : Nat := obj s (0x3010 + p) 4
def degradeMax (s : State) (p : Nat) : Nat := obj s (0x2210 + p) 17

/-- A queue belongs to a partition through its context. -/
def queueInPart (s : State) (p q : Nat) : Bool :=
  match find s.queues q with
  | some u => partOfQueue s u == p
  | none => false

/-- The queues that a partition designates; an entry that names a queue of another partition has no effect (R443). -/
def degradable (s : State) (p : Nat) : List Nat :=
  (((List.range 16).map (fun i => obj s (0x2210 + p) (i + 1))).filter (fun v => v != 0 && queueInPart s p (v - 1))).map (fun v => v - 1)

/-- The level that a submission of a queue binds at its admission (R445). -/
def levelFor (s : State) (p q : Nat) : Nat :=
  if 0 < degradeMax s p && (degradable s p).contains q then (partPower s p).level else 0

/-- The charge of a tick of `t` × 10 µs exceeds the budget: P in 0.1 W is the charge in µJ over `t` (R440). -/
def overBudget (budget t : Nat) (x : PartPower) : Bool := decide (budget * t < x.charge)

/-- The boundary counts towards relief (R440). -/
def countsRelief (budget t : Nat) (x : PartPower) : Bool :=
  if 0 < x.level then decide (4 * x.charge ≤ 3 * budget * t)
  else decide (3 < x.target) && decide (100 * x.charge * x.target ≤ 95 * budget * t * (x.target - 1))

/-- What the comparison does to a partition, and the event bits it sets (R440); `designates` says some queue may be degraded. -/
def budgetStep (budget t max : Nat) (designates : Bool) (x : PartPower) : PartPower × Nat :=
  if overBudget budget t x then
    if x.target < 6 then ({ x with target := x.target + 1, relief := 0 }, 0)
    else if x.level < max && designates then ({ x with level := x.level + 1, relief := 0 }, 0x20)
    else ({ x with unmet := true, relief := 0 }, 0x10)
  else
    let x := { x with unmet := false }
    if countsRelief budget t x then
      if x.relief + 1 < 4 then ({ x with relief := x.relief + 1 }, 0)
      else if 0 < x.level then ({ x with level := x.level - 1, relief := 0 }, 0)
      else ({ x with target := x.target - 1, relief := 0 }, 0)
    else ({ x with relief := 0 }, 0)

/-- A lowered DEGRADE_MAX takes the level with it (R444); a change of level sets the relief count to zero. -/
def clampLevel (max : Nat) (x : PartPower) : PartPower :=
  if max < x.level then { x with level := max, relief := 0 } else x

/-- One partition at step 6: its level is clamped, its charge compared, and the charge becomes ENERGY and P of the ended tick. -/
def governPart (t : Nat) (s : State) (p : Nat) : State :=
  let x := clampLevel (degradeMax s p) (partPower s p)
  let r := budgetStep (powerBudget s p) t (degradeMax s p) (!(degradable s p).isEmpty) x
  orReg (setPartPower s p { r.1 with power := x.charge / t, energy := x.charge, charge := 0 }) offPwEvent r.2

/-! Thermal targets (R446). -/

/-- THROTTLE_TEMP, in 0.125 °C. -/
def throttleTemp (s : State) : Int := signedOf 16 (obj s 0x2202 1)

/-- A die's thermal target at step 6, from the hottest sample of the ending tick. -/
def thermalStep (limit : Int) (x : DiePower) : DiePower :=
  match x.hottest with
  | none => { x with coolTicks := 0 }
  | some h =>
    let x := { x with hottest := none }
    if limit ≤ h then { x with coolTicks := 0, target := min 6 (x.target + 1) }
    else if h < limit - 40 then
      { x with coolTicks := x.coolTicks + 1, target := if 4 ≤ x.coolTicks + 1 then max 3 (x.target - 1) else x.target }
    else { x with coolTicks := 0 }

/-! Divider steps (R439, R441). -/

/-- The budget target of a cluster's partition; a cluster of no partition has none. -/
def budgetTarget (s : State) (c : Nat) : Nat :=
  match partOfCluster s c with
  | some p => (partPower s p).target
  | none => 3

/-- The thermal target of a cluster's die. -/
def thermalTarget (s : State) (c : Nat) : Nat := (diePower s (c / 8)).target

/-- The target of a cluster. -/
def clusterTarget (s : State) (c : Nat) : Nat := max (thermalTarget s c) (budgetTarget s c)

/-- Clusters that are to step, in the order of issue (R441): those carried, then down for thermal reasons, other down, up. -/
def stepOrder (s : State) : List Nat :=
  let moves (c : Nat) : Bool := divider s c != clusterTarget s c
  let old := s.power.carried.filter moves
  let all := (List.range 16).filter (fun c => moves c && !old.contains c)
  let down (c : Nat) : Bool := decide (divider s c < clusterTarget s c)
  let hot (c : Nat) : Bool := decide (divider s c < thermalTarget s c)
  old ++ all.filter (fun c => down c && hot c) ++ all.filter (fun c => down c && !hot c) ++ all.filter (fun c => !down c)

/-- The windows that hold a grid edge of step 6: edges stand at multiples of 20 ns of TIME, step 6 at 896 to 1,022 ns after the
boundary's edge (R22, R416, R441). -/
def stepWindows (s : State) : List Nat :=
  let b := s.tick.boundary.toNat
  let first := ceilDiv (b + 896) 20 * 20
  ((((List.range 7).map (fun i => first + 20 * i)).filter (fun e => decide (e ≤ b + 1022))).map (fun e => e / 100)).eraseDups

/-- Grants that a window of a governor has made or promised. -/
def windowUsed (g : Governor) (w : Nat) : Nat := getD 0 g.booked w + (if g.window = w then g.grants else 0)

/-- A cluster's step is issued in the first window with room, or carried (R441). -/
def issueStep (windows : List Nat) (s : State) (c : Nat) : State :=
  let d := c / 8
  let g := governor s d
  let cost := (coresOfClusters s (2 ^ c)).length
  match windows.find? (fun w => decide (windowUsed g w + cost ≤ 16)) with
  | none => orReg (s.withPower { s.power with carried := s.power.carried ++ [c] }) offPwEvent 0x100
  | some w =>
    let v := if divider s c < clusterTarget s c then divider s c + 1 else divider s c - 1
    let s := setGovernor s d { g with booked := putD 0 g.booked w (getD 0 g.booked w + cost) }
    let s := dieEvent s d 0x85 none 1
    orReg (s.withClock { s.clock with dividers := s.clock.dividers.set c v }) offPwEvent 2

/-- Windows that are over need no booking. -/
def Governor.trim (now : Nat) (g : Governor) : Governor := { g with booked := g.booked.filter (fun e => decide (now ≤ e.1)) }

/-- The steps of a boundary. -/
def issueSteps (s : State) : State :=
  let s := s.withGovs (mapValues s.govs (fun _ g => g.trim (s.tick.boundary.toNat / 100)))
  let l := stepOrder s
  l.foldl (issueStep (stepWindows s)) (s.withPower { s.power with carried := [] })

/-! Fast holds (R442). -/

/-- A hold is in force on a die. -/
def dieHeld (s : State) (d : Nat) : Bool := s.power.holdPower || (diePower s d).hold

/-- The logical cores of a die, ascending. -/
def dieCores (s : State) (d : Nat) : List Nat := (List.range (numCores s)).filter (fun c => dieOf s c == d)

/-- A core is asked to enter a hold: a request to leave that waits falls away; one that is out of the hold waits for a grant. -/
def askEnter (s : State) (c : Nat) : State :=
  let d := dieOf s c
  let g := governor s d
  let kept := g.waiting.filter (fun w => !(w.core == c && w.kind == .leave))
  if (coreSt s c).held || kept.any (fun w => w.core == c && w.kind == .enter) then setGovernor s d { g with waiting := kept }
  else dieEvent (setGovernor s d { g with waiting := queueWake ⟨c, s.tick.time, .enter⟩ kept }) d 0x84 none 1

/-- A core is asked to leave a hold: a request to enter that waits falls away. -/
def askLeave (s : State) (c : Nat) : State :=
  let d := dieOf s c
  let g := governor s d
  let kept := g.waiting.filter (fun w => !(w.core == c && w.kind == .enter))
  if (coreSt s c).held && !kept.any (fun w => w.core == c && w.kind == .leave) then
    dieEvent (setGovernor s d { g with waiting := queueWake ⟨c, s.tick.time, .leave⟩ kept }) d 0x84 none 1
  else setGovernor s d { g with waiting := kept }

/-- A hold starts on a set of dies. -/
def startHold (s : State) (dies : List Nat) : State :=
  let s := s.withPower { s.power with holdSeen := s.power.holdSeen ||| maskOf dies }
  dies.foldl (fun s d => (dieCores s d).foldl askEnter s) s

/-- 102 °C in 0.125 °C (R442). -/
def holdTemp : Int := 816

/-- Holds whose cause's last sample lies below its threshold end (R442). -/
def endHolds (s : State) : State :=
  let before := (List.range 2).filter (dieHeld s)
  let s := (List.range 2).foldl (fun s d =>
    let x := diePower s d
    if x.hold && decide (x.last < holdTemp) then setDiePower s d { x with hold := false } else s) s
  let s := if s.power.holdPower && !s.power.sampleHigh then s.withPower { s.power with holdPower := false } else s
  (before.filter (fun d => !dieHeld s d)).foldl (fun s d => (dieCores s d).foldl askLeave s) s

/-! DEGRADED (R448). -/

/-- The clusters that run at a divider other than ÷3. -/
def slowed (s : State) (c : Nat) : Bool := divider s c != 3

/-- The value of DEGRADED that concerns a set of clusters, stacks, ports and partitions. -/
def degradedOf (s : State) (clusters : List Nat) (stackNos : List Nat) (store : Bool) (ports : List Nat) (parts : List Nat) (dies : List Nat) : Nat :=
  bnat (clusters.any (fun c => slowed s c && decide (3 < thermalTarget s c))) +
    2 * bnat (clusters.any (fun c => slowed s c && decide (3 < budgetTarget s c))) +
    4 * bnat (parts.any (fun p => decide (0 < (partPower s p).level))) +
    8 * bnat (stackNos.any (fun st => (stackSt s st).state != .online)) +
    16 * bnat (store && (List.range 16).any (fun p => (pkgSt s p).failed)) +
    32 * bnat (ports.any (fun n => ((find s.ports n).getD Port.reset).state == 3)) +
    64 * bnat (dies.any (fun d => bit s.power.holdSeen d)) +
    128 * bnat (parts.any (fun p => (partPower s p).unmet))

/-- DEGRADED of the module. -/
def degradedModule (s : State) : Nat :=
  degradedOf s (List.range 16) (List.range 12) true (List.range 16) (List.range 16) (List.range 2)

/-- DEGRADED as it concerns a partition. -/
def degradedPart (s : State) (p : Nat) : Nat :=
  let cl := bitsSet 16 (partClusters s p)
  degradedOf s cl (bitsSet 12 (partStacks s p)) (partSegCount s p != 0)
    ((List.range 16).filter (fun n => obj s (0x3010 + p) (5 + n) != 0)) [p] ((cl.map (fun c => c / 8)).eraseDups)

/-- Key 16 holds the module's value, key p the value that concerns partition p. -/
def updateDegraded (s : State) : State :=
  let l := (List.range 16).map (fun p => (p, degradedPart s p)) ++ [(16, degradedModule s)]
  s.withPower { s.power with degraded := l.filter (fun e => e.2 != 0) }

/-- Step 6 of the boundary that ends a tick of `t` × 10 µs (R439 to R448). -/
def governorStep (t : Nat) (s : State) : State :=
  let total := (List.range 16).foldl (fun n p => n + (partPower s p).charge) 0
  let s := s.withPower { s.power with tickPower := total / t }
  let s := (List.range 16).foldl (governPart t) s
  let s := (List.range 2).foldl (fun s d => setDiePower s d (thermalStep (throttleTemp s) (diePower s d))) s
  let s := endHolds (issueSteps s)
  let s := updateDegraded s
  s.withPower { s.power with holdSeen := maskOf ((List.range 2).filter (dieHeld s)) }

/-! The wake governors (R292, R293, R442, R466). -/

/-- What a granted request does to its core. -/
def grantCore (s : State) (w : WakeReq) : State :=
  modCore s w.core (fun k => match w.kind with
    | .wake => { k with gated := false }
    | .enter => { k with held := true }
    | .leave => { k with held := false })

/-- A request is granted: one that waited beyond its arrival window adds its wait (R466). -/
def grantReq (d now : Nat) (s : State) (w : WakeReq) : State :=
  let s := grantCore s w
  let s := if w.kind = .leave then s else dieEvent s d 0x85 none 1
  if w.at_.toNat / 100 = now / 100 || !obOn s then s
  else
    addPair48 (addPair48 s (obDie d + 0x110) 1) (obDie d + 0x118) (now - w.at_.toNat)

/-- WAKE_WINDOW: the governor of a die grants what waits, in order, as far as the window of now has room (R293, R441, R442). -/
def execWakeWindow (die : Nat) (s : State) : Res :=
  if 2 ≤ die then .refused (.notEnabled "WAKE_WINDOW")
  else
    let now := s.tick.time.toNat
    let w := now / 100
    let g := governor s die
    let g := if g.window = w then g else { g with window := w, grants := 0, gust := false }
    let g := g.trim w
    let n := 16 - windowUsed g w
    let now_ := g.waiting.take n
    let left := g.waiting.drop n
    let fresh := left.any (fun x => x.at_.toNat / 100 == w) && !g.gust
    let s := setGovernor s die { g with waiting := left, grants := g.grants + now_.length, gust := g.gust || fresh }
    let s := now_.foldl (grantReq die now) s
    .next (if fresh && obOn s then addPair48 s (obDie die + 0x108) 1 else s)

end Sys2Proof.Machine
end

