-- ==== Sys2Proof/Machine/Pools.lean ====
section
/-!
DEFINITION. Key-value pools: the commit of a control block (R359, R360) and a step (R361 to R364).
-/

namespace Sys2Proof.Machine

/-! The control block. -/

/-- The areas that a block names: address and length (R359). -/
def poolAreas (pl : Pool) : List (Nat × Nat) :=
  [(pl.blockPa, 256), (pbSeqPa pl, 32 * pbMaxSeq pl), (pbListPa pl, 4 * pbMaxStripes pl * pbMaxSeq pl),
    (pbReqPa pl, 16 * 2 ^ pbReqLog2 pl), (pbStatePa pl, 8 * (pbNs pl + pbNr pl + pbMaxSeq pl + 16))]

/-- SPARE_PA of a stack. -/
def pbSpare (pl : Pool) (st : Nat) : Nat := fieldLE pl.block (0x50 + 8 * st) 8

/-- The page k of stripe i is mapped as R360 asks: a bulk read-write leaf with PIN 0, in its stack, or in the store-room segments. -/
def stripePageOk (s : State) (p : Nat) (pl : Pool) (i k : Nat) : Bool :=
  match leafOf s (pbCtx pl) (stripeVa pl i k) with
  | none => false
  | some (_, e) =>
    leafBulk e && leafR e && leafW e && !leafPin e &&
      (if i < pbNs pl then stackOf (leafAddr e) == (pbStacks pl)[k]?
       else inStoreRoom (leafAddr e) && segInPart s p (segOf (leafAddr e)))

/-- Every stripe page is mapped as R360 asks. -/
def stripesOk (s : State) (p : Nat) (pl : Pool) : Bool :=
  (List.range (pbNs pl + pbNr pl)).all (fun i => (List.range (pbStacks pl).length).all (fun k => stripePageOk s p pl i k))

/-- The queue names a queue of the pool's context, which is one of the partition's (R359). -/
def poolCtxOk (s : State) (p : Nat) (pl : Pool) : Bool :=
  (match find s.ctxs (pbCtx pl) with
   | some c => c.partition == p && (c.state == .idle || c.state == .resident)
   | none => false) &&
    match find s.queues pl.queue with
    | some u => u.ctx == pbCtx pl
    | none => false

/-- A control block keeps to R359 and R360. -/
def poolBlockOk (s : State) (p : Nat) (pl : Pool) : Bool :=
  let n := (pbStacks pl).length
  let wait := fieldLE pl.block 0x06 2
  let va := pbVa pl
  pl.blockPa % 256 == 0 && (poolAreas pl).all (fun a => inPartStacks s p a.1 a.2) && fieldLE pl.block 0x00 1 == 1 &&
    decide (fieldLE pl.block 0x01 1 ≤ 15) && decide (pbMask pl < 4096) && decide (1 ≤ n) &&
    (pbStacks pl).all (fun st => bit (partStacks s p) st) && decide (pbCtx pl < 4096) && decide (1 ≤ wait) && decide (wait ≤ 1000) &&
    decide (1 ≤ pbTokens pl) && decide (pbTokens pl ≤ 65536) && decide (1 ≤ pbMaxSeq pl) && decide (pbMaxSeq pl ≤ 65536) &&
    va % 65536 == 0 && decide (1 ≤ pbNs pl) && decide (1 ≤ pbMaxStripes pl) && decide (pbMaxStripes pl ≤ 65536) &&
    decide (4 ≤ pbReqLog2 pl) && decide (pbReqLog2 pl ≤ 16) && !cachedVa va &&
    decide (va + (pbNs pl + pbNr pl) * n * 65536 ≤ 2 ^ 48) &&
    (List.range 12).all (fun st =>
      if bit (pbMask pl) st then pbSpare pl st % 65536 == 0 && stackOf (pbSpare pl st) == some st else pbSpare pl st == 0) &&
    allZero ((pl.block.drop 0xB0).take 80) && poolCtxOk s p pl && stripesOk s p pl

/-- The pool as its block makes it. -/
def enabledPool (s : State) (pl : Pool) : Pool :=
  { pl with
    enabled := true
    stripes := (List.range (pbNs pl + pbNr pl)).map (fun i =>
      { pages := (stripePages s pl i).map (fun a => a.getD noPage), inSr := decide (pbNs pl ≤ i), user := none })
    spares := (pbStacks pl).map (pbSpare pl)
    read := BitVec.ofNat 32 (fieldLE pl.block 0x4C 4) }

/-- PT_POOL_EVENT of a partition. -/
def offPoolEvent (p : Nat) : Nat := offPool p + 8

/-- The pool of a partition is disabled, until the next commit of POOL_BLOCK (R359, R451). -/
def disablePool (s : State) (p : Nat) : State :=
  setRegField (s.withPart { s.part with pools := erase s.part.pools p }) (offPoolEvent p) 0 0 0

/-- POOL_BLOCK or POOL_QUEUE is committed: the device reads and checks the block; one that it refuses, and 0, leave the pool disabled
(R359). -/
def poolCommit (s : State) (p blockPa queue : Nat) : State :=
  let s := disablePool s p
  if blockPa = 0 then s
  else
    let pl : Pool := { Pool.reset with blockPa := blockPa, block := peek s blockPa 256, queue := queue }
    let s := devNote s blockPa 256
    if memUp s blockPa && (poisonedIn s blockPa 256).isEmpty && poolBlockOk s p pl then
      setRegField (setPool s p (enabledPool s pl)) (offPoolEvent p) 0 0 1
    else orReg s (offPoolEvent p) 4

/-! Sequence entries (R361). -/

def sqFREE : Nat := 0
def sqRUNNING : Nat := 1
def sqWAITING : Nat := 2
def sqLEFT : Nat := 3
def sqENDED : Nat := 4

def seqState (s : State) (pl : Pool) (q : Nat) : Nat := ofLE (peek s (seqPa pl q) 1)
def seqPriority (s : State) (pl : Pool) (q : Nat) : Nat := ofLE (peek s (seqPa pl q + 2) 1)
def seqTokens (s : State) (pl : Pool) (q : Nat) : Nat := ofLE (peek s (seqPa pl q + 4) 4)
def seqStripeCount (s : State) (pl : Pool) (q : Nat) : Nat := ofLE (peek s (seqPa pl q + 8) 4)
def seqOrder (s : State) (pl : Pool) (q : Nat) : Nat := ofLE (peek s (seqPa pl q + 0x10) 8)
def seqWaited (s : State) (pl : Pool) (q : Nat) : Nat := ofLE (peek s (seqPa pl q + 0x18) 2)

/-- STATE and STATUS of a sequence. -/
def setSeqState (s : State) (pl : Pool) (q st status : Nat) : State := devWrite s (seqPa pl q) (toLE 1 st ++ toLE 1 status)

/-- The sequences of a pool that run, in ascending JOIN_ORDER. -/
def runningSeqs (s : State) (pl : Pool) : List Nat :=
  sortBy (fun a b => decide (seqOrder s pl a ≤ seqOrder s pl b))
    ((List.range (pbMaxSeq pl)).filter (fun q => seqState s pl q == sqRUNNING))

/-- The free stripes of a kind, ascending. -/
def freeStripes (pl : Pool) (sr : Bool) : List Nat :=
  (List.range pl.stripes.length).filter (fun i =>
    match pl.stripes[i]? with
    | some x => x.user.isNone && x.inSr == sr
    | none => false)

/-- A sequence holds one more stripe. -/
def takeStripe (s : State) (p q i : Nat) : State :=
  let pl := poolOf s p
  let l := seqStripes s pl q
  let pl := { pl with stripes := pl.stripes.modify i (fun x => { x with user := some q }) }
  writeList (setPool s p pl) pl q (l ++ [i])

/-- A sequence stops: its stripes are free, and its entry says how (R361, R363). -/
def endSeq (s : State) (p q st status : Nat) : State :=
  let pl := poolOf s p
  let pl := { pl with
    stripes := pl.stripes.map (fun x => if x.user = some q then { x with user := none } else x)
    waiting := pl.waiting.filter (fun w => w.1 != q) }
  let s := setSeqState (setPool s p pl) pl q st status
  devWrite s (seqPa pl q + 4) (zeroBytes 12)

/-- An event of the pool is counted for the partition and in a field of its batch queue (R353). -/
def countPool (s : State) (p n : Nat) (f : Queue → Queue) : State := modQueue (countPart s p n) (poolOf s p).queue f

/-- A sequence is ended for want of room for its need (R363). -/
def refuseSeq (s : State) (p q status : Nat) : State :=
  countPool (endSeq s p q sqENDED status) p (if status = stRefusedMemory then 4 else 5)
    (fun u => { u with refusals := u.refusals + 1 })

/-! Spills (R364). -/

/-- No page of a stripe is pinned. -/
def unpinned (s : State) (pl : Pool) (i : Nat) : Bool :=
  (List.range (pbStacks pl).length).all (fun k =>
    match leafOf s (pbCtx pl) (stripeVa pl i k) with
    | some (_, e) => !leafPin e
    | none => false)

/-- The swap that a spill of a sequence makes: its oldest stack-backed stripe without pinned pages, and a free store-room-backed one. -/
def spillPair (s : State) (p q : Nat) : Option (Nat × Nat) :=
  let pl := poolOf s p
  if pl.broken || pl.spares.contains noPage then none
  else
    match (seqStripes s pl q).find? (fun i => !backedBySr pl i && unpinned s pl i), (freeStripes pl true).head? with
    | some x, some y => some (x, y)
    | _, _ => none

/-- The two moves of a swap on each stack of the mask, in order. -/
def swapMoves (p : Nat) (pl : Pool) (x y : Nat) : List PageMove :=
  let xs := ((pl.stripes[x]?).map Stripe.pages).getD []
  let ys := ((pl.stripes[y]?).map Stripe.pages).getD []
  ((List.range (pbStacks pl).length).map (fun k =>
    let mk (i src dst : Nat) : PageMove :=
      { partition := p, ctx := pbCtx pl, va := stripeVa pl i k, src := src, dst := dst, queue := none, running := false }
    [mk y (ys.getD k noPage) (pl.spares.getD k noPage), mk x (xs.getD k noPage) (ys.getD k noPage)])).flatten

/-- A spill: X and Y swap their backing, X's pages become the spares, the growing sequence takes Y (R364). -/
def spill (s : State) (p q x y : Nat) : State :=
  let pl := poolOf s p
  let xs := ((pl.stripes[x]?).map Stripe.pages).getD []
  let ys := ((pl.stripes[y]?).map Stripe.pages).getD []
  let stripes := (pl.stripes.modify x (fun t => { t with pages := ys, inSr := true })).modify y
    (fun t => { t with pages := pl.spares, inSr := false })
  let s := s.withMem { s.mem with moves := s.mem.moves ++ swapMoves p pl x y }
  countHigh (takeStripe (setPool s p { pl with stripes := stripes, spares := xs }) p q y) (offPoolEvent p)

/-! A step (R363). -/

/-- The RUNNING sequence to end: the lowest PRIORITY, then the largest JOIN_ORDER. -/
def seqVictim (s : State) (pl : Pool) : Option Nat :=
  (runningSeqs s pl).foldl (fun b q =>
    match b with
    | none => some q
    | some v => if seqPriority s pl q ≤ seqPriority s pl v then some q else b) none

/-- A sequence takes stripes until it holds its need, spilling and ending sequences where it must. -/
def growTo (p q need : Nat) : Nat → State → State
  | 0, s => s
  | n + 1, s =>
    let pl := poolOf s p
    if seqState s pl q ≠ sqRUNNING || need ≤ seqStripeCount s pl q then s
    else
      match freeStripes pl false, spillPair s p q with
      | i :: _, _ => growTo p q need n (takeStripe s p q i)
      | [], some (x, y) => growTo p q need n (spill s p q x y)
      | [], none =>
        match seqVictim s pl with
        | some v =>
          growTo p q need n (countPool (endSeq s p v sqENDED stPreempted) p 8 (fun u => { u with preempts := u.preempts + 1 }))
        | none => s

/-- A request of the ring: OP, PRIORITY, sequence, TOKENS, and whether its form is good (R362). -/
structure PoolReq where
  op     : Nat
  prio   : Nat
  seq    : Nat
  tokens : Nat
  good   : Bool

/-- Request i of the ring. -/
def poolReq (s : State) (pl : Pool) (i : Nat) : PoolReq :=
  let b := peek s (pbReqPa pl + 16 * (i % 2 ^ pbReqLog2 pl)) 16
  let op := fieldLE b 0 1
  let pr := fieldLE b 1 1
  let sq := fieldLE b 4 4
  { op := op, prio := pr, seq := sq, tokens := fieldLE b 8 4
    good := decide (1 ≤ op) && decide (op ≤ 3) && decide (sq < pbMaxSeq pl) && decide (pr ≤ if op = 1 then 7 else 0) &&
      fieldLE b 2 2 == 0 && fieldLE b 12 4 == 0 }

/-- PT_POOL_EVENT.BAD_REQ. -/
def badReq (s : State) (p : Nat) : State := orReg s (offPoolEvent p) 8

/-- Growth of one sequence by its tokens of this step. -/
def growSeq (p : Nat) (reqs : List PoolReq) (s : State) (q : Nat) : State :=
  let pl := poolOf s p
  if seqState s pl q ≠ sqRUNNING then s
  else
    let more := (reqs.filter (fun r => r.op == 3 && r.seq == q)).foldl (fun n r => n + r.tokens) (fieldLE pl.block 0x01 1)
    let tokens := seqTokens s pl q + more
    let need := ceilDiv tokens (pbTokens pl)
    if pbMaxStripes pl < need then refuseSeq s p q stRefusedSize
    else growTo p q need (need + pl.stripes.length + pbMaxSeq pl) (devWrite s (seqPa pl q + 4) (toLE 4 tokens))

/-- One join: whether an earlier one has failed to fit, and the sequence with its tokens. -/
def joinSeq (p : Nat) (r : State × Bool) (j : Nat × Nat) : State × Bool :=
  let s := r.1
  let pl := poolOf s p
  let need := ceilDiv j.2 (pbTokens pl)
  if pbNs pl < need || pbMaxStripes pl < need then (refuseSeq s p j.1 stRefusedSize, r.2)
  else if !r.2 && need ≤ (freeStripes pl false).length then
    let s := setPool s p { pl with waiting := pl.waiting.filter (fun w => w.1 != j.1) }
    let s := ((freeStripes pl false).take need).foldl (fun s i => takeStripe s p j.1 i) s
    (setSeqState s pl j.1 sqRUNNING stOk, false)
  else if fieldLE pl.block 0x06 2 ≤ seqWaited s pl j.1 then (refuseSeq s p j.1 stRefusedMemory, r.2)
  else
    let s := setPool s p { pl with waiting := pl.waiting.filter (fun w => w.1 != j.1) ++ [j] }
    let s := setSeqState s pl j.1 sqWAITING 0x01
    let s := devWrite s (seqPa pl j.1 + 0x18) (toLE 2 (seqWaited s pl j.1 + 1))
    (countPool s p 2 (fun u => { u with defers := u.defers + 1 }), true)

/-- A JOIN request: bad for a sequence that runs or waits; else its entry begins, and it joins. -/
def joinReq (p : Nat) (r : State × Bool) (x : PoolReq) : State × Bool :=
  let pl := poolOf r.1 p
  let st := seqState r.1 pl x.seq
  if st = sqRUNNING || st = sqWAITING then (badReq r.1 p, r.2)
  else
    let s := devWrite r.1 (seqPa pl x.seq) (toLE 1 st ++ toLE 1 0 ++ toLE 1 x.prio ++ toLE 1 0 ++ toLE 4 x.tokens ++ zeroBytes 8 ++
      toLE 8 pl.joins ++ zeroBytes 8)
    joinSeq p (setPool s p { pl with joins := pl.joins + 1 }, r.2) (x.seq, x.tokens)

/-- The requests that a step consumes: up to the REQ_WRITE it reads, at most a ring of them (R363). -/
def stepRequests (s : State) (pl : Pool) : List PoolReq :=
  let w : Word32 := BitVec.ofNat 32 (ofLE (peek s (pl.blockPa + 0x48) 4))
  let n := min (w - pl.read).toNat (2 ^ pbReqLog2 pl)
  (List.range n).map (fun i => poolReq s pl (pl.read.toNat + i))

/-- What a step reads of a pool's areas: REQ_WRITE, the requests, the sequence entries and their page lists. -/
def stepReads (s : State) (pl : Pool) (reqs : Nat) : List (Nat × Nat) :=
  [(pl.blockPa + 0x48, 4), (pbSeqPa pl, 32 * pbMaxSeq pl)] ++
    (List.range reqs).map (fun i => (pbReqPa pl + 16 * ((pl.read.toNat + i) % 2 ^ pbReqLog2 pl), 16)) ++
    ((List.range (pbMaxSeq pl)).filter (fun q => seqState s pl q == sqRUNNING)).map (fun q => (listPa pl q 0, 4 * seqStripeCount s pl q))

/-- The leaves, growth and joins of a step of a partition's pool (R363). -/
def poolWork (s : State) (p : Nat) : State :=
  let pl := poolOf s p
  let all := stepRequests s pl
  let reqs := all.filter PoolReq.good
  let s := if reqs.length = all.length then s else badReq s p
  let s := (reqs.filter (fun r => r.op == 2)).foldl (fun s r => endSeq s p r.seq sqLEFT stOk) s
  let grows := reqs.filter (fun r => r.op == 3)
  let s := if grows.all (fun r => seqState s pl r.seq == sqRUNNING) then s else badReq s p
  let s := (runningSeqs s pl).foldl (growSeq p grows) s
  let r := (poolOf s p).waiting.foldl (joinSeq p) (s, false)
  let r := (reqs.filter (fun r => r.op == 1)).foldl (joinReq p) r
  let s := r.1
  let pl := { poolOf s p with read := pl.read + BitVec.ofNat 32 all.length }
  let s := devWrite (setPool s p pl) (pl.blockPa + 0x4C) (toLE 4 pl.read.toNat)
  setReg (setReg s (offPool p) (freeStripes pl false).length) (offPool p + 4) (freeStripes pl true).length

/-- A step of a partition's pool (R363): the errors that its reads meet are reported (R220, R223). -/
def poolStep (s : State) (p : Nat) : State :=
  let pl := poolOf s p
  let reads := (stepReads s pl (stepRequests s pl).length).filter (fun r => decide (0 < r.2))
  settleDue (poolWork (reads.foldl (fun s r => (devRead s r.1 r.2).2) s) p)

/-- The pools that step at a boundary: those whose batch queue had a submission admitted (R363). -/
def stepPools (s : State) (admitted : List Nat) : State :=
  (List.range 16).foldl (fun s p =>
    let pl := poolOf s p
    if pl.enabled && admitted.contains pl.queue then poolStep s p else s) s

end Sys2Proof.Machine
end

