-- ==== Sys2Proof/Machine/Answers.lean ====
section
/-!
DEFINITION. The answers of the parameter dictionary (R403 to R407) on their way to the four transports (R408 to R410).
-/

namespace Sys2Proof.Machine

/-- A response (R403). -/
def rspBytes (s : State) (op sq count abort ty : Nat) (data : List Byte) : List Byte :=
  toLE 1 1 ++ toLE 1 (bits op 6 0 + 128) ++ toLE 1 sq ++ toLE 1 count ++ toLE 4 abort ++ toLE 8 s.tick.count.toNat ++
    toLE 2 data.length ++ toLE 1 ty ++ zeroBytes 13 ++ data

/-- DM_STATUS of a function's mailbox: bits [2] DONE and [0] ACCESS_ERR are stored, the others are made on reading (R408). -/
def setDone (s : State) (fn : Nat) : State :=
  if fn = 0 then orReg s 0x700404 4 else setVfReg s fn 0x2404 (vfReg s fn 0x2404 ||| 4)

/-- The words of a response laid into DM_RSP; words beyond the response keep what they held. -/
def putRsp (m : Assoc Word32) (fn : Nat) (rsp : List Byte) : Assoc Word32 :=
  (List.range (ceilDiv rsp.length 4)).foldl (fun m k => putD 0 m (fn * 128 + k) (BitVec.ofNat 32 (fieldLE rsp (4 * k) 4))) m

/-- The cells of a management message (R388): first, middle and last parts of five bytes, or the only one; the last is filled with
zeros. -/
def messageCells (dst src sq : Nat) (msg : List Byte) : List (List Byte) :=
  let n := max 1 (ceilDiv msg.length 5)
  (List.range n).map (fun i =>
    let part := if n = 1 then 0 else if i = 0 then 1 else if i + 1 = n then 3 else 2
    toLE 1 dst ++ toLE 1 src ++ toLE 1 (part * 64 + sq % 64) ++ sliceBytes msg (5 * i) 5)

/-- A response reaches its requester, who is no longer outstanding (R408 to R411). A ring response is queued as cells. -/
def sendAnswer (s : State) (t : Transport) (rsp : List Byte) : State :=
  let s := s.withDict { s.dict with open_ := s.dict.open_.erase t }
  match t with
  | .mailbox fn =>
    setDone (s.withDict { s.dict with
      mboxRsp := putRsp s.dict.mboxRsp fn rsp
      mboxBusy := s.dict.mboxBusy.filter (· != fn)
      mboxSeq := putD 0 s.dict.mboxSeq fn (fieldLE rsp 2 1) }) fn
  | .ring src =>
    let sq := s.ring.mgmtOut.length % 64
    s.withRing { s.ring with mgmtOut := s.ring.mgmtOut ++ (messageCells src s.ring.position sq rsp).map (fun c => (src, sq, c)) }
  | _ => emit s (.dictRsp t rsp)

/-- The withheld answer of a staged write, whose TICK is the boundary that applied or refused it (R403, R405). -/
def answerWrite (s : State) (who : Option Transport) (sq abort : Nat) : State :=
  match who with
  | some t => sendAnswer s t (rspBytes s 2 sq 1 abort 0 [])
  | none => s

/-- The transport survives a reset (R405): MCTP over I3C a warm one, MCTP over PCIe one that keeps the host link. -/
def survives (warm keepsLink : Bool) : Transport → Bool
  | .mctpI3c _ _ => warm
  | .mctpPcie _ _ => warm && keepsLink
  | _ => false

/-- Requests that a reset discards are answered RESET where their transport survives it, and the stage is emptied (R405, R414). -/
def discardStage (s : State) (warm keepsLink : Bool) : State :=
  let out := (s.dict.staged.map (fun x => (x.who, x.seq))) ++ s.dict.clusters.map (fun x => (x.who, x.seq))
  let s := s.withDict { s.dict with staged := [], clusters := [] }
  let s := out.foldl (fun s x =>
    match x.1 with
    | some t => if survives warm keepsLink t then answerWrite s (some t) x.2 abRESET else s
    | none => s) s
  s.withDict { s.dict with open_ := [], mboxBusy := [] }

end Sys2Proof.Machine
end

