-- ==== Sys2Proof/Machine/RingOps.lean ====
section
/-!
DEFINITION. The tick ring as the boundary sequence uses it: the frames a module originates, barrier contributions, mastership, surveys
and the end of ring join (R42, R379 to R389, R452).
-/

namespace Sys2Proof.Machine

/-- FE_TICK_STATUS.UNLOCK_SEEN and the lock state, on an entry to a state (R21, R42). Ticks are counted anew towards Locked. -/
def setLock (s : State) (l : Nat) : State :=
  let t := s.withTick { s.tick with lock := l, good := if s.tick.lock = l then s.tick.good else 0 }
  if 2 ≤ l && s.tick.lock ≠ l then orReg t offTickStatus 0x40 else t

/-- MASTER_ELIGIBLE (R391). -/
def eligible (s : State) : Bool := obj s 0x5000 2 == 1

/-- The module takes part in a ring barrier (R386). -/
def takesPart (s : State) (k : Nat) : Bool := bit (obj s 0x5002 (k + 1)) s.ring.position

/-- The context and barrier bound to a ring barrier (R386). -/
def ringBound (s : State) (k : Nat) : Option (Nat × Nat) :=
  s.ctxs.findSome? (fun c =>
    if c.2.state = .resident then (c.2.bars.find? (fun b => b.2.ring == some k)).map (fun b => (c.1, b.1)) else none)

/-- The module's contribution to a ring barrier (R387). -/
def contribution (s : State) (k : Nat) : Bool :=
  match ringBound s k with
  | none => false
  | some (ctx, n) =>
    match (find s.ctxs ctx).bind (fun c => find c.bars n) with
    | some b => allArrived s b
    | none => false

/-- ARRIVE as the master originates it: its own contribution to each barrier it takes part in; a barrier it takes no part in
it leaves at 1, as a module that forwards it unchanged does (R387). -/
def ownArrive (s : State) : Nat := maskOf ((List.range 64).filter (fun k => !takesPart s k || contribution s k))

/-- An empty management cell (R388). -/
def emptyCell : List Byte := toLE 1 0xFF ++ zeroBytes 7

/-- The cell that a module puts into an empty one, and the state without it: the oldest of those that wait (R388). -/
def fillCell (s : State) : List Byte × State :=
  match s.ring.mgmtOut with
  | [] => (emptyCell, s)
  | c :: t => (c.2.2, s.withRing { s.ring with mgmtOut := t })

/-- A frame that the module originates (R379). -/
def sendFrame (s : State) (type arrive aux : Nat) : State :=
  let c := fillCell s
  emit c.2 (.frame type
    { origin := s.ring.position, tickLo := s.tick.count.toNat % 65536, arrive := arrive, mgmt := c.1, aux := aux, crcOk := true })

/-- A NORMAL frame (R379, R387). -/
def sendNormal (s : State) : State := sendFrame s 1 (ownArrive s) s.ring.release

/-- A CENSUS frame, with the master's own bits (R382). -/
def sendCensus (s : State) : State :=
  let me := 2 ^ s.ring.position
  sendFrame s 3 (if eligible s then me else 0) me

/-- The position that a survey's token passes to: the next one that the census shows; a module that has no census finds it by means
the manual does not give (R383). -/
def nextToken (s : State) : Nat × State :=
  let l := (List.range 64).map (fun i => (s.ring.position + 1 + i) % 64)
  if s.ring.census = 0 then
    let f := freshWord s
    (f.1 % 64, f.2)
  else ((l.find? (fun p => bit s.ring.census p)).getD s.ring.position, s)

/-- Sixteen echo symbols (R383). -/
def sendEchoes (s : State) : State := (List.range 16).foldl (fun s _ => emit s .echo) s

/-- The master starts a survey with its own outgoing hop; a request is served by one that runs (R383, R384). -/
def startSurvey (s : State) : State :=
  if s.ring.surveying then s
  else
    sendEchoes (s.withRing { s.ring with surveying := true, token := some s.ring.position, surveyAsked := false, surveyDelay16 := none })

/-- READY follows the end of start-up stage 8 (R457, R485). -/
def finishStart (s : State) : State :=
  { s with
    power := { s.power with phase := .done, stage := 9, ready := true }
    tick := { s.tick with running := true }
    pins := { s.pins with readyPin := true } }

/-- Ring join completes when the module is Master or Locked (R389, R452). -/
def ringJoined (s : State) : State :=
  if s.ring.listening then
    finishStart (s.withRing { s.ring with listening := false, bypass := false })
  else s

/-- The module's own frames return: it is master, and surveys at its first tick (R381, R384, R389). -/
def becomeMaster (s : State) : State :=
  if s.tick.lock = 0 then s
  else
    let s := setLock (s.withRing { s.ring with master := some s.ring.position, surveyAsked := true }) 0
    ringJoined s

/-- The module begins to originate frames (R381). -/
def originate (s : State) : State :=
  if s.ring.originates then s else sendNormal (s.withRing { s.ring with originates := true })

/-- MASTER_ELIGIBLE was committed: an eligible module originates until it meets a lower ORIGIN; one that is not only forwards
(R381). -/
def applyEligible (s : State) : State :=
  if s.ring.bypass then s
  else if eligible s then (if s.ring.position < s.ring.master.getD 64 then originate s else s)
  else
    let s := s.withRing { s.ring with originates := false, master := if s.tick.lock = 0 then none else s.ring.master }
    if s.tick.lock = 0 then setLock s 3 else s

/-- At its boundary the master inserts the tick symbol and originates a TICK_INFO frame with the boundary's time and the delay of its
outgoing hop; a survey that was asked for starts; during one it transmits nothing (R379, R380, R383, R384). -/
def masterSymbol (s : State) : State :=
  if s.tick.lock = 0 && s.ring.originates then
    if s.ring.surveying then s
    else if s.ring.surveyAsked then startSurvey (emit s .tickSymbol)
    else
      sendFrame (emit s .tickSymbol) 2 (ownArrive s) (s.tick.boundary.toNat % 2 ^ 40 + 2 ^ 40 * (s.ring.hop16 % 2 ^ 24))
  else s

end Sys2Proof.Machine
end

