-- ==== Sys2Proof/Machine/Composition.lean ====
section
/-!
DEFINITION. Step 4 of the boundary (R22): staged dictionary writes are applied in order of arrival (R24, R396, R405), composition is
checked (R337 to R339, R494), and sums of shares are kept (R344).
-/

namespace Sys2Proof.Machine

/-! What a partition holds in its resources (R339). -/

/-- n bytes at pa have a part in a stack. -/
def touches (st pa n : Nat) : Bool := decide (0 < n) && decide (pa < (st + 1) * 2 ^ 36) && decide (st * 2 ^ 36 < pa + n)

/-- The contexts of a partition that are not FREE. -/
def partContexts (s : State) (p : Nat) : List (Nat × Context) :=
  s.ctxs.filter (fun e => e.2.partition == p && e.2.state != .free)

/-- Some context holds groups, an allocation or a saved record on a cluster. -/
def clusterUsed (s : State) (c : Nat) : Bool :=
  (coresOfClusters s (2 ^ c)).any (fun k =>
    let x := coreSt s k
    !x.groups.isEmpty || !x.launchQ.isEmpty || !x.allocs.isEmpty ||
      anyValue s.ctxs (fun _ e => e.saved.any (fun r => r.core == k)))

/-- The number of entries of a table of a level (R241). -/
def tableLen (level : Nat) : Nat := if level = 1 then 64 else 8192

/-- The valid and well-formed entries of a table. -/
def tableEntries (s : State) (level table : Nat) : List Nat :=
  ((List.range (tableLen level)).map (fun i => ofLE (peek s (table + 8 * i) 8))).filter
    (fun e => leafValid e && !entryMalformed level e)

/-- The tables below one, with it: address and level. -/
def tablesBelow (s : State) : Nat → Nat → Nat → List (Nat × Nat)
  | 0, _, _ => []
  | n + 1, level, table =>
    (table, level) :: (((tableEntries s level table).filter (fun e => !leafLeaf e)).map
      (fun e => tablesBelow s n (level + 1) (leafAddr e))).flatten

/-- The tables of a context. -/
def ctxTables (s : State) (c : Context) : List (Nat × Nat) := tablesBelow s 3 1 c.l1

/-- A context keeps something in a stack: descriptor, tables, handle tables, save area, or pages that set its stack mask. -/
def ctxUsesStack (s : State) (c : Context) (st : Nat) : Bool :=
  touches st c.descAddr 1024 || touches st c.htable0 (16 * c.handles) || touches st c.htable1 (16 * c.handles) ||
    touches st c.saveBase c.saveSize || bit c.stackMask st || (ctxTables s c).any (fun t => touches st t.1 (8 * tableLen t.2))

/-- An enabled pool keeps something in a stack. -/
def poolUsesStack (s : State) (p st : Nat) : Bool :=
  let pl := poolOf s p
  pl.enabled && ((poolAreas pl).any (fun a => touches st a.1 a.2) || pl.spares.any (fun a => touches st a 65536) || bit (pbMask pl) st)

/-- An area that the partition's objects name lies in a stack. -/
def areaUsesStack (s : State) (p st : Nat) : Bool :=
  let t := obj s 0x2001 (p + 1)
  let r := obj s (0x6010 + p) 1
  let d := obj s (0x6020 + p) 1
  (t != 0 && touches st t 32768) || (r != 0 && touches st r (64 + 32 * 2 ^ obj s (0x6010 + p) 2)) || (d != 0 && touches st d (2 ^ 26))

/-- The partition may not lose a stack. -/
def stackUsed (s : State) (p st : Nat) : Bool :=
  (partContexts s p).any (fun e => ctxUsesStack s e.2 st) || poolUsesStack s p st || areaUsesStack s p st

/-- A leaf of a level maps a part of a store-room segment. -/
def leafInSegment (level e seg : Nat) : Bool :=
  let pa := if level = 2 then bits e 43 29 * 2 ^ 29 else leafAddr e
  inStoreRoom pa && segOf pa == seg

/-- Some table of the partition maps a segment. -/
def segmentUsed (s : State) (p seg : Nat) : Bool :=
  (partContexts s p).any (fun e => (ctxTables s e.2).any (fun t =>
    (tableEntries s t.2 t.1).any (fun x => leafLeaf x && leafInSegment t.2 x seg)))

/-- Another partition owns a bit of a mask, by what is in force or by a CLUSTERS change that waits. -/
def othersOwn (p : Nat) (own : Nat → Nat) (mask : Nat) : Bool :=
  (List.range 16).any (fun r => r != p && (own r &&& mask) != 0)

/-- CLUSTERS of a partition with what a waiting change adds. -/
def clustersHeld (s : State) (p : Nat) : Nat :=
  (s.dict.clusters.filter (fun c => c.partition == p)).foldl (fun m c => m ||| c.value) (partClusters s p)

/-- The bits of a mask that a new one takes away. -/
def taken (n old new : Nat) : List Nat := (bitsSet n old).filter (fun i => !bit new i)

/-- The abort code of a CLUSTERS write (R339). -/
def clustersCode (s : State) (p v : Nat) : Nat :=
  if othersOwn p (clustersHeld s) v || (taken 16 (partClusters s p) v).any (clusterUsed s) then abCONFLICT else 0

/-- The abort code of a STACKS write (R339). -/
def stacksCode (s : State) (p v : Nat) : Nat :=
  if othersOwn p (partStacks s) v || (taken 12 (partStacks s p) v).any (stackUsed s p) then abCONFLICT else 0

/-- The abort code of SR_FIRST and SR_COUNT together (R337, R339). -/
def segmentsCode (s : State) (p first count : Nat) : Nat :=
  if 1022 < first + count then abRANGE
  else
    let meets (r : Nat) : Bool := r != p && decide (0 < count) && decide (0 < partSegCount s r) &&
      decide (first < partSegFirst s r + partSegCount s r) && decide (partSegFirst s r < first + count)
    let lost := ((List.range (partSegCount s p)).map (fun i => partSegFirst s p + i)).filter
      (fun g => decide (g < first) || decide (first + count ≤ g))
    if (List.range 16).any meets || lost.any (segmentUsed s p) then abCONFLICT else 0

/-- The abort code of a FUNCTIONS write (R339). -/
def functionsCode (s : State) (p v : Nat) : Nat :=
  if othersOwn p (partFunctions s) v ||
      (taken 64 (partFunctions s p) v).any (fun fn => !(ctxsOfFn s fn).isEmpty) then abCONFLICT else 0

/-- The sum over the partitions of an object, with a new value for one. -/
def sumWith (s : State) (base sub p v : Nat) : Nat :=
  (List.range 16).foldl (fun n r => n + (if r = p then v else obj s (base + r) sub)) 0

/-- The abort code that a staged write has when it is applied, but for SR_FIRST and SR_COUNT (R339, R344). -/
def applyCode (s : State) (idx sub v : Nat) : Nat :=
  let beyond (base lim p : Nat) : Nat := if lim < sumWith s base sub p v then abRANGE else 0
  match perPart idx 0x3000, perPart idx 0x3010, perPart idx 0x7010 with
  | some p, _, _ =>
    if sub = 1 then clustersCode s p v else if sub = 2 then stacksCode s p v else if sub = 5 then functionsCode s p v else 0
  | _, some p, _ => beyond 0x3010 (if sub = 4 then moduleRating s else 256) p
  | _, _, some p => if sub = 5 then beyond 0x7010 48 p else if sub = 6 then beyond 0x7010 128 p else 0
  | _, _, _ =>
    match objDesc s idx sub with
    | some d => if inRange s d idx sub v then 0 else abCONFLICT
    | none => 0

/-! Commits. -/

/-- A staged write to an object, not superseded, is still to be applied; the value of the last one in order of arrival. -/
def stagedValue (l : List Staged) (idx sub : Nat) : Option Nat :=
  (l.filter (fun x => x.key == idx * 256 + sub && !x.superseded)).getLast?.map Staged.value

/-- A CLUSTERS write that passed its check: the flush of the partition's slices starts, and the change waits for it (R494). -/
def startClusters (s : State) (p v : Nat) (who : Option Transport) (sq : Nat) : State :=
  let l := partSlices s p
  let s := markFlush (l.foldl (flushSlice none) s) p true
  s.withDict { s.dict with clusters := s.dict.clusters ++ [⟨p, v, who, sq, l.isEmpty⟩] }

/-- A value is committed, with what follows from it. `rest` are the writes that are applied after it. -/
def commitObj (s : State) (rest : List Staged) (idx sub v : Nat) : State :=
  match perPart idx 0x3000, perPart idx 0x7030 with
  | some p, _ =>
    if sub = 2 then
      let old := partStacks s p
      let s := setObj s idx sub v
      ((List.range 12).filter (fun st => bit old st != bit v st)).foldl resetCodebooks s
    else setObj s idx sub v
  | _, some p =>
    let old := obj s idx 2
    let s := setObj s idx sub v
    if sub = 1 then poolCommit s p v ((stagedValue rest idx 2).getD old)
    else if (poolOf s p).enabled && (poolOf s p).queue == v then s
    else poolCommit s p (obj s idx 1) v
  | _, _ =>
    if idx = 0x5000 && sub = 5 then (if s.tick.lock = 0 then s.withRing { s.ring with surveyAsked := true } else s)
    else if idx = 0x5000 && sub = 2 then applyEligible (setObj s idx sub v)
    else setObj s idx sub v

/-- SR_FIRST and SR_COUNT of a partition, checked together (R337): the code of both, and the state with both committed. -/
def applySegments (s : State) (all : List Staged) (p : Nat) : State × Nat :=
  let o := 0x3000 + p
  let first := (stagedValue all o 3).getD (partSegFirst s p)
  let count := (stagedValue all o 4).getD (partSegCount s p)
  let code := segmentsCode s p first count
  if code = 0 then (trimHeaders (setObj (setObj s o 3 first) o 4 count), 0) else (s, code)

/-- One staged write is applied and answered. `done` holds the codes of the partitions whose segments were checked. -/
def applyStep (all : List Staged) (r : State × Assoc Nat) (e : Nat × Staged) : State × Assoc Nat :=
  let x := e.2
  let idx := x.key / 256
  let sub := x.key % 256
  let s := r.1
  if x.superseded then (answerWrite s x.who x.seq abSUPERSEDED, r.2)
  else
    match perPart idx 0x3000 with
    | some p =>
      if sub = 3 || sub = 4 then
        match find r.2 p with
        | some code => (answerWrite s x.who x.seq code, r.2)
        | none =>
          let t := applySegments s all p
          (answerWrite t.1 x.who x.seq t.2, insert r.2 p t.2)
      else
        let code := applyCode s idx sub x.value
        if code ≠ 0 then (answerWrite s x.who x.seq code, r.2)
        else if sub = 1 then (startClusters s p x.value x.who x.seq, r.2)
        else (answerWrite (commitObj s (all.drop (e.1 + 1)) idx sub x.value) x.who x.seq 0, r.2)
    | none =>
      let code := applyCode s idx sub x.value
      if code ≠ 0 then (answerWrite s x.who x.seq code, r.2)
      else (answerWrite (commitObj s (all.drop (e.1 + 1)) idx sub x.value) x.who x.seq 0, r.2)

/-- Waiting CLUSTERS changes of partitions with a later write are dropped (R494). -/
def dropClusters (s : State) : State :=
  let late (c : ClusterChange) : Bool := (stagedValue s.dict.staged (0x3000 + c.partition) 1).isSome
  let gone := s.dict.clusters.filter late
  let s := s.withDict { s.dict with clusters := s.dict.clusters.filter (fun c => !late c) }
  gone.foldl (fun s c => answerWrite s c.who c.seq abSUPERSEDED) s

/-- Waiting CLUSTERS changes whose flush is over take effect (R494). -/
def commitClusters (s : State) : State :=
  let ripe := s.dict.clusters.filter ClusterChange.flushed
  let s := s.withDict { s.dict with clusters := s.dict.clusters.filter (fun c => !c.flushed) }
  ripe.foldl (fun s c => answerWrite (setObj s (0x3000 + c.partition) 1 c.value) c.who c.seq 0) s

/-- The period of the tick that begins: the module's own while it is Master or Free, else the master's (R17, R18, R42). -/
def applyPeriod (s : State) : State :=
  let own := s.tick.lock = 0 || s.tick.lock = 3
  s.withTick { s.tick with period := if own then obj s 0x2000 1 else s.tick.masterPeriod.getD s.tick.period }

/-- Step 4 of the boundary. -/
def applyStaged (s : State) : State :=
  let s := commitClusters (dropClusters s)
  let all := s.dict.staged
  let s := s.withDict { s.dict with staged := [] }
  let r := (List.zip (List.range all.length) all).foldl (applyStep all) (s, [])
  applyPeriod r.1

/-- The clusters that a waiting change takes away from a partition (R494). -/
def removedClusters (s : State) (p : Nat) : Nat :=
  maskOf ((s.dict.clusters.filter (fun c => c.partition == p)).foldl (fun l c => l ++ taken 16 (partClusters s p) c.value) [])

end Sys2Proof.Machine
end

