-- ==== Sys2Proof/Machine/Preempt.lean ====
section
/-!
DEFINITION. Pre-emption of a context: stop, save and restore (R59, R119, R156, R175, R205, R291, R356 to R358).
-/

namespace Sys2Proof.Machine

/-- The cores on which a context holds an allocation. -/
def ctxCores (s : State) (ctx : Nat) : List Nat :=
  (s.cores.filter (fun e => (find e.2.allocs ctx).isSome)).map Prod.fst

/-- The resident groups of a context on a core. -/
def ctxGroups (k : Core) (ctx : Nat) : Assoc Group := filterValues k.groups (fun _ g => g.ctx == ctx)

/-- Bytes written of a core's record (R357). -/
def coreSaveNeed (s : State) (ctx c : Nat) : Nat :=
  let k := coreSt s c
  let g := ctxGroups k ctx
  8192 + g.foldl (fun n e => n + 512 + e.2.regs * 128) 0 + (if k.array.owner = some ctx then (688 + 66) * 1024 else 0) +
    ((find k.allocs ctx).map LsAlloc.units).getD 0 * 65536

/-- The save need of a context (R357). -/
def saveNeedOf (s : State) (ctx : Nat) : Nat := (ctxCores s ctx).foldl (fun n c => n + coreSaveNeed s ctx c) 0

/-- A context whose save need exceeds 40 MiB is never pre-empted (R356). -/
def savable (s : State) (ctx : Nat) : Bool := decide (saveNeedOf s ctx ≤ 40 * 2 ^ 20)

/-- The submissions of a context that run. -/
def runningOf (s : State) (ctx : Nat) : List Nat :=
  (s.subs.filter (fun e => e.1 != kring && e.2.ctx == ctx && e.2.phase == .running)).map Prod.fst

/-- A running submission suffers the pre-emption: its core time so far, up to the end of its work on each core, is kept (R354, R357). -/
def suffer (s : State) (q : Nat) : State :=
  let s := noteStop s q
  match find s.subs q with
  | none => s
  | some u =>
    let now := s.tick.time.toNat
    let s := modSub s q (fun u => { u with
      phase := .preempting, wasPreempted := true
      coreNs := coreTime u, start := now, ends := [] })
    modQueue (countPart s u.partition 8) q (fun v => { v with preempts := v.preempts + 1 })

/-- The first n bytes of a list of writes. -/
def takeWrites : Nat → List (Nat × List Byte) → List (Nat × List Byte)
  | _, [] => []
  | n, w :: t => if n = 0 then [] else (w.1, w.2.take n) :: takeWrites (n - w.2.length) t

/-- A list of writes without its first n bytes. -/
def dropWrites : Nat → List (Nat × List Byte) → List (Nat × List Byte)
  | _, [] => []
  | n, w :: t => if w.2.length ≤ n then dropWrites (n - w.2.length) t else (w.1 + n, w.2.drop n) :: t

/-- Bytes o to o + n − 1 of a list of writes. -/
def sliceWrites (o n : Nat) (l : List (Nat × List Byte)) : List (Nat × List Byte) := takeWrites n (dropWrites o l)

/-- What a MATVEC has written as it stops after k rows of A: of each vector's results those that the rows give, raw results behind their
header. With TRANS no result is whole before the last row (R81, R194, R205). -/
def matvecPart (c : List Byte) (k : Nat) (l : List (Nat × List Byte)) : List (Nat × List Byte) :=
  let n := ccN c
  let head := if ccDF c = fmtACC48 then 16 else 0
  let row := (dLen c - head) / ccCount c
  if k = 0 || (ccTrans c && k < ccK c) then []
  else
    let some_ := if ccTrans c then row else row * k / n
    sliceWrites 0 head l ++ ((List.range (ccCount c)).map (fun v => sliceWrites (head + v * row) some_ l)).flatten

/-- A front-end COPY or FILL of an engine, formed again for what is left after k bursts of 2 KiB; its pages are translated again
(R205, R326). -/
def remainingCmd (c : CellCmd) (k : Nat) : CellCmd :=
  let x := c.cmd
  let o := 2048 * k
  let y := if ccOp x = ocCOPY then overlayBytes x 0x10 (toLE 8 (ccAO x + o)) else x
  { c with cmd := overlayBytes (overlayBytes y 0x28 (toLE 8 (ccDO x + o))) 0x24 (toLE 4 (ccN x - o)), maps := PageMap.empty }

/-- A command that executes stops: a MATVEC after the rows of A in progress, a command of the move unit after its current burst of 2 KiB.
How far it has come is free. What it has written stands; a front-end command is kept for the rest of its bytes (R205). -/
def stopExec (mv : Bool) (st : Nat) (s : State) (e : CellExec) : List (Nat × CellCmd) × State :=
  let w := freshWord s
  let c := e.cmd
  let bytes := e.writes.foldl (fun n w => n + w.2.length) 0
  let k := if mv then w.1 % ((if ccTrans c.cmd then ccK c.cmd else ccN c.cmd) + 1) else w.1 % ceilDiv bytes 2048
  let part := if mv then matvecPart c.cmd k e.writes else takeWrites (2048 * k) e.writes
  (if c.core.isNone then [(st, remainingCmd c k)] else [], part.foldl (cellWrite st) w.2)

/-- What one engine executes of a context stops, the matrix-vector unit first (R205). -/
def stopEngine (ctx : Nat) (r : List (Nat × CellCmd) × State) (e : Nat × CellarSt) : List (Nat × CellCmd) × State :=
  let one (mv : Bool) (r : List (Nat × CellCmd) × State) (x : CellExec) : List (Nat × CellCmd) × State :=
    if x.cmd.ctx = ctx then
      let t := stopExec mv e.1 r.2 x
      (r.1 ++ t.1, t.2)
    else r
  e.2.move.toList.foldl (one false) (e.2.mv.toList.foldl (one true) r)

/-- The cellar commands of a context that a pre-emption withdraws: those of stations are formed again from their tiles, those of the
front end are kept for the resume; what executes stops without a result (R205). Fills that run go on. -/
def withdrawCells (s : State) (ctx : Nat) : State :=
  let mine (c : CellCmd) : Bool := c.ctx == ctx
  let queued := (s.cellars.map (fun e =>
    ((e.2.queue ++ e.2.waiting ++ e.2.fillWaits).filter (fun c => mine c && c.core.isNone)).map (fun c => (e.1, { c with maps := PageMap.empty })))).flatten
  let r := s.cellars.foldl (stopEngine ctx) ([], s)
  let s := r.2
  let live (x : Option CellExec) : Option CellExec := x.filter (fun e => !mine e.cmd)
  let s := s.withCellars (mapValues s.cellars (fun _ e => { e with
    queue := e.queue.filter (fun c => !mine c)
    waiting := e.waiting.filter (fun c => !mine c)
    fillWaits := e.fillWaits.filter (fun c => !mine c)
    mv := live e.mv
    move := live e.move }))
  let s := (s.cellars.map Prod.fst).foldl fillNext s
  modCtx s ctx (fun c => { c with savedCells := c.savedCells ++ r.1 ++ queued })

/-- A pre-emption of a context starts: its submissions stop, its open batches close, its cellar commands are withdrawn, and its gated
cores wake (R115, R205, R292, R357). -/
def startPreempt (s : State) (ctx : Nat) (driver : Bool) : State :=
  let s := (runningOf s ctx).foldl suffer s
  let s := (ctxCores s ctx).foldl (fun s c =>
    askWake (if (coreSt s c).array.owner = some ctx then modArray s c (fun a => closeBatches a (fun b => b.ctx == ctx)) else s) c) s
  let s := withdrawCells s ctx
  let s := modCtx s ctx (fun c => { c with saving := true, driverPre := driver })
  if driver then s.withPart { s.part with preBusy := true } else s

/-! The save. -/

/-- An event cannot take place. -/
def cannot : Res → Bool
  | .next _ => false
  | _ => true

/-- A station stands at a tile boundary, or holds a tile that cannot go on and awaits no peer. -/
def stationStill (s : State) (core : Nat) (x : Draught) (i : Nat) : Bool :=
  let y := stationOf x i
  !y.busy || (y.awaits == 0 && cannot (execStationTileDone core x.order i s))

/-- What a context has on a core has stopped: the array's and the element engine's work is over, stations stand, and nothing waits for
a peer or for the data of a load (R119, R156, R175, R357). -/
def coreStill (s : State) (ctx c : Nat) : Bool :=
  let k := coreSt s c
  (k.array.owner != some ctx || (k.array.run.isNone && k.array.closed.isEmpty && k.array.opened.isEmpty &&
    !k.array.loads.any LoadJob.started && k.vec.exec.isNone)) &&
    k.draughts.all (fun d => d.ctx != ctx || (List.range d.stations.length).all (stationStill s c d)) &&
    !anyValue k.groups (fun _ g => g.ctx == ctx && (g.cond == .remote || !g.loads.isEmpty))

/-- No submission of the context is being aborted or dumped. -/
def noneEnding (s : State) (ctx : Nat) : Bool :=
  !anyValue s.subs (fun _ u => u.ctx == ctx && (u.phase == .aborting || u.phase == .frozen))

/-- A draught as it is saved. Its stations begin again at its oldest unretired tile (R59). Of a compute draught that is the first tile that
ARRAY has not run: its earlier tiles stand in the accumulator rows, the columns of that tile already run with them, and what ARRAY and the
stations after it have put out stays in their buffers, since the banks and rows it came from are spent (R111, R119; DEDUCED, log entry 52). -/
def restedDraught (x : Draught) : Draught :=
  if computes x.desc then
    let a := descPos x.desc stARRAY
    let n := (stationOf x a).next
    { x with stations := (List.zip (List.range x.stations.length) x.stations).map (fun y =>
        if y.1 < a then { StationSt.idle with next := n } else { StationSt.idle with next := y.2.next, outs := y.2.outs }) }
  else { x with stations := x.stations.map (fun _ => { StationSt.idle with next := oldestTile x }) }

/-- The submission of a queue is of a context. -/
def queueOf (s : State) (ctx q : Nat) : Bool := (find s.subs q).any (fun u => u.ctx == ctx)

/-- What is saved of a core (R357). -/
def savedCoreOf (s : State) (ctx c : Nat) : SavedCore :=
  let k := coreSt s c
  let mine := ctxGroups k ctx
  let own := k.array.owner == some ctx
  { core := c
    groups := mine
    copies := (k.copies.filter (fun x => x.ctx == ctx)).map (fun x => { x with running := false })
    draughts := (k.draughts.filter (fun d => d.ctx == ctx)).map restedDraught
    launchQ := k.launchQ.filter (fun l => l.ctx == ctx)
    dbells := k.dbells.filter (fun b => queueOf s ctx b.queue)
    alloc := find k.allocs ctx
    array := if own then some k.array else none
    vec := if own then some k.vec else none }

/-- The address of a core's record in the save area (R310). -/
def recordPa (s : State) (x : Context) (c : Nat) : Nat :=
  let i := ((partCores s x.partition).filter (fun k => decide (k < c))).length
  x.saveBase + 4096 + i * (1344 * 1024 + x.lsUnits * 65536)

/-- A record of a core as it lies in memory (R357): scalar registers and local store in their places; the forms of the other parts,
which the manual does not give, are free. -/
def writeRecord (s : State) (ctx : Nat) (r : SavedCore) : State :=
  match find s.ctxs ctx with
  | none => s
  | some x =>
    let pa := recordPa s x r.core
    let free (s : State) (o n : Nat) : State :=
      let b := freshBytes s n
      devWrite b.2 (pa + o) b.1
    let s := free s 0 8192
    let s := r.groups.foldl (fun s g =>
      devWrite s (pa + 0x2000 + 512 * g.1) ((List.range 64).map (fun i => toLE 8 (getD 0 g.2.scalars i).toNat)).flatten) s
    let s := free s 0xA000 (r.groups.foldl (fun n g => n + g.2.regs * 128) 0)
    let s := if r.array.isSome then free s 0x8A000 ((688 + 66) * 1024) else s
    settleDue (devWrite s (pa + 0x150000) (lsRead s r.core ctx 0 (lsSize s r.core ctx)))

/-- The core without what was saved of a context. -/
def leaveCore (s : State) (ctx : Nat) (k : Core) : Core :=
  let own := k.array.owner == some ctx
  { k with
    groups := filterValues k.groups (fun _ g => g.ctx != ctx)
    copies := k.copies.filter (fun x => x.ctx != ctx)
    draughts := k.draughts.filter (fun d => d.ctx != ctx)
    launchQ := k.launchQ.filter (fun l => l.ctx != ctx)
    dbells := k.dbells.filter (fun b => !queueOf s ctx b.queue)
    allocs := erase k.allocs ctx
    array := if own then ArraySt.fresh none else k.array
    vec := if own then VecSt.fresh else k.vec }

/-- One core of a context is saved, and its array passes (R118, R357). -/
def saveCore (ctx : Nat) (s : State) (c : Nat) : State :=
  let r := savedCoreOf s ctx c
  let s := writeRecord s ctx r
  let s := modCtx s ctx (fun x => { x with saved := x.saved ++ [r] })
  let s := modCore s c (leaveCore s ctx)
  if r.array.isSome then clearWhere s c (fun g => g.cond == .ownership) else s

/-- Translations that saved requesters wait for are asked for again after the restore (R263). -/
def forgetMisses (s : State) (ctx : Nat) : State :=
  let mine (m : Miss) : Bool := m.ctx == ctx
  let idle (m : Miss) : Miss := if mine m then { m with reqs := m.reqs.filter (fun r => match r.who with
    | .frontEnd _ => true
    | .ingress _ => true
    | _ => false) } else m
  s.withTrans { s.trans.thin idle with
    given := s.trans.given.filter (fun g => g.entry.ctx != ctx || (match g.who with
      | .frontEnd _ => true
      | .ingress _ => true
      | _ => false))
    noToken := s.trans.noToken.filter (fun w => w.ctx != ctx) }

/-- The context leaves its slot: its held remote counters go to their backing words, and it is IDLE (R149, R311, R312, R357). -/
def leaveSlot (s : State) (ctx : Nat) : State :=
  match find s.ctxs ctx with
  | none => s
  | some x =>
    let s := x.heldCtrs.foldl (fun s n => devWrite s (backingPa x n) (toLE 4 (getD 0 x.rctrs n).toNat)) s
    settleDue (writeDirectory (modCtx s ctx (fun x => { x with state := .idle, heldCtrs := [], rctrs := [], loading := false })) ctx)

/-- PREEMPT_SAVE_DONE: everything of the context has stopped and is saved; it leaves its slot (R357). -/
def execPreemptSaveDone (ctx : Nat) (s : State) : Res :=
  needs (find s.ctxs ctx) "PREEMPT_SAVE_DONE" fun x =>
    if !x.saving || !noneEnding s ctx || !(ctxCores s ctx).all (coreStill s ctx) then .refused (.notEnabled "PREEMPT_SAVE_DONE")
    else
      let s := (ctxCores s ctx).foldl (saveCore ctx) s
      let s := s.withSubs (mapValues s.subs (fun _ u =>
        if u.ctx = ctx && u.phase = .preempting then { u with phase := .saved, consec := 0, held := false } else u))
      let s := leaveSlot (forgetMisses s ctx) ctx
      let s := if x.driverPre then s.withPart { s.part with preBusy := false, preDone := (s.part.preDone + 1) % 65536 } else s
      .next (unhold true (modCtx s ctx (fun x => { x with saving := false, driverPre := false })))

/-- PT_PREEMPT: a write with GO pre-empts a context whose submission runs, or is refused (R356, R357, R365). -/
def execPtPreempt (value : BitVec 32) (s : State) : Res :=
  let v := value.toNat
  pfWrite offPreempt s <|
  let s := setReg s offPreempt (v % 4096)
  if !bit v 31 || s.part.preBusy then .next s
  else
    let ctx := v % 4096
    let saving := ((find s.ctxs ctx).map Context.saving).getD false
    if (runningOf s ctx).isEmpty || saving || !savable s ctx then .next (orReg s offPreemptStatus 2)
    else .next (startPreempt s ctx true)

/-! The restore (R358). -/

/-- The submissions of a context that are being restored. -/
def restoringOf (s : State) (ctx : Nat) : List Nat :=
  (s.subs.filter (fun e => e.2.ctx == ctx && e.2.phase == .restoring)).map Prod.fst

/-- A core has room for what a record brings back: its slots and register blocks (R124). -/
def coreHasRoom (s : State) (qs : List Nat) (r : SavedCore) : Bool :=
  let k := coreSt s r.core
  let back := r.groups.filter (fun e => qs.contains e.2.queue)
  back.all (fun e => (find k.groups e.1).isNone) && decide (blocksUsed k + back.foldl (fun n e => n + e.2.regs / 16) 0 ≤ 256)

/-- A path that waited on a counter sees its value after the restore (R150). -/
def recheckPath (s : State) (core ctx : Nat) (p : Path) : Path :=
  match p.blocked with
  | some (.counter r n t) =>
    if thresholdMet (if r then remoteCtr s ctx n else localCtr s core ctx n) t then { p with blocked := none } else p
  | _ => p

/-- What a restored group waits for: counters are compared again, barriers stand, a fault stands while its token is
outstanding (R263); every other wait is made again as the instruction is repeated. -/
def restoredCond (s : State) (g : Group) : Cond :=
  match g.cond with
  | .barrier b => .barrier b
  | .fault t => if s.trans.tokens.any (fun k => k.token == t) then .fault t else .clear
  | .counters => if groupCanRun g then .clear else .counters
  | _ => .clear

/-- A restored group in its slot, pending; one that waits for nothing joins the order of promotion (R127). -/
def placeRestored (core : Nat) (s : State) (e : Nat × Group) : State :=
  let fix := recheckPath s core e.2.ctx
  let g : Group := { e.2 with run := e.2.run.map fix, stack := e.2.stack.map fix, active := false, loads := [], fenced := false }
  let g : Group := settle (if g.cond = .counters then reschedule g else g)
  let c := restoredCond s g
  let s := setGroup s core e.1 { g with cond := c }
  if c = .clear then clearCond s core e.1 else s

/-- A record read back onto its core for the submissions that resume; the allocation came back with the admission. -/
def restoreCore (ctx : Nat) (qs : List Nat) (s : State) (r : SavedCore) : State :=
  let mine (q : Nat) : Bool := qs.contains q
  let s := modCore s r.core (fun k => { k with
    copies := k.copies ++ (r.copies.filter (fun x => mine x.queue)).map (fun x =>
      { x with stall := x.stall.filter (fun t => s.trans.tokens.any (fun k => k.token == t)) })
    draughts := k.draughts ++ r.draughts.filter (fun d => mine d.queue)
    launchQ := k.launchQ ++ r.launchQ.filter (fun l => mine l.queue)
    dbells := k.dbells ++ r.dbells.filter (fun b => mine b.queue) })
  let s := if r.array.isSome && (coreSt s r.core).array.owner.isNone then giveArray s r.core ctx else s
  (r.groups.filter (fun e => mine e.2.queue)).foldl (placeRestored r.core) s

/-- What stays saved of a record: the work of other submissions, and an array that another context owns now. -/
def leftOver (s : State) (ctx : Nat) (qs : List Nat) (r : SavedCore) : SavedCore :=
  let other (q : Nat) : Bool := !qs.contains q
  let array := ((find s.ctxs ctx).bind (fun x => x.saved.find? (fun y => y.core == r.core))).bind SavedCore.array
  { r with
    groups := r.groups.filter (fun e => other e.2.queue)
    copies := r.copies.filter (fun x => other x.queue)
    draughts := r.draughts.filter (fun d => other d.queue)
    launchQ := r.launchQ.filter (fun l => other l.queue)
    dbells := r.dbells.filter (fun b => other b.queue)
    array := array
    vec := if array.isSome then r.vec else none }

/-- Something of a record is still saved. -/
def SavedCore.holds (r : SavedCore) : Bool :=
  !r.groups.isEmpty || !r.copies.isEmpty || !r.draughts.isEmpty || !r.launchQ.isEmpty || r.alloc.isSome || r.array.isSome

/-- The front end's cellar commands of the submissions that resume wait again at their engines (R205). -/
def resumeCells (s : State) (ctx : Nat) (qs : List Nat) : State :=
  let all := ((find s.ctxs ctx).map Context.savedCells).getD []
  let s := (all.filter (fun e => qs.contains e.2.queue)).foldl (fun s e =>
    modCellar s e.1 (fun k => { k with waiting := k.waiting ++ [e.2] })) s
  modCtx s ctx (fun x => { x with savedCells := all.filter (fun e => !qs.contains e.2.queue) })

/-- RESTORE_DONE: the records of the submissions that resume are read back, and they go on (R358). -/
def execRestoreDone (ctx : Nat) (s : State) : Res :=
  needs (find s.ctxs ctx) "RESTORE_DONE" fun x =>
    let qs := restoringOf s ctx
    if !x.restoring || x.loading || !x.saved.all (coreHasRoom s qs) then .refused (.notEnabled "RESTORE_DONE")
    else
      let s := x.saved.foldl (restoreCore ctx qs) s
      let s := modCtx s ctx (fun y => { y with
        restoring := false, saved := (x.saved.map (leftOver s ctx qs)).filter SavedCore.holds })
      let s := s.withSubs (mapValues s.subs (fun _ u =>
        if u.ctx = ctx && u.phase = .restoring then { u with phase := .running, start := s.tick.time.toNat, ends := [] } else u))
      .next (unhold false (resumeCells s ctx qs))

end Sys2Proof.Machine
end

