-- ==== Sys2Proof/Machine/Admission.lean ====
section
/-!
DEFINITION. Steps 8 and 9 of the boundary: eligibility, placement, context slots and barriers, fallback election, weighted rounds,
deferral and refusal (R34 to R37, R41, R288, R312, R319, R347 to R353, R358, R445).
-/

namespace Sys2Proof.Machine

/-! Core need (R348). -/

/-- The cores of the real-time queues of a partition. -/
def rtMasks (s : State) (p : Nat) : Nat :=
  s.queues.foldl (fun m e => if e.2.cls = 0 && partOfQueue s e.2 = p then m ||| e.2.rtMask else m) 0

/-- The cores that a partition's work may be placed on: those of its clusters but for what a waiting change takes away (R494). -/
def placeable (s : State) (p : Nat) : List Nat :=
  (partCores s p).filter (fun c => !bit (removedClusters s p) (clusterOf s c))

/-- The placement set of a queue's launches without CORES (R348). -/
def placementSet (s : State) (u : Queue) (c : Context) : List Nat :=
  if u.cls = 0 then bitsSet 192 u.rtMask
  else
    let m := c.stackMask
    let dies (d : Nat) : Bool := m == 0 || bits m (6 * d + 5) (6 * d) != 0
    let l := (placeable s c.partition).filter (fun k => dies (dieOf s k))
    let free := l.filter (fun k => !bit (rtMasks s c.partition) k)
    if free.isEmpty then l else free

/-- The cores that the commands of a buffer name; reading stops at a command that breaks its form, which fails at dispatch. -/
def bufferCores (place : List Nat) : Nat → List Byte → List Nat
  | 0, _ => []
  | n + 1, b =>
    let op := cmOp b
    let k := opUnits op
    if b.length < 16 || k = 0 || cmLen b ≠ k || b.length < 16 * k then []
    else
      let here :=
        if op = 0x03 then [cmArg b % 65536]
        else if op = 0x02 then (if fieldLE b 0x18 24 = 0 then place else bitsSet 192 (fieldLE b 0x18 24))
        else []
      here ++ bufferCores place n (b.drop (16 * k))

/-- A rising list without repeats. -/
def risingSet (l : List Nat) : List Nat := l.foldl (fun m c => insertRising c m) []

/-- The core need of an entry: of its command buffer, and of its fallback buffer on a real-time queue. -/
def coreNeed (place : List Nat) (f : Fetched) : List Nat :=
  let one (b : Option (List Byte)) : List Nat := match b with
    | some b => bufferCores place (b.length / 16) b
    | none => []
  risingSet (one f.buffer ++ one f.fallback)

/-! Eligibility (R319). -/

/-- The entry at READ of a queue, when it is eligible as of now. -/
def eligibleEntry (s : State) (q : Nat) (u : Queue) : Option Fetched :=
  if !u.resident || ctxLost s u.ctx || (find s.subs q).isSome || u.taken = u.read then none
  else
    (u.fetched.find? (fun f => f.idx == u.read)).filter (fun f =>
      f.status == 0 && f.buffer.isSome && (u.cls != 0 || f.badHandle || f.fallback.isSome) && waitsMet f)

/-- The queues with an eligible entry; none is admitted while FE_CTRL.ENABLE is 0, nor of a function in D3hot (R302, R334). -/
def eligibleQueues (s : State) : List Nat :=
  if !bit (reg s offFeCtrl) 0 then [] else
  (s.queues.filter (fun e => (eligibleEntry s e.1 e.2).isSome && !asleep s (fnOfQueue s e.1))).map Prod.fst

/-- The queues whose entry at READ waits: its doorbell was taken, and nothing of the queue runs (R330). -/
def waitingQueues (s : State) : List Nat :=
  (s.queues.filter (fun e => e.2.taken != e.2.read && (find s.subs e.1).isNone && !ctxLost s e.2.ctx)).map Prod.fst

/-! Occupied cores (R37, R350). -/

/-- Cores held by segments carried over, and by saves and restores in progress. -/
def occupiedCores (s : State) : List Nat :=
  let subs := s.subs.filter (fun e => e.1 != kring && e.2.phase != .saved && (e.2.consec != 0 || e.2.phase == .preempting || e.2.phase == .restoring))
  let ctxs := s.ctxs.filter (fun e => e.2.saving || e.2.restoring)
  (subs.map (fun e => e.2.cores)).flatten ++ (ctxs.map (fun e => ctxCores s e.1)).flatten

/-! Context slots and barriers (R288, R312, R347, R386). -/

/-- The slots that a partition holds, and its reserve. -/
def ctxSlotsHeld (s : State) (p : Nat) : Nat := s.ctxs.countP (fun e => e.2.state == .resident && e.2.partition == p)
def ctxSlotsMin (s : State) (p : Nat) : Nat := obj s (0x7010 + p) 5

/-- Slots in use. -/
def ctxSlotsUsed (s : State) : Nat := s.ctxs.countP (fun e => e.2.state == .resident)

/-- A shared slot is free of the 48. -/
def sharedCtxFree (s : State) : Bool :=
  let used := (List.range 16).foldl (fun n p => n + (ctxSlotsHeld s p - ctxSlotsMin s p)) 0
  let kept := (List.range 16).foldl (fun n p => n + ctxSlotsMin s p) 0
  decide (used + kept < 48) && decide (ctxSlotsUsed s < 48)

/-- The context to evict: of those without running or admitted work, in partitions above their reserve, the one admitted least
recently. -/
def evictContext (s : State) : Option Nat :=
  let idle (e : Nat × Context) : Bool :=
    e.2.state == .resident && !e.2.saving && !e.2.restoring && !anyValue s.subs (fun _ u => u.ctx == e.1) &&
      decide (ctxSlotsMin s e.2.partition < ctxSlotsHeld s e.2.partition)
  ((s.ctxs.filter idle).foldl (fun (b : Option (Nat × Nat)) e =>
    match b with
    | some x => if e.2.admitSeq < x.1 then some (e.2.admitSeq, e.1) else b
    | none => some (e.2.admitSeq, e.1)) none).map Prod.snd

/-- How a context of a partition can take a slot: none cannot; some none takes a free one; some (some v) evicts v. -/
def ctxSlotFor (s : State) (p : Nat) : Option (Option Nat) :=
  if ctxSlotsHeld s p < ctxSlotsMin s p && ctxSlotsUsed s < 48 then some none
  else if sharedCtxFree s then some none
  else (evictContext s).map some

/-- A context is evicted: it leaves its slot, with its barriers and its allocations (R288, R312, R351). -/
def evict (s : State) (ctx : Nat) : State :=
  let s := modCtx (leaveSlot s ctx) ctx (fun x => { x with bars := [] })
  s.withCores (mapValues s.cores (fun _ k => { k with allocs := erase k.allocs ctx }))

/-- The physical barriers that no resident context holds, ascending. -/
def freeBarriers (s : State) : List Nat :=
  let held := (s.ctxs.filter (fun e => e.2.state == .resident)).map (fun e => e.2.bars.map (fun b => b.2.phys))
  (List.range 64).filter (fun n => !held.flatten.contains n)

/-- The valid entries of a barrier map: number, members, ring barrier (R287). -/
def validBars (c : Context) : List (Nat × Nat × Option Nat) :=
  ((List.zip (List.range 16) c.barMap).filter (fun e => bit (fieldLE e.2 0x12 1) 0)).map (fun e =>
    (e.1, fieldLE e.2 0 18, if bit (fieldLE e.2 0x12 1) 1 then some (fieldLE e.2 0x13 1) else none))

/-- The barriers that a context needs are free, and no ring barrier of its map is bound on the module (R288, R386). -/
def barriersFree (s : State) (c : Context) : Bool :=
  let l := validBars c
  decide (l.length ≤ (freeBarriers s).length) && l.all (fun e => match e.2.2 with
    | some k => (ringBound s k).isNone
    | none => true)

/-- Barriers as they are bound: new ones unarrived, those of a pre-empted context as they were saved (R288, R291). -/
def boundBars (s : State) (c : Context) : Assoc BarrierSt :=
  (List.zip (validBars c) (freeBarriers s)).map (fun e =>
    match find c.bars e.1.1 with
    | some b => (e.1.1, { b with phys := e.2 })
    | none => (e.1.1, ⟨e.2, e.1.2.1, e.1.2.2, 0, []⟩))

/-- A context takes a slot and begins to load (R311, R312). -/
def takeSlot (s : State) (ctx : Nat) : State :=
  match find s.ctxs ctx with
  | none => s
  | some c => writeDirectory (modCtx s ctx (fun x => { x with state := .resident, loading := true, bars := boundBars s c })) ctx

/-! Local store (R50, R351). -/

/-- A context may hold an allocation on a core. -/
def allocOk (s : State) (ctx : Nat) (c : Context) (core : Nat) : Bool :=
  let k := coreSt s core
  (find k.allocs ctx).isSome ||
    (decide (k.allocs.length < 8) && decide (k.allocs.foldl (fun n a => n + a.2.units) 0 + c.lsUnits ≤ 32))

/-- A context takes its allocation on a core: the one a pre-emption saved, or a new one (R351, R358). -/
def takeAlloc (ctx : Nat) (s : State) (core : Nat) : State :=
  match find s.ctxs ctx with
  | none => s
  | some c =>
    if (find (coreSt s core).allocs ctx).isSome then s
    else
      match (c.saved.find? (fun r => r.core == core)).bind SavedCore.alloc with
      | some a =>
        let s := modCtx s ctx (fun x => { x with saved := x.saved.map (fun r => if r.core = core then { r with alloc := none } else r) })
        modCore s core (fun k => { k with allocs := insert k.allocs ctx a })
      | none =>
        let a : LsAlloc := { units := c.lsUnits, static := c.static, seed := s.freeSeq, bytes := [], ctrs := [] }
        modCore (s.withFreeSeq (s.freeSeq + c.lsUnits * 65536)) core (fun k => { k with allocs := insert k.allocs ctx a })

/-- The contents of an allocation at a release are undefined, unless other work of the context runs on the core (R351). -/
def renewAlloc (ctx : Nat) (s : State) (core : Nat) : State :=
  match find (coreSt s core).allocs ctx with
  | none => s
  | some a =>
    if anyValue s.subs (fun _ u => u.ctx == ctx && u.cores.contains core) then s
    else
      modCore (s.withFreeSeq (s.freeSeq + a.units * 65536)) core (fun k => { k with
        allocs := insert k.allocs ctx { a with seed := s.freeSeq, bytes := [] } })

/-! Conditions of admission (R350). -/

/-- What holds an admission back. -/
structure Blocks where
  cores  : Bool
  slot   : Bool
  bars   : Bool
  store  : Bool
  budget : Bool
  full   : Bool

/-- Some condition fails; lack of memory or of a slot counts for REFUSED_MEMORY (R352). -/
def Blocks.any (b : Blocks) : Bool := b.cores || b.slot || b.bars || b.store || b.budget || b.full
def Blocks.memory (b : Blocks) : Bool := b.slot || b.bars || b.store

/-- What step 9 has done so far: the state, the queues admitted, the standard and background admissions per partition, and the cores
that were occupied when it began. -/
structure Admit where
  s        : State
  admitted : List Nat
  made     : Assoc Nat
  occupied : List Nat

/-- The conditions for an admission of a context with a core need. -/
def admitBlocks (a : Admit) (ctx : Nat) (c : Context) (cls : Nat) (need : List Nat) : Blocks :=
  let s := a.s
  let res := c.state == .resident
  let slot := if res then some none else ctxSlotFor s c.partition
  let t := match slot with
    | some (some v) => evict s v
    | _ => s
  { cores := need.any (fun k => a.occupied.contains k || !(placeable s c.partition).contains k) || c.saving
    slot := slot.isNone
    bars := !res && slot.isSome && !barriersFree t c
    store := !need.all (allocOk t ctx c)
    budget := cls != 0 && decide (obj s (0x7010 + c.partition) 2 ≤ getD 0 a.made c.partition)
    full := decide (64 ≤ a.admitted.length) }

/-- The context of an admitted submission is resident, and its allocations stand (R312, R351). -/
def readyContext (s : State) (ctx : Nat) (c : Context) (need : List Nat) : State :=
  let s :=
    if c.state = .resident then s
    else
      takeSlot (match ctxSlotFor s c.partition with
        | some (some v) => evict s v
        | _ => s) ctx
  let s := modCtx s ctx (fun x => { x with admitSeq := s.front.admits })
  let s := s.withFront { s.front with admits := s.front.admits + 1 }
  need.foldl (takeAlloc ctx) s

/-! Splits (R54). -/

/-- The splits of the draughts that the commands of a buffer carry; reading stops as in `bufferCores`. -/
def bufferSplits (s : State) (ctx q : Nat) (gen : Bool) : Nat → List Byte → List Nat
  | 0, _ => []
  | n + 1, b =>
    let k := opUnits (cmOp b)
    if b.length < 16 || k = 0 || cmLen b ≠ k || b.length < 16 * k then []
    else
      (if cmOp b = 0x03 then [(newDraught s (cmArg b % 65536) ctx q none gen ((b.drop 0x10).take 128)).split] else []) ++
        bufferSplits s ctx q gen n (b.drop (16 * k))

/-- The front end computes the splits of a buffer's draughts as it is submitted for execution: they count in the record, whether or not the
draughts come to be issued (R53, R54). -/
def noteSplits (s : State) (q : Nat) : State :=
  match find s.subs q with
  | none => s
  | some u => (bufferSplits s u.ctx q u.gen (u.code.length / 16) u.code).foldl (fun s k => noteSplit s q k) s

/-! Fallbacks (R37, R41). -/

/-- r × period in ns (R19, R34). -/
def windowNs (s : State) (u : Queue) : Nat := u.rtFrac * periodNs s / 256

/-- A fallback starts: it is counted, and the reserved fraction and what the primary used beyond it are charged (R41). -/
def beginFallback (s : State) (q : Nat) : State :=
  match find s.subs q, find s.queues q with
  | some u, some v =>
    let now := s.tick.time.toNat
    let beyond := u.cores.foldl (fun n c =>
      match find u.ends c with
      | some e => n + ((if e = u.abortAt then now else e) - u.window)
      | none => n) 0
    let window := s.tick.boundary.toNat + windowNs s v
    let s := modSub s q (fun u => { u with
      phase := .running, isFallback := true, fallbackRan := true, stopped := false, pos := 0, progress := 0, work := 0
      coreNs := u.coreNs + popCount 192 v.rtMask * windowNs s v + beyond
      start := max now window, ends := [], window := window })
    let s := modQueue s q (fun v => { v with fallbacks := (v.fallbacks + 1) % 65536 })
    noteSplits (countPart s u.partition 9) q
  | _, _ => s

/-! Admission of one entry. -/

/-- The submission of an admitted entry (R315, R325, R445). -/
def admitEntry (a : Admit) (q : Nat) (u : Queue) (f : Fetched) (c : Context) (place need : List Nat) (fallback : Bool) : Admit :=
  let s := need.foldl (renewAlloc u.ctx) (readyContext a.s u.ctx c need)
  let n := newSubmission s u.ctx c.partition u.read f.entry (f.buffer.getD []) (f.fallback.getD []) .running
  let n := { n with
    waitTicks := u.hWait, deferrals := u.hDefer, cores := need, place := place, gen := c.gen
    level := levelFor s c.partition q, throttled := throttledNow s need
    window := s.tick.boundary.toNat + (if u.cls = 0 then windowNs s u else 0) }
  let s := s.withSubs (insert s.subs q n)
  let s := modQueue s q (fun u => { u with hMem := 0, hAny := 0 })
  let s := if fallback then beginFallback s q else noteSplits s q
  { a with
    s := s, admitted := a.admitted ++ [q]
    made := if u.cls = 0 then a.made else insert a.made c.partition (getD 0 a.made c.partition + 1) }

/-- An entry is deferred (R350, R353). -/
def deferEntry (s : State) (q p : Nat) (b : Blocks) : State :=
  let s := modQueue s q (fun u => { u with
    defers := u.defers + 1, hDefer := u.hDefer + 1, hAny := u.hAny + 1, hMem := if b.memory then u.hMem + 1 else 0 })
  countPart s p 2

/-- The boundary is one at which the entry was not admitted (R330, R353). -/
def noteWait (s : State) (q : Nat) : State :=
  match find s.queues q with
  | none => s
  | some u => countPart (modQueue s q (fun u => { u with waits := u.waits + 1, hWait := u.hWait + 1 })) (partOfQueue s u) 1

/-- An entry completes without running at this boundary, which counts as one at which it was not admitted. The entries behind it that have
their status by then complete with it (R325). -/
def refuseEntry (s : State) (q status : Nat) (f : Fetched) : State := settleHead q 4 (completeHead (noteWait s q) q status f.entry)

/-- The checkpoint of an entry does not lie 8 µs before the end of the reserved fraction (R35). -/
def lateCheckpoint (s : State) (u : Queue) (f : Fetched) : Bool :=
  u.cls == 0 && decide (((u.rtFrac : Int) - reCheck f.entry) * periodNs s < 256 * 8000)

/-- REFUSED_SIZE: at the first eligible boundary, or at any at which the partition has no cores (R338, R352). -/
def sizeRefused (s : State) (u : Queue) (c : Context) (need : List Nat) : Bool :=
  let own := placeable s c.partition
  own.isEmpty || (u.hElig == 1 && (!need.all own.contains || (u.cls == 0 && !need.all (fun k => bit u.rtMask k))))

/-- A deferred entry that must now be refused: the first row of R352 that applies, 0 none. -/
def refusalAfter (s : State) (q p : Nat) (f : Fetched) : Nat :=
  match find s.queues q with
  | none => 0
  | some u =>
    let limit := obj s (0x7010 + p) 4
    if obj s (0x7010 + p) 3 ≤ u.hMem then stRefusedMemory
    else if u.cls = 0 then (if reDeadline f.entry ≤ u.hElig then stRefusedBudget else 0)
    else if limit ≠ 0 && limit ≤ u.hAny then stRefusedBudget
    else 0

/-- The fallback is elected, and not the primary (R37). -/
def electsFallback (s : State) (u : Queue) (f : Fetched) : Bool :=
  s.trans.tokens.any (fun t => t.ctx == u.ctx) || (reThrottle f.entry && throttledNow s (bitsSet 192 u.rtMask))

/-- One eligible entry is offered admission: it is admitted, deferred, or refused. The answer says whether it was admitted. -/
def offerEntry (a : Admit) (q : Nat) : Admit × Bool :=
  match find a.s.queues q with
  | none => (a, false)
  | some u0 =>
    match eligibleEntry a.s q u0, find a.s.ctxs u0.ctx with
    | some f, some c =>
      let s := modQueue a.s q (fun u => { u with hElig := u.hElig + 1 })
      let u := { u0 with hElig := u0.hElig + 1 }
      let a := { a with s := s }
      let place := placementSet s u c
      let need := coreNeed place f
      let code (st : Nat) : Nat := if lateCheckpoint s u f then stFaultCommand else st
      if sizeRefused s u c need then ({ a with s := refuseEntry s q (code stRefusedSize) f }, false)
      else
        let b := admitBlocks a u.ctx c u.cls need
        let b := if u.cls = 0 then { b with cores := b.cores || (bitsSet 192 u.rtMask).any a.occupied.contains } else b
        if b.any then
          let s := deferEntry s q c.partition b
          let st := refusalAfter s q c.partition f
          ({ a with s := if st = 0 then s else refuseEntry s q (code st) f }, false)
        else if lateCheckpoint s u f then ({ a with s := refuseEntry s q stFaultCommand f }, false)
        else if f.badHandle then
          ({ a with s := loseContext (refuseEntry s q stFaultHandle f) u.ctx 1 }, false)
        else (admitEntry a q u f c place need (u.cls == 0 && electsFallback s u f), true)
    | _, _ => (a, false)

/-- A pre-empted submission is offered admission: it is eligible once the cores of its need are free (R358). -/
def offerSaved (a : Admit) (q : Nat) : Admit × Bool :=
  match find a.s.subs q with
  | none => (a, false)
  | some u =>
    match find a.s.ctxs u.ctx with
    | none => (a, false)
    | some c =>
      let b := admitBlocks a u.ctx c (if isRt a.s q then 0 else 1) u.cores
      if b.cores then (a, false)
      else if b.any then
        let s := modSub (countPart a.s u.partition 2) q (fun u => { u with deferrals := u.deferrals + 1 })
        ({ a with s := modQueue s q (fun v => { v with defers := v.defers + 1 }) }, false)
      else
        let s := readyContext a.s u.ctx c u.cores
        let s := modCtx s u.ctx (fun x => { x with restoring := true })
        let s := modSub s q (fun u => { u with phase := .restoring, windowOver := false })
        ({ a with
            s := s, admitted := a.admitted ++ [q]
            made := if isRt a.s q then a.made else insert a.made c.partition (getD 0 a.made c.partition + 1) }, true)

/-- A candidate of step 9: a queue, and whether its submission was pre-empted. -/
abbrev Cand := Nat × Bool

/-- One candidate is offered admission. -/
def offer (a : Admit) (c : Cand) : Admit × Bool := if c.2 then offerSaved a c.1 else offerEntry a c.1

/-! Order (R349). -/

/-- The entry at READ of a queue, and its PRIORITY. -/
def headPriority (u : Queue) : Nat :=
  match u.fetched.find? (fun f => f.idx == u.read) with
  | some f => rePriority f.entry
  | none => 0

/-- Highest PRIORITY, then largest WAIT_TICKS, then lowest queue number. -/
def before (s : State) (a b : Nat) : Bool :=
  match find s.queues a, find s.queues b with
  | some x, some y =>
    let px := headPriority x
    let py := headPriority y
    decide (py < px) || (px == py && (decide (y.hWait < x.hWait) || (x.hWait == y.hWait && decide (a ≤ b))))
  | _, _ => decide (a ≤ b)

/-- The pre-empted submissions of a class and partition, by queue, whose save is over; none is admitted while FE_CTRL.ENABLE is 0 (R334). -/
def savedQueues (s : State) (cls : Nat) (part : Nat → Bool) : List Nat :=
  if !bit (reg s offFeCtrl) 0 then [] else
  (s.subs.filter (fun e => e.2.phase == .saved && part e.2.partition && ((find s.queues e.1).map Queue.cls) == some cls &&
    !asleep s (fnOfQueue s e.1))).map Prod.fst

/-- The candidates of a class in some partitions: those pre-empted first, then eligible entries in order. -/
def candidates (s : State) (elig : List Nat) (cls : Nat) (part : Nat → Bool) : List Cand :=
  let fresh := elig.filter (fun q => match find s.queues q with
    | some u => u.cls == cls && part (partOfQueue s u)
    | none => false)
  (savedQueues s cls part).map (fun q => (q, true)) ++ (sortBy (before s) fresh).map (fun q => (q, false))

/-- Up to w admissions of a partition's candidates, in order; the candidates that are left. -/
def offerSome : Nat → Admit → List Cand → Admit × List Cand
  | _, a, [] => (a, [])
  | 0, a, l => (a, l)
  | w + 1, a, c :: t =>
    let r := offer a c
    offerSome (if r.2 then w else w + 1) r.1 t

/-- One round over the partitions in order; the partition last offered is kept. -/
def offerRound (order : List Nat) (r : Admit × Assoc (List Cand) × Nat) : Admit × Assoc (List Cand) × Nat :=
  order.foldl (fun r p =>
    match find r.2.1 p with
    | none => r
    | some [] => r
    | some l =>
      let o := offerSome (obj r.1.s (0x7010 + p) 1) r.1 l
      (o.1, insert r.2.1 p o.2, p)) r

/-- Rounds until no candidate is left. -/
def offerRounds (order : List Nat) : Nat → Admit × Assoc (List Cand) × Nat → Admit × Assoc (List Cand) × Nat
  | 0, r => r
  | n + 1, r => if r.2.1.all (fun e => e.2.isEmpty) then r else offerRounds order n (offerRound order r)

/-- The admissions of the standard or of the background class. -/
def admitClass (elig : List Nat) (cls : Nat) (a : Admit) : Admit :=
  let last := if cls = 1 then a.s.part.lastStd else a.s.part.lastBg
  let lists := (List.range 16).map (fun p => (p, candidates a.s elig cls (fun r => r == p)))
  let n := lists.foldl (fun n e => n + e.2.length) 0
  let order := (List.range 16).map (fun i => (last + 1 + i) % 16)
  let r := offerRounds order n (a, lists, last)
  let s := r.1.s
  { r.1 with s := if cls = 1 then s.withPart { s.part with lastStd := r.2.2 } else s.withPart { s.part with lastBg := r.2.2 } }

/-- The entry at READ of a queue is the one that stood there in `old`, and it was not admitted. -/
def stillWaits (old s : State) (q : Nat) : Bool :=
  (find s.subs q).isNone && match find old.queues q, find s.queues q with
    | some u, some v => u.read == v.read
    | _, _ => false

/-- Steps 8 and 9. A segment that is carried over from the tick before is charged to the new tick's budget by its core time, and is no
admission of the new tick: ADMIT_MAX counts the admissions made at this boundary (R31; DESIGN CHOICE, log entry 53). `elig` and `waiting` are the queues whose entries were eligible, or waited, as of the edge (R319, R330). -/
def admission (elig waiting : List Nat) (s : State) : Admit :=
  let a : Admit := ⟨s, [], [], occupiedCores s⟩
  let a := (candidates s elig 0 (fun _ => true)).foldl (fun a c => (offer a c).1) a
  let a := admitClass elig 2 (admitClass elig 1 a)
  let parts := (a.admitted.map (fun q => ((find a.s.subs q).map Submission.partition).getD 0)).eraseDups
  let t := parts.foldl (fun s p => countPart s p 0) a.s
  { a with s := (waiting.filter (stillWaits s t)).foldl noteWait t }

end Sys2Proof.Machine
end

