-- ==== Sys2Proof/Machine/TickRecord.lean ====
section
/-!
DEFINITION. The tick record (R28 to R30).
-/

namespace Sys2Proof.Machine

/-- A little-endian table of n-byte fields. -/
def tableLE (n : Nat) (l : List Nat) : List Byte := (l.map (toLE n)).flatten

/-- The resident queues of a partition, ascending. -/
def recordQueues (s : State) (p : Nat) : List (Nat × Queue) :=
  s.queues.filter (fun e => e.2.resident && partOfQueue s e.2 == p)

/-- The consecutive overruns of a queue's running segment. -/
def queueConsec (s : State) (q : Nat) : Nat :=
  match find s.subs q with
  | some u => u.consec
  | none => 0

/-- STATE of a queue entry (R29). -/
def queueState (s : State) (q : Nat) : Nat :=
  let n := queueConsec s q
  let fb := ((find s.subs q).map Submission.isFallback).getD false
  1 + 2 * bnat (n != 0) + 4 * bnat fb + 8 * min n 31

/-- A queue entry of the record; HEAD is the queue's READ (DEDUCED, log entry 80). -/
def queueEntry (s : State) (e : Nat × Queue) : List Byte :=
  let u := e.2
  toLE 2 e.1 ++ toLE 1 u.cls ++ toLE 1 (queueState s e.1) ++ toLE 4 u.read.toNat ++ toLE 8 u.fence.toNat ++ toLE 4 u.waits.toNat ++
    toLE 4 u.defers.toNat ++ toLE 2 u.overruns ++ toLE 2 u.fallbacks ++ toLE 2 u.refusals ++ toLE 2 u.preempts

/-- The objects of a partition's SNAPSHOT_LIST that exist, as index and subindex (R20). -/
def snapshotList (s : State) (p : Nat) : List (Nat × Nat) :=
  let l := (List.range 32).map (fun i => obj s (0x2010 + p) (i + 1))
  (l.map (fun v => (v / 256, v % 256))).filter (fun e => (objDesc s e.1 e.2).isSome)

/-- A snapshot entry: a value of at most eight bytes, or the first eight of a longer one. -/
def snapshotEntry (s : State) (e : Nat × Nat) : List Byte :=
  let ty := ((objDesc s e.1 e.2).map ObjDesc.ty).getD 0
  toLE 2 e.1 ++ toLE 1 e.2 ++ toLE 1 ty ++ zeroBytes 4 ++ toLE 8 (objValue s e.1 e.2)

/-- DIVIDERS: four bits per cluster of the partition. -/
def recordDividers (s : State) (p : Nat) : Nat :=
  (bitsSet 16 (partClusters s p)).foldl (fun n c => n + 16 ^ c * divider s c) 0

/-- The slot of a record: `e` is the state as the edge left it (step 3), `s` the state after steps 4 to 6 (R30). -/
def recordSlot (e s : State) (p : Nat) : List Byte :=
  let n := toLE 8 s.tick.count.toNat
  let qs := (recordQueues e p).take 128
  let snaps := snapshotList s p
  let counters := (find e.part.accounts p).getD []
  let head := n ++ toLE 8 s.tick.boundary.toNat ++ toLE 1 p ++ toLE 1 1 ++ toLE 2 s.tick.period ++ toLE 2 qs.length ++
    toLE 1 snaps.length ++ toLE 1 s.tick.lock ++ toLE 8 (recordDividers s p) ++ toLE 4 (powerBudget s p) ++
    toLE 4 (partPower s p).energy
  let body := padTo 0x40 head ++ tableLE 8 ((List.range 16).map (fun i => if i < 12 then getD 0 counters i else 0))
  let body := padTo 0x100 body ++ (snaps.map (snapshotEntry s)).flatten
  let body := padTo 0x400 body ++ (qs.map (queueEntry e)).flatten
  let body := padTo 0x1400 body ++ qs.map (fun q => BitVec.ofNat 8 (queueConsec e q.1))
  padTo 0x1FF8 body ++ n

/-- One partition's record is written, or skipped when its stack does not answer (R28, R29). -/
def writeTickRecord (e : State) (s : State) (p : Nat) : State :=
  let base := obj s 0x2001 (p + 1)
  if base = 0 then s
  else
    let pa := base + s.tick.count.toNat % 4 * 8192
    if memUp s pa then settleDue (devWrite s pa (recordSlot e s p)) else orReg s offTickStatus 0x20

/-- Step 7 of the boundary. -/
def writeTickRecords (e s : State) : State := (List.range 16).foldl (writeTickRecord e) s

end Sys2Proof.Machine
end

