-- ==== Sys2Proof/Machine/Dump.lean ====
section
/-!
DEFINITION. Hang dumps: the freeze of a submission, the dump area, and the end of the frozen work (R31, R471, R472).
-/

namespace Sys2Proof.Machine

/-- A submission at the overrun limit is frozen: the other submissions of its context stop issuing, and its gated cores wake (R31, R292,
R471). -/
def freezeSub (s : State) (q : Nat) : State :=
  match find s.subs q with
  | none => s
  | some u =>
    let s := modSub (noteStop s q) q (fun u => { u with
      phase := .frozen, hung := true, abortAt := s.tick.time.toNat, frozeTick := s.tick.count.toNat })
    let s := s.withSubs (mapValues s.subs (fun k v =>
      if k ≠ q && v.ctx = u.ctx && v.phase = .running then { v with held := true } else v))
    u.cores.foldl askWake s

/-! What a slot holds (R472). -/

/-- The header of a dump. It names cores by logical number: R10 asks for the physical number as well, and the tables of R472 have no field for
it (DESIGN CHOICE, log entry 55). -/
def dumpHeader (s : State) (q : Nat) (u : Submission) : List Byte :=
  let mask := ((find s.ctxs u.ctx).map Context.stackMask).getD 0
  toLE 1 1 ++ toLE 1 u.partition ++ toLE 2 u.ctx ++ toLE 2 q ++ toLE 2 u.consec ++ toLE 4 u.idx.toNat ++
    toLE 4 (obj s (0x6020 + u.partition) 2) ++ toLE 8 u.frozeTick ++ toLE 8 (twos 64 ((u.abortAt : Int) + s.ring.offset)) ++
    toLE 18 (maskOf u.cores) ++ toLE 2 mask ++ toLE 1 s.tick.lock

/-- The section of a stack: the context's commands in the queue of its cellar engine. -/
def dumpStack (s : State) (u : Submission) (st : Nat) : List Byte :=
  padTo 4096 ((((cellar s st).queue.filter (fun c => c.ctx == u.ctx)).take 64).map (fun c => sliceBytes c.cmd 0 64)).flatten

/-- The counters of a core from an offset of its section on, n pairs (R461, R467). -/
def dumpPairs (s : State) (off n : Nat) : List Byte := tableLE 8 ((List.range n).map (fun i => regPair s (off + 8 * i)))

/-- The instruction words of the entries of the matrix queue that are in use, what executes among them, in issue order (R106, R108, R119). -/
def matrixWords (a : ArraySt) : List Word64 :=
  let run := match a.run with
    | some (.run o _) => [o]
    | some (.drain o) => [o]
    | _ => []
  ((a.loads.map LoadJob.op ++ run ++ a.queue).foldl (fun l o => l.filter (fun p => decide (p.seq ≤ o.seq)) ++ o :: l.filter (fun p => decide (o.seq < p.seq))) []).map MatOp.w

/-- The 16 barrier records of a core: count of its arrivals, E, phase, and whether the core has arrived, that is, every group counted in E has
(R289, R291, R472). Each is four little-endian words in that order, an unbound barrier zeros; the manual names the fields and not their
places in the 16 bytes (DESIGN CHOICE, log entry 54). -/
def barRecords (s : State) (u : Submission) (c : Nat) : List Byte :=
  let bars := ((find s.ctxs u.ctx).map Context.bars).getD []
  ((List.range 16).map (fun b =>
    match find bars b with
    | none => zeroBytes 16
    | some r =>
      match find r.counts c with
      | none => tableLE 4 [0, 0, r.phase, 0]
      | some (n, e, _) => tableLE 4 [n, e, r.phase, bnat (decide (0 < e) && decide (e ≤ n))])).flatten

/-- The section of a core, laid at a physical address. The forms of group records, remaining copy ranges and station states are
not given: their bytes are free (log entry 1). -/
def dumpCore (u : Submission) (s : State) (e : Nat × Nat) : State :=
  let pa := e.1
  let c := e.2
  let k := coreSt s c
  let own := k.array.owner == some u.ctx
  let free (s : State) (o n : Nat) : State :=
    let b := freshBytes s n
    devWrite b.2 (pa + o) b.1
  let put (s : State) (o : Nat) (b : List Byte) : State := devWrite s (pa + o) b
  let mine := ctxGroups k u.ctx
  let s := free s 0 4096
  let s := mine.foldl (fun s g => put s (0x1000 + 512 * g.1) (tableLE 8 ((List.range 64).map (fun i => (getD 0 g.2.scalars i).toNat)))) s
  let s := put s 0x9000 (padTo 2048 (((k.draughts.filter (fun d => d.ctx == u.ctx)).take 16).map (fun d => sliceBytes d.desc 0 128)).flatten)
  let s := free s 0x9800 1024
  let s := free s 0x9C00 512
  let words (l : List Word64) : List Byte := padTo 128 (tableLE 8 ((l.take 16).map BitVec.toNat))
  let s := put s 0x9E00 (words (if own then matrixWords k.array else []))
  let s := put s 0x9E80 (toLE 8 (mstatWord k.array))
  let s := put s 0x9F00 (words (if own then k.vec.queue.map VecOp.w else []))
  let s := put s 0xA000 (tableLE 4 ((List.range 64).map (fun i => (localCtr s c u.ctx i).toNat)))
  let s := put s 0xA100 (dumpPairs s (obCore c + 0x40) 8)
  let s := put s 0xA140 (dumpPairs s (obCore c + 0x100) 32)
  let s := put s 0xA240 (barRecords s u c)
  if own then
    put s 0xB000 (tableLE 2048 ((List.range 32).map (fun i => (getD 0 k.vec.vr i).toNat)) ++
      tableLE 256 ((List.range 8).map (fun i => (getD 0 k.vec.vm i).toNat)))
  else s

/-- n bytes of zeros written from a unit boundary on, in whole units: what an unlisted byte reads as is zero, so the bytes leave the list, and
the units' poison clears (R220, log entry 2). -/
def zeroRange (s : State) (pa n : Nat) : State :=
  if memUp s pa then
    s.withMem { s.mem with
      bytes := s.mem.bytes.filter (fun c => !(decide (pa ≤ c.1) && decide (c.1 < pa + n)))
      poison := s.mem.poison.filter (fun u => !(decide (pa ≤ u * 32) && decide (u * 32 < pa + n))) }
  else s

/-- The dump of a submission is written, its header last, and counted (R471, R475). -/
def writeDump (s : State) (q : Nat) (u : Submission) : State :=
  let o := 0x6020 + u.partition
  let base := obj s o 1
  if base = 0 then s
  else
    let slot := base + obj s o 2 % 2 * 2 ^ 25
    let s := zeroRange (zeroRange s slot 0x1000) (slot + 0x4000) (2 ^ 25 - 0x4000)
    let s := (List.range 12).foldl (fun s st => devWrite s (slot + 0x4000 + 0x1000 * st) (dumpStack s u st)) s
    let at_ (i : Nat) : Nat := slot + 0x10000 + 0x20000 * i
    let s := ((List.zip (List.range u.cores.length) u.cores).map (fun e => (at_ e.1, e.2))).foldl (dumpCore u) s
    let s := settleDue (devWrite s slot (dumpHeader s q u))
    orReg (setObj s o 2 ((obj s o 2 + 1) % 2 ^ 32)) offObStatus 2

/-! The frozen work ends (R333, R471). -/

/-- What the array and the element engine of a core executed of a queue is discarded; a bank in the middle of a load is EMPTY. -/
def Core.dropExecuting (q : Nat) (k : Core) : Core :=
  let a := k.array
  let gone := a.loads.any (fun j => j.started && j.op.queue == q)
  let bank (b : Bank) : Bank := if gone && b.state = .loading then Bank.none else b
  { k with
    array := { a with
      loads := a.loads.filter (fun j => j.op.queue != q)
      run := a.run.filter (fun j => !j.queues.all (· == q))
      bank0 := bank a.bank0, bank1 := bank a.bank1 }
    vec := { k.vec with exec := k.vec.exec.filter (fun v => v.queue != q) } }

/-- Tokens to which only requesters of a queue are attached are withdrawn; it leaves the others (R256). -/
def withdrawOf (s : State) (q : Nat) : State :=
  let s := (s.trans.tokens.filter (fun t => !t.who.isEmpty && t.who.all (fun w => w.2 == q))).foldl withdrawToken s
  s.withTrans { s.trans with tokens := s.trans.tokens.map (fun t => { t with who := t.who.filter (fun w => w.2 != q) }) }

/-- After a submission of a queue has left: arrays pass, submissions that waited go on, and the next entry may complete. -/
def afterLeave (s : State) (q : Nat) : State :=
  settleHead q 4 (unhold (isRt s q) (passOwnership s))

/-- Every station of a queue's draughts stands, on every core. -/
def queueStill (s : State) (q : Nat) : Bool :=
  s.cores.all (fun e => e.2.draughts.all (fun x =>
    x.queue != q || (List.range x.stations.length).all (stationStill s e.1 x)))

/-- HANG_DUMP_DONE: the dump of a frozen submission is written, its work is discarded, and it completes (R471). -/
def execHangDumpDone (q : Nat) (s : State) : Res :=
  needs (find s.subs q) "HANG_DUMP_DONE" fun u =>
    if u.phase != .frozen || !queueStill s q then .refused (.notEnabled "HANG_DUMP_DONE")
    else
      let s := withdrawOf (writeDump s q u) q
      let s := stopWork (s.withCores (mapValues s.cores (fun _ k => k.dropExecuting q))) q
      let status := submissionStatus u
      let s := if status = stHangDumped then countPart s u.partition 11 else s
      .next (afterLeave (finishSubmission s q u status) q)

end Sys2Proof.Machine
end

