-- ==== Sys2Proof/Machine/Boundary.lean ====
section
/-!
DEFINITION. The boundary sequence (R22 to R43, R471), and the events of a tick that follow from it: checkpoints, reserved windows, the end
of aborts and of submissions, and the fill and the switch of the access table (R343).
-/

namespace Sys2Proof.Machine

/-! Step 1 (R15, R16, R23). -/

/-- The count rises, TIME is latched, and doorbells that arrived before the edge are taken. -/
def takeEdge (s : State) : State :=
  let s := s.withTick { s.tick with count := s.tick.count + 1, boundary := s.tick.time }
  s.withQueues (mapValues s.queues (fun _ u => { u with taken := u.write }))

/-! Step 2 (R31, R32, R356). -/

/-- A segment that runs on crosses the boundary (R31, R353). -/
def crossBoundary (s : State) (q : Nat) (u : Submission) : State :=
  let s := modSub s q (fun u => { u with
    consec := u.consec + 1, crossed := u.crossed + 1, throttled := u.throttled || throttledNow s u.cores
    window := s.tick.boundary.toNat + (match find s.queues q with
      | some v => if v.cls = 0 then windowNs s v else 0
      | none => 0) })
  countPart (modQueue s q (fun v => { v with overruns := (v.overruns + 1) % 65536 })) u.partition 10

/-- A segment that still runs is classified: a real-time primary is aborted, any other runs on, and at the overrun limit it is frozen. -/
def classify (s : State) (e : Nat × Submission) : State :=
  match find s.subs e.1 with
  | none => s
  | some u =>
    if e.1 = kring || u.phase ≠ .running then s
    else if isRt s e.1 && !u.isFallback then startAbort s e.1
    else
      let s := crossBoundary s e.1 u
      if obj s 0x2000 5 ≤ u.consec + 1 then freezeSub s e.1 else s

/-- A submission that is not running at the boundary crosses none: a pre-empted one starts its count again, and a pre-empted real-time one
keeps no cores in the new tick, unless it is restored in it. For the others the window of the new tick begins (R32, R34). -/
def restCounts (s : State) : State :=
  s.withSubs (mapValues s.subs (fun _ u =>
    if u.phase = .saved || u.phase = .preempting then { u with consec := 0, windowOver := true } else { u with windowOver := false }))

/-- The contexts whose carried-over standard or background segments hold a core of a mask (R356). -/
def blockers (s : State) (mask : Nat) : List Nat :=
  ((s.subs.filter (fun e => e.1 != kring && e.2.phase == .running && e.2.consec != 0 && !isRt s e.1 &&
    e.2.cores.any (fun c => bit mask c))).map (fun e => e.2.ctx)).eraseDups

/-- A context is pre-empted for a real-time queue, unless its save need is too large or it is being saved already. -/
def preemptFor (s : State) (ctx : Nat) : State :=
  let saving := ((find s.ctxs ctx).map Context.saving).getD false
  if saving || !savable s ctx || (runningOf s ctx).isEmpty then s else startPreempt s ctx false

/-- Step 2: the tokens that reach their limit are resolved, and what still runs is classified (R31, R253); `elig` are the queues with an
eligible entry as of the edge. -/
def closeTick (elig : List Nat) (s : State) : State :=
  let s := resolveOverdue s
  let s := restCounts (s.subs.foldl classify s)
  (elig.filter (isRt s)).foldl (fun s q => (blockers s (rtMaskOf s q)).foldl preemptFor s) s

/-! Step 5 (R25, R192, R315, R343, R496). -/

/-- A fetched real-time entry after a handle switch of its context: its fallback handle is resolved again. -/
def resolveAgain (s : State) (ctx : Nat) (gen : Bool) (f : Fetched) : Fetched :=
  if f.status ≠ 0 || f.badHandle then f
  else
    match resolveFallback s ctx gen f.entry with
    | none => { f with badHandle := true }
    | some (b, n) =>
      if f.fbBase = b && f.fbSize = n then f
      else
        { f with fallback := none, fbBase := b, fbSize := n, status := if accessOk s ctx b n false then 0 else stRefusedAccess }

/-- Entries at the head of the real-time queues of a context that have their status now complete (R325, R496). -/
def settleHeads (s : State) (ctx : Nat) : State :=
  (s.queues.filter (fun e => e.2.ctx == ctx && e.2.cls == 0)).foldl (fun s e => settleHead e.1 4 s) s

/-- An armed handle switch of a context is made. -/
def switchHandles (s : State) (e : Nat × Context) : State :=
  if !e.2.armed then s
  else
    let s := modCtx s e.1 (fun x => { x with gen := !x.gen, armed := false })
    settleHeads (s.withQueues (mapValues s.queues (fun q u =>
      if u.ctx = e.1 && u.cls = 0 then
        { u with fetched := u.fetched.map (fun f =>
            if f.idx = u.read && (find s.subs q).isSome then f else resolveAgain s e.1 (!e.2.gen) f) }
      else u))) e.1

/-- An armed access-table switch whose fill had completed by the edge is made (R343). -/
def switchAccess (s : State) : State :=
  let p := s.part
  if p.armed && p.ready then
    s.withPart { p with rows := p.shadow, gen := (p.gen + 1) % 65536, armed := false, ready := false }
  else s

/-- Step 5. -/
def switchTables (s : State) : State := switchCodebooks (s.ctxs.foldl switchHandles (switchAccess s))

/-! Step 10 (R34, R312, R325, R470). -/

/-- An admitted submission is released: it starts, or waits for its context, a dump, or reserved cores. -/
def releaseSub (s : State) (q : Nat) : State :=
  match find s.subs q with
  | none => s
  | some u =>
    let wait := u.phase != .running || mustWait s q u
    let s := modSub s q (fun v => { v with held := wait })
    if wait then s else failReserved s q false

/-- Step 10: admitted work starts, and every sampling buffer is drained. -/
def release (admitted : List Nat) (s : State) : State :=
  let s := admitted.foldl releaseSub s
  unhold true (settleDue ((s.cores.map Prod.fst).foldl drainSamples s))

/-- The ten steps of a boundary (R22), and the master's tick symbol (R379). -/
def boundary (s : State) : State :=
  let period := s.tick.period
  let s := takeEdge s
  let elig := eligibleQueues s
  let waiting := waitingQueues s
  let s := closeTick elig s
  let edge := s
  let s := switchTables (applyStaged s)
  let s := governorStep period s
  let s := writeTickRecords edge s
  let a := admission elig waiting s
  let s := stepPools (settleDue a.s) a.admitted
  masterSymbol (release a.admitted s)

/-- TICK_BOUNDARY (R22): the tick runs once ring join is over (R15), and not during the clock-failure hold (R423). -/
def execTickBoundary (s : State) : Res :=
  enabled (s.tick.running && !s.clock.hold) "TICK_BOUNDARY" (boundary s)

/-! Within the tick. -/

/-- RESERVED_WINDOW_END: the reserved fraction of a queue is over; cores that no work of the queue keeps pass (R34). -/
def execReservedWindowEnd (q : Nat) (s : State) : Res :=
  enabled (isRt s q) "RESERVED_WINDOW_END" (unhold true (modSub s q (fun u => { u with windowOver := true })))

/-- DEADLINE_CHECKPOINT: a primary that runs with too little progress is aborted (R36, R38); it is compared once. -/
def execDeadlineCheckpoint (q : Nat) (s : State) : Res :=
  match find s.subs q with
  | none => enabled (isRt s q) "DEADLINE_CHECKPOINT" s
  | some u =>
    if !isRt s q then .refused (.notEnabled "DEADLINE_CHECKPOINT")
    else if u.checked || u.isFallback || u.phase ≠ .running || u.stopped then .next s
    else
      let s := modSub s q (fun u => { u with checked := true })
      .next (if u.progress.toNat < reProgress u.entry then startAbort s q else s)

/-- Passes, an element instruction, a station's tile, or a piece of a copy of an aborted primary are still in progress (R40, R156). -/
def abortBusy (s : State) (q : Nat) : Bool :=
  !queueStill s q || s.cores.any (fun e =>
    e.2.copies.any (fun x => x.queue == q) ||
    (match e.2.array.run with
     | some j => j.queues.contains q
     | none => false) ||
      e.2.array.loads.any (fun j => j.started && j.op.queue == q) ||
      (match e.2.vec.exec with
       | some v => v.queue == q
       | none => false))

/-- A vector file whose registers are undefined: each is a free value (R175, log entry 1). -/
def freeFile (s : State) (v : VecSt) : VecSt × State :=
  let r (i : Nat) : Nat := Sys2Proof.Config.freeWord (s.freeSeq + i)
  ({ v with
      vr := (List.range 32).map (fun i => (i, BitVec.ofNat 16384 (r i)))
      vm := (List.range 8).map (fun i => (i, BitVec.ofNat 2048 (r (32 + i)))) }, s.withFreeSeq (s.freeSeq + 40))

/-- What the fallback finds on a reserved core: local counters zero, local store and vector registers undefined (R40, R175). -/
def cutOffCore (q ctx : Nat) (s : State) (c : Nat) : State :=
  let s := modCore s c (fun k => { k with allocs := modify k.allocs ctx (fun a => { a with ctrs := [] }) })
  let alone := !s.subs.any (fun e => e.1 != q && e.2.ctx == ctx && e.2.cores.contains c)
  let s :=
    if alone then
      modCore (s.withFreeSeq (s.freeSeq + lsSize s c ctx)) c (fun k => { k with
        allocs := modify k.allocs ctx (fun a => { a with seed := s.freeSeq, bytes := [] }) })
    else s
  if (coreSt s c).array.owner = some ctx && alone then
    let f := freeFile s (coreSt s c).vec
    modCore f.2 c (fun k => { k with vec := f.1 })
  else s

/-- RT_ABORT_COMPLETE: what the primary left is discarded, its tokens are withdrawn, and the fallback starts (R38, R40, R41, R256); a
submission with a standing fault has no fallback (R33). -/
def execRtAbortComplete (q : Nat) (s : State) : Res :=
  needs (find s.subs q) "RT_ABORT_COMPLETE" fun u =>
    if u.phase != .aborting || abortBusy s q then .refused (.notEnabled "RT_ABORT_COMPLETE")
    else
      let s := withdrawOf s q
      let s := stopWork s q
      let s := (bitsSet 192 (rtMaskOf s q)).foldl (cutOffCore q u.ctx) s
      if u.fault ≠ 0 then .next (modSub s q (fun u => { u with phase := .running }))
      else
        let s := beginFallback s q
        let wait := mustWait s q u
        let s := modSub s q (fun v => { v with held := wait })
        .next (if wait then s else failReserved s q false)

/-- SUBMISSION_COMPLETE: the last work of a submission is over: record, fence, interrupt; arrays and cores pass (R34, R118, R325, R329 to
R331). -/
def execSubmissionComplete (q : Nat) (s : State) : Res :=
  needs (find s.subs q) "SUBMISSION_COMPLETE" fun u =>
    if u.phase != .running then .refused (.notEnabled "SUBMISSION_COMPLETE")
    else if u.stopped then
      if executesOf s q then .refused (.notEnabled "SUBMISSION_COMPLETE")
      else .next (afterLeave (finishSubmission s q u (submissionStatus u)) q)
    else if u.held || workLeft s q then .refused (.notEnabled "SUBMISSION_COMPLETE")
    else if reservedNext u then
      let s := failSubmission s q stFaultCommand
      .next (afterLeave (finishSubmission s q u stFaultCommand) q)
    else if u.pos < u.code.length then .refused (.notEnabled "SUBMISSION_COMPLETE")
    else .next (afterLeave (finishSubmission s q u (submissionStatus u)) q)

/-! The access table (R343, R365). -/

/-- A fill of the shadow generation starts, or starts again. -/
def accFill (s : State) : State := s.withPart { s.part with filling := true, ready := false }

/-- The switch is armed, or disarmed. -/
def accArm (on : Bool) (s : State) : State := s.withPart { s.part with armed := on }

/-- PT_ACC_FILL. -/
def execPtAccFill (s : State) : Res := pfWrite 0x200008 s (.next (accFill s))

/-- PT_ACC_ARM. -/
def execPtAccArm (s : State) : Res := pfWrite 0x200008 s (.next (accArm true s))

/-- PT_ACC_DISARM. -/
def execPtAccDisarm (s : State) : Res := pfWrite 0x200008 s (.next (accArm false s))

/-- A row of an image with a nonzero field marked zero (R341). -/
def rowMalformed (r : Nat) : Bool := bits r 127 85 != 0 || bits r 79 78 != 0 || bits r 31 26 != 0

/-- The rows of an image, those that are not zero. -/
def imageRows (b : List Byte) : Assoc Nat :=
  ((List.range 4225).map (fun i => (i, fieldLE b (16 * i) 16))).filter (fun e => e.2 != 0)

/-- ACCESS_TABLE_FILL_DONE: the image becomes the shadow generation, or the fill fails (R223, R343). -/
def execAccessTableFillDone (ecc : Ecc) (s : State) : Res :=
  if !s.part.filling then .refused (.notEnabled "ACCESS_TABLE_FILL_DONE")
  else
    let pa := bits (regPair s offAccImage) 43 12 * 4096
    let n := 67600
    let fail (s : State) : State := s.withPart { s.part with filling := false, ready := false, fillErr := true }
    if readFails s pa n ecc then .next (readError (fail s) pa n ecc)
    else
      let s := readError s pa n ecc
      let rows := imageRows (peek s pa n)
      if rows.any (fun e => rowMalformed e.2) then .next (fail s)
      else .next (s.withPart { s.part with filling := false, ready := true, shadow := rows })

end Sys2Proof.Machine
end

