-- ==== Sys2Proof/Machine/QueueCmds.lean ====
section
/-!
DEFINITION. The commands of command buffers (R324 to R327): ordinary ones, copies and fills with the copy engine, and the privileged
ones of the kernel ring.
-/

namespace Sys2Proof.Machine

/-- NOP (R324). -/
def execNop (q : Nat) (s : State) : Res :=
  dispatchCmd s q 0x00 "NOP" fun _ _ => .next (advance s q 0x00)

/-- FENCE_WAIT (R324, R327): met before admission on a queue; on the kernel ring it holds the ring until it is met. -/
def execFenceWait (q : Nat) (s : State) : Res :=
  dispatchCmd s q 0x01 "FENCE_WAIT" fun u c =>
    match waitWord s q u.ctx (if q = kring then none else some u.partition) (fieldLE c 0x08 8) with
    | (.inr st, s) => .next (settleDue (failSubmission s q st))
    | (.inl v, s) =>
      let s := settleDue s
      if q = kring && v < fieldLE c 0x10 8 then .next s else .next (advance s q 0x01)

/-! LAUNCH and DRAUGHT (R122, R124, R348). -/

/-- The cores of a launch: its CORES, or the placement set of its submission (R348). -/
def launchCores (u : Submission) (mask : Nat) : List Nat := if mask = 0 then u.place else bitsSet 192 mask

/-- The parameters of a launch keep to R122. -/
def launchOk (c : List Byte) : Bool :=
  let regs := fieldLE c 0x10 2
  let depth := fieldLE c 0x13 1
  let scratch := fieldLE c 0x14 4
  decide (fieldLE c 0x08 8 < 2 ^ 48) && fieldLE c 0x08 8 % 8 == 0 && decide (16 ≤ regs) && decide (regs ≤ 256) && regs % 16 == 0 &&
    decide (1 ≤ fieldLE c 0x12 1) && decide (fieldLE c 0x12 1 ≤ 32) &&
    (depth == 8 || depth == 16 || depth == 32 || depth == 64) && decide (scratch ≤ 65536) && scratch % 256 == 0

/-- The launch-queue entry of group idx of a launch. -/
def launchReq (u : Submission) (q : Nat) (c : List Byte) (idx : Nat) : LaunchReq :=
  { ctx := u.ctx, queue := q, entry := fieldLE c 0x08 8, regs := fieldLE c 0x10 2, threads := fieldLE c 0x12 1
    depth := fieldLE c 0x13 1, scratch := fieldLE c 0x14 4
    args := (List.range 16).map (fun i => BitVec.ofNat 64 (fieldLE c (0x30 + 8 * i) 8)), idx := idx }

/-- A group waits for residency on a core; a gated core is woken (R124, R292). -/
def pushLaunch (core : Nat) (r : LaunchReq) (s : State) : State :=
  askWake (modCore s core (fun k => { k with launchQ := k.launchQ ++ [r] })) core

/-- The static bytes of a context's allocation. -/
def staticBytes (s : State) (ctx : Nat) : Nat := ((find s.ctxs ctx).map (fun c => c.static * 65536)).getD 0

/-- LAUNCH: GROUPS groups of one program go to the launch queues of their cores (R122, R124, R348). -/
def execLaunch (q : Nat) (s : State) : Res :=
  dispatchCmd s q 0x02 "LAUNCH" fun u c =>
    let cores := launchCores u (fieldLE c 0x18 24)
    if !launchOk c || cores.isEmpty || staticBytes s u.ctx < staticNeed (fieldLE c 0x13 1) (fieldLE c 0x14 4) then
      failCmdOf s q stFaultCommand
    else
      .next (advance ((List.range (cmArg c)).foldl (fun s g =>
        pushLaunch (cores.getD (g % cores.length) 0) (launchReq u q c g) s) s) q 0x02)

/-- DRAUGHT: a draught is issued on a logical core; it waits while the core's draught queue is full (R55, R324). -/
def execDraught (q : Nat) (s : State) : Res :=
  dispatchCmd s q 0x03 "DRAUGHT" fun u c =>
    let core := cmArg c
    if numCores s ≤ core then failCmdOf s q stFaultCommand
    else if draughtsFull s core then .refused (.notEnabled "DRAUGHT")
    else .next (advance (askWake (issueDraught s core u.ctx q none u.gen ((c.drop 0x10).take 128)) core) q 0x03)

/-! COPY and FILL (R326, R374). -/

/-- One side of a copy: where it begins in its space, and a peer window's port and context. -/
inductive Side where
  | host (a : Nat)
  | object (va : Nat)
  | peer (port ctx a : Nat)
  | bad (status : Nat)
  deriving DecidableEq, Repr

/-- A side that names a handle (R314, R374). -/
def objectSide (s : State) (u : Submission) (h o n : Nat) (write : Bool) : Side :=
  match goodUse s u.ctx u.gen h (if write then [1, 2] else [1]) o n (!write) write with
  | none => .bad stFaultHandle
  | some e =>
    if heKind e = 1 then .object (heBase e + o)
    else
      let port := routeTo s (hePeer e)
      if windowPort s u.ctx port e then .peer port (hePeerCtx e) (heBase e + o) else .bad stFaultAccess

def coSrcHost (c : List Byte) : Bool := bit (cmFlags c) 0
def coDstHost (c : List Byte) : Bool := bit (cmFlags c) 1
def coLen (c : List Byte) : Nat := fieldLE c 0x20 8

/-- The ranges of virtual addresses of a copy: address, length, whether it is written. -/
def sideRange (x : Side) (n : Nat) (write : Bool) : List (Nat × Nat × Bool) :=
  match x with
  | .object va => [(va, n, write)]
  | _ => []

/-- The physical pieces of a range under a map of its pages. -/
def mappedSpans (m : Assoc Nat) (va n : Nat) : List (Nat × Nat) :=
  (pieces 65536 va n).map (fun p => ((find m (p.1 / 65536)).getD 0 * 65536 + p.1 % 65536, p.2))

/-- The one stack whose bulk pages hold every range (R326). -/
def oneStack (m : Assoc Nat) (l : List (Nat × Nat × Bool)) : Option Nat :=
  if l.any (fun r => cachedVa r.1) then none
  else
    match m with
    | [] => none
    | e :: _ =>
      match stackOf (e.2 * 65536) with
      | none => none
      | some st => if m.all (fun x => stackOf (x.2 * 65536) == some st) then some st else none

/-- A front-end copy joins those that run. -/
def addFeCopy (s : State) (u : Submission) (q : Nat) (c : List Byte) (src dst : Nat) (peer : Option (Nat × Nat))
    (stack : Option Nat) : State :=
  s.withFront { s.front with
    nextFe := s.front.nextFe + 1
    feCopies := s.front.feCopies ++ [{ id := s.front.nextFe, queue := q, ctx := u.ctx, partition := u.partition, cmd := c
                                       src := src, dst := dst, peer := peer, done := 0, onStack := stack, stall := none
                                       peerAcks := 0 }] }

/-- A command for a stack's cellar engine (R182, R326). -/
def sendToStack (s : State) (u : Submission) (q : Nat) (c cell : List Byte) (st src dst : Nat) (m : PageMap) : State :=
  let h (w : Nat) : Nat := ((handleEntry s u.ctx u.gen w).map heBase).getD 0
  let z (w : Nat) : Nat := ((handleEntry s u.ctx u.gen w).map heSize).getD 0
  let id := s.front.nextFe
  let s' := addFeCopy s u q c src dst none (some st)
  let k : CellCmd :=
    { cmd := cell, ctx := u.ctx, queue := q, core := none, draught := id, tileIdx := 0, tile := none
      aBase := h (ccAH cell), bBase := 0, dBase := h (ccDH cell), aSize := z (ccAH cell), bSize := 0, dSize := z (ccDH cell)
      cbA := 0, slotA := none, gen := 0, maps := m }
  modCellar s' st (fun e => { e with waiting := e.waiting ++ [k] })

/-- The cellar COPY or FILL command of a front-end one (R185, R186). -/
def cellCopyCmd (c : List Byte) (n : Nat) : List Byte :=
  toLE 1 ocCOPY ++ zeroBytes 7 ++ toLE 4 (fieldLE c 0x08 4) ++ zeroBytes 4 ++ toLE 8 (fieldLE c 0x10 8) ++ zeroBytes 8 ++
    toLE 4 (fieldLE c 0x0C 4) ++ toLE 4 n ++ toLE 8 (fieldLE c 0x18 8) ++ zeroBytes 16
def cellFillCmd (c : List Byte) (n : Nat) : List Byte :=
  toLE 1 ocFILL ++ zeroBytes 15 ++ zeroBytes 8 ++ (c.drop 0x18).take 8 ++
    toLE 4 (fieldLE c 0x08 4) ++ toLE 4 n ++ toLE 8 (fieldLE c 0x10 8) ++ zeroBytes 16

/-- A virtual side leaves its space. -/
def sideOutside (x : Side) (n : Nat) : Bool :=
  match x with
  | .object va => if cachedVa va then decide (2 ^ 36 < va + n) else decide (2 ^ 48 < va + n)
  | _ => false

/-- The address of a side. -/
def sideAt (x : Side) : Nat :=
  match x with
  | .host a => a
  | .object va => va
  | .peer _ _ a => a
  | .bad _ => 0

/-- A copy or fill whose sides are good: its pages are translated, and it goes to a stack or to the copy engine (R326). `cell` is the
command for a stack's engine, if it may go to one. -/
def beginCopy (s : State) (q op : Nat) (u : Submission) (c : List Byte) (src dst : Side) (n : Nat) (cell : Option (List Byte)) : Res :=
  let ranges := sideRange src n false ++ sideRange dst n true
  if sideOutside src n || sideOutside dst n then failCmdOf s q stFaultAccess
  else
    match mapPages s (.frontEnd q) u.ctx q u.maps (pagesOf ranges) with
    | (false, m, s) => .next (modSub s q (fun u => { u with maps := m }))
    | (true, m, s) =>
      let s := modSub s q (fun u => { u with maps := PageMap.empty })
      let apart := op != 0x04 || !spansMeet (mappedSpans m.pages (sideAt src) n) (mappedSpans m.pages (sideAt dst) n)
      let s := match cell, oneStack m.pages ranges with
        | some k, some st =>
          if n % 8 = 0 && n ≤ 2 ^ 26 && apart then sendToStack s u q c k st (sideAt src) (sideAt dst) m
          else addFeCopy s u q c (sideAt src) (sideAt dst) none none
        | _, _ =>
          addFeCopy s u q c (sideAt src) (sideAt dst) (match dst with
            | .peer p x _ => some (p, x)
            | _ => none) none
      .next (advance s q op)

/-- COPY: sent to a cellar engine, or to the copy engine (R326, R374). -/
def execCopy (q : Nat) (s : State) : Res :=
  dispatchCmd s q 0x04 "COPY" fun u c =>
    let n := coLen c
    let hs := fieldLE c 0x08 4
    let hd := fieldLE c 0x0C 4
    if (coSrcHost c && hs != 0) || (coDstHost c && hd != 0) || n < 4 || 2 ^ 40 < n || n % 4 ≠ 0 then failCmdOf s q stFaultCommand
    else
      let src := if coSrcHost c then Side.host (fieldLE c 0x10 8) else objectSide s u hs (fieldLE c 0x10 8) n false
      let dst := if coDstHost c then Side.host (fieldLE c 0x18 8) else objectSide s u hd (fieldLE c 0x18 8) n true
      match src, dst with
      | .bad st, _ => if st = stFaultHandle then .next (badHandle s q u.ctx u.gen [hs]) else failCmdOf s q st
      | _, .bad st => if st = stFaultHandle then .next (badHandle s q u.ctx u.gen [hd]) else failCmdOf s q st
      | .object va, .peer _ _ _ => if cachedVa va then failCmdOf s q stFaultCommand else beginCopy s q 0x04 u c src dst n none
      | _, .peer _ _ _ => failCmdOf s q stFaultCommand
      | .object _, .object _ => beginCopy s q 0x04 u c src dst n (some (cellCopyCmd c n))
      | _, _ => beginCopy s q 0x04 u c src dst n none

/-- FILL: sent to a cellar engine, or to the copy engine (R326). -/
def execFill (q : Nat) (s : State) : Res :=
  dispatchCmd s q 0x05 "FILL" fun u c =>
    let n := cmArg c * 8
    match goodUse s u.ctx u.gen (fieldLE c 0x08 4) [1] (fieldLE c 0x10 8) n false true with
    | none => .next (badHandle s q u.ctx u.gen [fieldLE c 0x08 4])
    | some e =>
      beginCopy s q 0x05 u c (.host 0) (.object (heBase e + fieldLE c 0x10 8)) n (some (cellFillCmd c n))

/-! The copy engine (R326). -/

/-- The length of a front-end copy or fill. -/
def feLen (f : FeCopy) : Nat := if cmOp f.cmd = 0x05 then cmArg f.cmd * 8 else coLen f.cmd

/-- A copy of the engine has a piece to move now. -/
def fePending (s : State) (f : FeCopy) : Bool :=
  f.onStack.isNone && f.stall.isNone && decide (f.done < feLen f) && mayRun s f.queue && !attached s (.frontEnd f.queue) &&
    (match f.peer with
     | some (p, _) => portRoom s p 17
     | none => true)

/-- The copy whose turn it is: the first of the next partition in rotation that has one pending (R326). -/
def nextFeCopy (s : State) : Option FeCopy :=
  ((List.range 16).map (fun i => (s.front.lastCopyPart + 1 + i) % 16)).findSome? (fun p =>
    s.front.feCopies.find? (fun f => f.partition == p && fePending s f))

/-- Change a front-end copy. -/
def modFe (s : State) (id : Nat) (g : FeCopy → FeCopy) : State :=
  s.withFront { s.front with feCopies := s.front.feCopies.map (fun f => if f.id = id then g f else f) }

/-- A copy whose bytes are all moved, and acknowledged by a peer, is over. -/
def endFe (s : State) (id : Nat) : State :=
  s.withFront { s.front with feCopies := s.front.feCopies.filter (fun f => !(f.id == id && decide (feLen f ≤ f.done) && f.peerAcks == 0)) }

/-- The bytes of a piece that a copy or fill writes. -/
def feRead (s : State) (f : FeCopy) (n : Nat) : MemOut :=
  if cmOp f.cmd = 0x05 then ⟨(List.replicate (n / 8) ((f.cmd.drop 0x18).take 8)).flatten, true, s⟩
  else if coSrcHost f.cmd then let r := hostRead s (fnOfQueue s f.queue) (f.src + f.done) n; ⟨r.1, true, r.2⟩
  else virtRead s (.frontEnd f.queue) f.ctx f.queue (f.src + f.done) n

/-- The bytes of a piece written to its destination (R326, R374). -/
def feWrite (s : State) (f : FeCopy) (b : List Byte) : MemOut :=
  match f.peer with
  | some (p, ctx) =>
    let runs := cutRuns [(f.dst + f.done, b)]
    let s := modFe s f.id (fun f => { f with peerAcks := f.peerAcks + runs.length })
    ⟨[], true, runs.foldl (fun s r =>
      portRequest s p (.frontEnd f.queue) f.queue f.id (fun x => { x with payload := r.2 }) pkWRITE ctx (r.1 % 2 ^ 48)) s⟩
  | none =>
    if cmOp f.cmd = 0x04 && coDstHost f.cmd then ⟨[], true, hostWrite s (fnOfQueue s f.queue) (f.dst + f.done) b⟩
    else virtWrite s (.frontEnd f.queue) f.ctx f.queue (f.dst + f.done) b

/-- COPY_ENGINE_PIECE_DONE: the piece whose turn it is has been moved (R326). A piece that faults stays to be moved. -/
def execCopyEnginePieceDone (s : State) : Res :=
  needs (nextFeCopy s) "COPY_ENGINE_PIECE_DONE" fun f =>
    let s := s.withFront { s.front with lastCopyPart := f.partition }
    let n := min 65536 (feLen f - f.done)
    let r := feRead s f n
    if !r.ok then .next r.st
    else
      let w := feWrite r.st f r.data
      if !w.ok then .next w.st else .next (endFe (modFe w.st f.id (fun f => { f with done := f.done + n })) f.id)

/-! Invalidations and handle tables (R257, R258, R315). -/

/-- An invalidation that a command asks for; the command is over once it has drained. -/
def commandInval (s : State) (q ctx : Nat) (range : Option (Nat × Nat)) : State :=
  let s := invalidate s ctx range
  let s := s.withTrans { s.trans with invals := s.trans.invals ++ [⟨ctx, range, false, some q⟩] }
  modSub s q (fun u => { u with work := u.work + 1 })

/-- INV_RANGE (R258, R324). -/
def execInvRange (q : Nat) (s : State) : Res :=
  dispatchCmd s q 0x06 "INV_RANGE" fun u c =>
    let lo := fieldLE c 0x08 8
    .next (advance (commandInval s q (if q = kring then cmArg c else u.ctx) (some (lo, lo + fieldLE c 0x10 8 * 65536))) q 0x06)

/-- HANDLE_ARM (R315, R324). -/
def execHandleArm (q : Nat) (s : State) : Res :=
  dispatchCmd s q 0x07 "HANDLE_ARM" fun u c =>
    .next (advance (modCtx s u.ctx (fun x => { x with armed := cmArg c == 1 })) q 0x07)

/-! The kernel ring (R327). -/

/-- An entry of a barrier map keeps to R287 and R386. -/
def barEntryOk (s : State) (p : Nat) (e : List Byte) : Bool :=
  let fl := fieldLE e 0x12 1
  let ring := fieldLE e 0x13 1
  if bit fl 0 then
    (bitsSet 144 (fieldLE e 0 18)).all (fun c => (partCores s p).contains c) && bits fl 7 2 == 0 && decide (ring ≤ 63) &&
      (bit fl 1 || ring == 0) && allZero ((e.drop 0x14).take 12)
  else allZero e

/-- The barrier map of a descriptor. -/
def descBars (d : List Byte) : List (List Byte) := (List.range 16).map (fun i => (d.drop (0x200 + 32 * i)).take 32)

/-- Bytes that a context's save area needs (R310). -/
def saveNeed (s : State) (p units : Nat) : Nat := 4096 + (partCores s p).length * (1344 * 1024 + units * 65536)

/-- A host function of a partition (R327, R338). -/
def fnInPart (s : State) (p fn : Nat) : Bool := fn == 0 || partOfFn s fn == some p

/-- A context descriptor keeps to R310, R50, R243, R287 and R327. -/
def ctxDescOk (s : State) (pa : Nat) (d : List Byte) : Bool :=
  let p := fieldLE d 0x01 1
  let units := fieldLE d 0x04 1
  let fn := fieldLE d 0x06 1
  let h := fieldLE d 0x20 4
  let h0 := fieldLE d 0x10 8
  let h1 := fieldLE d 0x18 8
  let save := fieldLE d 0x28 8
  let size := fieldLE d 0x30 8
  pa % 1024 == 0 && fieldLE d 0x00 1 == 1 && decide (p ≤ 15) && decide (fieldLE d 0x02 2 < 4096) && decide (4 ≤ units) &&
    decide (units ≤ 32) && decide (fieldLE d 0x05 1 + 1 ≤ units) && decide (fn ≤ 63) && decide (fieldLE d 0x07 1 ≤ 63) &&
    inPartStacks s p pa 1024 && fieldLE d 0x08 8 % 512 == 0 && inPartStacks s p (fieldLE d 0x08 8) 512 &&
    decide (2 ≤ h) && decide (h ≤ 1048576) && h0 % 65536 == 0 && h1 % 65536 == 0 && inPartStacks s p h0 (16 * h) &&
    inPartStacks s p h1 (16 * h) && fieldLE d 0x24 4 == 0 && save % 65536 == 0 && decide (saveNeed s p units ≤ size) &&
    inPartStacks s p save size && allZero ((d.drop 0x38).take 456) && (descBars d).all (barEntryOk s p) && fnInPart s p fn &&
    !s.ctxs.any (fun e => e.2.fn == fn && e.2.fnIndex == fieldLE d 0x07 1)

/-- A context as its descriptor makes it (R310, R311). -/
def newContext (pa : Nat) (d : List Byte) : Context :=
  { state := .idle, reason := 0, descAddr := pa, partition := fieldLE d 0x01 1, stackMask := fieldLE d 0x02 2
    lsUnits := fieldLE d 0x04 1, static := fieldLE d 0x05 1, fn := fieldLE d 0x06 1, fnIndex := fieldLE d 0x07 1
    l1 := fieldLE d 0x08 8, htable0 := fieldLE d 0x10 8, htable1 := fieldLE d 0x18 8, handles := fieldLE d 0x20 4
    saveBase := fieldLE d 0x28 8, saveSize := fieldLE d 0x30 8, barMap := descBars d, gen := false, armed := false
    rctrs := [], heldCtrs := [], bars := [], admitSeq := 0, loading := false, saving := false, restoring := false
    driverPre := false, saved := [], savedCells := [] }

/-- CTX_CREATE (R310, R327). -/
def execCtxCreate (q : Nat) (s : State) : Res :=
  dispatchCmd s q 0x40 "CTX_CREATE" fun _ c =>
    let ctx := cmArg c
    let pa := fieldLE c 0x08 8
    if (find s.ctxs ctx).isSome || !accessOk s 4096 pa 1024 false then failCmdOf s q stFaultCommand
    else if readFails s pa 1024 .clean then .next (readError (failSubmission s q stFaultMemory) pa 1024 .clean)
    else
      let d := peek s pa 1024
      if !ctxDescOk s pa d then failCmdOf s q stFaultCommand
      else .next (advance (settleDue (writeDirectory (s.withCtxs (insert s.ctxs ctx (newContext pa d))) ctx)) q 0x40)

/-- CTX_DESTROY (R311, R327, R332): the context is lost, or its slot is released and it is FREE once its invalidation drained. -/
def execCtxDestroy (q : Nat) (s : State) : Res :=
  dispatchCmd s q 0x41 "CTX_DESTROY" fun _ c =>
    let ctx := cmArg c
    if (find s.ctxs ctx).isNone then failCmdOf s q stFaultCommand
    else if bit (cmFlags c) 0 then .next (advance (loseContext s ctx 5) q 0x41)
    else if !(queuesOf s ctx).isEmpty then failCmdOf s q stFaultCommand
    else
      let s := modCtx (releaseContext s ctx) ctx (fun x => { x with state := .free })
      .next (advance (commandInval s q ctx none) q 0x41)

/-- A queue descriptor keeps to R316 (R301, R327). -/
def queueDescOk (s : State) (d : List Byte) : Bool :=
  let ctx := fieldLE d 0x02 2
  let cls := fieldLE d 0x01 1
  let log2 := fieldLE d 0x05 1
  let vec := fieldLE d 0x06 1
  let ring := fieldLE d 0x08 8
  let comp := fieldLE d 0x10 8
  let mask := fieldLE d 0x20 18
  match find s.ctxs ctx with
  | none => false
  | some c =>
    (c.state == .idle || c.state == .resident) && fieldLE d 0x00 1 == 1 && decide (cls ≤ 2) && bits (fieldLE d 0x04 1) 7 2 == 0 &&
      decide (4 ≤ log2) && decide (log2 ≤ 16) &&
      (if c.fn = 0 then decide (3 ≤ vec) && decide (vec ≤ 63) && fieldLE d 0x07 1 == 0
       else decide (1 ≤ vec) && decide (vec ≤ 7) && decide (fieldLE d 0x07 1 ≤ 63) && (vfQueue s c.fn (fieldLE d 0x07 1)).isNone) &&
      ring % 4096 == 0 && inPartStacks s c.partition ring (2 ^ log2 * 64) && comp % 4096 == 0 &&
      (bit comp 63 || inPartStacks s c.partition comp (2 ^ log2 * 32)) && fieldLE d 0x18 4 == 0 && fieldLE d 0x1C 4 == 0 &&
      (if cls = 0 then (bitsSet 144 mask).all (fun x => (partCores s c.partition).contains x) && decide (1 ≤ fieldLE d 0x32 1)
       else mask == 0 && fieldLE d 0x32 1 == 0) && allZero ((d.drop 0x33).take 13)

/-- A queue as its descriptor makes it (R316). -/
def newQueue (d : List Byte) : Queue :=
  { cls := fieldLE d 0x01 1, ctx := fieldLE d 0x02 2, flags := fieldLE d 0x04 1, log2 := fieldLE d 0x05 1
    vector := fieldLE d 0x06 1, fnIndex := fieldLE d 0x07 1, ringBase := fieldLE d 0x08 8, compBase := fieldLE d 0x10 8
    rtMask := fieldLE d 0x20 18, rtFrac := fieldLE d 0x32 1, read := 0, write := 0, taken := 0, resident := false
    request := none, lastBell := 0, fetched := [], fence := 0, waits := 0, defers := 0, overruns := 0
    fallbacks := 0, refusals := 0, preempts := 0, hWait := 0, hDefer := 0, hMem := 0, hAny := 0, hElig := 0 }

/-- QUEUE_CREATE (R316, R327). -/
def execQueueCreate (q : Nat) (s : State) : Res :=
  dispatchCmd s q 0x42 "QUEUE_CREATE" fun _ c =>
    let n := cmArg c
    let d := (c.drop 0x10).take 64
    if (find s.queues n).isSome || !queueDescOk s d then failCmdOf s q stFaultCommand
    else
      .next (advance (settleDue (pfPoke (s.withQueues (insert s.queues n (newQueue d))) (regPair s offQueueTable + 64 * n) d)) q 0x42)

/-- QUEUE_DESTROY: READ must equal WRITE, with nothing running (R327). -/
def execQueueDestroy (q : Nat) (s : State) : Res :=
  dispatchCmd s q 0x43 "QUEUE_DESTROY" fun _ c =>
    let n := cmArg c
    match find s.queues n with
    | none => failCmdOf s q stFaultCommand
    | some u =>
      if u.read != u.write || (find s.subs n).isSome then failCmdOf s q stFaultCommand
      else .next (advance (s.withQueues (erase s.queues n)) q 0x43)

/-- A 64 KiB page lies in the stacks or the store-room segments of a partition. -/
def pageInPart (s : State) (p pa : Nat) : Bool :=
  inPartStacks s p pa 65536 || (inStoreRoom pa && inStoreRoom (pa + 65535) && segInPart s p (segOf pa))

/-- MOVE: a page move of a bulk page between a stack and the store room, or between two stacks of the partition (R236, R327). The page is
translated in the context as the front end translates, and a fault stalls the ring (R242, R254); a pinned page or a block does not move
(R246). -/
def execMove (q : Nat) (s : State) : Res :=
  dispatchCmd s q 0x44 "MOVE" fun _ c =>
    let ctx := cmArg c
    let va := fieldLE c 0x08 8
    let dst := fieldLE c 0x10 8
    match find s.ctxs ctx with
    | none => failCmdOf s q stFaultCommand
    | some x =>
      if dst % 65536 ≠ 0 || 2 ^ 48 ≤ va then failCmdOf s q stFaultCommand
      else
        match xlate s (.frontEnd q) ctx va 1 q with
        | (none, s) => .next s
        | (some (pa, e), s) =>
          let src := pa / 65536 * 65536
          if !leafBulk e || leafPin e || (leafOf s ctx va).isNone || !pageInPart s x.partition src || !pageInPart s x.partition dst ||
              (inStoreRoom src && inStoreRoom dst) then failCmdOf s q stFaultCommand
          else
            let m : PageMove :=
              { partition := x.partition, ctx := ctx, va := va / 65536 * 65536, src := src, dst := dst, queue := some q, running := false }
            let s := s.withMem { s.mem with moves := s.mem.moves ++ [m] }
            .next (advance (modSub s q (fun u => { u with work := u.work + 1 })) q 0x44)

/-- INV_TAG (R257, R327). -/
def execInvTag (q : Nat) (s : State) : Res :=
  dispatchCmd s q 0x45 "INV_TAG" fun _ c => .next (advance (commandInval s q (cmArg c) none) q 0x45)

end Sys2Proof.Machine
end

