-- ==== Sys2Proof/Machine/Fabric.lean ====
section
/-!
DEFINITION. The fabric (R367 to R377): port states and training, what a receiver does with a packet, ingress requests and their
answers, responses at the sender, and ATR.
-/

namespace Sys2Proof.Machine

/-- FB_PORT_ERRn (R392). -/
def offPortErr (n : Nat) : Nat := 0x500008 + 0x20 * n

/-- The port exists and its clock runs (R420). -/
def portClocked (s : State) (n : Nat) : Bool := decide (n < 16) && bit s.clock.gatePort n

/-! Port states (R368). -/

/-- A port leaves UP: every submission that awaits a response meets FAULT_ACCESS (R377). -/
def leaveUp (s : State) (n : Nat) : State :=
  let p := port s n
  let qs := (p.waits.map (fun w => w.2.2.1)).eraseDups
  let s := setPort s n { p with waits := [], peer := none }
  if p.state = 2 then qs.foldl (fun s q => failSubmission s q stFaultAccess) s else s

/-- A port begins to train; nothing sent and not yet received is lost (R368, R370). -/
def startTraining (s : State) (n : Nat) : State :=
  let s := leaveUp s n
  setPort s n { port s n with state := 1, trained := false, peerInit := none, resent := [] }

/-- A port becomes FAILED (R368, R370). -/
def failPort (s : State) (n : Nat) : State :=
  let s := leaveUp s n
  orReg (setPort s n { port s n with state := 3, trained := false, peerInit := none, resent := [] }) (offPortErr n) 2

/-- The INIT packet of the module: ring position and lock state (R368, R369). -/
def sendInit (s : State) (n : Nat) : State :=
  portSend s n { packetOf s pkINIT 0 0 0 with payload := toLE 1 s.ring.position ++ toLE 1 s.tick.lock ++ zeroBytes 6 }

/-- A trained port becomes UP once both ends hold a position and a lock state other than Free, and the positions differ (R368). -/
def tryUp (s : State) (n : Nat) : State :=
  let p := port s n
  match p.peerInit with
  | some (pos, lock) =>
    if p.state = 1 && p.trained && s.tick.lock ≠ 3 && lock ≠ 3 && pos ≠ s.ring.position then
      pumpPort (p.outq.length + 1) (setPort s n { p with state := 2, peer := some pos }) n
    else s
  | none => s

/-- The module's lock state changed: ports that train send it anew and may become UP (R368). -/
def relinkPorts (s : State) : State :=
  (List.range 16).foldl (fun s n =>
    let p := port s n
    if p.state = 1 && p.trained then tryUp (sendInit s n) n else s) s

/-- PORT_ENABLE: ENABLE written 1; a port that was DISABLED trains (R368). A port whose clock is gated drops the write (R420). -/
def execPortEnable (n : Nat) (s : State) : Res :=
  if !portClocked s n then enabled (decide (n < 16)) "PORT_ENABLE" s
  else pfWrite (0x500004 + 0x20 * n) s <|
    let p := port s n
    let s := setPort s n { p with enabled := true }
    .next (if p.state = 0 then startTraining s n else s)

/-- PORT_DISABLE: ENABLE written 0; the port forgets its link (R368). -/
def execPortDisable (n : Nat) (s : State) : Res :=
  if !portClocked s n then enabled (decide (n < 16)) "PORT_DISABLE" s
  else pfWrite (0x500004 + 0x20 * n) s <|
    let s := leaveUp s n
    .next (setPort s n { Port.reset with nextTag := (port s n).nextTag })

/-- RETRAIN: the port trains (R368); a DISABLED one does not. -/
def execRetrain (n : Nat) (s : State) : Res :=
  if !portClocked s n then enabled (decide (n < 16)) "RETRAIN" s
  else pfWrite (0x500004 + 0x20 * n) s (.next (if (port s n).state = 0 then s else startTraining s n))

/-- PORT_TRAINING_DONE: PMD training ends; the ends then exchange INIT packets (R367, R368). -/
def execPortTrainingDone (n : Nat) (ok : Bool) (s : State) : Res :=
  let p := port s n
  if !(portClocked s n && bit s.clock.fabricLock (n / 4) && p.state == 1 && !p.trained) then
    .refused (.notEnabled "PORT_TRAINING_DONE")
  else if ok then .next (tryUp (sendInit (setPort s n { p with trained := true }) n) n)
  else .next (failPort s n)

/-- PORT_AUTO_RETRAIN: a packet has been resent 16 times: the port retrains, or fails when it did so less than 1 s ago (R370). -/
def execPortAutoRetrain (n : Nat) (within1s : Bool) (s : State) : Res :=
  let p := port s n
  if !(p.state == 2 && anyValue p.resent (fun _ k => decide (16 ≤ k))) then .refused (.notEnabled "PORT_AUTO_RETRAIN")
  else if p.auto && within1s then .next (failPort s n)
  else
    let s := startTraining s n
    .next (orReg (setPort s n { port s n with auto := true }) (offPortErr n) 4)

/-! Receiving (R369 to R371). -/

/-- RETRY with the expected SEQ (R370). -/
def sendRetry (s : State) (n : Nat) : State :=
  portSend s n { packetOf s pkRETRY 0 0 0 with payload := toLE 2 (port s n).recvSeq }

/-- A packet is taken from its buffer: the next SEQ is expected, and its credits go back (R370, R371). -/
def takePacket (s : State) (n : Nat) (x : Packet) : State :=
  let p := port s n
  let p := { p with recvSeq := (p.recvSeq + 1) % 65536 }
  if pkVc x.type = 3 || 10 < x.type || x.type = 0 then setPort s n p
  else
    let freed := insert p.freed (pkVc x.type) (getD 0 p.freed (pkVc x.type) + packetCredits x)
    let s := setPort s n { p with freed := freed }
    portSend s n { packetOf s pkCREDIT 0 0 0 with
      payload := toLE 2 (getD 0 freed 0) ++ toLE 2 (getD 0 freed 1) ++ toLE 2 (getD 0 freed 2) ++ zeroBytes 2 }

/-- A packet type is one of R369's table. -/
def knownType (ty : Nat) : Bool := decide (1 ≤ ty) && decide (ty ≤ 10)

/-- A packet of a type arrives at a port: one out of sequence is dropped and RETRY sent; one of a reserved type is taken and dropped
(R369, R370). While a port trains it takes link-control packets only (R368). -/
def receive (s : State) (n : Nat) (x : Packet) (ty : Nat) (name : String) (body : State → Res) : Res :=
  let p := port s n
  if !(portClocked s n && (p.state == 2 || (p.state == 1 && p.trained && pkVc ty == 3))) then .refused (.notEnabled name)
  else if x.seq ≠ p.recvSeq then .next (sendRetry s n)
  else if knownType x.type && x.type ≠ ty then .refused (.notEnabled name)
  else
    let s := takePacket s n x
    if x.type ≠ ty then .next s else body s

/-- PACKET_DROP: a packet fails its CRC or is out of sequence, or a codeword cannot be corrected, which counts a retry (R370). -/
def execPacketDrop (n : Nat) (why : DropCause) (s : State) : Res :=
  let p := port s n
  if !(portClocked s n && (p.state == 2 || (p.state == 1 && p.trained))) then .refused (.notEnabled "PACKET_DROP")
  else
    match why with
    | .fec => .next (sendRetry (countHigh s (offPortErr n)) n)
    | .crc => .next (sendRetry s n)
    | .seq => .next (sendRetry s n)

/-- The fields that R369 marks zero are zero, for any type. -/
def zeroFields (x : Packet) : Bool :=
  x.vc == pkVc x.type && x.len == x.payload.length && decide (x.ctx < 4096) && bits x.counter 14 10 == 0 &&
    decide (x.counter < 65536) && decide (x.addr < 2 ^ 48)

/-- The bytes of an ATOMIC's operand: 4 or 8 (R133, R369). -/
def pkSize (x : Packet) : Nat := 2 ^ bits x.aop 6 4

/-- The form of a packet (R369). -/
def packetForm (x : Packet) : Bool :=
  zeroFields x && (x.type == pkATOMIC || x.aop == 0) &&
    match x.type with
    | 1 => decide (1 ≤ x.payload.length) && decide (x.payload.length ≤ 4096) && x.arg == 0
    | 2 => x.payload.isEmpty && decide (1 ≤ x.arg) && decide (x.arg ≤ 4096)
    | 3 => x.payload.length == 32 && x.arg == 0 && bit x.aop 7 == false && (bits x.aop 6 4 == 2 || bits x.aop 6 4 == 3) &&
        decide (bits x.aop 3 0 ≤ 10) && (bits x.aop 3 0 != 10 || bits x.aop 6 4 == 2) && x.addr % pkSize x == 0
    | 4 => x.payload.isEmpty && x.arg == 0
    | 5 => decide (x.payload.length ≤ 4096) && x.arg == 0
    | 6 => x.payload.length == 8 && x.arg == 0
    | 7 => x.payload.isEmpty
    | 8 => x.payload.length == 8 && x.arg == 0
    | 9 => x.payload.length == 2 && x.arg == 0
    | 10 => x.payload.length == 8 && x.arg == 0
    | _ => false

/-! Ingress (R375, R376). -/

/-- An answer to a request: its tag and context echoed. -/
def answer (s : State) (n : Nat) (x : Packet) (type arg : Nat) (payload : List Byte) : State :=
  portSend s n { packetOf s type x.ctx x.tag 0 with arg := arg, payload := payload }

/-- A NACK (R369, R376, R392). -/
def sendNack (s : State) (n : Nat) (x : Packet) (reason : Nat) : State :=
  answer (orReg s (offPortErr n) 8) n x pkNACK reason []

/-- How many bytes a request reaches. -/
def reqBytes (x : Packet) : Nat :=
  if x.type = pkWRITE then max 1 (min 4096 x.payload.length)
  else if x.type = pkREAD then max 1 (min 4096 x.arg)
  else pkSize x

/-- ACCESS bits of a request as R251 codes them. -/
def reqAcc (x : Packet) : Nat := if x.type = pkWRITE then 2 else if x.type = pkREAD then 1 else 11

/-- What the ingress checks find: a reason to refuse, a request that stays in its buffer, or the physical pieces of the request. -/
inductive Ingress where
  | nack (reason : Nat) (s : State)
  | hold (s : State)
  | go (ps : List (Nat × Nat)) (s : State)

/-- The pieces of a request translated in order; none at the first that misses, or is stalled by a move (R236, R248). -/
def ingressPieces (s : State) (n ctx acc : Nat) (l : List (Nat × Nat)) : Option (List (Nat × Nat)) × State :=
  l.foldl (fun r p =>
    match r.1 with
    | none => r
    | some done =>
      match xlate r.2 (.ingress n) ctx p.1 acc 8193 with
      | (some (pa, _), s) => (some (done ++ [(pa, p.2)]), s)
      | (none, s) => (none, s)) (some [], s)

/-- The checks of R376 in the order of its table, up to its memory check. A request that misses, that writes a page under move (R236), or whose
fault finds no token (R250) waits in its buffer. -/
def ingressChecks (s : State) (n : Nat) (x : Packet) : Ingress :=
  let master := 4161 + x.src
  let row := accRow s master
  let ctx := x.ctx % 4096
  let va := x.addr % 2 ^ 48
  let k := reqBytes x
  if !(decide (x.src < 64) && rowValid row && rowPort row n) then .nack 1 s
  else
    match find s.ctxs ctx with
    | none => .nack 3 s
    | some c =>
      if c.state = .free || c.state = .lost || c.partition ≠ rowPart row then .nack 3 s
      else if cachedVa va || cachedVa ((va + k - 1) % 2 ^ 48) then .nack 2 s
      else
        if (port s n).refused then .nack 2 (setPort s n { port s n with refused := false })
        else if missing s (.ingress n) then .hold s
        else
        match ingressPieces s n ctx (reqAcc x) (pieces 65536 va k) with
        | (none, t) => .hold t
        | (some ps, s) =>
          let w := bit (reqAcc x) 1
          let r := bit (reqAcc x) 0
          if !ps.all (fun p => (!r || accessOk s master p.1 p.2 false) && (!w || accessOk s master p.1 p.2 true) &&
              (x.type != pkATOMIC || !inStoreRoom p.1)) then .nack 1 s
          else if !ps.all (fun p => rangeUp s p.1 p.2) then .nack 4 s
          else .go ps s

/-- The pieces of a request read, for its master. -/
def piecesRead (s : State) (master : Nat) (ps : List (Nat × Nat)) : MemOut :=
  ps.foldl (fun (r : MemOut) p =>
    let m := memRead r.st master none p.1 p.2
    ⟨r.data ++ m.data, r.ok && m.ok, m.st⟩) ⟨[], true, s⟩

/-- Bytes written to the pieces of a request. -/
def piecesWrite (s : State) (master : Nat) (ps : List (Nat × Nat)) (b : List Byte) : MemOut :=
  (ps.foldl (fun (r : MemOut × List Byte) p =>
    let m := memWrite r.1.st master none p.1 (r.2.take p.2)
    (⟨[], r.1.ok && m.ok, m.st⟩, r.2.drop p.2)) (⟨[], true, s⟩, b)).1

/-- A remote counter rises by the bytes of a write (R57, R282, R374); that of a context in no slot rises in its backing array
(R149, R376). -/
def raiseRemote (s : State) (ctx n len : Nat) : State :=
  match find s.ctxs ctx with
  | none => s
  | some c =>
    if c.state = .resident then addRemoteCtr (touchCtr s ctx n) ctx n (BitVec.ofNat 32 len)
    else
      let r := devRead s (backingPa c n) 4
      settleDue (devWrite r.2 (backingPa c n) (toLE 4 (BitVec.ofNat 32 (ofLE r.1) + BitVec.ofNat 32 len : Word32).toNat))

/-- A request is performed and answered (R375, R376). -/
def performRequest (s : State) (n : Nat) (x : Packet) (ps : List (Nat × Nat)) : State :=
  let master := 4161 + x.src
  if x.type = pkWRITE then
    let m := piecesWrite s master ps x.payload
    if !m.ok then sendNack m.st n x 4
    else
      let s := if bit x.counter 15 then raiseRemote m.st x.ctx (bits x.counter 9 0) x.payload.length else m.st
      answer s n x pkACK 0 []
  else
    let m := piecesRead s master ps
    if !m.ok then sendNack m.st n x 4
    else if x.type = pkREAD then answer m.st n x pkDATA 0 m.data
    else
      let k := pkSize x
      let old := ofLE m.data
      let new := atomicNew (bits x.aop 3 0) (8 * k) old (fieldLE x.payload 0 k) (fieldLE x.payload 8 k)
      let w := piecesWrite m.st master ps (toLE k new)
      if w.ok then answer w.st n x pkRESULT 0 (toLE 8 old) else sendNack w.st n x 4

/-- A request of a wrong form is refused: for its form, or for its data where that cannot be read, which the checks find first (R376). -/
def misformed (s : State) (n : Nat) (x : Packet) (ps : List (Nat × Nat)) : State :=
  if x.type = pkWRITE then sendNack s n x 5
  else
    let m := piecesRead s (4161 + x.src) ps
    sendNack m.st n x (if m.ok then 5 else 4)

/-- A request at the ingress (R376). One that waits in its buffer has not been taken: it is tried again with the next command. -/
def ingress (ty : Nat) (name : String) (n : Nat) (x : Packet) (s : State) : Res :=
  receive s n x ty name fun t =>
    match ingressChecks t n x with
    | .nack r t => .next (sendNack t n x r)
    | .hold u => .next ((s.withRegs u.regs).withTrans u.trans)
    | .go ps t => .next (if packetForm x then performRequest t n x ps else misformed t n x ps)

/-- WRITE (R376). -/
def execWrite (n : Nat) (p : Packet) (s : State) : Res := ingress pkWRITE "WRITE" n p s

/-- READ (R376). -/
def execRead (n : Nat) (p : Packet) (s : State) : Res := ingress pkREAD "READ" n p s

/-- ATOMIC (R375, R376). -/
def execAtomic (n : Nat) (p : Packet) (s : State) : Res := ingress pkATOMIC "ATOMIC" n p s

/-! Responses (R374, R375, R377). -/

/-- A response arrives: the request with its tag no longer waits, and its latency is measured but for a NACK (R468). One whose tag no request has, or whose form is wrong, has no effect. -/
def response (ty : Nat) (name : String) (n : Nat) (x : Packet) (s : State)
    (k : Requester → Nat → Nat → State → State) : Res :=
  receive s n x ty name fun s =>
    if !packetForm x then .next s
    else
      let p := port s n
      match p.waits.find? (fun w => w.1 == x.tag) with
      | none => .next s
      | some (_, who, q, aux) =>
        let s := if ty = pkNACK then s else histogram s (28 + n)
        .next (k who q aux (setPort s n { p with waits := p.waits.filter (fun w => w.1 != x.tag) }))

/-- A station has one answer fewer to wait for. -/
def stationAnswered (s : State) (core d st : Nat) (part : Option (Nat × List Byte)) : State :=
  modStation s core d st (fun y =>
    let y := { y with
      awaits := y.awaits - 1
      parts := match part with
        | some (i, b) => insert y.parts i b
        | none => y.parts }
    if y.awaits = 0 then { y with waits := false } else y)

/-- ACK: a remote write is performed (R283, R374). -/
def execAck (n : Nat) (p : Packet) (s : State) : Res :=
  response pkACK "ACK" n p s fun who _ aux s =>
    match who with
    | .station core d st => stationAnswered s core d st none
    | .frontEnd _ => endFe (modFe s aux (fun f => { f with peerAcks := f.peerAcks - 1 })) aux
    | _ => s

/-- DATA: remote read data for a LOAD's tile (R374). -/
def execData (n : Nat) (p : Packet) (s : State) : Res :=
  response pkDATA "DATA" n p s fun who _ aux s =>
    match who with
    | .station core d st => stationAnswered s core d st (some (aux, p.payload))
    | _ => s

/-- The old value for one thread of an ATR (R375). -/
def setResult (g : Group) (aux v : Nat) : Group :=
  setLaneWide (aux / 2 ^ 20) g (aux / 32 % 256) (aux % 32) v

/-- Requests of a lane that no answer has come for, on any port. -/
def laneAwaits (s : State) (core slot : Nat) : Bool :=
  anyValue s.ports (fun _ p => p.waits.any (fun w => w.2.1 == .lane core slot))

/-- RESULT: the old value of a remote atomic; with the last one the group goes on at its next instruction, and the fence of scope 5
discards its core's lines of the context (R275, R375). -/
def execResult (n : Nat) (p : Packet) (s : State) : Res :=
  response pkRESULT "RESULT" n p s fun who _ aux s =>
    match who with
    | .lane core slot =>
      match groupAt s core slot with
      | none => s
      | some g =>
        let g := setResult g aux (ofLE p.payload)
        if laneAwaits s core slot then setGroup s core slot g
        else
          let pc := (g.run.map Path.pc).getD 0
          let s := placeGroup (discardData s core g.ctx) core slot (movePc g ((pc + 8) % 2 ^ 48) false)
          match groupAt s core slot with
          | some g => if groupCanRun g then clearCond s core slot else s
          | none => s
    | _ => s

/-- The status of a NACK's reason (R377). -/
def nackStatus (reason : Nat) : Nat :=
  if reason = 2 then stFaultTranslation else if reason = 4 then stFaultMemory else stFaultAccess

/-- NACK: the issuing work stops with the status of the reason (R377). -/
def execNack (n : Nat) (p : Packet) (s : State) : Res :=
  response pkNACK "NACK" n p s fun _ q _ s => failSubmission s q (nackStatus p.arg)

/-! Link control (R368, R370, R371). -/

/-- A cumulative count of 16 bits brings a channel's freed credits up to date (R371). -/
def creditTo (old new : Nat) : Nat := old + (new + 65536 - old % 65536) % 65536

/-- CREDIT (R371). -/
def execCredit (n : Nat) (p : Packet) (s : State) : Res :=
  receive s n p pkCREDIT "CREDIT" fun s =>
    if !packetForm p then .next s
    else
      let r := port s n
      let up (m : Assoc Nat) (vc : Nat) : Assoc Nat := insert m vc (creditTo (getD 0 m vc) (fieldLE p.payload (2 * vc) 2))
      let r := { r with returned := [0, 1, 2].foldl up r.returned }
      .next (pumpPort (r.outq.length + 1) (setPort s n r) n)

/-- RETRY: the packets of the replay buffer from the SEQ on leave again, each counted as a retry (R370). -/
def execRetry (n : Nat) (p : Packet) (s : State) : Res :=
  receive s n p pkRETRY "RETRY" fun s =>
    if !packetForm p then .next s
    else
      let r := port s n
      let first := fieldLE p.payload 0 2
      let again := r.replay.filter (fun x => decide ((x.seq + 65536 - first) % 65536 < 32768))
      .next (again.foldl (fun s x =>
        let r := port s n
        let s := setPort s n { r with resent := insert r.resent x.seq (getD 0 r.resent x.seq + 1) }
        countHigh (emit s (.packet n x)) (offPortErr n)) s)

/-- INIT: the peer's ring position and lock state (R368). -/
def execInit (n : Nat) (p : Packet) (s : State) : Res :=
  receive s n p pkINIT "INIT" fun s =>
    if !packetForm p then .next s
    else .next (tryUp (setPort s n { port s n with peerInit := some (fieldLE p.payload 0 1, fieldLE p.payload 1 1) }) n)

/-! ATR (R275, R375). -/

/-- XA of a thread: handle and offset with IMM16 added; none where the pair's bits [63:60] are not zero. -/
def atrPlace (t : Thread) (l : Nat) : Option (Nat × Int) :=
  let v := laneWide 2 t.g (wXA t.w) l
  if bits v 63 60 = 0 then some (bits v 59 40, (bits v 39 0 : Nat) + wImmS t.w) else none

/-- The peer window of a thread's use, its offset, and the port of its route. -/
def atrUse (s : State) (t : Thread) (n l : Nat) : Option (HEntry × Nat × Nat) :=
  match atrPlace t l with
  | none => none
  | some (h, o) =>
    if o < 0 then none
    else
      (goodUse s t.g.ctx (genOf s t.g.queue t.g.ctx) h [2] o.toNat n true true).map (fun e =>
        (e, o.toNat, routeTo s (hePeer e)))

/-- One thread's ATOMIC packet. -/
def atrSend (t : Thread) (s : State) (x : Nat × HEntry × Nat × Nat) : State :=
  let size := wType t.w
  let n := 2 ^ size
  let k := sizeWords size
  let l := x.1
  let e := x.2.1
  portRequest s x.2.2.2 (.lane t.core t.slot) t.g.queue (l + 32 * wXD t.w + 2 ^ 20 * k)
    (fun p => { p with
      aop := wAop t.w + 16 * size
      payload := padTo 8 (toLE n (laneWide k t.g (wXB t.w) l)) ++
        padTo 24 (if wAop t.w = 9 then toLE n (laneWide k t.g (wXB t.w + k) l) else []) })
    pkATOMIC (hePeerCtx e) ((heBase e + x.2.2.1) % 2 ^ 48)

/-- ATR: one ATOMIC per active thread in ascending lane; the group waits for the results (R275, R374, R375). -/
def execAtr (core slot : Nat) (w : BitVec 64) (s : State) : Res :=
  issue core slot w mATOM 0x02 "ATR" s fun t s =>
    let n := 2 ^ wType t.w
    if !atomOk t false 2 || wScope t.w ≠ 5 || !t.active.all (fun l => (atrPlace t l).isSome) then failIssue t s stFaultCommand
    else
      let uses := t.active.filterMap (fun l => (atrUse s t n l).map (fun e => (l, e)))
      if uses.length ≠ t.active.length then
        .next (badHandle (noted t s true) t.g.queue t.g.ctx (genOf s t.g.queue t.g.ctx)
          (t.active.filterMap (fun l => (atrPlace t l).map Prod.fst)))
      else if !uses.all (fun u => (heBase u.2.1 + u.2.2.1) % n == 0 && windowPort s t.g.ctx u.2.2.2 u.2.1) then
        failIssue t s stFaultAccess
      else if !uses.all (fun u => portRoom s u.2.2.2 uses.length) then .refused (.notEnabled "ATR")
      else
        match t.g.firstLoad with
        | some va => stallOn t s (.lineMiss false va)
        | none =>
          fenceFirst t s fun s =>
            let s := noted t s false
            match groupAt s core slot with
            | none => .next s
            | some g => .next (uses.foldl (atrSend t) (park s core slot g .remote))

end Sys2Proof.Machine
end

