-- ==== Sys2Proof/Machine/Resets.lean ====
section
/-!
DEFINITION. What resets keep and clear (R405, R423, R447, R449 to R455), and how start-up goes from stage to stage (R452).
-/

namespace Sys2Proof.Machine

/-- CK_EVENT (R432) and PW_PART_RESET (R459). -/
def offCkEvent : Nat := 0x300004
def offPartReset : Nat := 0x30800C

/-- A non-maskable event to the management controller with its bit of CK_EVENT (R422, R423). -/
def nmi (s : State) (bitNo : Nat) : State := emit (orReg s offCkEvent (2 ^ bitNo)) (.nmi bitNo)

/-- The control and management domains run on the root PLL: from the end of stage 2 on (R452). -/
def onRoot (s : State) : Bool :=
  match s.power.phase with
  | .off => false
  | .held => false
  | .cold => decide (3 ≤ s.power.stage)
  | _ => true

/-- What every reset of the whole module leaves: what has left the module, the commands, host memory, the pins, and the input. -/
def cleared (s : State) : State :=
  { State.reset with
    pending := s.pending
    freeSeq := s.freeSeq
    sent := s.sent
    pins := { s.pins with readyPin := false }
    ring := RingSt.reset s.pins.idHeld
    mem := { MemSys.reset with host := s.mem.host }
    power := { PowerSt.reset with input := s.power.input } }

/-- A cold reset with its cause; stage 1 waits for the release of MOD_RESET# (R449, R450, R452, R481, R484). What was in stacked memory and
the store room reads as memory that nothing has written (log entry 2). -/
def coldReset (s : State) (cause : Nat) : State :=
  let c := cleared s
  { c with
    pins := { c.pins with trip := false, perstSeen := !s.pins.perst }
    power := { c.power with
      rails := 1
      phase := if s.pins.modReset then .held else .cold
      stage := if s.pins.modReset then 0 else 1
      cause := cause } }

/-- A shutdown for a thermal trip (4) or an input fault (5): the rails but V_AUX turn off, and TRIP# is driven (R447, R481). -/
def shutDown (s : State) (cause : Nat) : State :=
  let c := cleared s
  { c with
    pins := { c.pins with trip := true }
    power := { c.power with rails := 1, phase := .off, cause := cause, tripHeld := some cause } }

/-- What a warm reset keeps (R401, R405, R419, R450). -/
def warmKeep (s : State) (cause : Nat) : State :=
  let c := cleared s
  { c with
    tick := { c.tick with count := s.tick.count, time := s.tick.time, counting := s.tick.counting }
    dict := { c.dict with
      calendar := s.dict.calendar, calRest := s.dict.calRest, calValid := s.dict.calValid, i3cAddr := s.dict.i3cAddr }
    clock := { c.clock with
      oscOk := s.clock.oscOk, oscFail := s.clock.oscFail, refStable := s.clock.refStable, inRange := s.clock.inRange
      rootLock := s.clock.rootLock, pcieLock := s.clock.pcieLock, onOsc := s.clock.onOsc, hold := s.clock.hold
      monCount := s.clock.monCount, failovers := s.clock.failovers }
    mem := { c.mem with bytes := s.mem.bytes, poison := s.mem.poison, srPoison := s.mem.srPoison }
    front := { c.front with linkUp := s.front.linkUp }
    power := { c.power with
      rails := s.power.rails, phase := .warm, stage := 0, cause := cause, fuses := s.power.fuses, image := s.power.image } }

/-- A warm reset begins its quiesce (R450, R455): requests whose transport survives are answered RESET; `keepsLink` says the host link and
with it MCTP over PCIe survive (R405). During stages 1 to 3 of a cold start-up it waits for the end of stage 3 (R460). A module without
power, held in reset or in recovery takes none. During the clock-failure hold the hold stands. -/
def warmReset (s : State) (cause : Nat) (keepsLink : Bool) : State :=
  match s.power.phase with
  | .off => s
  | .held => s
  | .failed => s
  | .cold =>
    if s.power.stage ≤ 3 then s.withPower { s.power with warmPending := true }
    else warmKeep (discardStage s true keepsLink) cause
  | _ => if s.clock.hold then s else warmKeep (discardStage s true keepsLink) cause

/-- A failover (R423): the clock-failure hold begins, which is a warm reset with the other clocks stopped. Before an image is applied there
is nothing yet that a warm reset starts from: the stage in progress waits. None is possible without the oscillator (R422). -/
def failover (s : State) : State :=
  if s.clock.hold || s.clock.oscFail || !onRoot s then s
  else
    let n := s.clock.failovers + 1
    let bits_ := reg s offCkEvent
    let s := if s.power.image.isSome then setReg (warmReset s 20 false) offCkEvent bits_ else s
    s.withClock { s.clock with hold := true, onOsc := true, failovers := n, stackLock := 0, srLock := 0, fabricLock := 0 }

/-! Start-up (R452). -/

/-- Stage 1 ends once every rail group has power-good and the oscillator is stable; the identification pins are sampled (R452, R482). -/
def railsDone (s : State) : State :=
  if s.power.phase = .cold && s.power.stage = 1 && s.power.rails = 7 && s.clock.oscOk then
    { s with
      power := { s.power with stage := 2 }
      pins := { s.pins with idHeld := s.pins.id, bbHeld := s.pins.bbId }
      ring := { s.ring with position := s.pins.id } }
  else s

/-- Stage 4 begins: the fabric ports that the image enables start training (R452). -/
def beginTrain (s : State) : State :=
  let mask := (s.power.image.map ImageHeader.ports).getD 0
  let s := s.withPower { s.power with stage := 4 }
  (bitsSet 16 mask).foldl (fun s n => setPort s n { port s n with enabled := true, state := 1 }) s

/-- A stack's or a package's training is over: trained, or failed three times (R454). -/
def stackSettled (s : State) (st : Nat) : Bool := (stackSt s st).state != .absent || decide (3 ≤ (stackSt s st).tries)
def pkgSettled (s : State) (p : Nat) : Bool := (pkgSt s p).trained || (pkgSt s p).failed

/-- Stage 4 ends with the last stack and the last package. -/
def trainDone (s : State) : State :=
  if s.power.stage = 4 && (s.power.phase = .cold || s.power.phase = .warm) && (List.range 12).all (stackSettled s) &&
      (List.range 16).all (pkgSettled s) then
    s.withPower { s.power with stage := 5 }
  else s

/-- Recovery (R453). -/
def recovery (s : State) (code : Nat) : State :=
  s.withPower { s.power with phase := .failed, failCode := code, configReady := true }

/-- Start-up runs, at a stage. -/
def atStage (s : State) (n : Nat) : Bool :=
  (s.power.phase == .cold || s.power.phase == .warm) && s.power.stage == n && !s.clock.hold

/-- The host link trains once PERST# is deasserted and stage 2 is over (R456). -/
def linkTrains (s : State) : State :=
  s.withFront { s.front with linkUp := !s.pins.perst && onRoot s }

end Sys2Proof.Machine
end

