-- ==== Sys2Proof/Machine/Clocks.lean ====
section
/-!
DEFINITION. Clocks: stability and lock (R418), gating (R419, R420), monitors, failover and the clock-failure hold (R421 to R424).
-/

namespace Sys2Proof.Machine

/-- REF_OK (R424). -/
def refOk (s : State) : Bool := s.clock.refStable && s.clock.rootLock && s.clock.inRange

/-- OSCILLATOR_STABLE: the internal oscillator, which starts with group 2, has counted 65,536 cycles (R418, R452). -/
def execOscillatorStable (s : State) : Res :=
  enabled (decide (2 ≤ s.power.rails) && !s.power.railsOff && !s.clock.oscOk && !s.clock.oscFail && s.power.phase == .cold)
    "OSCILLATOR_STABLE" (railsDone (s.withClock { s.clock with oscOk := true }))

/-- MONITOR_WINDOW_END: a window of 4,096 oscillator cycles ends with a count of reference edges (R421); one out of range restarts the
stability count and starts a failover (R418, R423). -/
def execMonitorWindowEnd (count : Nat) (s : State) : Res :=
  if !(s.clock.oscOk && !s.clock.oscFail) then .refused (.notEnabled "MONITOR_WINDOW_END")
  else
    let good := decide (8960 ≤ count) && decide (count ≤ 11520)
    let s := s.withClock { s.clock with monCount := min count 65535, inRange := good, refStable := s.clock.refStable && good }
    if good then .next s else if onRoot s then .next (failover (nmi s 1)) else .next s

/-- PLL_UNLOCK: the root PLL loses lock (R422, R423); before the domains run on it, the count only restarts (R418). -/
def execPllUnlock (s : State) : Res :=
  if !s.clock.rootLock then .refused (.notEnabled "PLL_UNLOCK")
  else
    let s := s.withClock { s.clock with rootLock := false }
    if onRoot s then .next (failover (nmi s 2)) else .next s

/-- OSC_FAIL: no oscillator edge in 1,024 reference cycles; no failover is possible then (R422). -/
def execOscFail (s : State) : Res :=
  if !(s.clock.oscOk && onRoot s && !s.clock.oscFail && !s.clock.hold) then .refused (.notEnabled "OSC_FAIL")
  else .next (nmi (s.withClock { s.clock with oscFail := true, oscOk := false }) 3)

/-- REFERENCE_STABLE: 65,536 reference cycles with every monitor window in range (R418). -/
def execReferenceStable (s : State) : Res :=
  enabled (s.clock.oscOk && !s.clock.refStable && s.clock.inRange && (onRoot s || (s.power.phase == .cold && s.power.stage == 2)))
    "REFERENCE_STABLE" (s.withClock { s.clock with refStable := true })

/-- PLL_LOCKED: a PLL has held lock for 16,384 cycles of a stable reference (R418). TIME starts with the root PLL (R15); a stack's, a
package's and a port group's PLL locks only while it is enabled, from stage 4 on (R420, R452). -/
def execPllLocked (pll : Pll) (s : State) : Res :=
  let c := s.clock
  let running := decide (4 ≤ s.power.stage) && onRoot s && !c.hold
  let what := "PLL_LOCKED"
  if !c.refStable then .refused (.notEnabled what)
  else
    match pll with
    | .root => enabled (!c.rootLock) what { s with clock := { c with rootLock := true }, tick := { s.tick with counting := true } }
    | .pcie => enabled (!c.pcieLock) what (s.withClock { c with pcieLock := true })
    | .stack n => enabled (running && decide (n < 12) && bit c.gateStack n && !bit c.stackLock n) what
        (s.withClock { c with stackLock := setBit c.stackLock n true })
    | .storeRoom n => enabled (running && decide (n < 16) && bit c.gateSr n && !bit c.srLock n) what
        (s.withClock { c with srLock := setBit c.srLock n true })
    | .fabric g => enabled (running && decide (g < 4) && bits c.gatePort (4 * g + 3) (4 * g) != 0 && !bit c.fabricLock g) what
        (s.withClock { c with fabricLock := setBit c.fabricLock g true })

/-- RESUME: a write of CK_FAIL_CTRL.RESUME by the management controller ends the hold while REF_OK is 1; start-up goes on at stage 4, or at
stage 3 when no image was applied yet (R424, R455, R456). -/
def execResume (value : BitVec 32) (s : State) : Res :=
  if !(bit value.toNat 0 && s.clock.hold && refOk s) then .next s
  else
    let s := s.withClock { s.clock with hold := false, onOsc := false }
    if s.power.phase = .warm then .next (beginTrain (s.withPower { s.power with configReady := true })) else .next s

/-! Gating (R419, R420). -/

/-- The units of a mask that a write gates, those it starts, and those it may not gate because they are in use. -/
def gateChange (n old new : Nat) (used : Nat → Bool) : List Nat × List Nat × List Nat :=
  let l := List.range n
  (l.filter (fun i => bit old i && !bit new i && !used i), l.filter (fun i => !bit old i && bit new i),
    l.filter (fun i => bit old i && !bit new i && used i))

/-- GATE_REFUSED (R419). -/
def noteRefused (s : State) (l : List Nat) : State := if l.isEmpty then s else orReg s offCkEvent 16

/-- Bits of a mask cleared and set. -/
def remask (m : Nat) (off on : List Nat) : Nat :=
  on.foldl (fun m i => setBit m i true) (off.foldl (fun m i => setBit m i false) m)

/-- The contents of a range of physical memory are undefined: they read as memory that nothing has written (R420, log entry 2). -/
def forget (s : State) (p : Nat → Bool) : State :=
  s.withMem { s.mem with
    bytes := s.mem.bytes.filter (fun c => !p c.1)
    poison := s.mem.poison.filter (fun u => !p (u * 32))
    srPoison := s.mem.srPoison.filter (fun b => !p (b * 4096)) }

/-- A stack stops: it is ABSENT, its PLL stops and its contents are lost; its retire list stays (R224). -/
def gateStack (s : State) (st : Nat) : State :=
  let s := setStack s st (stackAnew s st)
  let s := s.withClock { s.clock with stackLock := setBit s.clock.stackLock st false }
  forget s (fun pa => stackOf pa == some st)

/-- A package stops. -/
def gatePkg (s : State) (p : Nat) : State :=
  let s := setPkg s p PkgSt.reset
  let s := s.withClock { s.clock with srLock := setBit s.clock.srLock p false }
  forget s (fun pa => decide (srBase ≤ pa) && pkgOf pa == p)

/-- CK_GATE_STACK: a stack is in use while a partition's STACKS holds its bit; one that is enabled again trains as at start-up. -/
def execCkGateStack (value : BitVec 32) (s : State) : Res :=
  pfWrite 0x300020 s <|
  let ch := gateChange 12 s.clock.gateStack value.toNat (fun st => (partOfStack s st).isSome)
  let s := ch.1.foldl gateStack (noteRefused s ch.2.2)
  let s := ch.2.1.foldl (fun s st => setStack s st (stackAnew s st)) s
  .next (s.withClock { s.clock with gateStack := remask s.clock.gateStack ch.1 ch.2.1 })

/-- CK_GATE_SR: a package is in use while any partition's SR_COUNT is not zero. -/
def execCkGateSr (value : BitVec 32) (s : State) : Res :=
  pfWrite 0x300024 s <|
  let ch := gateChange 16 s.clock.gateSr value.toNat (fun _ => srTotal s != 0)
  let s := ch.1.foldl gatePkg (noteRefused s ch.2.2)
  let s := ch.2.1.foldl (fun s p => setPkg s p PkgSt.reset) s
  .next (s.withClock { s.clock with gateSr := remask s.clock.gateSr ch.1 ch.2.1 })

/-- CK_GATE_PORT: a port is in use while it is not DISABLED; a group's PLL stops with its last port. -/
def execCkGatePort (value : BitVec 32) (s : State) : Res :=
  pfWrite 0x300028 s <|
  let ch := gateChange 16 s.clock.gatePort value.toNat (fun n => (port s n).state != 0)
  let s := ch.2.1.foldl (fun s n => setPort s n { Port.reset with nextTag := (port s n).nextTag }) (noteRefused s ch.2.2)
  let m := remask s.clock.gatePort ch.1 ch.2.1
  let lock := remask s.clock.fabricLock ((List.range 4).filter (fun g => bits m (4 * g + 3) (4 * g) == 0)) []
  .next (s.withClock { s.clock with gatePort := m, fabricLock := lock })

/-- CK_GATE_MISC: the observability block, which is never in use; its counters hold their values. -/
def execCkGateMisc (value : BitVec 32) (s : State) : Res :=
  pfWrite 0x30002C s (.next (s.withClock { s.clock with gateOb := bit value.toNat 0 }))

end Sys2Proof.Machine
end

