-- ==== Sys2Proof/Machine/Power.lean ====
section
/-!
DEFINITION. Power, resets and start-up as events (R434 to R457), and the module's reset pins (R484, R489).
-/

namespace Sys2Proof.Machine

/-! The input and the rails (R434 to R436). -/

/-- POWER_APPLIED: the input rises; a cold reset starts (R434, R449, R485). -/
def execPowerApplied (s : State) : Res :=
  enabled (!s.power.input) "POWER_APPLIED" (coldReset (s.withPower { s.power with input := true }) 1)

/-- INPUT_FAULT: the input stays outside 46 to 62 V: the module shuts down with the cause INPUT (R434, R447). -/
def execInputFault (s : State) : Res :=
  enabled s.power.input "INPUT_FAULT" (shutDown (s.withPower { s.power with input := false }) 5)

/-- INPUT_RESTORED: 100 ms within 48 to 60 V after such a shutdown: a cold reset starts (R434). -/
def execInputRestored (s : State) : Res :=
  enabled (!s.power.input && s.power.tripHeld == some 5) "INPUT_RESTORED"
    (coldReset (s.withPower { s.power with input := true }) 5)

/-- The rail sequence runs. -/
def railsRun (s : State) : Bool :=
  s.power.phase == .cold && s.power.stage == 1 && !s.power.railsOff && decide (s.power.rails < 7)

/-- RAIL_POWER_GOOD: the next group has power-good, and the one after it is enabled (R436). -/
def execRailPowerGood (s : State) : Res :=
  enabled (railsRun s) "RAIL_POWER_GOOD" (railsDone (s.withPower { s.power with rails := s.power.rails + 1 }))

/-- RAIL_TIMEOUT: a group misses power-good: every rail but V_AUX turns off (R436). -/
def execRailTimeout (s : State) : Res :=
  enabled (railsRun s) "RAIL_TIMEOUT"
    { s with power := { s.power with rails := 1, railsOff := true }, clock := ClockSt.reset }

/-- RAIL_RETRY: the sequence retries once (R436). -/
def execRailRetry (s : State) : Res :=
  enabled (s.power.railsOff && !s.power.railRetry) "RAIL_RETRY"
    (s.withPower { s.power with railsOff := false, railRetry := true })

/-- RAIL_SAMPLE: energy is charged to partitions, and a power hold is judged (R434, R438, R442). -/
def execRailSample (m : RailSample) (s : State) : Res :=
  if s.power.phase = .off then .refused (.notEnabled "RAIL_SAMPLE")
  else
    let s := (List.zip (List.range 16) m.charges).foldl (fun s e =>
      let x := partPower s e.1
      setPartPower s e.1 { x with charge := x.charge + e.2 }) s
    let s := if m.volt < 4800 || 6000 < m.volt then orReg s offPwEvent 0x80 else s
    let high := decide (11 * moduleRating s < 10 * m.avg100)
    let s := s.withPower { s.power with volt := m.volt % 65536, sampleHigh := high }
    if high && !s.power.holdPower then
      .next (startHold (orReg (s.withPower { s.power with holdPower := true }) offPwEvent 8) [0, 1])
    else .next s

/-! Temperature (R446, R447). -/

/-- JUNCTION_SAMPLE: the hottest of a die's sensors; `sustained` says its samples have been at 105 °C or more throughout 100 µs. -/
def execJunctionSample (die : Nat) (temp : Int) (sustained : Bool) (s : State) : Res :=
  if s.power.phase = .off || 2 ≤ die then .refused (.notEnabled "JUNCTION_SAMPLE")
  else if 880 ≤ temp || (sustained && 840 ≤ temp) then .next (shutDown s 4)
  else
    let x := diePower s die
    let hottest := match x.hottest with
      | some h => if h < temp then temp else h
      | none => temp
    let x := { x with temp := temp, last := temp, hottest := some hottest }
    if holdTemp ≤ temp && !x.hold then
      .next (startHold (orReg (setDiePower s die { x with hold := true }) offPwEvent 4) [die])
    else .next (setDiePower s die x)

/-- A trigger of a cold reset: after a thermal trip it waits until a second is over, and the trip is the cause (R447, R449). -/
def coldTrigger (s : State) (cause : Nat) : State :=
  if s.power.phase = .off then
    if s.power.tripHeld = some 4 then
      if s.power.tripOver then coldReset s 4 else s.withPower { s.power with tripWait := true }
    else s
  else coldReset s cause

/-- TRIP_RESTART_DELAY: 1 s has passed since the thermal trip (R447). -/
def execTripRestartDelay (s : State) : Res :=
  if !(s.power.phase == .off && s.power.tripHeld == some 4 && !s.power.tripOver) then .refused (.notEnabled "TRIP_RESTART_DELAY")
  else if s.power.tripWait then .next (coldReset s 4)
  else .next (s.withPower { s.power with tripOver := true })

/-! The reset pins (R456, R484, R489, R490). -/

/-- What MOD_RESET# and FL_EN# connect: the flash to its pins, and the boundary scan to the pins. -/
def resetPins (s : State) (modReset flEn : Bool) : State :=
  s.withPins { s.pins with
    modReset := modReset, flEn := flEn, flPins := modReset && flEn, tapDrives := modReset && s.pins.tap == 3 }

/-- MOD_RESET: MOD_RESET# is asserted for 1 µs or more: a cold reset, held until its release (R484). -/
def execModReset (s : State) : Res :=
  if s.pins.modReset then .refused (.notEnabled "MOD_RESET")
  else .next (coldTrigger (resetPins s true s.pins.flEn) 2)

/-- MOD_RESET_RELEASE: the flash goes back to the boot ROM, and stage 1 begins (R484, R493). -/
def execModResetRelease (s : State) : Res :=
  if !s.pins.modReset then .refused (.notEnabled "MOD_RESET_RELEASE")
  else
    let s := resetPins s false s.pins.flEn
    .next (if s.power.phase = .held then s.withPower { s.power with phase := .cold, stage := 1 } else s)

/-- FL_EN: FL_EN# has an effect only under MOD_RESET# (R489). -/
def execFlEn (asserted : Bool) (s : State) : Res := .next (resetPins s s.pins.modReset asserted)

/-- PERST_ASSERT: PERST# asserted for 100 µs: a warm reset, if it has been deasserted since the latest cold reset (R484); the host link
is down. -/
def execPerstAssert (s : State) : Res :=
  if s.pins.perst then .refused (.notEnabled "PERST_ASSERT")
  else
    let s := { s with pins := { s.pins with perst := true }, front := { s.front with linkUp := false } }
    .next (if s.pins.perstSeen then warmReset s 16 false else s)

/-- PERST_DEASSERT: the host link trains once stage 2 is over (R456). -/
def execPerstDeassert (s : State) : Res :=
  if !s.pins.perst then .refused (.notEnabled "PERST_DEASSERT")
  else .next (linkTrains (s.withPins { s.pins with perst := false, perstSeen := true }))

/-- CONFIG_REQUEST: Request Retry Status until CONFIG_READY, and a normal completion after it; in recovery there is no virtual function
(R453, R456). -/
def execConfigRequest (fn : Nat) (s : State) : Res :=
  enabled (s.front.linkUp && decide (fn < 64) && (s.power.phase != .failed || fn == 0)) "CONFIG_REQUEST"
    (emit s (.config fn (!s.power.configReady)))

/-- PF_FLR: a function level reset of the physical function is a warm reset (R300, R449). -/
def execPfFlr (s : State) : Res := .next (warmReset s 17 false)

/-- RESET_CTRL_WARM: PW_RESET_CTRL.WARM (R449, R459). -/
def execResetCtrlWarm (value : BitVec 32) (s : State) : Res :=
  pfWrite 0x308008 s (.next (if bit value.toNat 0 then warmReset s 18 true else s))

/-! Start-up (R452 to R457). -/

/-- QUIESCE_DONE: the quiesce of a warm reset ends: CONFIG_READY, and stage 4 begins, or waits for the end of the hold (R455, R456). -/
def execQuiesceDone (s : State) : Res :=
  if !(s.power.phase == .warm && s.power.stage == 0 && !s.power.configReady) then .refused (.notEnabled "QUIESCE_DONE")
  else
    let s := s.withPower { s.power with configReady := true }
    .next (if s.clock.hold then s else beginTrain s)

/-- FUSE_LOAD_DONE: stage 2 ends once the root and PCIe PLLs have locked (R452); fuses that fail their check lead to recovery (R453). The
fuses were set at test: every load that passes its check brings the same contents (R3). -/
def execFuseLoadDone (f : Fuses) (s : State) : Res :=
  if !(s.power.phase == .cold && s.power.stage == 2 && s.clock.rootLock && s.clock.pcieLock) then
    .refused (.notEnabled "FUSE_LOAD_DONE")
  else if f.ok then
    if s.pins.burned.all (fun g => g == f) then
      .next (linkTrains ((s.withPower { s.power with fuses := some f, stage := 3 }).withPins { s.pins with burned := some f }))
    else .refused (.notEnabled "FUSE_LOAD_DONE")
  else .next (linkTrains (recovery s 2))

/-- An image slot passes (R488). -/
def imageOk (h : ImageHeader) : Bool :=
  h.magic == 0x51454D31 && decide (1 ≤ h.length) && decide (h.length ≤ 3670016) && h.sigOk

/-- Stage 3 ends with an applied image: CONFIG_READY; a warm reset that waited starts (R452, R456, R460). -/
def applyImage (s : State) (h : ImageHeader) : State :=
  let s := s.withPower { s.power with image := some h, configReady := true }
  if s.power.warmPending then warmKeep (s.withPower { s.power with warmPending := false }) 16 else beginTrain s

/-- IMAGE_VERIFY_DONE: slot A, then slot B; when both fail, recovery (R452, R453, R488). -/
def execImageVerifyDone (img : Option ImageHeader) (s : State) : Res :=
  if !(atStage s 3 && s.power.phase == .cold) then .refused (.notEnabled "IMAGE_VERIFY_DONE")
  else
    match img.filter imageOk with
    | some h => .next (applyImage s h)
    | none => .next (if s.power.slotB then recovery s 1 else s.withPower { s.power with slotB := true })

/-- Units train in stage 4, and later when they are enabled again (R420, R452). -/
def mayTrain (s : State) : Bool := !s.clock.hold && (atStage s 4 || s.power.phase == .done)

/-- STACK_TRAINED: a stack's training ends; it is tried three times in all (R222, R454). -/
def execStackTrained (stack : Nat) (ok : Bool) (s : State) : Res :=
  let k := stackSt s stack
  if !(mayTrain s && decide (stack < 12) && bit s.clock.gateStack stack && bit s.clock.stackLock stack && k.state == .absent &&
      decide (k.tries < 3)) then .refused (.notEnabled "STACK_TRAINED")
  else if ok then .next (trainDone (setStack s stack { stackAnew s stack with state := .online, scrubbing := true }))
  else .next (trainDone (setStack s stack { k with tries := k.tries + 1 }))

/-- SR_PACKAGE_TRAINED: as a stack; one that fails is FAILED (R454). -/
def execSrPackageTrained (pkg : Nat) (ok : Bool) (s : State) : Res :=
  let k := pkgSt s pkg
  if !(mayTrain s && decide (pkg < 16) && bit s.clock.gateSr pkg && bit s.clock.srLock pkg && !k.trained && !k.failed) then
    .refused (.notEnabled "SR_PACKAGE_TRAINED")
  else if ok then .next (trainDone (setPkg s pkg { PkgSt.reset with trained := true }))
  else .next (trainDone (setPkg s pkg { k with tries := k.tries + 1, failed := decide (3 ≤ k.tries + 1) }))

/-- INVALIDATE_DONE: every cache is empty, accumulators and vector files are zero, and the cores are released at ÷3 (R231, R452). -/
def execInvalidateDone (s : State) : Res :=
  if !atStage s 5 then .refused (.notEnabled "INVALIDATE_DONE")
  else
    .next { s with
      cores := (List.range (numCores s)).map (fun c => (c, Core.fresh))
      trans := TransSt.reset
      clock := { s.clock with dividers := List.replicate 16 3 }
      power := { s.power with stage := 7 } }

/-- DICTIONARY_ONLINE: the dictionary answers, and ring join begins by listening; an eligible module originates (R381, R389, R452). -/
def execDictionaryOnline (s : State) : Res :=
  if !atStage s 7 then .refused (.notEnabled "DICTIONARY_ONLINE")
  else
    let s := { s with
      dict := { s.dict with online := true }
      power := { s.power with stage := 8 }
      ring := { s.ring with listening := true } }
    .next (if eligible s then originate s else s)

/-- RING_JOIN_TIMEOUT: ring join ends in Free after 20 ms (R452). -/
def execRingJoinTimeout (s : State) : Res :=
  enabled (atStage s 8 && s.ring.listening) "RING_JOIN_TIMEOUT"
    (finishStart (s.withRing { s.ring with listening := false, bypass := false }))

/-! Partition and context resets (R449, R451). -/

/-- What a core of the partition is left with: caches invalid, array and vector file as for a new owner (R118, R231). -/
def clearCore (s : State) (c : Nat) : State :=
  modCore s c (fun k => { k with
    icache := [], dcache := [], fills := [], stores := [], array := ArraySt.fresh none, vec := VecSt.fresh, progs := [] })

/-- A cellar engine of the partition is left with empty queues, every identifier NONE and every slot scratch. -/
def clearCellar (s : State) (st : Nat) : State :=
  resetCodebooks (modCellar s st (fun e => { e with queue := [], waiting := [], mv := none, move := none })) st

/-- The reset of a partition (R451). -/
def resetPartition (s : State) (p : Nat) : State :=
  let mine := (s.ctxs.filter (fun e => e.2.partition == p)).map Prod.fst
  let s := mine.foldl (fun s c => loseContext s c 7) s
  let s := (partCores s p).foldl clearCore s
  let s := (partSlices s p).foldl (fun s c => setSlice s c SliceSt.reset) s
  let s := (bitsSet 12 (partStacks s p)).foldl clearCellar s
  let s := disablePool s p
  setPartPower s p { partPower s p with target := 3, level := 0, relief := 0, unmet := false }

/-- PARTITION_RESET: a write of PW_PART_RESET; GO has no effect while BUSY (R451, R459). -/
def execPartitionReset (value : BitVec 32) (s : State) : Res :=
  pfWrite offPartReset s <|
  let v := value.toNat
  let s := setReg s offPartReset (bits v 3 0)
  if bit v 31 && !s.power.partBusy then
    .next (resetPartition (s.withPower { s.power with partBusy := true }) (bits v 3 0))
  else .next s

/-- PARTITION_RESET_DONE: BUSY clears (R451, R459). -/
def execPartitionResetDone (s : State) : Res :=
  enabled s.power.partBusy "PARTITION_RESET_DONE" (s.withPower { s.power with partBusy := false })

/-- CONTEXT_RESET: a write of PW_CTX_RESET with GO loses a context with reason 5 (R449, R459). -/
def execContextReset (value : BitVec 32) (s : State) : Res :=
  pfWrite 0x308010 s <|
  let v := value.toNat
  let s := setReg s 0x308010 (bits v 11 0)
  .next (if bit v 31 then loseContext s (bits v 11 0) 5 else s)

end Sys2Proof.Machine
end

