-- ==== Sys2Proof/Machine/DictCmds.lean ====
section
/-!
DEFINITION. Requests to the parameter dictionary (R402 to R411) on every transport, and the MCTP control messages (R409).
-/

namespace Sys2Proof.Machine

/-! The form of a request (R402). -/

def rqOp (r : List Byte) : Nat := fieldLE r 1 1
def rqSeq (r : List Byte) : Nat := fieldLE r 2 1
def rqCount (r : List Byte) : Nat := fieldLE r 3 1
def rqIndex (r : List Byte) : Nat := fieldLE r 4 2
def rqSub (r : List Byte) : Nat := fieldLE r 6 1
def rqType (r : List Byte) : Nat := fieldLE r 7 1
def rqLength (r : List Byte) : Nat := fieldLE r 8 2

/-- The data bytes that the header names. -/
def rqData (r : List Byte) : Nat :=
  if rqOp r = 3 then 4 * rqCount r else if rqOp r = 2 then rqLength r else 0

/-- A request that R402 admits. -/
def rqOk (r : List Byte) : Bool :=
  let op := rqOp r
  decide (16 ≤ r.length) && fieldLE r 0 1 == 1 && allZero ((r.drop 10).take 6) && r.length == 16 + rqData r &&
    (if op = 3 then
      decide (1 ≤ rqCount r) && decide (rqCount r ≤ 16) && rqIndex r == 0 && rqSub r == 0 && rqType r == 0 && rqLength r == 0 &&
        (List.range (rqCount r)).all (fun k => fieldLE r (19 + 4 * k) 1 == 0)
     else if op = 2 then rqCount r == 1 && decide (1 ≤ rqLength r) && decide (rqLength r ≤ 256)
     else (op == 1 || op == 4) && rqCount r == 1 && rqType r == 0 && rqLength r == 0)

/-! Answers. -/

/-- A response with an abort code and no data. -/
def refuseReq (s : State) (t : Transport) (r : List Byte) (code : Nat) : State :=
  sendAnswer s t (rspBytes s (rqOp r) (rqSeq r) (rqCount r) code 0 [])

/-- A response that succeeds. -/
def grantReq_ (s : State) (t : Transport) (r : List Byte) (ty : Nat) (data : List Byte) : State :=
  sendAnswer s t (rspBytes s (rqOp r) (rqSeq r) (rqCount r) 0 ty data)

/-- The requester holds its transport's limit of outstanding requests (R411): a mailbox and a ring position one, an MCTP endpoint one per
tag. -/
def requesterBusy (s : State) (t : Transport) : Bool := s.dict.open_.contains t

/-- The dictionary answers a request: it is online, or in recovery the request comes over I3C and names identity objects (R453). -/
def dictServes (s : State) (t : Transport) (r : List Byte) : Bool :=
  s.dict.online ||
    (s.power.phase == .failed && (match t with
      | .mctpI3c _ _ => true
      | _ => false) &&
      (if rqOp r = 3 then (List.range (rqCount r)).all (fun k => decide (fieldLE r (16 + 4 * k) 2 / 16 = 0x100) && decide (fieldLE r (16 + 4 * k) 2 ≤ 0x1002))
       else decide (0x1000 ≤ rqIndex r) && decide (rqIndex r ≤ 0x1002)))

/-! Operations (R404, R405). -/

/-- READ. -/
def serveRead (s : State) (t : Transport) (r : List Byte) : State :=
  match objAccess s t (rqIndex r) (rqSub r) false with
  | .inr code => refuseReq s t r code
  | .inl d => grantReq_ s t r d.ty (toLE d.size (readValue s t d (rqIndex r) (rqSub r)))

/-- An entry of a READ_SET response. -/
def readSetEntry (s : State) (t : Transport) (idx sub : Nat) : List Byte :=
  match objAccess s t idx sub false with
  | .inr code => toLE 4 code ++ zeroBytes 12
  | .inl d => toLE 4 0 ++ toLE 1 d.ty ++ toLE 1 d.size ++ zeroBytes 2 ++ toLE 8 (readValue s t d idx sub)

/-- READ_SET. -/
def serveReadSet (s : State) (t : Transport) (r : List Byte) : State :=
  grantReq_ s t r 0 ((List.range (rqCount r)).map (fun k =>
    readSetEntry s t (fieldLE r (16 + 4 * k) 2) (fieldLE r (18 + 4 * k) 1))).flatten

/-- The 32 bytes of a description (R404). The defaults that fuses, the image and the pins give are what they read (R391, R399). -/
def describe (s : State) (d : ObjDesc) (idx sub : Nat) : List Byte :=
  let dflt := if (0x1000 ≤ idx && idx ≤ 0x1002) || (idx = 0x5000 && sub = 1) then objValue s idx sub else d.dflt
  let r := d.range.getD (0, 0)
  toLE 1 d.ty ++ toLE 1 (bnat d.next) ++ toLE 1 (d.pf + 4 * d.vf + 16 * d.mc + 64 * d.ring) ++ zeroBytes 1 ++ toLE 2 d.size ++
    zeroBytes 2 ++ toLE 8 dflt ++ toLE 8 r.1 ++ toLE 8 r.2

/-- DESCRIBE. -/
def serveDescribe (s : State) (t : Transport) (r : List Byte) : State :=
  match objAccess s t (rqIndex r) (rqSub r) false with
  | .inr code => refuseReq s t r code
  | .inl d => grantReq_ s t r 0 (describe s d (rqIndex r) (rqSub r))

/-- The stage entry that a write may take (R24): `some (some p)` a reserved one of partition p, `some none` a shared one. -/
def stageEntry (s : State) (t : Transport) : Option (Option Nat) :=
  let c := classOf t
  let p := masterPart s c.2
  if c.1 = .vf && s.dict.staged.countP (fun x => x.part == some p) < 8 then some (some p)
  else if s.dict.staged.countP (fun x => x.part.isNone) < 128 then some none
  else none

/-- A next-boundary write is staged; an earlier one to the same object is superseded (R24, R405). -/
def stageWrite (s : State) (t : Transport) (r : List Byte) (v : Nat) : State :=
  match stageEntry s t with
  | none => refuseReq s t r abRESOURCE
  | some part =>
    let key := rqIndex r * 256 + rqSub r
    let old := s.dict.staged.map (fun x => if x.key = key then { x with superseded := true } else x)
    s.withDict { s.dict with
      staged := old ++ [⟨(classOf t).2, key, v, part, some t, rqSeq r, false⟩]
      open_ := s.dict.open_ ++ [t]
      mboxBusy := match t with
        | .mailbox fn => s.dict.mboxBusy ++ [fn]
        | _ => s.dict.mboxBusy }

/-- An immediate write takes effect as it is served, after its answer: CALENDAR (R400, R401) or RESET_REQUEST (R449, R458). -/
def immediateWrite (s : State) (t : Transport) (r : List Byte) (v : Nat) : State :=
  let s := grantReq_ s t r 0 []
  if rqIndex r = 0x1010 then s.withDict { s.dict with calendar := v, calRest := 0, calValid := true }
  else if v = 1 then warmReset s 19 true
  else coldTrigger s 3

/-- WRITE (R404, R405, R407). -/
def serveWrite (s : State) (t : Transport) (r : List Byte) : State :=
  match objAccess s t (rqIndex r) (rqSub r) true with
  | .inr code => refuseReq s t r code
  | .inl d =>
    let v := ofLE (r.drop 16)
    if rqType r ≠ d.ty then refuseReq s t r abTYPE
    else if rqLength r ≠ d.size then refuseReq s t r abLENGTH
    else if !inRange s d (rqIndex r) (rqSub r) v then refuseReq s t r abRANGE
    else if d.next then stageWrite s t r v
    else immediateWrite s t r v

/-- A request is served: the checks of R407 in order, and its operation. -/
def serve (s : State) (t : Transport) (r : List Byte) : State :=
  if 272 < r.length then refuseReq s t r abTRANSPORT
  else if !rqOk r then refuseReq s t r abFORMAT
  else if !dictServes s t r then refuseReq s t r abUNAVAILABLE
  else if requesterBusy s t then
    let a := refuseReq s t r abBUSY
    a.withDict { a.dict with open_ := s.dict.open_ }
  else if rqOp r = 1 then serveRead s t r
  else if rqOp r = 2 then serveWrite s t r
  else if rqOp r = 3 then serveReadSet s t r
  else serveDescribe s t r

/-! The four rows. -/

/-- A requester exists and its transport reaches the module (R408 to R410). -/
def reachesDict (s : State) (t : Transport) : Bool :=
  s.power.phase != .off && s.power.phase != .held &&
    match t with
    | .mailbox fn => decide (fn < 64)
    | .mctpPcie eid tag => s.front.linkUp && decide (eid < 256) && decide (tag < 8)
    | .mctpI3c eid tag => s.dict.i3cAddr != 0 && decide (eid < 256) && decide (tag < 8)
    | .ring src => decide (src < 64) && !s.ring.bypass

/-- GO is a write of the function's mailbox, which is dropped as any register write is, and has no effect while the mailbox is busy (R302,
R342, R408, R455); the other transports reach the dictionary as they are. -/
def throughMailbox (t : Transport) (s : State) (r : Res) : Res :=
  match t with
  | .mailbox fn =>
    let go : Res := if s.dict.mboxBusy.contains fn then .next s else r
    if fn = 0 then pfWrite 0x700400 s go else vfWrite fn 7 s go
  | _ => r

/-- A request whose OP is the row's, or one whose OP is none of R402. -/
def dictRow (op : Nat) (name : String) (t : Transport) (r : List Byte) (s : State) : Res :=
  let o := rqOp r
  if !reachesDict s t || (decide (1 ≤ o) && decide (o ≤ 4) && o != op) then .refused (.notEnabled name)
  else throughMailbox t s (.next (serve s t r))

/-- DICT_READ (R404). -/
def execDictRead (t : Transport) (req : List Byte) (s : State) : Res := dictRow 1 "DICT_READ" t req s

/-- DICT_WRITE (R405). -/
def execDictWrite (t : Transport) (req : List Byte) (s : State) : Res := dictRow 2 "DICT_WRITE" t req s

/-- READ_SET (R404). -/
def execReadSet (t : Transport) (req : List Byte) (s : State) : Res := dictRow 3 "READ_SET" t req s

/-- DESCRIBE (R404). -/
def execDescribe (t : Transport) (req : List Byte) (s : State) : Res := dictRow 4 "DESCRIBE" t req s

/-- The request that lies in DM_REQ of a function's mailbox: what its header names of the 272 bytes (R402, R408). -/
def mailboxRequest (s : State) (fn : Nat) : List Byte :=
  let b := ((List.range 68).map (fun k => toLE 4 (getD 0 s.dict.mboxReq (fn * 128 + k)).toNat)).flatten
  b.take (16 + rqData b)

/-- GO of a mailbox (R408). -/
def mailboxGo (s : State) (fn : Nat) : State :=
  if s.dict.mboxBusy.contains fn then s else serve s (.mailbox fn) (mailboxRequest s fn)

/-! MCTP control messages (R409). Their forms are those of DMTF DSP0236 (PRESUMED, log entry 32): `data` is what follows the command code,
and a response begins with its completion code. -/

/-- The binding reaches the module. -/
def bindingUp (s : State) (b : Binding) : Bool :=
  s.power.phase != .off && s.power.phase != .held &&
    match b with
    | .pcie => s.front.linkUp
    | .i3c => s.dict.i3cAddr != 0

/-- A control message answered. -/
def mctpAnswer (name : String) (b : Binding) (m : MctpRequest) (s : State) (k : State → List Byte × State) : Res :=
  if !bindingUp s b then .refused (.notEnabled name)
  else
    let r := k s
    .next (emit r.2 (.mctpRsp b m.src m.tag r.1))

/-- The endpoint ID of a binding. -/
def eidOf (s : State) (b : Binding) : Nat :=
  match b with
  | .pcie => s.dict.eidPcie
  | .i3c => s.dict.eidI3c

/-- Set it. -/
def setEid (s : State) (b : Binding) (e : Nat) : State :=
  match b with
  | .pcie => s.withDict { s.dict with eidPcie := e }
  | .i3c => s.withDict { s.dict with eidI3c := e }

/-- SET_ENDPOINT_ID: operations 0 and 1 set an ID of 8 to 254; the others are not supported. -/
def execSetEndpointId (b : Binding) (m : MctpRequest) (s : State) : Res :=
  mctpAnswer "SET_ENDPOINT_ID" b m s fun s =>
    let op := bits (fieldLE m.data 0 1) 1 0
    let e := fieldLE m.data 1 1
    if m.data.length ≠ 2 then (toLE 1 3, s)
    else if op ≤ 1 && 8 ≤ e && e ≤ 254 then (toLE 1 0 ++ toLE 1 0 ++ toLE 1 e ++ toLE 1 0, setEid s b e)
    else (toLE 1 2, s)

/-- GET_ENDPOINT_ID: the ID of a simple endpoint with a dynamic ID. -/
def execGetEndpointId (b : Binding) (m : MctpRequest) (s : State) : Res :=
  mctpAnswer "GET_ENDPOINT_ID" b m s fun s =>
    if m.data.isEmpty then (toLE 1 0 ++ toLE 1 (eidOf s b) ++ toLE 1 0 ++ toLE 1 0, s) else (toLE 1 3, s)

/-- GET_MCTP_VERSION_SUPPORT: one version, which the manual does not give, for the base, control and dictionary types. -/
def execGetMctpVersionSupport (b : Binding) (m : MctpRequest) (s : State) : Res :=
  mctpAnswer "GET_MCTP_VERSION_SUPPORT" b m s fun s =>
    let ty := fieldLE m.data 0 1
    if m.data.length ≠ 1 then (toLE 1 3, s)
    else if ty = 0xFF || ty = 0 || ty = 0x7E then (toLE 1 0 ++ toLE 1 1 ++ toLE 4 (Sys2Proof.Config.mctpVersion ty), s)
    else (toLE 1 0x80, s)

/-- GET_MESSAGE_TYPE_SUPPORT: Vendor Defined – PCI. -/
def execGetMessageTypeSupport (b : Binding) (m : MctpRequest) (s : State) : Res :=
  mctpAnswer "GET_MESSAGE_TYPE_SUPPORT" b m s fun s =>
    if m.data.isEmpty then (toLE 1 0 ++ toLE 1 1 ++ toLE 1 0x7E, s) else (toLE 1 3, s)

/-- GET_VENDOR_DEFINED_MSG_SUPPORT: one set, the PCI vendor identifier of the physical function, which the manual does not give. -/
def execGetVendorDefinedMsgSupport (b : Binding) (m : MctpRequest) (s : State) : Res :=
  mctpAnswer "GET_VENDOR_DEFINED_MSG_SUPPORT" b m s fun s =>
    if m.data.length ≠ 1 then (toLE 1 3, s)
    else if fieldLE m.data 0 1 ≠ 0 then (toLE 1 2, s)
    else
      let v := Sys2Proof.Config.pciVendor.toNat
      (toLE 1 0 ++ toLE 1 0xFF ++ toLE 1 0 ++ toLE 1 (v / 256) ++ toLE 1 v ++ toLE 2 Sys2Proof.Config.vendorSet.toNat, s)

/-- ENTDAA: the I3C controller assigns the module's dynamic address (R409). -/
def execEntdaa (addr : Nat) (s : State) : Res :=
  enabled (s.power.phase != .off && s.power.phase != .held && decide (1 ≤ addr) && decide (addr < 128)) "ENTDAA"
    (s.withDict { s.dict with i3cAddr := addr })

end Sys2Proof.Machine
end

