-- ==== Sys2Proof/Machine/Interface.lean ====
section
/-!
DEFINITION. The test port (R490): its current instruction, and whether EXTEST drives the pins.
-/

namespace Sys2Proof.Machine

/-- The TAP takes an instruction: 0 BYPASS, 1 IDCODE, 2 SAMPLE/PRELOAD, 3 EXTEST, which drives pins only while MOD_RESET# is asserted and
otherwise acts as BYPASS (R490). Without V_AUX the port is dead (R481). -/
def tapTakes (n : Nat) (s : State) : State :=
  if s.power.rails = 0 then s
  else resetPins (s.withPins { s.pins with tap := n }) s.pins.modReset s.pins.flEn

/-- BYPASS. -/
def execBypass (s : State) : Res := .next (tapTakes 0 s)

/-- IDCODE. -/
def execIdcode (s : State) : Res := .next (tapTakes 1 s)

/-- SAMPLE_PRELOAD. -/
def execSamplePreload (s : State) : Res := .next (tapTakes 2 s)

/-- EXTEST. -/
def execExtest (s : State) : Res := .next (tapTakes 3 s)

end Sys2Proof.Machine
end

