-- ==== Sys2Proof/Machine/RingRows.lean ====
section
/-!
DEFINITION. What a module does with what comes round the tick ring (R42, R43, R379 to R389, R410).
-/

namespace Sys2Proof.Machine

/-! Helpers. -/

/-- The module is on the ring: start-up has reached ring join. -/
def onRing (s : State) : Bool := s.ring.listening || !s.ring.bypass

/-- Fabric ports see a change of the lock state (R368). -/
def afterLock (old : State) (s : State) : State := if old.tick.lock = s.tick.lock then s else relinkPorts s

/-- FB_RING_STATUS (R392): DUP_POS is its one stored bit. -/
def offRingStatus : Nat := 0x500400

/-- A frame forwarded. -/
def forward (s : State) (type : Nat) (f : Frame) : State := emit s (.frame type f)

/-! The management channel (R388, R410). -/

/-- A whole message: a request from a ring position is served; a response reaches nobody here, since the module makes no requests. -/
def ringMessage (s : State) (src : Nat) (msg : List Byte) : State :=
  if bit (rqOp msg) 7 then s
  else
    let n := 16 + rqData msg
    serve s (.ring src) (if n ≤ msg.length && msg.length < n + 5 then msg.take n else msg)

/-- A cell addressed to the module: parts are joined by source and sequence; a last part without a first one is a message that could not
be reassembled (R388, R407). -/
def takeCell (s : State) (c : List Byte) : State :=
  let src := fieldLE c 1 1
  let part := bits (fieldLE c 2 1) 7 6
  let sq := bits (fieldLE c 2 1) 5 0
  let data := sliceBytes c 3 5
  let old := (s.ring.mgmtIn.find? (fun m => m.1 == src && m.2.1 == sq)).map (fun m => m.2.2)
  let rest := s.ring.mgmtIn.filter (fun m => !(m.1 == src && m.2.1 == sq))
  let set (l : List (Nat × Nat × List Byte)) : State := s.withRing { s.ring with mgmtIn := l }
  match part, old with
  | 0, _ => ringMessage (set rest) src data
  | 1, _ => set (rest ++ [(src, sq, data)])
  | 2, some d => set (rest ++ [(src, sq, d ++ data)])
  | 2, none => s
  | _, some d => ringMessage (set rest) src (d ++ data)
  | _, none => refuseReq s (.ring src) [] abTRANSPORT

/-- The cell of a passing frame: taken, emptied or forwarded; an empty one may take a cell of the module (R388). -/
def passCell (s : State) (c : List Byte) : List Byte × State :=
  let dst := fieldLE c 0 1
  if dst = 0xFF then fillCell s
  else if dst = s.ring.position then fillCell (takeCell s c)
  else if fieldLE c 1 1 = s.ring.position then fillCell s
  else (c, s)

/-- The cell of a frame that its origin removes: a cell of others waits for the next frame. -/
def keepCell (s : State) (c : List Byte) : State :=
  let dst := fieldLE c 0 1
  if dst = s.ring.position then takeCell s c
  else if dst = 0xFF || fieldLE c 1 1 = s.ring.position then s
  else s.withRing { s.ring with mgmtOut := (dst, 0, c) :: s.ring.mgmtOut }

/-! Election (R381). -/

/-- The module forwards only: it is not eligible, or has found its position taken (R381, R382). -/
def forwardsOnly (s : State) : Bool := !eligible s || s.ring.dupPos

/-- A frame of another origin: discarded by an eligible module when its origin is higher; else that origin is the master, and the module
stops originating (R381). The flag says the frame goes on. -/
def meetOrigin (s : State) (origin : Nat) : Bool × State :=
  if !forwardsOnly s && s.ring.position < origin then (false, s)
  else
    let s := s.withRing { s.ring with master := some origin, originates := false, surveying := s.ring.surveying && s.tick.lock != 0 }
    (true, if s.tick.lock = 0 then setLock s 3 else s)

/-! Barriers (R387). -/

/-- ARRIVE as a module forwards it: the AND with its contribution to each barrier it takes part in. -/
def andArrive (s : State) (a : Nat) : Nat :=
  maskOf ((bitsSet 64 a).filter (fun k => !takesPart s k || contribution s k))

/-- The first RELEASE seen for a phase completes the barrier here (R290, R387, R393). -/
def seeRelease (s : State) (aux : Nat) : State :=
  let new := (bitsSet 64 aux).filter (fun k => !bit s.ring.seenRel k && takesPart s k)
  let s := new.foldl (fun s k => match ringBound s k with
    | some (ctx, n) => completeBarrier s ctx n
    | none => s) s
  s.withRing { s.ring with seenRel := aux % 2 ^ 64 }

/-- What the master does with a NORMAL frame of its own that returns: RELEASE bits that come back end, and a bit that returns 1 in a frame
without its RELEASE completes the phase (R387). -/
def masterReturn (s : State) (f : Frame) : State :=
  let gone := bitsSet 64 f.aux
  let done := (bitsSet 64 f.arrive).filter (fun k => !bit f.aux k && !bit s.ring.release k)
  let r := gone.foldl (fun r k => setBit r k false) s.ring.release
  s.withRing { s.ring with release := done.foldl (fun r k => setBit r k true) r }

/-- NORMAL (R379, R381, R387 to R389). -/
def execNormal (f : Frame) (s : State) : Res :=
  if !onRing s then .refused (.notEnabled "NORMAL")
  else if !f.crcOk then .next (if s.ring.bypass then s else forward s 1 f)
  else if f.origin = s.ring.position && s.ring.originates then
    let t := seeRelease (masterReturn (becomeMaster s) f) f.aux
    let c := passCell t f.mgmt
    let t := emit c.2 (.frame 1
      { origin := t.ring.position, tickLo := t.tick.count.toNat % 65536, arrive := ownArrive t, mgmt := c.1, aux := t.ring.release,
        crcOk := true })
    .next (afterLock s t)
  else if f.origin = s.ring.position && !s.ring.dupPos then .next s
  else
    let m := meetOrigin s f.origin
    if !m.1 then .next s
    else if s.ring.bypass then .next (afterLock s m.2)
    else
      let t := m.2
      let arrive := andArrive t f.arrive
      let t := seeRelease t f.aux
      let c := passCell t f.mgmt
      .next (afterLock s (forward c.2 1 { f with arrive := arrive, mgmt := c.1 }))

/-! The tick symbol (R380, R384, R385, R389). -/

/-- TICK_SYMBOL: K28.1 arrives at local time t, in 1/16 ns. A listening module opens its bypass; the master measures the ring delay, and
surveys when it has changed by more than 2 ns; another module keeps the edge and forwards the symbol. -/
def execTickSymbol (t16 : Nat) (s : State) : Res :=
  if !onRing s then .refused (.notEnabled "TICK_SYMBOL")
  else if s.tick.lock = 0 then
    let d := t16 - 16 * s.tick.boundary.toNat
    let s := s.withRing { s.ring with delay16 := d }
    match s.ring.surveyDelay16 with
    | none => .next (s.withRing { s.ring with surveyDelay16 := some d })
    | some old =>
      if old + 32 < d || d + 32 < old then .next (startSurvey s) else .next s
  else
    let s := s.withRing { s.ring with bypass := false, edge16 := some t16 }
    .next (emit (s.withTick { s.tick with missing := 0 }) .tickSymbol)

/-- The boundary time of a frame with its upper bits restored from the ring time (R385). -/
def restoreB (s : State) (b40 : Nat) : Nat :=
  let r := ringTime s
  if r + 2 ^ 39 < b40 then b40 else b40 + (r + 2 ^ 39 - b40) / 2 ^ 40 * 2 ^ 40

/-- The master's period as two successive TICK_INFO frames give it, in 10 µs (R18, R42). -/
def periodFrom (s : State) (b tickLo : Nat) : Option Nat :=
  match s.ring.lastInfo with
  | some (b0, lo) =>
    let p := (b + 5000 - b0) / 10000
    if b0 < b && (lo + 1) % 65536 = tickLo && 5 ≤ p && p ≤ 200 then some p else s.tick.masterPeriod
  | none => s.tick.masterPeriod

/-- The master's edge in local time, in 1/16 ns (R385). -/
def edgeOf (t16 corr : Nat) : Int := (t16 : Int) - corr

/-- The edge lies within ±1 µs of where the module predicts it: of its own boundary, or before its tick runs of the offset held (R42, R43). -/
def edgeNear (s : State) (e offset : Int) : Bool :=
  if s.tick.running then
    let d := e - 16 * (s.tick.boundary.toNat : Int)
    decide (-16000 ≤ d) && decide (d ≤ 16000)
  else
    s.ring.lastInfo.isSome &&
      (let d := offset - s.ring.offset
       decide (-1000 ≤ d) && decide (d ≤ 1000))

/-- What a TICK_INFO frame tells a module that is not its origin (R18, R42, R43, R385). -/
def readInfo (s : State) (f : Frame) : State :=
  let corr := bits f.aux 63 40
  let s := if f.tickLo = s.tick.count.toNat % 65536 then s else orReg s offTickStatus 0x80
  let s := s.withRing { s.ring with delay16 := corr }
  match s.ring.edge16 with
  | none => s
  | some t16 =>
    let b := restoreB s (bits f.aux 39 0)
    let e := edgeOf t16 corr
    let offset := ((16 * (b : Int)) - e) / 16
    let near := edgeNear s e offset
    let next := match s.ring.lastInfo with
      | some p => f.tickLo == (p.2 + 1) % 65536
      | none => false
    let good := if near then (if next then s.tick.good else 0) + 1 else 0
    let s := s.withTick { s.tick with masterPeriod := periodFrom s b f.tickLo, good := good }
    let s := s.withRing { s.ring with offset := offset, edge16 := none, lastInfo := some (b, f.tickLo) }
    if 2 ≤ good && s.tick.lock ≠ 1 then ringJoined (setLock s 1) else s

/-- TICK_INFO (R379 to R381, R385). -/
def execTickInfo (f : Frame) (s : State) : Res :=
  if !onRing s then .refused (.notEnabled "TICK_INFO")
  else if s.ring.bypass then .next s
  else if !f.crcOk then .next (forward s 2 f)
  else if f.origin = s.ring.position && s.ring.originates then .next (afterLock s (keepCell (becomeMaster s) f.mgmt))
  else if f.origin = s.ring.position && !s.ring.dupPos then .next s
  else
    let m := meetOrigin s f.origin
    if !m.1 then .next s
    else
      let t := if s.ring.dupPos then m.2 else readInfo m.2 f
      let corr := (bits f.aux 63 40 + 2560 + t.ring.hop16) % 2 ^ 24
      let c := passCell t f.mgmt
      .next (afterLock s (forward c.2 2 { f with
        arrive := andArrive t f.arrive, mgmt := c.1, aux := bits f.aux 39 0 + 2 ^ 40 * corr }))

/-- RING_EDGE_MISSING: an expected edge is missing: Holdover, and Free with the fourth in a row (R42); a Free module that is eligible
originates again (R381). -/
def execRingEdgeMissing (s : State) : Res :=
  if s.tick.lock ≠ 1 && s.tick.lock ≠ 2 then .refused (.notEnabled "RING_EDGE_MISSING")
  else
    let n := s.tick.missing + 1
    let t := s.withTick { s.tick with missing := n, good := 0 }
    if n < 4 then .next (afterLock s (setLock t 2))
    else
      let t := setLock (t.withRing { t.ring with master := none, edge16 := none, lastInfo := none }) 3
      .next (afterLock s (if forwardsOnly t then t else originate t))

/-! Census and survey (R382 to R384). -/

/-- CENSUS (R382): the master keeps the one that returns; another module sets its bits, unless its position is already there. -/
def execCensus (f : Frame) (s : State) : Res :=
  if !onRing s then .refused (.notEnabled "CENSUS")
  else if s.ring.bypass then .next s
  else if !f.crcOk then .next (forward s 3 f)
  else if f.origin = s.ring.position && s.ring.originates then
    .next (keepCell (s.withRing { s.ring with census := f.aux }) f.mgmt)
  else
    let m := meetOrigin s f.origin
    if !m.1 then .next s
    else
      let t := m.2
      let p := t.ring.position
      if bit f.aux p then
        let t := orReg (t.withRing { t.ring with dupPos := true, originates := false }) offRingStatus 16
        let t := if t.tick.lock = 3 then t else setLock t 3
        .next (afterLock s (forward t 3 f))
      else
        let t := t.withRing { t.ring with dupPos := false }
        let c := passCell t f.mgmt
        .next (afterLock s (forward c.2 3 { f with
          aux := setBit f.aux p true, mgmt := c.1
          arrive := if eligible t then setBit f.arrive p true else f.arrive }))

/-- CENSUS_DUE: the master sends a CENSUS frame (R382). -/
def execCensusDue (s : State) : Res :=
  enabled (s.tick.lock == 0 && s.ring.originates && !s.ring.surveying) "CENSUS_DUE" (sendCensus s)

/-- The survey is over at the master: it transmits again and takes a census (R382, R383). -/
def endSurvey (s : State) : State := sendCensus (s.withRing { s.ring with surveying := false, token := none })

/-- A SURVEY frame that passes the token (R379, R383). -/
def sendToken (s : State) (origin next : Nat) : State :=
  let c := fillCell s
  emit c.2 (.frame 4
    { origin := origin, tickLo := s.tick.count.toNat % 65536, arrive := 0, mgmt := c.1, aux := next % 256, crcOk := true })

/-- SURVEY (R383): a token that names the module makes it stop transmitting and send 16 echo symbols; at the master it ends the survey. -/
def execSurvey (f : Frame) (s : State) : Res :=
  let token := bits f.aux 7 0
  if !onRing s then .refused (.notEnabled "SURVEY")
  else if s.ring.bypass then .next s
  else if !f.crcOk then .next (forward s 4 f)
  else if f.origin = s.ring.position && s.tick.lock = 0 then
    let t := keepCell s f.mgmt
    if token ≠ s.ring.position && bit s.ring.census token then .next (forward t 4 { f with mgmt := emptyCell })
    else .next (if s.ring.surveying then endSurvey t else t)
  else
    let m := meetOrigin s f.origin
    if !m.1 then .next s
    else
      let c := passCell m.2 f.mgmt
      if token = s.ring.position && !s.ring.dupPos then
        let t := if fieldLE c.1 0 1 = 0xFF then c.2 else c.2.withRing { c.2.ring with mgmtOut := (fieldLE c.1 0 1, 0, c.1) :: c.2.ring.mgmtOut }
        .next (afterLock s (sendEchoes (t.withRing { t.ring with surveying := true, token := some token })))
      else .next (afterLock s (forward c.2 4 { f with mgmt := c.1 }))

/-- SURVEY_HOP_DONE: the module has measured its outgoing hop, in 1/16 ns, and passes the token to the next position present (R383). -/
def execSurveyHopDone (hop16 : Nat) (s : State) : Res :=
  if !(s.ring.surveying && s.ring.token == some s.ring.position) then .refused (.notEnabled "SURVEY_HOP_DONE")
  else
    let s := s.withRing { s.ring with hop16 := hop16, token := none }
    let n := nextToken s
    if s.tick.lock = 0 then
      .next (if n.1 = s.ring.position then endSurvey n.2 else sendToken n.2 s.ring.position n.1)
    else
      let s := n.2
      .next (sendToken (s.withRing { s.ring with surveying := false }) (s.ring.master.getD s.ring.position) n.1)

/-- SURVEY_ECHO: the module returns each echo symbol to the one before it on the ring (R383). -/
def execSurveyEcho (s : State) : Res := enabled (!s.ring.bypass) "SURVEY_ECHO" (sendEchoes s)

/-- MGMT_CELL_TIMEOUT: the cells of a message stopped for 1 ms: it is discarded (R410). -/
def execMgmtCellTimeout (src seq : Nat) (s : State) : Res :=
  let mine (m : Nat × Nat × List Byte) : Bool := m.1 == src && m.2.1 == seq
  enabled (s.ring.mgmtIn.any mine) "MGMT_CELL_TIMEOUT" (s.withRing { s.ring with mgmtIn := s.ring.mgmtIn.filter (fun m => !mine m) })

end Sys2Proof.Machine
end

