-- ==== Sys2Proof/Machine/Registers.lean ====
section
/-!
DEFINITION. The register tables (R21, R208, R239, R262, R334, R335, R365, R392, R408, R432, R459, R475): what each register returns, what a
write of it does by its access codes (R12), the access rule (R412, R413), the rows that read an RC field, and REGISTER_WRITE.
-/

namespace Sys2Proof.Machine

/-! Which offsets hold a register. -/

/-- The offset of the physical function's BAR0, a multiple of 4, holds a register that is not reserved. -/
def regKnown (s : State) (off : Nat) : Bool :=
  let b := off % 0x100000
  match blockOf off with
  | 0 => decide (b ≤ 0x04C) || (decide (0x080 ≤ b) && decide (b < 0x0C0)) || (decide (0x100 ≤ b) && decide (b ≤ 0x110)) ||
      (decide (0x10000 ≤ b) && decide (b < 0x20000) && b % 8 == 0)
  | 1 => decide (b < 0x40) && b != 0x24
  | 2 => decide (b ≤ 0x14) || (decide (0x100 ≤ b) && decide (b < 0x200) && b % 16 != 12)
  | 3 => decide (b ≤ 0x2C) || (decide (0x8000 ≤ b) && decide (b ≤ 0x8020)) || (decide (0x8100 ≤ b) && decide (b < 0x8180))
  | 4 =>
    if b < 0x20000 then
      decide (b / 0x200 < numCores s) &&
        (let o := b % 0x200
         decide (o < 0x20) || (decide (0x40 ≤ o) && decide (o < 0x88)) || decide (0x100 ≤ o))
    else if b < 0x21000 then (let o := b % 0x100; decide (o < 0x20) || (decide (0x40 ≤ o) && decide (o < 0x84)))
    else if b < 0x21400 then
      (let o := b % 0x200
       decide (o < 0x40) || (decide (0x80 ≤ o) && decide (o < 0x104)) || (decide (0x108 ≤ o) && decide (o < 0x120)))
    else if b < 0x22000 then false
    else if b < 0x22C00 then decide (b % 0x100 < 0x40)
    else (decide (0x30000 ≤ b) && decide (b < 0x30000 + 0x40 * 46)) || b == 0x31000 || b == 0x31004 || b == 0x32000
  | 5 => (decide (b < 0x200) && decide (b % 0x20 < 12)) || b == 0x400 || b == 0x408 || b == 0x40C || b == 0x410
  | 6 =>
    if b < 0x0C000 then decide (b % 0x1000 ≤ 0x14)
    else if b < 0x40000 then false
    else if b < 0x50000 then decide (b % 0x1000 ≤ 0x0C)
    else if b < 0x80000 then false
    else if b < 0x8C000 then (let o := b % 0x1000; decide (o ≤ 0x08) || (decide (0x10 ≤ o) && decide (o < 0x30)))
    else decide (0xC0000 ≤ b) && decide (b < 0xC1000) && decide (b % 0x100 ≤ 0x14)
  | 7 => decide (b < 0x110) || (decide (0x200 ≤ b) && decide (b < 0x320)) || b == 0x400 || b == 0x404
  | _ => false

/-- The register group of an offset belongs to a unit whose clock is gated: it reads zero and drops writes, silently (R420). -/
def regGated (s : State) (off : Nat) : Bool :=
  let b := off % 0x100000
  match blockOf off with
  | 4 => !s.clock.gateOb
  | 5 => decide (b < 0x200) && !bit s.clock.gatePort (b / 0x20)
  | 6 =>
    if b < 0x0C000 then !bit s.clock.gateStack (b / 0x1000)
    else if 0x40000 ≤ b && b < 0x50000 then !bit s.clock.gateSr ((b - 0x40000) / 0x1000)
    else if 0x80000 ≤ b && b < 0x8C000 then !bit s.clock.gateStack ((b - 0x80000) / 0x1000)
    else false
  | _ => false

/-! What a register returns. -/

/-- FE_QSTATE (R334). -/
def qState (s : State) (q : Nat) : Nat :=
  match find s.queues q with
  | none => 0
  | some u =>
    let n := if !u.resident then 0 else if u.cls = 0 then 4 else max 2 (min 3 u.fetched.length)
    2 ^ 31 + 2 ^ 30 * bnat u.resident + 2 ^ 29 * bnat (find s.subs q).isSome + 2 ^ 27 * (u.cls % 4) + n

/-- FE_STATUS.IDLE: nothing is admitted, running or fetched. Its reset value is 0 although nothing is then: it reads 1 only once queues are
admitted or the kernel ring runs (R334; DEDUCED, log entry 56). -/
def feIdle (s : State) : Bool :=
  bits (reg s offFeCtrl) 1 0 != 0 && s.subs.isEmpty && s.front.kFetched.isNone && s.queues.all (fun e => e.2.fetched.isEmpty)

/-- A front-end register (R21, R334). -/
def feValue (s : State) (off : Nat) : Nat :=
  let q := reg s 0x040
  match off with
  | 0x000 => 0x01000000 + numCores s
  | 0x008 => reg s 0x008 + 256 * bnat (feIdle s)
  | 0x00C => (freeBarriers s).length * 2 ^ 24 + s.ctxs.countP (fun e => e.2.state == .resident) * 2 ^ 16 +
      s.queues.countP (fun e => e.2.resident)
  | 0x034 => 0
  | 0x038 => s.front.kRead.toNat
  | 0x044 => qState s q
  | 0x048 => ((find s.queues q).map (fun u => u.read.toNat)).getD 0
  | 0x04C => ((find s.queues q).map (fun u => u.write.toNat)).getD 0
  | 0x100 => s.tick.count.toNat % 2 ^ 32
  | 0x104 => s.tick.count.toNat / 2 ^ 32
  | 0x108 => s.tick.boundary.toNat % 2 ^ 32
  | 0x10C => s.tick.boundary.toNat / 2 ^ 32
  | 0x110 => bits (reg s 0x110) 7 5 * 32 + s.tick.lock % 4
  | _ => if 0x10000 ≤ off then 0 else reg s off

/-- A translation register (R262). -/
def trValue (s : State) (off : Nat) : Nat :=
  match off with
  | 0x100014 => reg s off + s.trans.tokens.length * 2 ^ 14
  | 0x10001C => 0
  | 0x100034 => 0
  | 0x10003C => reg s off + s.trans.invals.countP Inval.reg
  | _ => reg s off

/-- A partition register (R365). -/
def ptValue (s : State) (off : Nat) : Nat :=
  match off with
  | 0x200008 => 2 * bnat s.part.armed + bnat s.part.filling
  | 0x20000C => s.part.gen % 65536 * 65536 + 4 * bnat s.part.ready + 2 * bnat s.part.fillErr + reg s off % 2
  | 0x200014 => s.part.preDone % 65536 * 65536 + 4 * bnat s.part.preBusy + reg s off % 4
  | _ => reg s off

/-- A register of clocks and power (R432, R459). -/
def ckValue (s : State) (off : Nat) : Nat :=
  let c := s.clock
  let p := s.power
  match off with
  | 0x300000 => 1024 * bnat c.oscOk + 512 * bnat c.hold + 256 * bnat c.onOsc + bnat (refOk s)
  | 0x300008 => c.monCount % 65536
  | 0x30000C => 0
  | 0x300010 => (List.range 8).foldl (fun v k => v + divider s k * 16 ^ k) 0
  | 0x300014 => (List.range 8).foldl (fun v k => v + divider s (8 + k) * 16 ^ k) 0
  | 0x300018 => c.srLock % 65536 * 65536 + c.fabricLock % 16 * 4096 + c.stackLock % 4096
  | 0x30001C => 2 * bnat c.pcieLock + bnat c.rootLock
  | 0x300020 => c.gateStack
  | 0x300024 => c.gateSr
  | 0x300028 => c.gatePort
  | 0x30002C => bnat c.gateOb
  | 0x308000 => 2 ^ 31 * bnat p.ready + 2 ^ 30 * bnat p.configReady + 256 * (p.failCode % 256) + stageCode s
  | 0x308004 => p.cause
  | 0x308008 => 0
  | 0x30800C => 2 ^ 30 * bnat p.partBusy + reg s off % 16
  | 0x308014 => twos 16 (diePower s 1).temp * 65536 + twos 16 (diePower s 0).temp
  | 0x308018 => 1024 * bnat p.holdPower + 512 * bnat (diePower s 1).hold + 256 * bnat (diePower s 0).hold +
      16 * ((diePower s 1).target % 16) + (diePower s 0).target % 16
  | 0x308020 => p.volt % 65536 * 65536 + p.tickPower % 65536
  | _ =>
    if 0x308140 ≤ off then
      let x := partPower s ((off - 0x308140) / 4)
      2 ^ 31 * bnat x.unmet + 16 * (x.level % 4) + x.target % 16
    else if 0x308100 ≤ off then (partPower s ((off - 0x308100) / 4)).power % 2 ^ 32
    else reg s off

/-- A fabric register (R392). -/
def fbValue (s : State) (off : Nat) : Nat :=
  let n := (off - 0x500000) / 0x20
  match off with
  | 0x500400 => (s.ring.master.getD 0) % 64 * 2 ^ 20 + s.ring.position % 64 * 2 ^ 14 + (reg s off &&& 16) + 8 * bnat s.ring.surveying +
      4 * bnat s.ring.bypass + s.tick.lock % 4
  | 0x500408 => twos 64 s.ring.offset % 2 ^ 32
  | 0x50040C => twos 64 s.ring.offset / 2 ^ 32
  | 0x500410 => s.ring.delay16 % 2 ^ 32
  | _ =>
    if off % 0x20 = 0 then ((port s n).peer.getD 255) % 256 * 2 ^ 24 + (port s n).state % 4
    else if off % 0x20 = 4 then 2 * bnat ((port s n).state == 1) + bnat (port s n).enabled
    else reg s off

/-- The slots of a cellar engine that hold what p says, as bits: a RETIRING slot that nothing is bound to any more is scratch (R190, R193,
R208). -/
def slotMask (s : State) (st : Nat) (p : SlotUse → Bool) : Nat := maskOf ((List.range 8).filter (fun k => p (slotUse s st k)))

/-- MC_CEL_STATUS.ENABLED: the stack is owned by a partition, and runs: its reset value is 0 although partition 0 owns every stack then (R208,
R338; DEDUCED, log entry 56). -/
def celEnabled (s : State) (st : Nat) : Bool := (partOfStack s st).isSome && stackUp s st

/-- A memory-controller register (R208, R239) at offset b of its block. -/
def mcValue (s : State) (off : Nat) : Nat :=
  let b := off - 0x600000
  let o := b % 0x1000
  if b < 0x0C000 then
    let k := stackSt s (b / 0x1000)
    if o = 0 then k.retire.length % 256 * 2 ^ 24 + ((k.temp / 8).toNat % 256) * 2 ^ 16 + 4 * bnat k.scrubbing + stackStateCode k.state
    else if o = 0x14 then
      match k.retire[reg s (off - 4)]? with
      | some page => 2 ^ 31 + page % 2 ^ 20
      | none => 0
    else reg s off
  else if b < 0x50000 then
    let k := pkgSt s ((b - 0x40000) / 0x1000)
    if o = 0 then bits (reg s off) 31 16 * 65536 + 2 * bnat k.trained + bnat k.failed else reg s off
  else if b < 0x8C000 then
    let st := (b - 0x80000) / 0x1000
    let e := cellar s st
    if o = 0 then
      slotMask s st (· == .retiring) * 2 ^ 24 + slotMask s st (· == .scratch) * 2 ^ 16 + 1024 * bnat e.move.isSome +
        512 * bnat e.mv.isSome + 256 * bnat (celEnabled s st) + e.queue.length % 128
    else if o = 4 then
      (List.range 8).foldl (fun v k => match e.ids[k]? with
        | some x => v + (8 * bnat x.armed + x.state % 8) * 16 ^ k
        | none => v) 0
    else if 0x10 ≤ o then ((e.ids[(o - 0x10) / 4]?).map (fun x => x.gen.toNat)).getD 0
    else reg s off
  else
    let c := (b - 0xC0000) / 0x100
    let k := sliceSt s c
    if b % 0x100 = 0 then
      let dirty := k.lines.foldl (fun n e => n + e.2.ways.countP (fun w => (w.map AtticLine.dirty).getD false)) 0
      dirty * 2 ^ 15 + ((partOfCluster s c).getD 0) * 2 + bnat k.busy
    else if b % 0x100 = 4 then 2 * bnat (bit (reg s off) 1) + bnat k.busy
    else reg s off

/-- A mailbox register at an offset from the mailbox base (R408). -/
def dmValue (s : State) (fn off : Nat) : Nat :=
  let busy := bnat (s.dict.mboxBusy.contains fn)
  let st := if fn = 0 then reg s 0x700404 else vfReg s fn 0x2404
  if off < 0x110 then (getD 0 s.dict.mboxReq (fn * 128 + off / 4)).toNat
  else if off < 0x320 then (getD 0 s.dict.mboxRsp (fn * 128 + (off - 0x200) / 4)).toNat
  else if off = 0x400 then busy
  else getD 0 s.dict.mboxSeq fn % 256 * 2 ^ 24 + 4 * bnat (bit st 2) + 2 * busy + bnat (bit st 0)

/-- What a 32-bit read of the physical function's BAR0 returns, RC fields not yet cleared (R12, R303). -/
def regValue (s : State) (off : Nat) : Nat :=
  if !regKnown s off then 0
  else
    match blockOf off with
    | 0 => feValue s off
    | 1 => trValue s off
    | 2 => ptValue s off
    | 3 => ckValue s off
    | 4 => if 0x430000 ≤ off && off < 0x431000 then (getD 0 s.hist ((off - 0x430000) / 4)).toNat else reg s off
    | 5 => fbValue s off
    | 6 => mcValue s off
    | _ => dmValue s 0 (off - 0x700000)

/-- A register of a virtual function (R335, R408). -/
def vfValue (s : State) (fn off : Nat) : Nat :=
  if 0x1100 ≤ off && off < 0x1200 then
    match vfQueue s fn ((off - 0x1100) / 4) with
    | some q => ((find s.queues q).map (fun u => u.read.toNat)).getD 0
    | none => 0
  else if 0x1200 ≤ off && off < 0x1300 then
    match s.ctxs.find? (fun e => e.2.fn == fn && e.2.fnIndex == (off - 0x1200) / 4 && e.2.state != .free) with
    | some e => 2 ^ 31 + ctxStateCode e.2.state * 2 ^ 28 + e.2.reason % 8 * 65536 + e.1 % 4096
    | none => 0
  else if 0x2000 ≤ off && off < 0x2408 then dmValue s fn (off - 0x2000)
  else if off = 0x1000 || (0x1400 ≤ off && off < 0x143C) then vfReg s fn off
  else 0

/-! Writes of one register by its access codes (R12). -/

/-- The state that an operation answers. -/
def stateOf (r : Res) (s : State) : State :=
  match r with
  | .next t => t
  | .fault _ => s
  | .refused _ => s

/-- W1C bits of a mask. Commands act one by one: what coincides with software's access to a bit is the command after it where the device sets a
W1C bit, counts, or fills an RC field, and the command before it where it updates an RW field, which gives the outcomes of R13 (log entry 59). -/
def w1c (s : State) (off mask v : Nat) : State := setReg s off (reg s off - (reg s off &&& (v &&& mask)))

/-- RW bits of a mask. -/
def rw (s : State) (off mask v : Nat) : State := setReg s off (v &&& mask)

/-- RW bits that are written only while `c` holds; at another time nothing happens and ACCESS_ERR is set (R334). -/
def rwWhile (c : Bool) (s : State) (off mask v : Nat) : State := if c then rw s off mask v else noteAccessErr s off

/-- W1C bits with a VALID bit elsewhere that is cleared with one of them (R239, R334). -/
def w1cValid (s : State) (off mask v bitNo valid : Nat) : State :=
  let t := w1c s off mask v
  if bit v bitNo then setRegField t valid 31 31 0 else t

/-- A front-end register (R21, R334). -/
def writeFe (s : State) (off v : Nat) : State :=
  let off4 := bit (reg s offFeCtrl) 0
  let kring_ := bit (reg s offFeCtrl) 1
  match off with
  | 0x004 => rw s off 3 v
  | 0x008 => w1cValid s off 0xF v 1 offFeLoss
  | 0x010 => rwWhile (!off4) s off 0xFFFF0000 v
  | 0x014 => rwWhile (!off4) s off 0xFFF v
  | 0x018 => rwWhile (!off4) s off 0xFFFF0000 v
  | 0x01C => rwWhile (!off4) s off 0xFFF v
  | 0x020 => rw s off 0xFFFFF000 v
  | 0x024 => rw s off 0x7FFFFFFF v
  | 0x028 => rw s off 0xFFFFF000 v
  | 0x02C => rw s off 0xFFFFFFFF v
  | 0x030 => rwWhile (!kring_) s off 0x8000001F v
  | 0x034 => stateOf (execFeKringDoorbell (BitVec.ofNat 32 v) s) s
  | 0x040 => rw s off 0x1FFF v
  | 0x110 => w1c s off 0xE0 v
  | _ =>
    if 0x080 ≤ off && off < 0x0C0 then rw s off 0x80000FFF v
    else if 0x10000 ≤ off && off < 0x20000 then stateOf (execFeDoorbell ((off - 0x10000) / 8) (BitVec.ofNat 32 v) s) s
    else s

/-- A translation register (R262). LOG2_SIZE is written only while ENABLE is 0. -/
def writeTr (s : State) (off v : Nat) : State :=
  match off with
  | 0x100000 => rw s off 0xFFFFF000 v
  | 0x100004 => rw s off 0xFFFFFFFF v
  | 0x100008 =>
    if bit (reg s off) 31 then setReg s off ((v &&& 0xC0000000) + bits (reg s off) 4 0) else rw s off 0xC000001F v
  | 0x100010 => rw s off 0xFFFFFFFF v
  | 0x100014 => w1c s off 7 v
  | 0x100018 => rw s off 0xFFFFFFFF v
  | 0x10001C =>
    if v % 4 = 1 then stateOf (execFaultResume s) s else if v % 4 = 2 then stateOf (execFaultTerminate s) s else s
  | 0x100020 => rw s off 0x1FFF v
  | 0x100028 => rw s off 0xFFFF0000 v
  | 0x10002C => rw s off 0xFFFF v
  | 0x100030 => rw s off 0xFFFFFFFF v
  | 0x100034 =>
    if bit v 0 then acceptInv s (if bit (reg s offInvCtx) 12 then some (invRange s) else none) else s
  | 0x10003C => w1c s off 0x300 v
  | _ => s

/-- PT_ACC_CTRL: FILL, ARM and DISARM as one write sets them (R365). -/
def accCtrlWrite (s : State) (v : Nat) : State :=
  let s := if bit v 0 then accFill s else s
  let s := if bit v 1 then accArm true s else s
  if bit v 2 then accArm false s else s

/-- A partition register (R365). -/
def writePt (s : State) (off v : Nat) : State :=
  match off with
  | 0x200000 => rw s off 0xFFFFF000 v
  | 0x200004 => rw s off 0xFFF v
  | 0x200008 => accCtrlWrite s v
  | 0x20000C => w1c (s.withPart { s.part with fillErr := s.part.fillErr && !bit v 1 }) off 1 v
  | 0x200010 => stateOf (execPtPreempt (BitVec.ofNat 32 v) s) s
  | 0x200014 => w1c s off 3 v
  | _ => if 0x200100 ≤ off && off < 0x200200 && off % 16 = 8 then w1c s off 0xE v else s

/-- A register of clocks and power (R432, R459). RESUME acts only for the management controller (R424). -/
def writeCk (s : State) (off v : Nat) : State :=
  let w := BitVec.ofNat 32 v
  match off with
  | 0x300004 => w1c s off 0x1F v
  | 0x300020 => stateOf (execCkGateStack w s) s
  | 0x300024 => stateOf (execCkGateSr w s) s
  | 0x300028 => stateOf (execCkGatePort w s) s
  | 0x30002C => stateOf (execCkGateMisc w s) s
  | 0x308008 => stateOf (execResetCtrlWarm w s) s
  | 0x30800C => stateOf (execPartitionReset w s) s
  | 0x308010 => stateOf (execContextReset w s) s
  | 0x30801C => w1c s off 0x1FF v
  | _ => s

/-- The histograms of a mask are cleared (R468). -/
def clearHists (s : State) (mask : Nat) : State := s.withHist (s.hist.filter (fun e => !bit mask (e.1 / 16)))

/-- An observability register (R475). -/
def writeOb (s : State) (off v : Nat) : State :=
  let b := off - 0x400000
  let sel (o n : Nat) : Bool := decide (o < 4 * n)
  let cnt (o lo n : Nat) : Bool := decide (lo ≤ o) && decide (o < lo + 8 * n)
  let count (o : Nat) : State := rw s off (if o % 8 = 0 then 0xFFFFFFFF else 0xFFFF) v
  if b < 0x20000 then
    let o := b % 0x200
    if sel o 8 then rw s off 0xFFFF00FF v
    else if cnt o 0x40 8 || cnt o 0x100 32 then count o
    else if o = 0x80 then w1c s off 0xFFFF v
    else if o = 0x84 then rw s off 0xFFFFF v
    else s
  else if b < 0x21000 then
    let o := b % 0x100
    if sel o 8 then rw s off 0xFFFF00FF v
    else if cnt o 0x40 8 then count o
    else if o = 0x80 then w1c s off 0xFFFF v
    else s
  else if b < 0x21400 then
    let o := b % 0x200
    if sel o 16 then rw s off 0xFFFF00FF v
    else if cnt o 0x80 16 then count o
    else if o = 0x100 then w1c s off 0xFFFF v
    else s
  else if 0x22000 ≤ b && b < 0x22C00 then
    if b % 0x100 < 0x40 then count (b % 0x100) else s
  else if b = 0x31000 then rw s off 0xFFFFFFFF v
  else if b = 0x31004 then
    let s := rw s off 0x3FFF v
    if bit v 31 then clearHists s (regPair s 0x431000) else s
  else if b = 0x32000 then w1c s off 3 v
  else s

/-- A fabric register (R392). -/
def writeFb (s : State) (off v : Nat) : State :=
  let n := (off - 0x500000) / 0x20
  if off = offRingStatus then w1c s off 16 v
  else if off < 0x500200 then
    if off % 0x20 = 4 then
      let s := stateOf (if bit v 0 then execPortEnable n s else execPortDisable n s) s
      if bit v 1 then stateOf (execRetrain n s) s else s
    else if off % 0x20 = 8 then w1c s off 0xF v
    else s
  else s

/-- A memory-controller register (R208, R239). -/
def writeMcAt (s : State) (off b v : Nat) : State :=
  if b < 0x0C000 then
    if b % 0x1000 = 4 then w1cValid s off 0xF v 2 (off + 8)
    else if b % 0x1000 = 0x10 then rw s off 0x3F v
    else s
  else if b < 0x50000 then
    if b % 0x1000 = 4 then w1cValid s off 7 v 2 (off + 8) else s
  else if b < 0x8C000 then
    if b % 0x1000 = 8 then w1c s off 7 v else s
  else
    match b % 0x100 with
    | 0x04 =>
      let s := rw s off 2 v
      if bit v 0 then stateOf (execAtticFlush ((b - 0xC0000) / 0x100) s) s else s
    | 0x08 => rw s off 0xFFFFFF80 v
    | 0x0C => rw s off 0xFFF v
    | 0x10 => rw s off 0xFFFFFFFF v
    | 0x14 => w1c s off 7 v
    | _ => s

/-- A memory-controller register, by its offset. -/
def writeMc (s : State) (off v : Nat) : State := writeMcAt s off (off - 0x600000) v

/-- A mailbox register (R408). -/
def writeDm (s : State) (fn off v : Nat) : State :=
  if off < 0x110 then s.withDict { s.dict with mboxReq := putD 0 s.dict.mboxReq (fn * 128 + off / 4) (BitVec.ofNat 32 v) }
  else if off = 0x400 then (if bit v 0 then mailboxGo s fn else s)
  else if off = 0x404 then
    if fn = 0 then w1c s 0x700404 5 v
    else setVfReg s fn 0x2404 (vfReg s fn 0x2404 - (vfReg s fn 0x2404 &&& (v &&& 4)))
  else s

/-- One 32-bit register of the physical function is written (R12, R303). -/
def regWrite (s : State) (off v : Nat) : State :=
  if !regKnown s off || regGated s off then s
  else stateOf (pfWrite off s (.next (match blockOf off with
    | 0 => writeFe s off v
    | 1 => writeTr s off v
    | 2 => writePt s off v
    | 3 => writeCk s off v
    | 4 => writeOb s off v
    | 5 => writeFb s off v
    | 6 => writeMc s off v
    | _ => writeDm s 0 (off - 0x700000) v))) s

/-- The offset of a virtual function's BAR0 below its windows holds a register that is not reserved (R305, R335, R408). -/
def vfKnown (off : Nat) : Bool :=
  (decide (off < 0x200) && off % 8 == 0) || off == 0x1000 || (decide (0x1100 ≤ off) && decide (off < 0x1300)) ||
    (decide (0x1400 ≤ off) && decide (off < 0x143C)) || (decide (0x2000 ≤ off) && decide (off < 0x2110)) ||
    (decide (0x2200 ≤ off) && decide (off < 0x2320)) || off == 0x2400 || off == 0x2404

/-- The BAR0 block of a virtual function's offset: the mailbox counts as block 7, the rest as block 0. -/
def vfBlock (off : Nat) : Nat := if 0x2000 ≤ off then 7 else 0

/-- One 32-bit register of a virtual function is written (R335, R408). -/
def vfRegWrite (s : State) (fn off v : Nat) : State :=
  if !vfKnown off then s
  else if off < 0x200 then stateOf (execFeVfDoorbell fn (off / 8) (BitVec.ofNat 32 v) s) s
  else stateOf (vfWrite fn (vfBlock off) s (.next (
    if off = 0x1000 then setVfReg s fn off (vfReg s fn off - (vfReg s fn off &&& (v &&& 0xF)))
    else if 0x1400 ≤ off && off < 0x143C then setVfReg s fn off (v &&& 0x8FFFFFFF)
    else if 0x2000 ≤ off then writeDm s fn (off - 0x2000) v
    else s))) s

/-! The access rule (R412, R413). -/

/-- An access that breaks the rule sets ACCESS_ERR of the block of its lowest byte, unless the offset is reserved, the unit gated, or the
block takes no access. -/
def badAccess (s : State) (fn off : Nat) : State :=
  let o := off / 4 * 4
  if fn = 0 then
    if !regKnown s o || regGated s o || blockDrops s o || s.front.d3hot.contains 0 then s else noteAccessErr s o
  else if !vfKnown o || (if vfBlock o = 0 then feDrops s else regsDrop s) || s.front.d3hot.contains fn then s
  else orVfEvent s fn 8

/-- A register of a function. -/
def fnWrite (s : State) (fn off v : Nat) : State := if fn = 0 then regWrite s off v else vfRegWrite s fn off v

/-- One access of at most 8 bytes. -/
def writePiece (fn off width v : Nat) (s : State) : State :=
  if width = 4 && off % 4 = 0 then fnWrite s fn off (v % 2 ^ 32)
  else if width = 8 && off % 8 = 0 then fnWrite (fnWrite s fn off (v % 2 ^ 32)) fn (off + 4) (v / 2 ^ 32 % 2 ^ 32)
  else badAccess s fn off

/-- The pieces of an access: its first offset, width and value, in ascending order (R412). -/
def accessPieces (off width v : Nat) : List (Nat × Nat × Nat) :=
  (List.range (ceilDiv width 8)).map (fun i => (off + 8 * i, min 8 (width - 8 * i), v / 2 ^ (64 * i) % 2 ^ 64))

/-- REGISTER_WRITE: a host write of a function's BAR0 outside its windows acts by the access codes of the registers (R12, R412, R413). -/
def execRegisterWrite (fn off width value : Nat) (s : State) : Res :=
  if 64 ≤ fn || width = 0 || (if fn = 0 then 0x1000000 else 0x10000) < off + width then .refused (.notEnabled "REGISTER_WRITE")
  else .next ((accessPieces off width value).foldl (fun s p => writePiece fn p.1 p.2.1 p.2.2 s) s)

/-! Reads of registers with RC fields (R12, R413). -/

/-- The RC field of a register as the bytes that hold it: its first byte within the register and its width in bytes; the two halves of a
48-bit count are RC each (R208, R239, R365, R392, R475). -/
def rcBytes (off : Nat) : Option (Nat × Nat) :=
  let b := off % 0x100000
  match blockOf off with
  | 2 => if 0x100 ≤ b && b < 0x200 && b % 16 = 8 then some (2, 2) else none
  | 4 =>
    if 0x21000 ≤ b && b < 0x21400 && 0x108 ≤ b % 0x200 && b % 0x200 < 0x120 then some (if b % 8 = 0 then (0, 4) else (0, 2)) else none
  | 5 => if b < 0x200 && b % 0x20 = 8 then some (2, 2) else none
  | 6 =>
    if b < 0x0C000 then (if b % 0x1000 = 4 then some (2, 2) else none)
    else if 0x40000 ≤ b && b < 0x50000 then (if b % 0x1000 = 0 || b % 0x1000 = 4 then some (2, 2) else none)
    else if 0x80000 ≤ b && b < 0x8C000 then (if b % 0x1000 = 8 then some (2, 2) else none)
    else if 0xC0000 ≤ b && b % 0x100 = 0x14 then some (2, 2)
    else none
  | _ => none

/-- A read returned bytes lo to hi − 1 of a register: its RC field clears when it lies wholly within them. -/
def clearRc (s : State) (off lo hi : Nat) : State :=
  match rcBytes off with
  | some (b, n) => if lo ≤ b && b + n ≤ hi then setRegField s off (8 * (b + n) - 1) (8 * b) 0 else s
  | none => s

/-- One read of at most 8 bytes: what it returns, and the state after it (R412, R413). A block that takes no access, or that the access
table blocks (R342), reads zero. -/
def readPiece (s : State) (off width : Nat) : Nat × State :=
  if blockDrops s off || regGated s off then (0, s)
  else if !regsGranted s 0 (blockOf off) false then (0, noteAccessErr s off)
  else if width = 8 && off % 8 = 0 then
    (regValue s off + 2 ^ 32 * regValue s (off + 4), clearRc (clearRc s off 0 4) (off + 4) 0 4)
  else if (width = 1 || width = 2 || width = 4) && off % width = 0 then
    let o := off / 4 * 4
    (regValue s o / 256 ^ (off % 4) % 256 ^ width, clearRc s o (off % 4) (off % 4 + width))
  else (0, badAccess s 0 off)

/-- The pieces of a wide read, the later ones above the earlier ones. -/
def readAll : List (Nat × Nat × Nat) → State → Nat × State
  | [], s => (0, s)
  | p :: t, s =>
    let a := readPiece s p.1 p.2.1
    let b := readAll t a.2
    (a.1 + 2 ^ (8 * p.2.1) * b.1, b.2)

/-- A host read of the register at an offset, which returns its value to the host: `r.off` counts from the register for accesses of at most
4 bytes, and from the 8-byte unit that holds it for wider ones. In D3hot the function's registers are not read (R302). -/
def readRow (name : String) (ok : Bool) (off : Nat) (r : RegRead) (s : State) : Res :=
  let base := if 8 ≤ r.width then off / 8 * 8 else off
  if !ok || r.width = 0 || 8 ≤ r.off then .refused (.notEnabled name)
  else if s.front.d3hot.contains 0 then .next s
  else
    let v := readAll (accessPieces (base + r.off) r.width 0) s
    .next (emit v.2 (.barRead v.1))

/-- MC_CEL_ERR_READ (R208). -/
def execMcCelErrRead (stack : Nat) (r : RegRead) (s : State) : Res :=
  readRow "MC_CEL_ERR_READ" (decide (stack < 12)) (offCel stack + 8) r s

/-- MC_STK_ERR_READ (R239). -/
def execMcStkErrRead (stack : Nat) (r : RegRead) (s : State) : Res :=
  readRow "MC_STK_ERR_READ" (decide (stack < 12)) (offStk stack + 4) r s

/-- MC_SR_STATUS_READ (R239). -/
def execMcSrStatusRead (pkg : Nat) (r : RegRead) (s : State) : Res :=
  readRow "MC_SR_STATUS_READ" (decide (pkg < 16)) (offPkg pkg) r s

/-- MC_SR_ERR_READ (R239). -/
def execMcSrErrRead (pkg : Nat) (r : RegRead) (s : State) : Res :=
  readRow "MC_SR_ERR_READ" (decide (pkg < 16)) (offPkg pkg + 4) r s

/-- MC_ATC_ERR_READ (R239). -/
def execMcAtcErrRead (slice : Nat) (r : RegRead) (s : State) : Res :=
  readRow "MC_ATC_ERR_READ" (decide (slice < 16)) (offAtc slice + 0x14) r s

/-- FB_PORT_ERR_READ (R392). -/
def execFbPortErrRead (n : Nat) (r : RegRead) (s : State) : Res :=
  readRow "FB_PORT_ERR_READ" (decide (n < 16)) (offPortErr n) r s

/-- PT_POOL_EVENT_READ (R365). -/
def execPtPoolEventRead (p : Nat) (r : RegRead) (s : State) : Res :=
  readRow "PT_POOL_EVENT_READ" (decide (p < 16)) (offPool p + 8) r s

/-- OB_GUSTS_READ (R466, R475). -/
def execObGustsRead (die : Nat) (r : RegRead) (s : State) : Res :=
  readRow "OB_GUSTS_READ" (decide (die < 2)) (obDie die + 0x108) r s

/-- OB_HELD_READ (R466, R475). -/
def execObHeldRead (die : Nat) (r : RegRead) (s : State) : Res :=
  readRow "OB_HELD_READ" (decide (die < 2)) (obDie die + 0x110) r s

/-- OB_WAIT_NS_READ (R466, R475). -/
def execObWaitNsRead (die : Nat) (r : RegRead) (s : State) : Res :=
  readRow "OB_WAIT_NS_READ" (decide (die < 2)) (obDie die + 0x118) r s

end Sys2Proof.Machine
end

