-- ==== Sys2Proof/Machine/Observe.lean ====
section
/-!
DEFINITION. The commands of observability: the drain of a sampling buffer (R470) and the clearing of histograms (R468).
-/

namespace Sys2Proof.Machine

/-- SAMPLE_BUFFER_DRAIN: a core's buffer holds 64 records and is drained to its partition's ring (R470). -/
def execSampleBufferDrain (core : Nat) (s : State) : Res :=
  enabled (decide (64 ≤ (coreSt s core).samples.length)) "SAMPLE_BUFFER_DRAIN" (settleDue (drainSamples s core))

/-- HISTOGRAM_CLEAR: a write of OB_HIST_CTRL.CLEAR clears the histograms that MASK selects (R468, R475); the gated block drops it
(R420). -/
def execHistogramClear (s : State) : Res :=
  if !s.clock.gateOb then .next s else pfWrite 0x431004 s (.next (clearHists s (regPair s 0x431000)))

end Sys2Proof.Machine
end

