-- ==== Sys2Proof/Machine/Dispatch.lean ====
section
/-!
DEFINITION. What each command does: one arm per constructor of `Instr`, each one call of that command's meaning.
-/

namespace Sys2Proof.Machine

/-- The effect of a command on everything but the queue of commands. -/
def exec (i : Instr) (s : State) : Host.Outcome State Fault Refusal :=
  match i with
  | .tickBoundary => Sys2Proof.Machine.execTickBoundary s
  | .reservedWindowEnd q => Sys2Proof.Machine.execReservedWindowEnd q s
  | .deadlineCheckpoint q => Sys2Proof.Machine.execDeadlineCheckpoint q s
  | .rtAbortComplete q => Sys2Proof.Machine.execRtAbortComplete q s
  | .submissionComplete q => Sys2Proof.Machine.execSubmissionComplete q s
  | .hangDumpDone q => Sys2Proof.Machine.execHangDumpDone q s
  | .ringEdgeMissing => Sys2Proof.Machine.execRingEdgeMissing s
  | .dissue core slot w => Sys2Proof.Machine.execDissue core slot w s
  | .draughtActivate core => Sys2Proof.Machine.execDraughtActivate core s
  | .stationTileStart core d st => Sys2Proof.Machine.execStationTileStart core d st s
  | .stationTileDone core d st => Sys2Proof.Machine.execStationTileDone core d st s
  | .launch q => Sys2Proof.Machine.execLaunch q s
  | .groupResident core => Sys2Proof.Machine.execGroupResident core s
  | .groupPromote core => Sys2Proof.Machine.execGroupPromote core s
  | .pathRotation core slot => Sys2Proof.Machine.execPathRotation core slot s
  | .lintAdd core slot w => Sys2Proof.Machine.execLintAdd core slot w s
  | .lintSub core slot w => Sys2Proof.Machine.execLintSub core slot w s
  | .lintMul core slot w => Sys2Proof.Machine.execLintMul core slot w s
  | .lintMulh core slot w => Sys2Proof.Machine.execLintMulh core slot w s
  | .lintMad core slot w => Sys2Proof.Machine.execLintMad core slot w s
  | .lintDiv core slot w => Sys2Proof.Machine.execLintDiv core slot w s
  | .lintRem core slot w => Sys2Proof.Machine.execLintRem core slot w s
  | .lintAnd core slot w => Sys2Proof.Machine.execLintAnd core slot w s
  | .lintOr core slot w => Sys2Proof.Machine.execLintOr core slot w s
  | .lintXor core slot w => Sys2Proof.Machine.execLintXor core slot w s
  | .lintShl core slot w => Sys2Proof.Machine.execLintShl core slot w s
  | .lintShr core slot w => Sys2Proof.Machine.execLintShr core slot w s
  | .lintMin core slot w => Sys2Proof.Machine.execLintMin core slot w s
  | .lintMax core slot w => Sys2Proof.Machine.execLintMax core slot w s
  | .lintCmp core slot w => Sys2Proof.Machine.execLintCmp core slot w s
  | .lintSel core slot w => Sys2Proof.Machine.execLintSel core slot w s
  | .lintAddi core slot w => Sys2Proof.Machine.execLintAddi core slot w s
  | .lintClz core slot w => Sys2Proof.Machine.execLintClz core slot w s
  | .lintPopc core slot w => Sys2Proof.Machine.execLintPopc core slot w s
  | .lintMovs core slot w => Sys2Proof.Machine.execLintMovs core slot w s
  | .lintLaneid core slot w => Sys2Proof.Machine.execLintLaneid core slot w s
  | .lintShfl core slot w => Sys2Proof.Machine.execLintShfl core slot w s
  | .lintVote core slot w => Sys2Proof.Machine.execLintVote core slot w s
  | .fadd core slot w => Sys2Proof.Machine.execFadd core slot w s
  | .fsub core slot w => Sys2Proof.Machine.execFsub core slot w s
  | .fmul core slot w => Sys2Proof.Machine.execFmul core slot w s
  | .ffma core slot w => Sys2Proof.Machine.execFfma core slot w s
  | .fmin core slot w => Sys2Proof.Machine.execFmin core slot w s
  | .fmax core slot w => Sys2Proof.Machine.execFmax core slot w s
  | .fabs core slot w => Sys2Proof.Machine.execFabs core slot w s
  | .fneg core slot w => Sys2Proof.Machine.execFneg core slot w s
  | .fcmp core slot w => Sys2Proof.Machine.execFcmp core slot w s
  | .fdiv core slot w => Sys2Proof.Machine.execFdiv core slot w s
  | .fsqrt core slot w => Sys2Proof.Machine.execFsqrt core slot w s
  | .frcp core slot w => Sys2Proof.Machine.execFrcp core slot w s
  | .frsq core slot w => Sys2Proof.Machine.execFrsq core slot w s
  | .fexp2 core slot w => Sys2Proof.Machine.execFexp2 core slot w s
  | .flog2 core slot w => Sys2Proof.Machine.execFlog2 core slot w s
  | .fsin core slot w => Sys2Proof.Machine.execFsin core slot w s
  | .fcos core slot w => Sys2Proof.Machine.execFcos core slot w s
  | .fcvt core slot w => Sys2Proof.Machine.execFcvt core slot w s
  | .icvt core slot w => Sys2Proof.Machine.execIcvt core slot w s
  | .saluAdd core slot w => Sys2Proof.Machine.execSaluAdd core slot w s
  | .saluSub core slot w => Sys2Proof.Machine.execSaluSub core slot w s
  | .saluMul core slot w => Sys2Proof.Machine.execSaluMul core slot w s
  | .saluDiv core slot w => Sys2Proof.Machine.execSaluDiv core slot w s
  | .saluRem core slot w => Sys2Proof.Machine.execSaluRem core slot w s
  | .saluAnd core slot w => Sys2Proof.Machine.execSaluAnd core slot w s
  | .saluOr core slot w => Sys2Proof.Machine.execSaluOr core slot w s
  | .saluXor core slot w => Sys2Proof.Machine.execSaluXor core slot w s
  | .saluShl core slot w => Sys2Proof.Machine.execSaluShl core slot w s
  | .saluShr core slot w => Sys2Proof.Machine.execSaluShr core slot w s
  | .saluSar core slot w => Sys2Proof.Machine.execSaluSar core slot w s
  | .saluMin core slot w => Sys2Proof.Machine.execSaluMin core slot w s
  | .saluMax core slot w => Sys2Proof.Machine.execSaluMax core slot w s
  | .saluCmp core slot w => Sys2Proof.Machine.execSaluCmp core slot w s
  | .saluLi core slot w => Sys2Proof.Machine.execSaluLi core slot w s
  | .saluAddi core slot w => Sys2Proof.Machine.execSaluAddi core slot w s
  | .sread core slot w => Sys2Proof.Machine.execSread core slot w s
  | .xtos core slot w => Sys2Proof.Machine.execXtos core slot w s
  | .ldl core slot w => Sys2Proof.Machine.execLdl core slot w s
  | .stl core slot w => Sys2Proof.Machine.execStl core slot w s
  | .ldc core slot w => Sys2Proof.Machine.execLdc core slot w s
  | .stc core slot w => Sys2Proof.Machine.execStc core slot w s
  | .atl core slot w => Sys2Proof.Machine.execAtl core slot w s
  | .atc core slot w => Sys2Proof.Machine.execAtc core slot w s
  | .atr core slot w => Sys2Proof.Machine.execAtr core slot w s
  | .bz core slot w => Sys2Proof.Machine.execBz core slot w s
  | .bnz core slot w => Sys2Proof.Machine.execBnz core slot w s
  | .bsz core slot w => Sys2Proof.Machine.execBsz core slot w s
  | .bsnz core slot w => Sys2Proof.Machine.execBsnz core slot w s
  | .jmp core slot w => Sys2Proof.Machine.execJmp core slot w s
  | .call core slot w => Sys2Proof.Machine.execCall core slot w s
  | .jr core slot w => Sys2Proof.Machine.execJr core slot w s
  | .exit core slot w => Sys2Proof.Machine.execExit core slot w s
  | .cwait core slot w => Sys2Proof.Machine.execCwait core slot w s
  | .rcwait core slot w => Sys2Proof.Machine.execRcwait core slot w s
  | .cset core slot w => Sys2Proof.Machine.execCset core slot w s
  | .cadd core slot w => Sys2Proof.Machine.execCadd core slot w s
  | .cread core slot w => Sys2Proof.Machine.execCread core slot w s
  | .bar core slot w => Sys2Proof.Machine.execBar core slot w s
  | .fence core slot w => Sys2Proof.Machine.execFence core slot w s
  | .yield core slot w => Sys2Proof.Machine.execYield core slot w s
  | .icinv core slot w => Sys2Proof.Machine.execIcinv core slot w s
  | .dcinv core slot w => Sys2Proof.Machine.execDcinv core slot w s
  | .prog core slot w => Sys2Proof.Machine.execProg core slot w s
  | .acopy core slot w => Sys2Proof.Machine.execAcopy core slot w s
  | .acopyStart core => Sys2Proof.Machine.execAcopyStart core s
  | .acopyComplete core n => Sys2Proof.Machine.execAcopyComplete core n s
  | .dbell core slot w => Sys2Proof.Machine.execDbell core slot w s
  | .dbellPost core slot => Sys2Proof.Machine.execDbellPost core slot s
  | .storeBufferDrain core n => Sys2Proof.Machine.execStoreBufferDrain core n s
  | .cacheSectorArrival core icache n => Sys2Proof.Machine.execCacheSectorArrival core icache n s
  | .remoteCounterFetched ctx n => Sys2Proof.Machine.execRemoteCounterFetched ctx n s
  | .coreClockGate core => Sys2Proof.Machine.execCoreClockGate core s
  | .wakeWindow die => Sys2Proof.Machine.execWakeWindow die s
  | .mload core slot w => Sys2Proof.Machine.execMload core slot w s
  | .mrun core slot w => Sys2Proof.Machine.execMrun core slot w s
  | .mdrain core slot w => Sys2Proof.Machine.execMdrain core slot w s
  | .mclr core slot w => Sys2Proof.Machine.execMclr core slot w s
  | .mtf core slot w => Sys2Proof.Machine.execMtf core slot w s
  | .mreq core slot w => Sys2Proof.Machine.execMreq core slot w s
  | .mflush core slot w => Sys2Proof.Machine.execMflush core slot w s
  | .mbcfg core slot w => Sys2Proof.Machine.execMbcfg core slot w s
  | .mfence core slot w => Sys2Proof.Machine.execMfence core slot w s
  | .mstat core slot w => Sys2Proof.Machine.execMstat core slot w s
  | .batchWindowExpire core n => Sys2Proof.Machine.execBatchWindowExpire core n s
  | .loadPathStart core => Sys2Proof.Machine.execLoadPathStart core s
  | .groupLoadDone core => Sys2Proof.Machine.execGroupLoadDone core s
  | .runPathStart core => Sys2Proof.Machine.execRunPathStart core s
  | .groupPassesDone core => Sys2Proof.Machine.execGroupPassesDone core s
  | .runDone core err => Sys2Proof.Machine.execRunDone core err s
  | .drainDone core err => Sys2Proof.Machine.execDrainDone core err s
  | .vld core slot w => Sys2Proof.Machine.execVld core slot w s
  | .vst core slot w => Sys2Proof.Machine.execVst core slot w s
  | .vadd core slot w => Sys2Proof.Machine.execVadd core slot w s
  | .vsub core slot w => Sys2Proof.Machine.execVsub core slot w s
  | .vmul core slot w => Sys2Proof.Machine.execVmul core slot w s
  | .vfma core slot w => Sys2Proof.Machine.execVfma core slot w s
  | .vmin core slot w => Sys2Proof.Machine.execVmin core slot w s
  | .vmax core slot w => Sys2Proof.Machine.execVmax core slot w s
  | .vdiv core slot w => Sys2Proof.Machine.execVdiv core slot w s
  | .vsqrt core slot w => Sys2Proof.Machine.execVsqrt core slot w s
  | .vfn core slot w => Sys2Proof.Machine.execVfn core slot w s
  | .vcmp core slot w => Sys2Proof.Machine.execVcmp core slot w s
  | .vsel core slot w => Sys2Proof.Machine.execVsel core slot w s
  | .vcvt core slot w => Sys2Proof.Machine.execVcvt core slot w s
  | .vlogic core slot w => Sys2Proof.Machine.execVlogic core slot w s
  | .vshift core slot w => Sys2Proof.Machine.execVshift core slot w s
  | .vbcst core slot w => Sys2Proof.Machine.execVbcst core slot w s
  | .vred core slot w => Sys2Proof.Machine.execVred core slot w s
  | .vperm core slot w => Sys2Proof.Machine.execVperm core slot w s
  | .vmask core slot w => Sys2Proof.Machine.execVmask core slot w s
  | .viota core slot w => Sys2Proof.Machine.execViota core slot w s
  | .vprog core slot w => Sys2Proof.Machine.execVprog core slot w s
  | .vfence core slot w => Sys2Proof.Machine.execVfence core slot w s
  | .vectorExecute core err => Sys2Proof.Machine.execVectorExecute core err s
  | .vectorComplete core => Sys2Proof.Machine.execVectorComplete core s
  | .elementProgramRead core ctx h => Sys2Proof.Machine.execElementProgramRead core ctx h s
  | .cellarCommandEnqueue stack => Sys2Proof.Machine.execCellarCommandEnqueue stack s
  | .matvec stack => Sys2Proof.Machine.execMatvec stack s
  | .decode stack => Sys2Proof.Machine.execDecode stack s
  | .kvpack stack => Sys2Proof.Machine.execKvpack stack s
  | .gather stack => Sys2Proof.Machine.execGather stack s
  | .scatter stack => Sys2Proof.Machine.execScatter stack s
  | .cellarFill stack => Sys2Proof.Machine.execCellarFill stack s
  | .cellarCopy stack => Sys2Proof.Machine.execCellarCopy stack s
  | .cellarReduce stack => Sys2Proof.Machine.execCellarReduce stack s
  | .cbload stack => Sys2Proof.Machine.execCbload stack s
  | .cbarm stack => Sys2Proof.Machine.execCbarm stack s
  | .cellarCommandComplete stack unit err => Sys2Proof.Machine.execCellarCommandComplete stack unit err s
  | .codebookFillDone stack err => Sys2Proof.Machine.execCodebookFillDone stack err s
  | .stackAccess stack req ecc => Sys2Proof.Machine.execStackAccess stack req ecc s
  | .reorderEntryAged stack channel tag => Sys2Proof.Machine.execReorderEntryAged stack channel tag s
  | .scrubRead stack ecc => Sys2Proof.Machine.execScrubRead stack ecc s
  | .stackTempReadout stack temp => Sys2Proof.Machine.execStackTempReadout stack temp s
  | .atticAccess slice err => Sys2Proof.Machine.execAtticAccess slice err s
  | .atticFlush slice => Sys2Proof.Machine.execAtticFlush slice s
  | .atticFlushDone p => Sys2Proof.Machine.execAtticFlushDone p s
  | .storeRoomAccess req out => Sys2Proof.Machine.execStoreRoomAccess req out s
  | .pageMoveStart p => Sys2Proof.Machine.execPageMoveStart p s
  | .pageMoveDone p n => Sys2Proof.Machine.execPageMoveDone p n s
  | .walkStart die => Sys2Proof.Machine.execWalkStart die s
  | .walkComplete die n => Sys2Proof.Machine.execWalkComplete die n s
  | .faultRecordWrite => Sys2Proof.Machine.execFaultRecordWrite s
  | .faultResume => Sys2Proof.Machine.execFaultResume s
  | .faultTerminate => Sys2Proof.Machine.execFaultTerminate s
  | .faultTimeout token => Sys2Proof.Machine.execFaultTimeout token s
  | .invalidateByTag => Sys2Proof.Machine.execInvalidateByTag s
  | .invalidateByRange => Sys2Proof.Machine.execInvalidateByRange s
  | .invalidationDrainDone => Sys2Proof.Machine.execInvalidationDrainDone s
  | .feDoorbell q w => Sys2Proof.Machine.execFeDoorbell q w s
  | .feVfDoorbell fn k w => Sys2Proof.Machine.execFeVfDoorbell fn k w s
  | .feKringDoorbell w => Sys2Proof.Machine.execFeKringDoorbell w s
  | .queueSlotLoad => Sys2Proof.Machine.execQueueSlotLoad s
  | .ringEntryFetch q ecc => Sys2Proof.Machine.execRingEntryFetch q ecc s
  | .commandBufferFetch q fallback ecc => Sys2Proof.Machine.execCommandBufferFetch q fallback ecc s
  | .fenceWaitPoll => Sys2Proof.Machine.execFenceWaitPoll s
  | .contextSlotLoad ctx => Sys2Proof.Machine.execContextSlotLoad ctx s
  | .nop q => Sys2Proof.Machine.execNop q s
  | .fenceWait q => Sys2Proof.Machine.execFenceWait q s
  | .draught q => Sys2Proof.Machine.execDraught q s
  | .copy q => Sys2Proof.Machine.execCopy q s
  | .fill q => Sys2Proof.Machine.execFill q s
  | .copyEnginePieceDone => Sys2Proof.Machine.execCopyEnginePieceDone s
  | .invRange q => Sys2Proof.Machine.execInvRange q s
  | .handleArm q => Sys2Proof.Machine.execHandleArm q s
  | .ctxCreate q => Sys2Proof.Machine.execCtxCreate q s
  | .ctxDestroy q => Sys2Proof.Machine.execCtxDestroy q s
  | .queueCreate q => Sys2Proof.Machine.execQueueCreate q s
  | .queueDestroy q => Sys2Proof.Machine.execQueueDestroy q s
  | .move q => Sys2Proof.Machine.execMove q s
  | .invTag q => Sys2Proof.Machine.execInvTag q s
  | .bar2Access off acc => Sys2Proof.Machine.execBar2Access off acc s
  | .contextWindowAccess fn off acc => Sys2Proof.Machine.execContextWindowAccess fn off acc s
  | .configRequest fn => Sys2Proof.Machine.execConfigRequest fn s
  | .d3hotEntry fn => Sys2Proof.Machine.execD3hotEntry fn s
  | .d0Return fn => Sys2Proof.Machine.execD0Return fn s
  | .vfFlr fn => Sys2Proof.Machine.execVfFlr fn s
  | .pfFlr => Sys2Proof.Machine.execPfFlr s
  | .ptAccFill => Sys2Proof.Machine.execPtAccFill s
  | .ptAccArm => Sys2Proof.Machine.execPtAccArm s
  | .ptAccDisarm => Sys2Proof.Machine.execPtAccDisarm s
  | .accessTableFillDone ecc => Sys2Proof.Machine.execAccessTableFillDone ecc s
  | .ptPreempt value => Sys2Proof.Machine.execPtPreempt value s
  | .preemptSaveDone ctx => Sys2Proof.Machine.execPreemptSaveDone ctx s
  | .restoreDone ctx => Sys2Proof.Machine.execRestoreDone ctx s
  | .portEnable n => Sys2Proof.Machine.execPortEnable n s
  | .portDisable n => Sys2Proof.Machine.execPortDisable n s
  | .retrain n => Sys2Proof.Machine.execRetrain n s
  | .portTrainingDone n ok => Sys2Proof.Machine.execPortTrainingDone n ok s
  | .portAutoRetrain n within1s => Sys2Proof.Machine.execPortAutoRetrain n within1s s
  | .write n p => Sys2Proof.Machine.execWrite n p s
  | .read n p => Sys2Proof.Machine.execRead n p s
  | .atomic n p => Sys2Proof.Machine.execAtomic n p s
  | .ack n p => Sys2Proof.Machine.execAck n p s
  | .data n p => Sys2Proof.Machine.execData n p s
  | .result n p => Sys2Proof.Machine.execResult n p s
  | .nack n p => Sys2Proof.Machine.execNack n p s
  | .credit n p => Sys2Proof.Machine.execCredit n p s
  | .retry n p => Sys2Proof.Machine.execRetry n p s
  | .init n p => Sys2Proof.Machine.execInit n p s
  | .tickSymbol t16 => Sys2Proof.Machine.execTickSymbol t16 s
  | .tickInfo f => Sys2Proof.Machine.execTickInfo f s
  | .normal f => Sys2Proof.Machine.execNormal f s
  | .census f => Sys2Proof.Machine.execCensus f s
  | .survey f => Sys2Proof.Machine.execSurvey f s
  | .surveyHopDone hop16 => Sys2Proof.Machine.execSurveyHopDone hop16 s
  | .censusDue => Sys2Proof.Machine.execCensusDue s
  | .mgmtCellTimeout src seq => Sys2Proof.Machine.execMgmtCellTimeout src seq s
  | .dictRead t req => Sys2Proof.Machine.execDictRead t req s
  | .dictWrite t req => Sys2Proof.Machine.execDictWrite t req s
  | .readSet t req => Sys2Proof.Machine.execReadSet t req s
  | .describe t req => Sys2Proof.Machine.execDescribe t req s
  | .setEndpointId b m => Sys2Proof.Machine.execSetEndpointId b m s
  | .getEndpointId b m => Sys2Proof.Machine.execGetEndpointId b m s
  | .getMctpVersionSupport b m => Sys2Proof.Machine.execGetMctpVersionSupport b m s
  | .getMessageTypeSupport b m => Sys2Proof.Machine.execGetMessageTypeSupport b m s
  | .getVendorDefinedMsgSupport b m => Sys2Proof.Machine.execGetVendorDefinedMsgSupport b m s
  | .entdaa addr => Sys2Proof.Machine.execEntdaa addr s
  | .calendarEnd => Sys2Proof.Machine.execCalendarEnd s
  | .monitorWindowEnd count => Sys2Proof.Machine.execMonitorWindowEnd count s
  | .pllUnlock => Sys2Proof.Machine.execPllUnlock s
  | .oscFail => Sys2Proof.Machine.execOscFail s
  | .oscillatorStable => Sys2Proof.Machine.execOscillatorStable s
  | .referenceStable => Sys2Proof.Machine.execReferenceStable s
  | .pllLocked pll => Sys2Proof.Machine.execPllLocked pll s
  | .resume value => Sys2Proof.Machine.execResume value s
  | .ckGateStack value => Sys2Proof.Machine.execCkGateStack value s
  | .ckGateSr value => Sys2Proof.Machine.execCkGateSr value s
  | .ckGatePort value => Sys2Proof.Machine.execCkGatePort value s
  | .ckGateMisc value => Sys2Proof.Machine.execCkGateMisc value s
  | .powerApplied => Sys2Proof.Machine.execPowerApplied s
  | .inputFault => Sys2Proof.Machine.execInputFault s
  | .inputRestored => Sys2Proof.Machine.execInputRestored s
  | .railPowerGood => Sys2Proof.Machine.execRailPowerGood s
  | .railTimeout => Sys2Proof.Machine.execRailTimeout s
  | .railRetry => Sys2Proof.Machine.execRailRetry s
  | .railSample m => Sys2Proof.Machine.execRailSample m s
  | .junctionSample die temp sustained => Sys2Proof.Machine.execJunctionSample die temp sustained s
  | .tripRestartDelay => Sys2Proof.Machine.execTripRestartDelay s
  | .modReset => Sys2Proof.Machine.execModReset s
  | .modResetRelease => Sys2Proof.Machine.execModResetRelease s
  | .perstAssert => Sys2Proof.Machine.execPerstAssert s
  | .perstDeassert => Sys2Proof.Machine.execPerstDeassert s
  | .flEn asserted => Sys2Proof.Machine.execFlEn asserted s
  | .resetCtrlWarm value => Sys2Proof.Machine.execResetCtrlWarm value s
  | .quiesceDone => Sys2Proof.Machine.execQuiesceDone s
  | .partitionReset value => Sys2Proof.Machine.execPartitionReset value s
  | .partitionResetDone => Sys2Proof.Machine.execPartitionResetDone s
  | .contextReset value => Sys2Proof.Machine.execContextReset value s
  | .fuseLoadDone f => Sys2Proof.Machine.execFuseLoadDone f s
  | .imageVerifyDone img => Sys2Proof.Machine.execImageVerifyDone img s
  | .stackTrained stack ok => Sys2Proof.Machine.execStackTrained stack ok s
  | .srPackageTrained pkg ok => Sys2Proof.Machine.execSrPackageTrained pkg ok s
  | .invalidateDone => Sys2Proof.Machine.execInvalidateDone s
  | .dictionaryOnline => Sys2Proof.Machine.execDictionaryOnline s
  | .ringJoinTimeout => Sys2Proof.Machine.execRingJoinTimeout s
  | .sampleBufferDrain core => Sys2Proof.Machine.execSampleBufferDrain core s
  | .histogramClear => Sys2Proof.Machine.execHistogramClear s
  | .mcCelErrRead stack r => Sys2Proof.Machine.execMcCelErrRead stack r s
  | .mcStkErrRead stack r => Sys2Proof.Machine.execMcStkErrRead stack r s
  | .mcSrStatusRead pkg r => Sys2Proof.Machine.execMcSrStatusRead pkg r s
  | .mcSrErrRead pkg r => Sys2Proof.Machine.execMcSrErrRead pkg r s
  | .mcAtcErrRead slice r => Sys2Proof.Machine.execMcAtcErrRead slice r s
  | .fbPortErrRead n r => Sys2Proof.Machine.execFbPortErrRead n r s
  | .ptPoolEventRead p r => Sys2Proof.Machine.execPtPoolEventRead p r s
  | .obGustsRead die r => Sys2Proof.Machine.execObGustsRead die r s
  | .obHeldRead die r => Sys2Proof.Machine.execObHeldRead die r s
  | .obWaitNsRead die r => Sys2Proof.Machine.execObWaitNsRead die r s
  | .registerWrite fn off width value => Sys2Proof.Machine.execRegisterWrite fn off width value s
  | .bypass => Sys2Proof.Machine.execBypass s
  | .idcode => Sys2Proof.Machine.execIdcode s
  | .samplePreload => Sys2Proof.Machine.execSamplePreload s
  | .extest => Sys2Proof.Machine.execExtest s
  | .stackLinkError stack cleared => Sys2Proof.Machine.execStackLinkError stack cleared s
  | .packetDrop n why => Sys2Proof.Machine.execPacketDrop n why s
  | .surveyEcho => Sys2Proof.Machine.execSurveyEcho s

end Sys2Proof.Machine
end

