-- ==== Sys2Proof/Machine/Step.lean ====
section
/-!
DEFINITION. One step of the block: the command at the front of the queue, or one control cycle when none waits.
-/

namespace Sys2Proof.Machine

/-- One step: the first waiting command acts on the state with the rest of the queue; with an empty queue the block
idles for one control cycle (log entry 7). -/
def step (s : State) : Host.Outcome State Fault Refusal :=
  match s.pending with
  | [] => .next (Sys2Proof.Machine.idleCycle s)
  | c :: rest => Sys2Proof.Machine.exec c (s.withPending rest)

/-- The state with the command that a word of the table spells put at the front of the queue; no row of the table
gives bits, so no word spells one. -/
def State.withFetchWord (s : State) (nbits w : Nat) : State :=
  match Sys2Proof.decodeTableWord nbits w with
  | some c => s.withPending (c :: s.pending)
  | none => s

end Sys2Proof.Machine
end

