-- ==== Sys2Proof/WellFormed.lean ====
section
/-!
DEFINITION. Which commands are well formed: every operand within the numbering and the field widths that the spec gives it.
A command that is not well formed names a unit, a field value or a transfer that the module does not have.
-/

namespace Sys2Proof

/-- Logical cores run from 0 to N − 1, N at most 144 (R3, R10). -/
def okCore (core : Nat) : Bool := decide (core < 144)

/-- A core has 64 group slots (R124). -/
def okSlot (slot : Nat) : Bool := decide (slot < 64)

/-- Queue numbers, and 8,192 for the kernel ring (R309, R316). -/
def okQueue (q : Nat) : Bool := decide (q ≤ 8192)

/-- Context identifiers have 12 bits (R309). -/
def okCtx (ctx : Nat) : Bool := decide (ctx < 4096)

/-- Dies, stacks, store-room packages, attic slices (one per device cluster) and fabric ports (R9, R225). -/
def okDie (die : Nat) : Bool := decide (die < 2)
def okStack (stack : Nat) : Bool := decide (stack < 12)
def okPkg (pkg : Nat) : Bool := decide (pkg < 16)
def okSlice (slice : Nat) : Bool := decide (slice < 16)
def okPort (n : Nat) : Bool := decide (n < 16)

/-- Partitions 0 to 15 (R337). -/
def okPart (p : Nat) : Bool := decide (p < 16)

/-- Function 0, and virtual functions 1 to 63 (R300). -/
def okFn (fn : Nat) : Bool := decide (fn < 64)

/-- A draught has at most 8 stations (R45); draughts are numbered in order of issue, without a bound. -/
def okStation (st : Nat) : Bool := decide (st < 8)

/-- A stack has 64 pseudo-channels (R214). -/
def okChannel (channel : Nat) : Bool := decide (channel < 64)

/-- Remote arrival counters 0 to 1,023 of a context (R149). -/
def okRemote (n : Nat) : Bool := decide (n < 1024)

/-- The doorbells of a virtual function, 64 (R305). -/
def okVfDoorbell (k : Nat) : Bool := decide (k < 64)

/-- BAR2 spans 64 GiB (R304). -/
def okBar2 (off : Nat) : Bool := decide (off < 2 ^ 36)

/-- Ring positions 0 to 63, and the 6-bit number of a management message (R388). -/
def okPosition (src : Nat) : Bool := decide (src < 64)
def okCellSeq (seq : Nat) : Bool := decide (seq < 64)

/-- A dynamic I3C address has 7 bits (R409). -/
def okI3c (addr : Nat) : Bool := decide (addr < 128)

/-- Register accesses of the host: 1 to 8 bytes, within the 16 MiB of BAR0 (R303, R412). -/
def okOffset (off : Nat) : Bool := decide (off < 0x1000000)
def okWidth (width : Nat) : Bool := decide (1 ≤ width) && decide (width ≤ 8)
def okValue (width value : Nat) : Bool := decide (value < 2 ^ (8 * width))

/-- A read of a register with RC fields: an aligned unit of the register or of its 64-bit pair (R412). -/
def okRegRead (r : RegRead) : Bool :=
  (r.width == 1 || r.width == 2 || r.width == 4 || r.width == 8) && decide (r.off < 8) && r.off % r.width == 0

/-- A request to a memory controller: bytes below 2^41, with data as long as the write (R213, R217). -/
def okReq (r : MemReq) : Bool :=
  decide (1 ≤ r.len) && decide (r.pa + r.len ≤ 2 ^ 41) && (!r.write || r.data.length == r.len)

/-- A host access of at least one byte, with data as long as the write (R304, R306). -/
def okAccess (a : HostAccess) : Bool := decide (1 ≤ a.len) && (!a.write || a.data.length == a.len)

/-- The header fields of a packet in their widths, and the payload as long as LENGTH says (R369). -/
def okPacket (p : Packet) : Bool :=
  decide (p.type < 2 ^ 8) && decide (p.vc < 2 ^ 8) && decide (p.len ≤ 4096) && p.payload.length == p.len &&
    decide (p.seq < 2 ^ 16) && decide (p.src < 2 ^ 8) && decide (p.aop < 2 ^ 8) && decide (p.ctx < 2 ^ 16) &&
    decide (p.counter < 2 ^ 16) && decide (p.tag < 2 ^ 32) && decide (p.addr < 2 ^ 64) && decide (p.arg < 2 ^ 32)

/-- The fields of a ring frame in their widths, with a cell of 8 bytes (R379). -/
def okFrame (f : Frame) : Bool :=
  decide (f.origin < 2 ^ 8) && decide (f.tickLo < 2 ^ 16) && decide (f.arrive < 2 ^ 64) && f.mgmt.length == 8 &&
    decide (f.aux < 2 ^ 64)

/-- The PLLs of R415. -/
def okPll : Pll → Bool
  | .root => true
  | .pcie => true
  | .stack s => okStack s
  | .storeRoom p => okPkg p
  | .fabric g => decide (g < 4)

/-- Fuses of a grade: 7, 8 or 9 enabled cores among the 10 of every cluster, and the serial number of 16 bytes (R2, R3). -/
def okFuses (f : Fuses) : Bool :=
  (f.cores == 112 || f.cores == 128 || f.cores == 144) && decide (f.enable < 2 ^ 160) &&
    (List.range 16).all (fun c => (List.range 10).countP (fun k => f.enable.testBit (10 * c + k)) == f.cores / 16) && f.serial.length == 16

/-- A requester of the dictionary (R408 to R410). -/
def okTransport : Transport → Bool
  | .mailbox fn => okFn fn
  | .mctpPcie eid tag => decide (eid < 256) && decide (tag < 8)
  | .mctpI3c eid tag => decide (eid < 256) && decide (tag < 8)
  | .ring src => okPosition src

/-- An MCTP control request: an endpoint of 8 bits and a tag of 3 (R409). -/
def okMctp (m : MctpRequest) : Bool := decide (m.src < 256) && decide (m.tag < 8)

/-- A sample of the power stages: a charge for each of 16 partitions (R438). -/
def okSample (m : RailSample) : Bool := m.charges.length == 16

/-- An image header: MAGIC, VERSION and LENGTH of 32 bits, and a mask of 16 ports (R452, R488). -/
def okImage : Option ImageHeader → Bool
  | none => true
  | some h => decide (h.magic < 2 ^ 32) && decide (h.version < 2 ^ 32) && decide (h.length < 2 ^ 32) && decide (h.ports < 2 ^ 16)

/-- A command whose operands are within the numbering and the widths of the spec. -/
def Instr.wf (i : Instr) : Bool :=
  match i with
  | .tickBoundary => true
  | .reservedWindowEnd q => okQueue q
  | .deadlineCheckpoint q => okQueue q
  | .rtAbortComplete q => okQueue q
  | .submissionComplete q => okQueue q
  | .hangDumpDone q => okQueue q
  | .ringEdgeMissing => true
  | .dissue core slot _ => okCore core && okSlot slot
  | .draughtActivate core => okCore core
  | .stationTileStart core _ st => okCore core && okStation st
  | .stationTileDone core _ st => okCore core && okStation st
  | .launch q => okQueue q
  | .groupResident core => okCore core
  | .groupPromote core => okCore core
  | .pathRotation core slot => okCore core && okSlot slot
  | .lintAdd core slot _ => okCore core && okSlot slot
  | .lintSub core slot _ => okCore core && okSlot slot
  | .lintMul core slot _ => okCore core && okSlot slot
  | .lintMulh core slot _ => okCore core && okSlot slot
  | .lintMad core slot _ => okCore core && okSlot slot
  | .lintDiv core slot _ => okCore core && okSlot slot
  | .lintRem core slot _ => okCore core && okSlot slot
  | .lintAnd core slot _ => okCore core && okSlot slot
  | .lintOr core slot _ => okCore core && okSlot slot
  | .lintXor core slot _ => okCore core && okSlot slot
  | .lintShl core slot _ => okCore core && okSlot slot
  | .lintShr core slot _ => okCore core && okSlot slot
  | .lintMin core slot _ => okCore core && okSlot slot
  | .lintMax core slot _ => okCore core && okSlot slot
  | .lintCmp core slot _ => okCore core && okSlot slot
  | .lintSel core slot _ => okCore core && okSlot slot
  | .lintAddi core slot _ => okCore core && okSlot slot
  | .lintClz core slot _ => okCore core && okSlot slot
  | .lintPopc core slot _ => okCore core && okSlot slot
  | .lintMovs core slot _ => okCore core && okSlot slot
  | .lintLaneid core slot _ => okCore core && okSlot slot
  | .lintShfl core slot _ => okCore core && okSlot slot
  | .lintVote core slot _ => okCore core && okSlot slot
  | .fadd core slot _ => okCore core && okSlot slot
  | .fsub core slot _ => okCore core && okSlot slot
  | .fmul core slot _ => okCore core && okSlot slot
  | .ffma core slot _ => okCore core && okSlot slot
  | .fmin core slot _ => okCore core && okSlot slot
  | .fmax core slot _ => okCore core && okSlot slot
  | .fabs core slot _ => okCore core && okSlot slot
  | .fneg core slot _ => okCore core && okSlot slot
  | .fcmp core slot _ => okCore core && okSlot slot
  | .fdiv core slot _ => okCore core && okSlot slot
  | .fsqrt core slot _ => okCore core && okSlot slot
  | .frcp core slot _ => okCore core && okSlot slot
  | .frsq core slot _ => okCore core && okSlot slot
  | .fexp2 core slot _ => okCore core && okSlot slot
  | .flog2 core slot _ => okCore core && okSlot slot
  | .fsin core slot _ => okCore core && okSlot slot
  | .fcos core slot _ => okCore core && okSlot slot
  | .fcvt core slot _ => okCore core && okSlot slot
  | .icvt core slot _ => okCore core && okSlot slot
  | .saluAdd core slot _ => okCore core && okSlot slot
  | .saluSub core slot _ => okCore core && okSlot slot
  | .saluMul core slot _ => okCore core && okSlot slot
  | .saluDiv core slot _ => okCore core && okSlot slot
  | .saluRem core slot _ => okCore core && okSlot slot
  | .saluAnd core slot _ => okCore core && okSlot slot
  | .saluOr core slot _ => okCore core && okSlot slot
  | .saluXor core slot _ => okCore core && okSlot slot
  | .saluShl core slot _ => okCore core && okSlot slot
  | .saluShr core slot _ => okCore core && okSlot slot
  | .saluSar core slot _ => okCore core && okSlot slot
  | .saluMin core slot _ => okCore core && okSlot slot
  | .saluMax core slot _ => okCore core && okSlot slot
  | .saluCmp core slot _ => okCore core && okSlot slot
  | .saluLi core slot _ => okCore core && okSlot slot
  | .saluAddi core slot _ => okCore core && okSlot slot
  | .sread core slot _ => okCore core && okSlot slot
  | .xtos core slot _ => okCore core && okSlot slot
  | .ldl core slot _ => okCore core && okSlot slot
  | .stl core slot _ => okCore core && okSlot slot
  | .ldc core slot _ => okCore core && okSlot slot
  | .stc core slot _ => okCore core && okSlot slot
  | .atl core slot _ => okCore core && okSlot slot
  | .atc core slot _ => okCore core && okSlot slot
  | .atr core slot _ => okCore core && okSlot slot
  | .bz core slot _ => okCore core && okSlot slot
  | .bnz core slot _ => okCore core && okSlot slot
  | .bsz core slot _ => okCore core && okSlot slot
  | .bsnz core slot _ => okCore core && okSlot slot
  | .jmp core slot _ => okCore core && okSlot slot
  | .call core slot _ => okCore core && okSlot slot
  | .jr core slot _ => okCore core && okSlot slot
  | .exit core slot _ => okCore core && okSlot slot
  | .cwait core slot _ => okCore core && okSlot slot
  | .rcwait core slot _ => okCore core && okSlot slot
  | .cset core slot _ => okCore core && okSlot slot
  | .cadd core slot _ => okCore core && okSlot slot
  | .cread core slot _ => okCore core && okSlot slot
  | .bar core slot _ => okCore core && okSlot slot
  | .fence core slot _ => okCore core && okSlot slot
  | .yield core slot _ => okCore core && okSlot slot
  | .icinv core slot _ => okCore core && okSlot slot
  | .dcinv core slot _ => okCore core && okSlot slot
  | .prog core slot _ => okCore core && okSlot slot
  | .acopy core slot _ => okCore core && okSlot slot
  | .acopyStart core => okCore core
  | .acopyComplete core _ => okCore core
  | .dbell core slot _ => okCore core && okSlot slot
  | .dbellPost core slot => okCore core && okSlot slot
  | .storeBufferDrain core _ => okCore core
  | .cacheSectorArrival core _ _ => okCore core
  | .remoteCounterFetched ctx n => okCtx ctx && okRemote n
  | .coreClockGate core => okCore core
  | .wakeWindow die => okDie die
  | .mload core slot _ => okCore core && okSlot slot
  | .mrun core slot _ => okCore core && okSlot slot
  | .mdrain core slot _ => okCore core && okSlot slot
  | .mclr core slot _ => okCore core && okSlot slot
  | .mtf core slot _ => okCore core && okSlot slot
  | .mreq core slot _ => okCore core && okSlot slot
  | .mflush core slot _ => okCore core && okSlot slot
  | .mbcfg core slot _ => okCore core && okSlot slot
  | .mfence core slot _ => okCore core && okSlot slot
  | .mstat core slot _ => okCore core && okSlot slot
  | .batchWindowExpire core _ => okCore core
  | .loadPathStart core => okCore core
  | .groupLoadDone core => okCore core
  | .runPathStart core => okCore core
  | .groupPassesDone core => okCore core
  | .runDone core _ => okCore core
  | .drainDone core _ => okCore core
  | .vld core slot _ => okCore core && okSlot slot
  | .vst core slot _ => okCore core && okSlot slot
  | .vadd core slot _ => okCore core && okSlot slot
  | .vsub core slot _ => okCore core && okSlot slot
  | .vmul core slot _ => okCore core && okSlot slot
  | .vfma core slot _ => okCore core && okSlot slot
  | .vmin core slot _ => okCore core && okSlot slot
  | .vmax core slot _ => okCore core && okSlot slot
  | .vdiv core slot _ => okCore core && okSlot slot
  | .vsqrt core slot _ => okCore core && okSlot slot
  | .vfn core slot _ => okCore core && okSlot slot
  | .vcmp core slot _ => okCore core && okSlot slot
  | .vsel core slot _ => okCore core && okSlot slot
  | .vcvt core slot _ => okCore core && okSlot slot
  | .vlogic core slot _ => okCore core && okSlot slot
  | .vshift core slot _ => okCore core && okSlot slot
  | .vbcst core slot _ => okCore core && okSlot slot
  | .vred core slot _ => okCore core && okSlot slot
  | .vperm core slot _ => okCore core && okSlot slot
  | .vmask core slot _ => okCore core && okSlot slot
  | .viota core slot _ => okCore core && okSlot slot
  | .vprog core slot _ => okCore core && okSlot slot
  | .vfence core slot _ => okCore core && okSlot slot
  | .vectorExecute core _ => okCore core
  | .vectorComplete core => okCore core
  | .elementProgramRead core ctx _ => okCore core && okCtx ctx
  | .cellarCommandEnqueue stack => okStack stack
  | .matvec stack => okStack stack
  | .decode stack => okStack stack
  | .kvpack stack => okStack stack
  | .gather stack => okStack stack
  | .scatter stack => okStack stack
  | .cellarFill stack => okStack stack
  | .cellarCopy stack => okStack stack
  | .cellarReduce stack => okStack stack
  | .cbload stack => okStack stack
  | .cbarm stack => okStack stack
  | .cellarCommandComplete stack _ _ => okStack stack
  | .codebookFillDone stack _ => okStack stack
  | .stackAccess stack req _ => okStack stack && okReq req
  | .reorderEntryAged stack channel _ => okStack stack && okChannel channel
  | .scrubRead stack _ => okStack stack
  | .stackTempReadout stack _ => okStack stack
  | .atticAccess slice _ => okSlice slice
  | .atticFlush slice => okSlice slice
  | .atticFlushDone p => okPart p
  | .storeRoomAccess req _ => okReq req
  | .pageMoveStart p => okPart p
  | .pageMoveDone p _ => okPart p
  | .walkStart die => okDie die
  | .walkComplete die _ => okDie die
  | .faultRecordWrite => true
  | .faultResume => true
  | .faultTerminate => true
  | .faultTimeout _ => true
  | .invalidateByTag => true
  | .invalidateByRange => true
  | .invalidationDrainDone => true
  | .feDoorbell q _ => okQueue q
  | .feVfDoorbell fn k _ => okFn fn && okVfDoorbell k
  | .feKringDoorbell _ => true
  | .queueSlotLoad => true
  | .ringEntryFetch q _ => okQueue q
  | .commandBufferFetch q _ _ => okQueue q
  | .fenceWaitPoll => true
  | .contextSlotLoad ctx => okCtx ctx
  | .nop q => okQueue q
  | .fenceWait q => okQueue q
  | .draught q => okQueue q
  | .copy q => okQueue q
  | .fill q => okQueue q
  | .copyEnginePieceDone => true
  | .invRange q => okQueue q
  | .handleArm q => okQueue q
  | .ctxCreate q => okQueue q
  | .ctxDestroy q => okQueue q
  | .queueCreate q => okQueue q
  | .queueDestroy q => okQueue q
  | .move q => okQueue q
  | .invTag q => okQueue q
  | .bar2Access off acc => okBar2 off && okAccess acc
  | .contextWindowAccess fn _ acc => okFn fn && okAccess acc
  | .configRequest fn => okFn fn
  | .d3hotEntry fn => okFn fn
  | .d0Return fn => okFn fn
  | .vfFlr fn => okFn fn
  | .pfFlr => true
  | .ptAccFill => true
  | .ptAccArm => true
  | .ptAccDisarm => true
  | .accessTableFillDone _ => true
  | .ptPreempt _ => true
  | .preemptSaveDone ctx => okCtx ctx
  | .restoreDone ctx => okCtx ctx
  | .portEnable n => okPort n
  | .portDisable n => okPort n
  | .retrain n => okPort n
  | .portTrainingDone n _ => okPort n
  | .portAutoRetrain n _ => okPort n
  | .write n p => okPort n && okPacket p
  | .read n p => okPort n && okPacket p
  | .atomic n p => okPort n && okPacket p
  | .ack n p => okPort n && okPacket p
  | .data n p => okPort n && okPacket p
  | .result n p => okPort n && okPacket p
  | .nack n p => okPort n && okPacket p
  | .credit n p => okPort n && okPacket p
  | .retry n p => okPort n && okPacket p
  | .init n p => okPort n && okPacket p
  | .tickSymbol _ => true
  | .tickInfo f => okFrame f
  | .normal f => okFrame f
  | .census f => okFrame f
  | .survey f => okFrame f
  | .surveyHopDone _ => true
  | .censusDue => true
  | .mgmtCellTimeout src seq => okPosition src && okCellSeq seq
  | .dictRead t _ => okTransport t
  | .dictWrite t _ => okTransport t
  | .readSet t _ => okTransport t
  | .describe t _ => okTransport t
  | .setEndpointId _ m => okMctp m
  | .getEndpointId _ m => okMctp m
  | .getMctpVersionSupport _ m => okMctp m
  | .getMessageTypeSupport _ m => okMctp m
  | .getVendorDefinedMsgSupport _ m => okMctp m
  | .entdaa addr => okI3c addr
  | .calendarEnd => true
  | .monitorWindowEnd _ => true
  | .pllUnlock => true
  | .oscFail => true
  | .oscillatorStable => true
  | .referenceStable => true
  | .pllLocked pll => okPll pll
  | .resume _ => true
  | .ckGateStack _ => true
  | .ckGateSr _ => true
  | .ckGatePort _ => true
  | .ckGateMisc _ => true
  | .powerApplied => true
  | .inputFault => true
  | .inputRestored => true
  | .railPowerGood => true
  | .railTimeout => true
  | .railRetry => true
  | .railSample m => okSample m
  | .junctionSample die _ _ => okDie die
  | .tripRestartDelay => true
  | .modReset => true
  | .modResetRelease => true
  | .perstAssert => true
  | .perstDeassert => true
  | .flEn _ => true
  | .resetCtrlWarm _ => true
  | .quiesceDone => true
  | .partitionReset _ => true
  | .partitionResetDone => true
  | .contextReset _ => true
  | .fuseLoadDone f => okFuses f
  | .imageVerifyDone img => okImage img
  | .stackTrained stack _ => okStack stack
  | .srPackageTrained pkg _ => okPkg pkg
  | .invalidateDone => true
  | .dictionaryOnline => true
  | .ringJoinTimeout => true
  | .sampleBufferDrain core => okCore core
  | .histogramClear => true
  | .mcCelErrRead stack r => okStack stack && okRegRead r
  | .mcStkErrRead stack r => okStack stack && okRegRead r
  | .mcSrStatusRead pkg r => okPkg pkg && okRegRead r
  | .mcSrErrRead pkg r => okPkg pkg && okRegRead r
  | .mcAtcErrRead slice r => okSlice slice && okRegRead r
  | .fbPortErrRead n r => okPort n && okRegRead r
  | .ptPoolEventRead p r => okPart p && okRegRead r
  | .obGustsRead die r => okDie die && okRegRead r
  | .obHeldRead die r => okDie die && okRegRead r
  | .obWaitNsRead die r => okDie die && okRegRead r
  | .registerWrite fn off width value => okFn fn && okOffset off && okWidth width && okValue width value
  | .bypass => true
  | .idcode => true
  | .samplePreload => true
  | .extest => true
  | .stackLinkError stack _ => okStack stack
  | .packetDrop n _ => okPort n
  | .surveyEcho => true

end Sys2Proof
end

