-- ==== Sys2Proof/Safety.lean ====
section
/-!
DEFINITION. The terms in which claims are stated: what it is for a command to answer a next state, the forms that a state keeps,
when a thread instruction issues, and what an instruction of a thread group leaves alone.
-/

namespace Sys2Proof.Machine

/-- The outcome is a next state, and P holds of it. -/
def Answers (r : Res) (P : State → Prop) : Prop := ∃ u, r = .next u ∧ P u

/-- Stacked memory and the store room, and host memory, are in canonical form. -/
def State.memoryForm (s : State) : Prop := Memory.wf s.mem.bytes = true ∧ Memory.wf s.mem.host = true

/-- No context is still due to be lost for an error of memory (R223). -/
def State.settled (s : State) : Prop := s.mem.due = []

/-- A stack is in no better state than before: once it has left ONLINE it stays out of it, OFFLINE stays, and a retired page stays retired
(R222 to R224). -/
structure NoBetter (k l : StackSt) : Prop where
  online  : k.state ≠ .online → l.state ≠ .online
  offline : k.state = .offline → l.state = .offline
  retire  : k.retire <+: l.retire

/-- A byte of physical memory as it is stored. -/
def State.byteAt (s : State) (pa : Nat) : Byte := getD unwritten s.mem.bytes pa

/-- A byte of host memory. -/
def State.hostAt (s : State) (a : Nat) : Byte := getD unwritten s.mem.host a

/-- The group in slot `t.slot` of core `t.core`, its path-stack entries beyond 8 as its spill area holds them, issues the instruction word
w, of class `major` and operation `op`, as its next instruction, from its instruction cache, and no register that the word names waits for
data; `s'` is the state once it is fetched (R126, R131, R141, R145). -/
structure Issues (s : State) (w : BitVec 64) (major op : Nat) (t : Thread) (s' : State) : Prop where
  asked : t.w = w.toNat
  real  : t.core < 144
  group : groupAt (reloadPaths s t.core t.slot) t.core t.slot = some t.g
  path  : t.g.run = some t.p
  ready : canIssue (reloadPaths s t.core t.slot) t.core t.g t.p = true
  place : (decide (t.p.pc % 8 ≠ 0) || !cachedVa t.p.pc) = false
  word  : fetch (reloadPaths s t.core t.slot) t.core t.slot t.g t.p.pc = .word t.w s'
  free  : scoreboardHolds (coreSt s' t.core) t.slot t.g.queue t.w = false
  cls   : wMajor t.w = major
  oper  : wOp t.w = op
  legal : reservedOp t.w = false
  zeros : zerosOk t.w = true
  data  : awaitedLine t.g t.w = none

/-- The state once t's instruction is fetched: what an instruction changes is said against it. What the fetch itself changes (the caches, and
the next line asked for) does not depend on the instruction (R145). -/
def fetched (s : State) (t : Thread) : State :=
  match fetch (reloadPaths s t.core t.slot) t.core t.slot t.g t.p.pc with
  | .word _ u => u
  | .stall u => u

/-- The parts of State, for saying which of them a command may change. -/
inductive StatePart where
  | pending | freeSeq | regs | vfRegs | tick | dict | ring | ports | clock | power | govs | part | front | ctxs | queues
  | subs | trans | bytes | host | poison | srPoison | stackSts | pkgs | slices | moves | cellars | cores | hist | pins | sent | due
  deriving DecidableEq, Repr

/-- The part is the same in both states. -/
def StatePart.same (p : StatePart) (s u : State) : Prop :=
  match p with
  | .pending => u.pending = s.pending
  | .freeSeq => u.freeSeq = s.freeSeq
  | .regs => u.regs = s.regs
  | .vfRegs => u.vfRegs = s.vfRegs
  | .tick => u.tick = s.tick
  | .dict => u.dict = s.dict
  | .ring => u.ring = s.ring
  | .ports => u.ports = s.ports
  | .clock => u.clock = s.clock
  | .power => u.power = s.power
  | .govs => u.govs = s.govs
  | .part => u.part = s.part
  | .front => u.front = s.front
  | .ctxs => u.ctxs = s.ctxs
  | .queues => u.queues = s.queues
  | .subs => u.subs = s.subs
  | .trans => u.trans = s.trans
  | .bytes => u.mem.bytes = s.mem.bytes
  | .host => u.mem.host = s.mem.host
  | .poison => u.mem.poison = s.mem.poison
  | .srPoison => u.mem.srPoison = s.mem.srPoison
  | .stackSts => u.mem.stackSts = s.mem.stackSts
  | .pkgs => u.mem.pkgs = s.mem.pkgs
  | .slices => u.mem.slices = s.mem.slices
  | .moves => u.mem.moves = s.mem.moves
  | .cellars => u.cellars = s.cellars
  | .cores => u.cores = s.cores
  | .hist => u.hist = s.hist
  | .pins => u.pins = s.pins
  | .sent => u.sent = s.sent
  | .due => u.mem.due = s.mem.due

/-- The part's place in the list of parts. -/
def StatePart.idx (p : StatePart) : Nat := p.ctorIdx

/-- No part but those listed differs. -/
def Only (l : List StatePart) (s u : State) : Prop := ∀ p, p ∉ l → p.same s u

/-- No control register but those of which P holds differs. -/
def OnlyRegs (P : Nat → Prop) (s u : State) : Prop := ∀ o, ¬ P o → reg u o = reg s o

/-- The parts of the state that a command may change; it leaves every other part alone, whatever it meets: a command that
completes a submission or loses a context changes what these hold, too. -/
def mayChange (i : Instr) : List StatePart :=
  match i with
  | .tickBoundary .. =>
    [.freeSeq, .regs, .vfRegs, .tick, .dict, .ring, .ports, .clock, .power, .govs, .part, .front, .ctxs, .queues,
      .subs, .trans, .bytes, .host, .poison, .srPoison, .stackSts, .pkgs, .slices, .moves, .cellars, .cores, .sent,
      .due]
  | .reservedWindowEnd .. =>
    [.subs]
  | .deadlineCheckpoint .. | .launch .. | .runPathStart .. | .drainDone .. | .cellarCommandEnqueue ..
  | .faultTerminate .. | .nop .. | .draught .. | .invRange .. | .handleArm .. | .invTag .. | .portEnable ..
  | .portDisable .. | .retrain .. | .portAutoRetrain .. =>
    [.regs, .ports, .govs, .front, .ctxs, .subs, .trans, .cellars, .cores]
  | .rtAbortComplete .. =>
    [.freeSeq, .regs, .ports, .govs, .part, .front, .ctxs, .queues, .subs, .trans, .cellars, .cores]
  | .submissionComplete .. | .dbellPost .. | .remoteCounterFetched .. | .matvec .. | .decode .. | .kvpack ..
  | .gather .. | .scatter .. | .cellarFill .. | .cellarCopy .. | .cellarReduce .. | .scrubRead ..
  | .stackTempReadout .. | .faultTimeout .. | .invalidationDrainDone .. | .feDoorbell .. | .feVfDoorbell ..
  | .fenceWaitPoll .. | .fenceWait .. | .copy .. | .fill .. | .ctxDestroy .. | .queueCreate .. | .bar2Access ..
  | .contextWindowAccess .. | .write .. | .read .. | .atomic .. | .contextReset .. | .sampleBufferDrain ..
  | .stackLinkError .. =>
    [.regs, .vfRegs, .ports, .govs, .part, .front, .ctxs, .queues, .subs, .trans, .bytes, .host, .poison, .srPoison,
      .stackSts, .pkgs, .cellars, .cores, .sent, .due]
  | .hangDumpDone .. =>
    [.freeSeq, .regs, .vfRegs, .dict, .ports, .govs, .part, .front, .ctxs, .queues, .subs, .trans, .bytes, .host,
      .poison, .srPoison, .stackSts, .pkgs, .cellars, .cores, .sent, .due]
  | .ringEdgeMissing .. =>
    [.regs, .tick, .ring, .ports, .sent]
  | .dissue .. | .lintAdd .. | .lintSub .. | .lintMul .. | .lintMulh .. | .lintMad .. | .lintDiv .. | .lintRem ..
  | .lintAnd .. | .lintOr .. | .lintXor .. | .lintShl .. | .lintShr .. | .lintMin .. | .lintMax .. | .lintCmp ..
  | .lintSel .. | .lintAddi .. | .lintClz .. | .lintPopc .. | .lintMovs .. | .lintLaneid .. | .lintShfl ..
  | .lintVote .. | .fadd .. | .fsub .. | .fmul .. | .ffma .. | .fmin .. | .fmax .. | .fabs .. | .fneg .. | .fcmp ..
  | .fdiv .. | .fsqrt .. | .frcp .. | .frsq .. | .fexp2 .. | .flog2 .. | .fsin .. | .fcos .. | .fcvt .. | .icvt ..
  | .saluAdd .. | .saluSub .. | .saluMul .. | .saluDiv .. | .saluRem .. | .saluAnd .. | .saluOr .. | .saluXor ..
  | .saluShl .. | .saluShr .. | .saluSar .. | .saluMin .. | .saluMax .. | .saluCmp .. | .saluLi .. | .saluAddi ..
  | .sread .. | .xtos .. | .ldl .. | .stl .. | .ldc .. | .stc .. | .atl .. | .atc .. | .atr .. | .bz .. | .bnz ..
  | .bsz .. | .bsnz .. | .jmp .. | .call .. | .jr .. | .exit .. | .cwait .. | .rcwait .. | .cset .. | .cadd ..
  | .cread .. | .bar .. | .fence .. | .yield .. | .icinv .. | .dcinv .. | .prog .. | .acopy .. | .dbell ..
  | .mload .. | .mrun .. | .mdrain .. | .mclr .. | .mtf .. | .mreq .. | .mflush .. | .mbcfg .. | .mfence ..
  | .mstat .. | .vld .. | .vst .. | .vadd .. | .vsub .. | .vmul .. | .vfma .. | .vmin .. | .vmax .. | .vdiv ..
  | .vsqrt .. | .vfn .. | .vcmp .. | .vsel .. | .vcvt .. | .vlogic .. | .vshift .. | .vbcst .. | .vred .. | .vperm ..
  | .vmask .. | .viota .. | .vprog .. | .vfence .. | .atticAccess .. =>
    [.freeSeq, .regs, .vfRegs, .ports, .govs, .part, .front, .ctxs, .queues, .subs, .trans, .bytes, .host, .poison,
      .srPoison, .stackSts, .pkgs, .slices, .cellars, .cores, .sent, .due]
  | .draughtActivate .. | .stationTileStart .. | .stationTileDone .. | .acopyComplete .. | .storeBufferDrain ..
  | .elementProgramRead .. | .copyEnginePieceDone .. =>
    [.regs, .vfRegs, .ports, .govs, .part, .front, .ctxs, .queues, .subs, .trans, .bytes, .host, .poison, .srPoison,
      .stackSts, .pkgs, .slices, .cellars, .cores, .sent, .due]
  | .groupResident .. | .cacheSectorArrival .. | .wakeWindow .. | .groupLoadDone .. =>
    [.regs, .govs, .cores]
  | .groupPromote .. | .coreClockGate .. | .loadPathStart .. =>
    [.cores]
  | .pathRotation .. | .batchWindowExpire .. | .groupPassesDone .. =>
    [.regs, .cores]
  | .acopyStart .. =>
    [.regs, .trans, .cores]
  | .runDone .. | .vectorExecute .. | .cbload .. | .cbarm .. =>
    [.freeSeq, .regs, .ports, .govs, .front, .ctxs, .subs, .trans, .cellars, .cores]
  | .vectorComplete .. =>
    [.regs, .govs, .subs, .cores]
  | .cellarCommandComplete .. | .codebookFillDone .. | .ringEntryFetch .. | .commandBufferFetch .. | .ctxCreate ..
  | .accessTableFillDone .. | .ptPreempt .. | .preemptSaveDone .. =>
    [.freeSeq, .regs, .vfRegs, .ports, .govs, .part, .front, .ctxs, .queues, .subs, .trans, .bytes, .host, .poison,
      .srPoison, .stackSts, .pkgs, .cellars, .cores, .sent, .due]
  | .stackAccess .. | .storeRoomAccess .. | .walkComplete .. =>
    [.freeSeq, .regs, .vfRegs, .ports, .govs, .part, .front, .ctxs, .queues, .subs, .trans, .bytes, .host, .poison,
      .srPoison, .stackSts, .pkgs, .cellars, .cores, .hist, .sent, .due]
  | .reorderEntryAged .. =>
    [.stackSts]
  | .atticFlush .. =>
    [.regs, .bytes, .poison, .srPoison, .slices]
  | .atticFlushDone .. =>
    [.dict, .slices]
  | .pageMoveStart .. =>
    [.moves]
  | .pageMoveDone .. =>
    [.regs, .vfRegs, .ports, .govs, .part, .front, .ctxs, .queues, .subs, .trans, .bytes, .host, .poison, .srPoison,
      .stackSts, .pkgs, .moves, .cellars, .cores, .sent, .due]
  | .walkStart .. =>
    [.regs, .trans]
  | .faultRecordWrite .. =>
    [.regs, .govs, .front, .trans, .host, .cores, .sent]
  | .faultResume .. =>
    [.regs, .govs, .front, .trans, .cores]
  | .invalidateByTag .. | .invalidateByRange .. =>
    [.regs, .subs, .trans, .cellars]
  | .feKringDoorbell .. =>
    [.regs, .front]
  | .queueSlotLoad .. =>
    [.queues]
  | .contextSlotLoad .. =>
    [.ctxs, .subs]
  | .queueDestroy .. =>
    [.regs, .ports, .govs, .front, .ctxs, .queues, .subs, .trans, .cellars, .cores]
  | .move .. =>
    [.regs, .ports, .govs, .front, .ctxs, .subs, .trans, .moves, .cellars, .cores]
  | .configRequest .. | .getEndpointId .. | .getMctpVersionSupport .. | .getMessageTypeSupport ..
  | .getVendorDefinedMsgSupport .. | .surveyEcho .. =>
    [.sent]
  | .d3hotEntry .. =>
    [.front]
  | .d0Return .. =>
    [.front, .host, .sent]
  | .vfFlr .. =>
    [.regs, .vfRegs, .dict, .ports, .govs, .part, .front, .ctxs, .queues, .subs, .trans, .bytes, .host, .poison,
      .srPoison, .stackSts, .pkgs, .cellars, .cores, .sent, .due]
  | .pfFlr .. | .monitorWindowEnd .. | .pllUnlock .. | .perstAssert .. | .resetCtrlWarm .. =>
    [.regs, .vfRegs, .tick, .dict, .ring, .ports, .clock, .power, .govs, .part, .front, .ctxs, .queues, .subs,
      .trans, .stackSts, .pkgs, .slices, .moves, .cellars, .cores, .hist, .pins, .sent, .due]
  | .ptAccFill .. | .ptAccArm .. | .ptAccDisarm .. =>
    [.regs, .part]
  | .restoreDone .. =>
    [.regs, .govs, .ctxs, .subs, .cellars, .cores]
  | .portTrainingDone .. =>
    [.regs, .ports, .govs, .front, .ctxs, .subs, .trans, .cellars, .cores, .sent]
  | .ack .. =>
    [.freeSeq, .ports, .front, .cores, .hist, .sent]
  | .data .. =>
    [.freeSeq, .ports, .cores, .hist, .sent]
  | .result .. =>
    [.freeSeq, .regs, .ports, .govs, .cores, .hist, .sent]
  | .nack .. =>
    [.freeSeq, .regs, .ports, .govs, .front, .ctxs, .subs, .trans, .cellars, .cores, .hist, .sent]
  | .credit .. | .init .. =>
    [.ports, .sent]
  | .retry .. | .packetDrop .. =>
    [.regs, .ports, .sent]
  | .tickSymbol .. =>
    [.tick, .ring, .sent]
  | .tickInfo .. | .normal .. | .census .. | .survey .. | .dictRead .. | .dictWrite .. | .readSet .. | .describe .. =>
    [.regs, .vfRegs, .tick, .dict, .ring, .ports, .clock, .power, .govs, .part, .front, .ctxs, .queues, .subs,
      .trans, .bytes, .poison, .srPoison, .stackSts, .pkgs, .slices, .moves, .cellars, .cores, .hist, .pins, .sent,
      .due]
  | .surveyHopDone .. =>
    [.freeSeq, .ring, .sent]
  | .censusDue .. =>
    [.ring, .sent]
  | .mgmtCellTimeout .. =>
    [.ring]
  | .setEndpointId .. =>
    [.dict, .sent]
  | .entdaa .. | .calendarEnd .. =>
    [.dict]
  | .oscFail .. =>
    [.regs, .clock, .sent]
  | .oscillatorStable .. =>
    [.ring, .clock, .power, .pins]
  | .referenceStable .. =>
    [.clock]
  | .pllLocked .. =>
    [.tick, .clock]
  | .resume .. =>
    [.ports, .clock, .power]
  | .ckGateStack .. =>
    [.regs, .clock, .bytes, .poison, .srPoison, .stackSts]
  | .ckGateSr .. =>
    [.regs, .clock, .bytes, .poison, .srPoison, .pkgs]
  | .ckGatePort .. =>
    [.regs, .ports, .clock]
  | .ckGateMisc .. =>
    [.regs, .clock]
  | .powerApplied .. | .inputFault .. | .inputRestored .. | .junctionSample .. | .tripRestartDelay .. | .modReset .. =>
    [.regs, .vfRegs, .tick, .dict, .ring, .ports, .clock, .power, .govs, .part, .front, .ctxs, .queues, .subs,
      .trans, .bytes, .poison, .srPoison, .stackSts, .pkgs, .slices, .moves, .cellars, .cores, .hist, .pins, .due]
  | .railPowerGood .. =>
    [.ring, .power, .pins]
  | .railTimeout .. =>
    [.clock, .power]
  | .railRetry .. | .partitionResetDone .. =>
    [.power]
  | .railSample .. =>
    [.regs, .power, .govs]
  | .modResetRelease .. =>
    [.power, .pins]
  | .perstDeassert .. =>
    [.front, .pins]
  | .flEn .. | .bypass .. | .idcode .. | .samplePreload .. | .extest .. =>
    [.pins]
  | .quiesceDone .. =>
    [.ports, .power]
  | .partitionReset .. =>
    [.regs, .vfRegs, .ports, .power, .govs, .part, .front, .ctxs, .queues, .subs, .trans, .bytes, .host, .poison,
      .srPoison, .stackSts, .pkgs, .slices, .cellars, .cores, .sent, .due]
  | .fuseLoadDone .. =>
    [.power, .front, .pins]
  | .imageVerifyDone .. =>
    [.regs, .vfRegs, .tick, .dict, .ring, .ports, .clock, .power, .govs, .part, .front, .ctxs, .queues, .subs,
      .trans, .stackSts, .pkgs, .slices, .moves, .cellars, .cores, .hist, .pins, .due]
  | .stackTrained .. =>
    [.power, .stackSts]
  | .srPackageTrained .. =>
    [.power, .pkgs]
  | .invalidateDone .. =>
    [.clock, .power, .trans, .cores]
  | .dictionaryOnline .. =>
    [.dict, .ring, .power, .sent]
  | .ringJoinTimeout .. =>
    [.tick, .ring, .power, .pins]
  | .histogramClear .. =>
    [.regs, .hist]
  | .mcCelErrRead .. | .mcStkErrRead .. | .mcSrStatusRead .. | .mcSrErrRead .. | .mcAtcErrRead .. | .fbPortErrRead ..
  | .ptPoolEventRead .. | .obGustsRead .. | .obHeldRead .. | .obWaitNsRead .. =>
    [.regs, .vfRegs, .sent]
  | .registerWrite .. =>
    [.freeSeq, .regs, .vfRegs, .tick, .dict, .ring, .ports, .clock, .power, .govs, .part, .front, .ctxs, .queues,
      .subs, .trans, .bytes, .host, .poison, .srPoison, .stackSts, .pkgs, .slices, .moves, .cellars, .cores, .hist,
      .pins, .sent, .due]

/-- Nothing but core `core`, the registers of the observability block, the histograms and the free values differs. -/
structure OnlyCore (core : Nat) (s u : State) : Prop where
  pending : u.pending = s.pending
  regs    : ∀ off, off < 0x400000 ∨ 0x500000 ≤ off → reg u off = reg s off
  vfRegs  : u.vfRegs = s.vfRegs
  tick    : u.tick = s.tick
  dict    : u.dict = s.dict
  ring    : u.ring = s.ring
  ports   : u.ports = s.ports
  clock   : u.clock = s.clock
  power   : u.power = s.power
  govs    : u.govs = s.govs
  part    : u.part = s.part
  front   : u.front = s.front
  ctxs    : u.ctxs = s.ctxs
  queues  : u.queues = s.queues
  subs    : u.subs = s.subs
  trans   : u.trans = s.trans
  mem     : u.mem = s.mem
  cellars : u.cellars = s.cellars
  pins    : u.pins = s.pins
  sent    : u.sent = s.sent
  cores   : ∀ c, c ≠ core → find u.cores c = find s.cores c

/-- Nothing but a core differs, and of it no other group, and nothing of its launches, its clock, its store buffer, its copies, its doorbells,
its array, its element engine and its draughts. -/
structure OnlyGroup (core slot : Nat) (s u : State) : Prop extends OnlyCore core s u where
  others   : ∀ n, n ≠ slot → groupAt u core n = groupAt s core n
  launchQ  : (coreSt u core).launchQ = (coreSt s core).launchQ
  gated    : (coreSt u core).gated = (coreSt s core).gated
  held     : (coreSt u core).held = (coreSt s core).held
  stores   : (coreSt u core).stores = (coreSt s core).stores
  copies   : (coreSt u core).copies = (coreSt s core).copies
  dbells   : (coreSt u core).dbells = (coreSt s core).dbells
  array    : (coreSt u core).array = (coreSt s core).array
  vec      : (coreSt u core).vec = (coreSt s core).vec
  draughts : (coreSt u core).draughts = (coreSt s core).draughts

/-- A group's registers: scalar registers, lane registers. -/
def SameScalars (g h : Group) : Prop := ∀ r, scalar h r = scalar g r
def SameLanes (g h : Group) : Prop := ∀ r l, l < 32 → lane h r l = lane g r l

/-- What a launch gave a group: its owner, its registers and scratch, its launch index, its live threads. -/
structure SameLaunch (g h : Group) : Prop where
  ctx       : h.ctx = g.ctx
  queue     : h.queue = g.queue
  regs      : h.regs = g.regs
  depth     : h.depth = g.depth
  scratch   : h.scratch = g.scratch
  scratchAt : h.scratchAt = g.scratchAt
  launchIdx : h.launchIdx = g.launchIdx
  live      : h.live = g.live

/-- The running path goes on at a PC, unless it reaches its reconvergence PC there (R131, R138). -/
def PathAt (t : Thread) (h : Group) (pc : Nat) : Prop :=
  t.p.rpc ≠ some pc → ∃ p, h.run = some p ∧ p.pc = pc ∧ p.mask = t.p.mask ∧ p.nest = t.p.nest

/-- Every lane register is as before but the n registers from xd on of the active threads (R129). -/
def OnlyLanes (t : Thread) (h : Group) (xd n : Nat) : Prop :=
  ∀ r l, l < 32 → (xd ≤ r ∧ r < xd + n ∧ bit t.p.mask l = true) ∨ lane h r l = lane t.g r l

/-- Every scalar register but one is as before. -/
def OnlyScalar (t : Thread) (h : Group) (sd : Nat) : Prop := ∀ r, r ≠ sd → scalar h r = scalar t.g r

/-- The group of t is h, at the next instruction, with what its launch gave it (R126, R131, R138). -/
structure Landed (t : Thread) (u : State) (h : Group) : Prop where
  group  : groupAt u t.core t.slot = some h
  launch : SameLaunch t.g h
  path   : PathAt t h ((t.p.pc + 8) % 2 ^ 48)

/-- The instruction of t has run to its end: its group is h, at the next instruction, and nothing but the group, its core's
caches and sampling state, and the observability counters differs; a core's local store differs only where a path stack
of 8 entries or more spills (R126, R131, R138, R141). -/
structure Ran (t : Thread) (s u : State) (h : Group) : Prop extends OnlyGroup t.core t.slot (fetched s t) u, Landed t u h where
  local_ : t.g.stack.length < 8 → (coreSt u t.core).allocs = (coreSt s t.core).allocs

/-- A byte of a context's local store on a core. -/
def localByte (s : State) (core ctx a : Nat) : Byte := (lsRead s core ctx a 1).headD 0#8

/-- Thread l of t touches byte a, an access having n bytes at `at_ l`. -/
def TouchesByte (t : Thread) (n : Nat) (at_ : Nat → Nat) (l a : Nat) : Prop := l ∈ t.active ∧ at_ l ≤ a ∧ a < at_ l + n

/-- The highest thread of t that touches byte a, if one does. -/
def LastToTouch (t : Thread) (n : Nat) (at_ : Nat → Nat) (a l : Nat) : Prop :=
  TouchesByte t n at_ l a ∧ ∀ m, TouchesByte t n at_ m a → m ≤ l

/-! What one instruction of a family does, whatever the operands. -/

/-- Element i of an operand of n registers in thread l, elements being wd bits wide. -/
def laneElem (wd n : Nat) (g : Group) (r l i : Nat) : BitVec wd := BitVec.ofNat wd (laneWide n g r l >>> (wd * i))

/-- The registers that an instruction of format L names exist and are aligned: XD, and the first `sources` of XA, XB, XC. -/
def LaneRegs (t : Thread) (n sources : Nat) : Prop :=
  regOk t.g n (wXD t.w) = true ∧ regOk t.g n (wXA t.w) = true ∧ (2 ≤ sources → regOk t.g n (wXB t.w) = true) ∧
    (3 ≤ sources → regOk t.g n (wXC t.w) = true)

/-- A LINT instruction that reads `sources` registers completes with f of the elements in each element of XD of each active
thread; f sees the instruction word and whether the TYPE is signed (R129, R131, R132). -/
def LintDoes (mk : Nat → Nat → BitVec 64 → Instr) (op sources : Nat)
    (f : BitVec 64 → Bool → (wd : Nat) → BitVec wd → BitVec wd → BitVec wd → BitVec wd) : Prop :=
  ∀ s s' w t, Issues s w mLINT op t s' → bit (wType t.w) 2 = false → LaneRegs t (lintWords (wType t.w)) sources →
    Answers (exec (mk t.core t.slot w) s) fun u => ∃ h,
      Ran t s u h ∧ SameScalars t.g h ∧ OnlyLanes t h (wXD t.w) (lintWords (wType t.w)) ∧
      ∀ l i, l < 32 → bit t.p.mask l = true → i < (lintShape (wType t.w)).2 →
        let wd := (lintShape (wType t.w)).1
        let n := lintWords (wType t.w)
        laneElem wd n h (wXD t.w) l i = f w (lintSigned (wType t.w)) wd
          (laneElem wd n t.g (wXA t.w) l i) (laneElem wd n t.g (wXB t.w) l i) (laneElem wd n t.g (wXC t.w) l i)

/-- An instruction completes, changing no register but the n lane registers from XD on, where each active thread l has v l. -/
def LanesGet (mk : Nat → Nat → BitVec 64 → Instr) (s : State) (w : BitVec 64) (t : Thread) (n : Nat) (v : Nat → Nat) : Prop :=
  Answers (exec (mk t.core t.slot w) s) fun u => ∃ h,
    Ran t s u h ∧ SameScalars t.g h ∧ OnlyLanes t h (wXD t.w) n ∧
    ∀ l, l < 32 → bit t.p.mask l = true → laneWide n h (wXD t.w) l = v l % 2 ^ (32 * n)

/-- An instruction completes, changing no register but SD, which has v. -/
def ScalarGets (mk : Nat → Nat → BitVec 64 → Instr) (s : State) (w : BitVec 64) (t : Thread) (v : BitVec 64) : Prop :=
  Answers (exec (mk t.core t.slot w) s) fun u => ∃ h,
    Ran t s u h ∧ SameLanes t.g h ∧ OnlyScalar t h (wSD t.w) ∧ getD 0 h.scalars (wSD t.w) = v

/-- An LFP instruction that reads `sources` registers completes with f of the element codes in each element of XD of each active
thread; f sees the instruction word and the format (R129, R131, R132). -/
def LfpDoes (mk : Nat → Nat → BitVec 64 → Instr) (op sources : Nat) (f : Nat → Nat → Nat → Nat → Nat → Nat) : Prop :=
  ∀ s s' w t, Issues s w mLFP op t s' → wType t.w ≤ 3 → LaneRegs t (lfpWords (wType t.w)) sources →
    (op = 0x08 → bits (wImm t.w) 2 0 ≤ 5) →
    Answers (exec (mk t.core t.slot w) s) fun u => ∃ h,
      Ran t s u h ∧ SameScalars t.g h ∧ OnlyLanes t h (wXD t.w) (lfpWords (wType t.w)) ∧
      ∀ l i, l < 32 → bit t.p.mask l = true → i < (lfpShape (wType t.w)).2.2 →
        let wd := (lfpShape (wType t.w)).2.1
        let n := lfpWords (wType t.w)
        laneElem wd n h (wXD t.w) l i = BitVec.ofNat wd (f t.w (lfpShape (wType t.w)).1 (laneElem wd n t.g (wXA t.w) l i).toNat
          (laneElem wd n t.g (wXB t.w) l i).toNat (laneElem wd n t.g (wXC t.w) l i).toNat)

/-- A SALU instruction of SA and SB completes with f of them in SD. -/
def SaluDoes (mk : Nat → Nat → BitVec 64 → Instr) (op : Nat) (f : BitVec 64 → BitVec 64 → BitVec 64 → BitVec 64) : Prop :=
  ∀ s s' w t, Issues s w mSALU op t s' →
    ScalarGets mk s w t (f w (getD 0 t.g.scalars (wSA t.w)) (getD 0 t.g.scalars (wSB t.w)))

/-! Control. -/

/-- The address of a branch's target: OFFSET words of 8 bytes from the instruction (R131). -/
def Target (w : BitVec 64) (t : Thread) : BitVec 48 := BitVec.ofNat 48 t.p.pc + 8 * (w.extractLsb' 40 24).signExtend 48

/-- The divergences of the parts of a path that divides at t (R137). -/
def DividedNest (t : Thread) : List (Nat × Nat) :=
  if wRpc t.w = 0 then t.p.nest else (t.g.nextDiv, (t.p.pc + 8 * wRpc t.w) % 2 ^ 48) :: t.p.nest

/-- A control instruction that leaves the group's registers alone and sends its whole path to a PC. -/
def GoesTo (mk : Nat → Nat → BitVec 64 → Instr) (s : State) (w : BitVec 64) (t : Thread) (pc : Nat) : Prop :=
  Answers (exec (mk t.core t.slot w) s) fun u => ∃ h, OnlyGroup t.core t.slot (fetched s t) u ∧ groupAt u t.core t.slot = some h ∧
    SameLaunch t.g h ∧ SameLanes t.g h ∧ SameScalars t.g h ∧ PathAt t h pc

/-- A control instruction divides its path (R137): the threads of `parts.1` run on at their PC, and each later part waits on the
stack at its own. -/
def DividesInto (mk : Nat → Nat → BitVec 64 → Instr) (s : State) (w : BitVec 64) (t : Thread) (run : Nat × (Nat → Prop))
    (parts : List (Nat × (Nat → Prop))) : Prop :=
  Answers (exec (mk t.core t.slot w) s) fun u => ∃ h p, OnlyGroup t.core t.slot (fetched s t) u ∧ groupAt u t.core t.slot = some h ∧
    SameLaunch t.g h ∧ SameLanes t.g h ∧ SameScalars t.g h ∧
    h.run = some p ∧ p.pc = run.1 ∧ p.nest = DividedNest t ∧ (∀ l, l < 32 → (bit p.mask l = true ↔ run.2 l)) ∧
    ∀ x ∈ parts, ∃ q ∈ h.stack, q.pc = x.1 ∧ q.nest = DividedNest t ∧ q.waiting = false ∧
      ∀ l, l < 32 → (bit q.mask l = true ↔ x.2 l)

/-! Synchronisation. -/

/-- An instruction completes with the group's registers as they were; P says what else holds. -/
def Completes (mk : Nat → Nat → BitVec 64 → Instr) (s : State) (w : BitVec 64) (t : Thread) (l : List StatePart)
    (P : State → Prop) : Prop :=
  Answers (exec (mk t.core t.slot w) s) fun u => ∃ h, Landed t u h ∧ SameLanes t.g h ∧ SameScalars t.g h ∧
    Only l (fetched s t) u ∧ P u

/-- An instruction leaves its group waiting on a condition, its registers as they were, its path at the next instruction. -/
def WaitsOn (mk : Nat → Nat → BitVec 64 → Instr) (s : State) (w : BitVec 64) (t : Thread) (l : List StatePart) (c : Cond)
    (P : State → Group → Prop) : Prop :=
  Answers (exec (mk t.core t.slot w) s) fun u => ∃ h, groupAt u t.core t.slot = some h ∧ SameLaunch t.g h ∧ SameLanes t.g h ∧
    SameScalars t.g h ∧ h.active = false ∧ h.cond = c ∧ Only l (fetched s t) u ∧ P u h

/-- An instruction is not ready: its group waits in the active set on a condition, and executes it again (R126). -/
def StaysFor (mk : Nat → Nat → BitVec 64 → Instr) (s : State) (w : BitVec 64) (t : Thread) (l : List StatePart) (c : Cond) : Prop :=
  Answers (exec (mk t.core t.slot w) s) fun u => groupAt u t.core t.slot = some { t.g with cond := c } ∧ Only l (fetched s t) u

/-- No store of a core waits to be performed: in its buffer, or at a slice (R270, R273). -/
def NoStores (s : State) (core : Nat) : Prop :=
  (coreSt s core).stores = [] ∧ ∀ k ∈ s.mem.slices, ∀ r ∈ k.2.reqs, ∀ at_ seq e, r ≠ .store core at_ seq e

/-- A remote counter that hardware holds, of a context whose list of held ones has its length (R149). -/
def HeldCounter (s : State) (ctx n : Nat) : Prop := ∃ c, find s.ctxs ctx = some c ∧ n ∈ c.heldCtrs ∧ c.heldCtrs.length ≤ 256

/-- A path of a group waits on a counter with a threshold. -/
def Blocked (g : Group) (remote : Bool) (n : Nat) (thr : Word32) : Prop :=
  ∃ p, (g.run = some p ∨ p ∈ g.stack) ∧ p.blocked = some (.counter remote n thr)

/-! The matrix array and the element engine. -/

/-- The array and the vector file of a core as an instruction of a context finds them: its own, or, where nobody owns them and no
pre-emption saved any for the context, fresh ones (R118, R159). -/
def Owned (s : State) (core ctx : Nat) (a : ArraySt) (v : VecSt) : Prop :=
  ((coreSt s core).array = a ∧ (coreSt s core).vec = v ∧ a.owner = some ctx) ∨
  ((coreSt s core).array.owner = none ∧ a = ArraySt.fresh (some ctx) ∧ v = VecSt.fresh ∧
    ∀ c, find s.ctxs ctx = some c → ∀ r ∈ c.saved, r.core = core → r.array = none)

/-- Another context owns the array of a core. -/
def Foreign (s : State) (core ctx : Nat) : Prop := ∃ o, (coreSt s core).array.owner = some o ∧ o ≠ ctx

/-- An accumulator entry (R77). -/
def ArraySt.entry (a : ArraySt) (row col : Nat) : AccEntry := getD AccEntry.zero a.acc (row * 256 + col)

/-- The array of a core becomes a; every other part of the core, and every other core, is as it was. -/
structure ArrayBecomes (s : State) (core : Nat) (a : ArraySt) (u : State) : Prop where
  self   : coreSt u core = { coreSt s core with array := a }
  others : ∀ c, c ≠ core → find u.cores c = find s.cores c
  rest   : Only [.cores] s u

/-! Submissions. -/

/-- The submission of a queue has stopped, its standing fault the first that it met (R33, R135, R325): this one, unless it had met another
before, or in the same control cycle one that ranks before it, which is one of a lower code. -/
def Stopped (s : State) (q status : Nat) (u : State) : Prop :=
  ∀ b, find s.subs q = some b → ∃ c, find u.subs q = some c ∧ c.stopped = true ∧
    c.fault = if b.fault = 0 ∨ (b.faultAt = s.tick.time.toNat ∧ status < b.fault) then status else b.fault

/-- Physical memory is as before but for the bytes b at pa. -/
def Written (s : State) (pa : Nat) (b : List Byte) (u : State) : Prop :=
  ∀ a, u.byteAt a = if pa ≤ a ∧ a < pa + b.length then b.getD (a - pa) 0#8 else s.byteAt a

/-- Host memory is as before but for the bytes b at a. -/
def HostWritten (s : State) (a : Nat) (b : List Byte) (u : State) : Prop :=
  ∀ x, u.hostAt x = if a ≤ x ∧ x < a + b.length then b.getD (x - a) 0#8 else s.hostAt x

/-- What the device itself writes at n bytes meets no poison there, and no context is due to be lost (R217, R223). -/
structure QuietAt (s : State) (pa n : Nat) : Prop where
  settled : s.settled
  clean   : poisonedIn s pa n = []

/-- Memory that answers and holds no poison: n bytes of it at pa. -/
def SoundAt (s : State) (pa n : Nat) : Prop := rangeUp s pa n = true ∧ poisonedIn s pa n = []

/-! Cellar engines. -/

/-- The command at the head of a cellar queue passes its checks and meets no poison, and its unit is idle (R187, R188, R206). -/
structure Starts (s : State) (st op : Nat) (mv : Bool) (c : CellCmd) (rest : List CellCmd) : Prop where
  head   : (cellar s st).queue = c :: rest
  oper   : ccOp c.cmd = op
  free   : cmdHeld s c = false
  fence  : ccFence c.cmd = false
  unit   : (if mv then (cellar s st).mv else (cellar s st).move) = none
  checks : cmdFault s st c = none
  clean  : ∀ r ∈ readSpans s st c, operandPoison s c r.1 r.2.1 r.2.2 = []
  tables : (tableScratch s st c).all (fun r => scratchOk s st r.1 r.2) = true

/-- A cellar command starts: it leaves the queue for its unit, which will deliver b to the output tile or write it at D. -/
def CellarRuns (mk : Nat → Instr) (op : Nat) (mv : Bool) (b : State → Nat → CellCmd → List Byte) : Prop :=
  ∀ s st c rest, Starts s st op mv c rest →
    Answers (exec (mk st) s) fun u => Only [.regs, .cellars] s u ∧ (∀ k, k ≠ st → cellar u k = cellar s k) ∧ ∃ e,
      (cellar u st) = (if mv then { cellar s st with queue := rest, mv := some e } else { cellar s st with queue := rest, move := some e }) ∧
      e.cmd = c ∧ e.result = (if placeD c = .tile then b s st c else []) ∧ e.writes = operandWrites c (placeD c) 0 (b s st c)

/-! The host and contexts. -/

/-- A host write of a register of the physical function takes effect: its block takes writes, the function is in D0, and its access
row grants the block (R302, R342, R413). -/
structure HostMayWrite (s : State) (off : Nat) : Prop where
  takes : blockDrops s off = false
  awake : s.front.d3hot.contains 0 = false
  right : regsGranted s 0 (blockOf off) true = true

/-- A context that is neither FREE nor LOST is lost for a reason: its submissions are over and no group of it is left (R332, R333). -/
def LosesContext (s : State) (ctx reason : Nat) (u : State) : Prop :=
  ∀ c, find s.ctxs ctx = some c → c.state ≠ .free → c.state ≠ .lost →
    (∃ d, find u.ctxs ctx = some d ∧ d.state = .lost ∧ d.reason = reason) ∧
    (∀ q r, find s.queues q = some r → r.ctx = ctx → find u.subs q = none) ∧
    ∀ core slot g, groupAt u core slot = some g → g.ctx ≠ ctx

/-- No TLB holds a translation of the context for an address that P holds of (R247). -/
def NoTranslation (s : State) (ctx : Nat) (P : Nat → Prop) : Prop :=
  ∀ va, P va →
    (∀ core, ∀ e ∈ (find s.trans.coreTlb core).getD [], tlbHit ctx va e = false) ∧
    (∀ cl, ∀ x ∈ clusterTlbOf s cl, ∀ e ∈ x.2.items, tlbHit ctx va e = false) ∧
    ∀ x ∈ s.trans.frontTlb, ∀ e ∈ x.2.items, tlbHit ctx va e = false

/-! Commands of command buffers. -/

/-- The submission u of queue q has c as its next command, of operation op, which keeps to its form and may be dispatched now; what
follows it is no reserved operation (R323 to R325, R327). -/
structure Dispatches (s : State) (q op : Nat) (u : Submission) (c : List Byte) : Prop where
  sub    : find s.subs q = some u
  next   : c = u.code.drop u.pos
  runs   : mayRun s q = true
  inside : u.pos < u.code.length
  oper   : cmOp c = op
  clear  : attached s (.frontEnd q) = false
  order  : (q = kring ∨ cmOrder c = true) → workLeft s q = false
  form   : formOk s (q == kring) u c = true
  after  : u.pos + 16 * opUnits op < u.code.length → opUnits (cmOp (u.code.drop (u.pos + 16 * opUnits op))) ≠ 0

/-- A submission's copy or fill was being translated, and an invalidation makes it start anew (R257). -/
def SameBut (b c : Submission) : Prop := c = { b with maps := PageMap.empty } ∨ c = b

/-- The submission of queue q goes on behind a command of operation op, with `more` pieces of work under way for it. A DRAUGHT may raise the
split that it reports (R53); a COPY or FILL is done with its translations, and an invalidation may make that of any submission start anew. -/
def GoesOn (s : State) (q op more : Nat) (u : State) : Prop :=
  (∀ b, find s.subs q = some b → ∃ c, find u.subs q = some c ∧
    SameBut { b with pos := b.pos + 16 * opUnits op, work := b.work + more, splitLog2 := c.splitLog2 } c ∧
    b.splitLog2 ≤ c.splitLog2 ∧ (op ≠ 0x03 → c.splitLog2 = b.splitLog2) ∧
    (op ≠ 0x04 → op ≠ 0x05 → op ≠ 0x06 → op ≠ 0x41 → op ≠ 0x45 → c.maps = b.maps)) ∧
  ∀ k, k ≠ q → (find s.subs k = none → find u.subs k = none) ∧ ∀ b, find s.subs k = some b → ∃ c, find u.subs k = some c ∧
    SameBut b c ∧ (op ≠ 0x06 → op ≠ 0x41 → op ≠ 0x45 → c = b)

end Sys2Proof.Machine
end

