-- ==== Sys2Proof/Certificates/Slice0/Obligations.lean ====
section
/-!
DEFINITION. The statements about the block: what each command does, its frame, that it completes, and what every command keeps.
-/

open Sys2Proof Sys2Proof.Machine

/-- One step takes the command at the front of the queue and runs it with the rest of the queue; with nothing waiting the block idles for
one control cycle (the idle cycle is the model's choice, log entry 7). -/
def Obligations.StepRunsFront : Prop :=
  (∀ (c : Instr) (rest : List Instr) (s : State), step (s.withPending (c :: rest)) = exec c (s.withPending rest)) ∧
  ∀ s : State, step (s.withPending []) = .next (idleCycle (s.withPending []))

/-- Every command leaves alone every part of the state that `mayChange` does not list for it. Whatever a command does, what has left the
module stays as it was sent, in order; the free values that were used stay used. -/
def Obligations.CommandFrames : Prop :=
  (∀ (i : Instr) (s u : State), exec i s = .next u → Only (mayChange i) s u) ∧
  (∀ (i : Instr) (s u : State), exec i s = .next u → s.sent <+: u.sent ∧ s.freeSeq ≤ u.freeSeq)

/-- Stacked memory, the store room and host memory keep their canonical form through every step, a command or an idle cycle, from every
state that has it; so equal memories are equal data, and a byte reads as it was last written (log entry 2). No step that starts with no
loss due leaves one due: every error of memory that takes a context with it has done so when the step ends (R223). -/
def Obligations.MemoryFormKept : Prop :=
  ∀ s u : State, step s = .next u → (s.memoryForm → u.memoryForm) ∧ (s.settled → u.settled)

/-- After reset the memories have their canonical form, and no context is due to be lost. R15, R17, R20, R21, R208, R262, R334, R343,
R392, R419, R432, R459, R475: after reset the registers whose reset value is not zero read it, and the status registers theirs; the tick
has not begun, the lock state is Free, all units' clocks are enabled, the access table grants its two rows alone; there is no context, no
queue and no command. -/
def Obligations.ResetState : Prop :=
  (State.reset.memoryForm ∧ State.reset.settled) ∧
  (let v := regValue State.reset
  (v 0x008 = 0 ∧ v 0x110 = 3 ∧ v 0x00C = 0x40000000 ∧ v 0x030 = 4 ∧ v 0x100008 = 6 ∧ v 0x300010 = 0x33333333 ∧ v 0x300014 = 0x33333333 ∧
    v 0x300020 = 0xFFF ∧ v 0x300024 = 0xFFFF ∧ v 0x300028 = 0xFFFF ∧ v 0x30002C = 1 ∧ v 0x308018 = 0x33 ∧ v 0x500400 = 7) ∧
  (∀ n, n < 16 → v (0x500000 + 0x20 * n) = 0xFF000000 ∧ v (0x500004 + 0x20 * n) = 0 ∧ v (0x308140 + 4 * n) = 3 ∧
    v (0x308100 + 4 * n) = 0) ∧
  (∀ n, n < 12 → v (offCel n) = 0x00FF0000 ∧ v (offStk n) = 0) ∧ (∀ n, n < 144 → reg State.reset (0x400084 + 0x200 * n) = 0x4001) ∧
  (obj State.reset 0x2000 1 = 20 ∧ obj State.reset 0x2000 5 = 8) ∧
  State.reset.tick.count = 0 ∧ State.reset.tick.time = 0 ∧ State.reset.tick.lock = 3 ∧ State.reset.tick.running = false ∧
  State.reset.ctxs = [] ∧ State.reset.queues = [] ∧ State.reset.subs = [] ∧ State.reset.pending = [] ∧
  rowValid (accRow State.reset 4096) = true ∧ rowValid (accRow State.reset 4160) = true ∧
  ∀ m, m ≠ 4096 → m ≠ 4160 → rowValid (accRow State.reset m) = false)

/-- R62: the elements of a row as one little-endian bit string in whole bytes: element i takes bits w(i + 1) − 1 to wi, what is left of
the last byte is written as zero, and a read ignores it. -/
def Obligations.RowPacking : Prop :=
  (∀ (w : Nat) (cs : List Nat), 1 ≤ w →
    (packBits w cs).length = (w * cs.length + 7) / 8 ∧
    (∀ i c, cs[i]? = some c → bits (ofLE (packBits w cs)) (w * (i + 1) - 1) (w * i) = c % 2 ^ w) ∧
    ∀ k, w * cs.length ≤ k → bit (ofLE (packBits w cs)) k = false) ∧
  ∀ (w n : Nat) (b : List Byte), 1 ≤ w →
    (unpackBits w n b).length = n ∧ (∀ i c, (unpackBits w n b)[i]? = some c → c = bits (ofLE b) (w * (i + 1) - 1) (w * i)) ∧
    ∀ c : List Byte, (∀ k, k < w * n → bit (ofLE c) k = bit (ofLE b) k) → unpackBits w n c = unpackBits w n b

/-- R68: what a scale does to its block. An E8M0 scale of 0xFF, an E4M3 scale that is NaN and an FP16 scale that is infinite or NaN make
the elements of their block NaN; the sign bits of E4M3 and FP16 scales change nothing; a zero scale makes its block zero. -/
def Obligations.ScaleValues : Prop :=
  ∀ (code : Nat) (b : List Byte), fmtOk code = true → elemOf code ≠ fmtCB2 →
    b.length = runElemBytes (elemOf code) + runScaleBytes (modeOf code) →
    let at_ := runElemBytes (elemOf code)
    let scale (i n : Nat) : Nat := fieldLE b (at_ + i) n
    let nan (i : Nat) : Prop := ∃ x, (decodeRun code b)[i]? = some x ∧ x.v.isNan = true
    let zero (i : Nat) : Prop := ∃ x, (decodeRun code b)[i]? = some x ∧ x.v.isZero = true
    let unsigned (i : Nat) : Prop := decodeRun code (b.modify (at_ + i) (· ^^^ 0x80#8)) = decodeRun code b
    (modeOf code = 1 → scale 0 1 = 0xFF → ∀ i, i < 32 → nan i) ∧
    (modeOf code = 2 → ∀ h, h < 2 → unsigned h ∧
      ((decodeElem fmtE4M3 (scale h 1)).isNan = true → ∀ i, i < 16 → nan (16 * h + i)) ∧
      ((decodeElem fmtE4M3 (scale h 1)).isZero = true → ∀ i, i < 16 → zero (16 * h + i))) ∧
    (modeOf code = 3 → unsigned 1 ∧
      ((decodeElem fmtFP16 (scale 0 2)).isFin = false → ∀ i, i < 32 → nan i) ∧
      ((decodeElem fmtFP16 (scale 0 2)).isZero = true → ∀ i, i < 32 → zero i))

/-- R123: what a launch gives a group: when a waiting group takes its slot, every lane register of it is zero, s0 to s15 hold ARGS and s16
to s63 are zero, and its path is at ENTRY with threads 0 to THREADS − 1 in its mask. -/
def Obligations.LaunchState : Prop :=
  ∀ s core i r slot at_, nextResident s (coreSt s core) = some (i, r, slot, at_) → r.args.length = 16 →
    Answers (exec (.groupResident core) s) fun u => ∃ h p, groupAt u core slot = some h ∧
      (∀ x l, lane h x l = 0) ∧ (∀ x, x < 16 → r.args[x]? = some (getD 0 h.scalars x)) ∧
      (∀ x, 16 ≤ x → x < 64 → getD 0 h.scalars x = 0) ∧
      h.run = some p ∧ p.pc = r.entry ∧ ∀ t, bit p.mask t = decide (t < r.threads)

/-- R126, R145: the fetch of an instruction takes its word from the line of the core's instruction cache that holds it, or from the line
on its way whose sector has arrived. It changes no group of the core and nothing else of it but the instruction cache and the lines asked
for, no other core, no memory, and no part of the state but the counters, the translation caches and the requests at the slices. -/
def Obligations.InstructionFetch : Prop :=
  ∀ s s' w major op t, Issues s w major op t s' →
    ((∃ l k, cacheLine (coreSt s t.core) true t.g.ctx t.p.pc = some (l, k) ∧ w.toNat = fieldLE l.data (t.p.pc % 128) 8) ∨
      (cacheLine (coreSt s t.core) true t.g.ctx t.p.pc = none ∧ ∃ f d, fillOf (coreSt s t.core) true t.g.ctx t.p.pc = some f ∧
        f.data = some d ∧ sectorHere f t.p.pc = true ∧ w.toNat = fieldLE d (t.p.pc % 128) 8)) ∧
    fetched s t = s' ∧ groupAt s' t.core t.slot = some t.g ∧
    (∀ n, n ≠ t.slot → groupAt s' t.core n = groupAt s t.core n) ∧
    (∃ gs ic fs, coreSt s' t.core = { coreSt s t.core with groups := gs, icache := ic, fills := fs }) ∧
    (∀ c, c ≠ t.core → find s'.cores c = find s.cores c) ∧ Only [.regs, .trans, .slices, .cores] s s'

/-- R132, R134: each LINT operation of one element, for every TYPE: its result in each element of XD of the active threads. CLZ counts the
leading zeros of an element and POPC its ones. -/
def Obligations.LintElementwise : Prop :=
  LintDoes .lintAdd 0x00 2 (fun _ _ _ a b _ => a + b) ∧
  LintDoes .lintSub 0x01 2 (fun _ _ _ a b _ => a - b) ∧
  LintDoes .lintMul 0x02 2 (fun _ _ _ a b _ => a * b) ∧
  LintDoes .lintMad 0x04 3 (fun _ _ _ a b c => a * b + c) ∧
  LintDoes .lintAnd 0x07 2 (fun _ _ _ a b _ => a &&& b) ∧
  LintDoes .lintOr 0x08 2 (fun _ _ _ a b _ => a ||| b) ∧
  LintDoes .lintXor 0x09 2 (fun _ _ _ a b _ => a ^^^ b) ∧
  LintDoes .lintShl 0x0A 2 (fun _ _ wd a b _ => a <<< (b.toNat % wd)) ∧
  LintDoes .lintSel 0x0F 3 (fun _ _ _ a b c => if c = 0 then b else a) ∧
  LintDoes .lintAddi 0x10 1 (fun w _ wd a _ _ => a + (w.extractLsb' 48 16).signExtend wd) ∧
  LintDoes .lintClz 0x11 1 (fun _ _ wd a _ _ =>
    BitVec.ofNat wd ((List.range wd).takeWhile (fun i => !a.getMsbD i)).length) ∧
  LintDoes .lintPopc 0x12 1 (fun _ _ wd a _ _ => BitVec.ofNat wd ((List.range wd).filter (fun i => a.getLsbD i)).length)

/-- R132, R134: the LINT operations whose result depends on whether the TYPE is signed: the high half of a product, division, right shift,
minimum, maximum and the eight conditions. A quotient by zero is 0, a remainder by zero the dividend, and the most negative value by −1
gives itself and 0. -/
def Obligations.LintSigned : Prop :=
  LintDoes .lintMulh 0x03 2 (fun _ sg wd a b _ =>
    if sg then BitVec.ofInt wd (a.toInt * b.toInt / 2 ^ wd) else BitVec.ofNat wd (a.toNat * b.toNat / 2 ^ wd)) ∧
  LintDoes .lintDiv 0x05 2 (fun _ sg _ a b _ => if b = 0 then 0 else if sg then a.sdiv b else a / b) ∧
  LintDoes .lintRem 0x06 2 (fun _ sg _ a b _ => if b = 0 then a else if sg then a.srem b else a % b) ∧
  LintDoes .lintShr 0x0B 2 (fun _ sg wd a b _ =>
    if sg then a.sshiftRight (b.toNat % wd) else a >>> (b.toNat % wd)) ∧
  LintDoes .lintMin 0x0C 2 (fun _ sg _ a b _ => if (if sg then b.slt a else b.ult a) then b else a) ∧
  LintDoes .lintMax 0x0D 2 (fun _ sg _ a b _ => if (if sg then a.slt b else a.ult b) then b else a) ∧
  LintDoes .lintCmp 0x0E 2 (fun w sg wd a b _ =>
    let lt := if sg then a.slt b else a.ult b
    let holds := match (w.extractLsb' 48 3).toNat with
      | 0 => a == b
      | 1 => a != b
      | 2 => lt
      | 3 => lt || a == b
      | 4 => !lt && a != b
      | 5 => !lt
      | 6 => a.ult b
      | _ => !a.ult b
    if holds then 1#wd else 0#wd)

/-- R132, R134: MOVS copies a scalar register, low word or pair; LANEID gives the thread's number; SHFL gives XA of lane XB mod 32, and 0
where that thread is not active; VOTE gives any, all or the ballot of the active threads with XA ≠ 0 (mode 3 names no vote: log entry 15).
-/
def Obligations.LintWhole : Prop :=
  (∀ s s' w t, Issues s w mLINT 0x13 t s' → bit (wType t.w) 2 = false → regOk t.g (lintWords (wType t.w)) (wXD t.w) = true →
    LanesGet .lintMovs s w t (lintWords (wType t.w)) fun _ => scalar t.g (bits (wImm t.w) 5 0)) ∧
  (∀ s s' w t, Issues s w mLINT 0x14 t s' → bit (wType t.w) 2 = false → regOk t.g (lintWords (wType t.w)) (wXD t.w) = true →
    LanesGet .lintLaneid s w t (lintWords (wType t.w)) fun l => l) ∧
  (∀ s s' w t, Issues s w mLINT 0x15 t s' → bit (wType t.w) 2 = false → LaneRegs t (lintWords (wType t.w)) 2 →
    LanesGet .lintShfl s w t (lintWords (wType t.w)) fun l =>
      let k := laneWide (lintWords (wType t.w)) t.g (wXB t.w) l % 32
      if bit t.p.mask k then laneWide (lintWords (wType t.w)) t.g (wXA t.w) k else 0) ∧
  (∀ s s' w t, Issues s w mLINT 0x16 t s' → bit (wType t.w) 2 = false → LaneRegs t (lintWords (wType t.w)) 1 →
    bits (wImm t.w) 1 0 ≤ 2 →
    LanesGet .lintVote s w t (lintWords (wType t.w)) fun _ =>
      let yes := t.active.filter fun l => laneWide (lintWords (wType t.w)) t.g (wXA t.w) l ≠ 0
      match bits (wImm t.w) 1 0 with
      | 0 => if yes = [] then 0 else 1
      | 1 => if yes = t.active then 1 else 0
      | _ => yes.foldl (fun m l => m ||| 2 ^ l) 0)

/-- R134, R172: the LFP operations of one element give the exact value of the operation rounded once to the format; FMIN, FMAX, FABS, FNEG
and the comparisons follow the defined results of R172; FRCP, FRSQ, FEXP2, FLOG2, FSIN and FCOS give the function of the table of R174
that the vector engine gives for the same code and format. -/
def Obligations.LfpElementwise : Prop :=
  let fn (k : Nat) : Nat → Nat → Nat → Nat → Nat → Nat := fun _ fmt a _ _ => encodeElem fmt (fnNum k fmt (decodeElem fmt a) a)
  LfpDoes .fadd 0x00 2 (fun _ fmt a b _ => encodeElem fmt (addNum (decodeElem fmt a) (decodeElem fmt b))) ∧
  LfpDoes .fsub 0x01 2 (fun _ fmt a b _ => encodeElem fmt (subNum (decodeElem fmt a) (decodeElem fmt b))) ∧
  LfpDoes .fmul 0x02 2 (fun _ fmt a b _ => encodeElem fmt (mulNum (decodeElem fmt a) (decodeElem fmt b))) ∧
  LfpDoes .ffma 0x03 3 (fun _ fmt a b c => encodeElem fmt (fmaNum (decodeElem fmt a) (decodeElem fmt b) (decodeElem fmt c))) ∧
  LfpDoes .fmin 0x04 2 (fun _ fmt a b _ => encodeElem fmt (minNum (decodeElem fmt a) (decodeElem fmt b))) ∧
  LfpDoes .fmax 0x05 2 (fun _ fmt a b _ => encodeElem fmt (maxNum (decodeElem fmt a) (decodeElem fmt b))) ∧
  LfpDoes .fabs 0x06 1 (fun _ fmt a _ _ => encodeElem fmt (decodeElem fmt a).abs) ∧
  LfpDoes .fneg 0x07 1 (fun _ fmt a _ _ => encodeElem fmt (decodeElem fmt a).neg) ∧
  LfpDoes .fcmp 0x08 2 (fun w fmt a b _ =>
    bnat (condNum (bits (wImm w) 2 0) (decodeElem fmt a) (decodeElem fmt b))) ∧
  LfpDoes .fdiv 0x09 2 (fun _ fmt a b _ => encodeElem fmt (divNum (decodeElem fmt a) (decodeElem fmt b))) ∧
  LfpDoes .fsqrt 0x0A 1 (fun _ fmt a _ _ => encodeElem fmt (sqrtNum (decodeElem fmt a))) ∧
  LfpDoes .frcp 0x0B 1 (fn 0) ∧ LfpDoes .frsq 0x0C 1 (fn 1) ∧ LfpDoes .fexp2 0x0D 1 (fn 2) ∧ LfpDoes .flog2 0x0E 1 (fn 3) ∧
  LfpDoes .fsin 0x0F 1 (fn 6) ∧ LfpDoes .fcos 0x10 1 (fn 7)

/-- R132, R134: FCVT converts each element to the format of code IMM16[7:0], and ICVT between floating and integer elements, rounding to
nearest with saturation; elements are packed from bit 0 (log entry 16). -/
def Obligations.LaneConversions : Prop :=
  (∀ s s' w t, Issues s w mLFP 0x11 t s' →
    let sh := lfpShape (wType t.w)
    let code := bits (wImm t.w) 7 0
    let nd := wordsFor (sh.2.2 * elemBits (elemOf code))
    wType t.w ≤ 3 → isTarget code = true → modeOf code = 0 → isRaw (elemOf code) = false → 0 < nd →
    regOk t.g (wordsFor (sh.2.2 * sh.2.1)) (wXA t.w) = true → regOk t.g nd (wXD t.w) = true →
    Answers (exec (.fcvt t.core t.slot w) s) fun u => ∃ h,
      Ran t s u h ∧ SameScalars t.g h ∧ OnlyLanes t h (wXD t.w) nd ∧
      ∀ l i, l < 32 → bit t.p.mask l = true → i < sh.2.2 →
        laneElem (elemBits (elemOf code)) nd h (wXD t.w) l i = BitVec.ofNat _ (encodeElem (elemOf code)
          (decodeElem sh.1 (laneElem sh.2.1 (wordsFor (sh.2.2 * sh.2.1)) t.g (wXA t.w) l i).toNat))) ∧
  (∀ s s' w t, Issues s w mLFP 0x12 t s' →
    let fs := lfpShape (wType t.w)
    let it := bits (wImm t.w) 3 0
    let is := lintShape it
    wType t.w ≤ 3 → bit it 2 = false → bit (wImm t.w) 8 = true →
    regOk t.g (wordsFor (fs.2.2 * fs.2.1)) (wXA t.w) = true → regOk t.g (wordsFor (fs.2.2 * is.1)) (wXD t.w) = true →
    Answers (exec (.icvt t.core t.slot w) s) fun u => ∃ h,
      Ran t s u h ∧ SameScalars t.g h ∧ OnlyLanes t h (wXD t.w) (wordsFor (fs.2.2 * is.1)) ∧
      ∀ l i, l < 32 → bit t.p.mask l = true → i < fs.2.2 →
        laneElem is.1 (wordsFor (fs.2.2 * is.1)) h (wXD t.w) l i = BitVec.ofNat _ (toInt (lintSigned it) is.1
          (decodeElem fs.1 (laneElem fs.2.1 (wordsFor (fs.2.2 * fs.2.1)) t.g (wXA t.w) l i).toNat))) ∧
  (∀ s s' w t, Issues s w mLFP 0x12 t s' →
    let fs := lfpShape (wType t.w)
    let it := bits (wImm t.w) 3 0
    let is := lintShape it
    wType t.w ≤ 3 → bit it 2 = false → bit (wImm t.w) 8 = false → 0 < wordsFor (is.2 * fs.2.1) →
    regOk t.g (wordsFor (is.2 * is.1)) (wXA t.w) = true → regOk t.g (wordsFor (is.2 * fs.2.1)) (wXD t.w) = true →
    Answers (exec (.icvt t.core t.slot w) s) fun u => ∃ h,
      Ran t s u h ∧ SameScalars t.g h ∧ OnlyLanes t h (wXD t.w) (wordsFor (is.2 * fs.2.1)) ∧
      ∀ l i, l < 32 → bit t.p.mask l = true → i < is.2 →
        let e := laneElem is.1 (wordsFor (is.2 * is.1)) t.g (wXA t.w) l i
        laneElem fs.2.1 (wordsFor (is.2 * fs.2.1)) h (wXD t.w) l i =
          BitVec.ofNat _ (encodeElem fs.1 (numOfInt (if lintSigned it then e.toInt else (e.toNat : Int)))))

/-- R132, R134, R173: each SALU operation of SA and SB in SD. That DIV, REM, MIN and MAX read them as signed is DEDUCED (log entry 17).
R132: LI writes IMM16 to one 16-bit field of SD, the other bits kept, or cleared with FLAGS[2]; XTOS copies a lane register of the lowest
active thread; SREAD gives what its selector names (a selector of no meaning: log entry 15). -/
def Obligations.SaluOperations : Prop :=
  (SaluDoes .saluAdd 0x00 (fun _ a b => a + b) ∧
  SaluDoes .saluSub 0x01 (fun _ a b => a - b) ∧
  SaluDoes .saluMul 0x02 (fun _ a b => a * b) ∧
  SaluDoes .saluDiv 0x03 (fun _ a b => if b = 0 then 0 else a.sdiv b) ∧
  SaluDoes .saluRem 0x04 (fun _ a b => if b = 0 then a else a.srem b) ∧
  SaluDoes .saluAnd 0x05 (fun _ a b => a &&& b) ∧
  SaluDoes .saluOr 0x06 (fun _ a b => a ||| b) ∧
  SaluDoes .saluXor 0x07 (fun _ a b => a ^^^ b) ∧
  SaluDoes .saluShl 0x08 (fun _ a b => a <<< (b.toNat % 64)) ∧
  SaluDoes .saluShr 0x09 (fun _ a b => a >>> (b.toNat % 64)) ∧
  SaluDoes .saluSar 0x0A (fun _ a b => a.sshiftRight (b.toNat % 64)) ∧
  SaluDoes .saluMin 0x0B (fun _ a b => if b.slt a then b else a) ∧
  SaluDoes .saluMax 0x0C (fun _ a b => if a.slt b then b else a) ∧
  SaluDoes .saluCmp 0x0D (fun w a b =>
    let holds := match (w.extractLsb' 12 3).toNat with
      | 0 => a == b
      | 1 => a != b
      | 2 => a.slt b
      | 3 => a.slt b || a == b
      | 4 => !a.slt b && a != b
      | 5 => !a.slt b
      | 6 => a.ult b
      | _ => !a.ult b
    if holds then 1 else 0) ∧
  SaluDoes .saluAddi 0x0F (fun w a _ => a + (w.extractLsb' 48 16).signExtend 64)) ∧
  ((∀ s s' w t, Issues s w mSALU 0x0E t s' →
    let f := (w.extractLsb' 12 2).toNat
    let old : BitVec 64 := if w.getLsbD 14 then 0 else getD 0 t.g.scalars (wSD t.w)
    ScalarGets .saluLi s w t
      (old &&& ~~~((0xFFFF : BitVec 64) <<< (16 * f)) ||| ((w.extractLsb' 48 16).setWidth 64 <<< (16 * f)))) ∧
  (∀ s s' w t l, Issues s w mSALU 0x11 t s' → regOk t.g 1 (bits (wImm t.w) 7 0) = true → t.active.head? = some l →
    ScalarGets .xtos s w t (BitVec.ofNat 64 (lane t.g (bits (wImm t.w) 7 0) l))) ∧
  (∀ s s' w t v, Issues s w mSALU 0x10 t s' →
    (match wImm t.w with
      | 0 => some t.core
      | 1 => some (clusterOf s t.core)
      | 2 => some (dieOf s t.core)
      | 3 => some t.slot
      | 4 => some t.g.ctx
      | 5 => some (ctxPartition s t.g.ctx)
      | 6 => some s.tick.count.toNat
      | 7 => some s.tick.time.toNat
      | 8 => some s.tick.boundary.toNat
      | 9 => some t.g.scratchAt
      | 10 => some t.g.launchIdx
      | _ => none) = some v →
    ScalarGets .sread s w t (BitVec.ofNat 64 v)))

/-- R133, R143: LDL reads 2^SIZE bytes of the context's local store at XA[20:0] + IMM16 into XD for each active thread, extended with
zeros (log entry 19). R133, R268: STL writes the low 2^SIZE bytes of XB to the context's local store at XA[20:0] + IMM16 for each active
thread, in ascending lane order, and nothing else of it. -/
def Obligations.LocalAccesses : Prop :=
  (∀ s s' w t, Issues s w mLMEM 0x00 t s' → wType t.w ≤ 4 → regOk t.g (sizeWords (wType t.w)) (wXD t.w) = true →
    regOk t.g 1 (wXA t.w) = true → (∀ l ∈ t.active, lsGood s t (2 ^ wType t.w) (lsAddr t l) = true) →
    LanesGet .ldl s w t (sizeWords (wType t.w)) fun l =>
      ofLE ((List.range (2 ^ wType t.w)).map fun i => localByte s t.core t.g.ctx ((lsAddr t l).toNat + i))) ∧
  (∀ s s' w t, Issues s w mLMEM 0x01 t s' → wType t.w ≤ 4 → regOk t.g (sizeWords (wType t.w)) (wXB t.w) = true →
    regOk t.g 1 (wXA t.w) = true → (∀ l ∈ t.active, lsGood s t (2 ^ wType t.w) (lsAddr t l) = true) →
    Answers (exec (.stl t.core t.slot w) s) fun u => ∃ h,
      OnlyGroup t.core t.slot (fetched s t) u ∧ Landed t u h ∧ SameLanes t.g h ∧ SameScalars t.g h ∧
      (t.g.stack.length < 8 →
        (∀ ctx, ctx ≠ t.g.ctx → lsAlloc u t.core ctx = lsAlloc s t.core ctx) ∧
        (∀ n, localCtr u t.core t.g.ctx n = localCtr s t.core t.g.ctx n) ∧
        ∀ a, (∀ l, LastToTouch t (2 ^ wType t.w) (fun l => (lsAddr t l).toNat) a l →
            localByte u t.core t.g.ctx a =
              BitVec.ofNat 8 (laneWide (sizeWords (wType t.w)) t.g (wXB t.w) l / 256 ^ (a - (lsAddr t l).toNat))) ∧
          ((∀ l, ¬ TouchesByte t (2 ^ wType t.w) (fun l => (lsAddr t l).toNat) l a) →
            localByte u t.core t.g.ctx a = localByte s t.core t.g.ctx a)))

/-- R132, R133, R274: ATL performs its operation on the context's local store for the active threads in ascending lane: a thread finds
what the nearest lower thread with its address left, or else what the store held; XD receives that old value, and the store keeps the
value of the highest thread of an address. -/
def Obligations.LocalAtomics : Prop :=
  ∀ s s' w t, Issues s w mATOM 0x00 t s' → atomOk t false 1 = true →
    (∀ l ∈ t.active, lsGood s t (2 ^ wType t.w) (lsAddr t l) = true) →
    let k := sizeWords (wType t.w)
    let n := 2 ^ wType t.w
    let at_ := fun l => (lsAddr t l).toNat
    Answers (exec (.atl t.core t.slot w) s) fun u => ∃ h,
      OnlyGroup t.core t.slot (fetched s t) u ∧ Landed t u h ∧ SameScalars t.g h ∧ OnlyLanes t h (wXD t.w) k ∧
      let new := fun l => atomicNew (wAop t.w) (8 * n) (laneWide k h (wXD t.w) l) (laneWide k t.g (wXB t.w) l)
        (laneWide k t.g (wXB t.w + k) l) % 2 ^ (8 * n)
      (∀ l ∈ t.active,
        (∀ m ∈ t.active, m < l → at_ m = at_ l → (∀ j ∈ t.active, m < j → j < l → at_ j ≠ at_ l) →
          laneWide k h (wXD t.w) l = new m) ∧
        ((∀ m ∈ t.active, m < l → at_ m ≠ at_ l) → laneWide k h (wXD t.w) l =
          ofLE ((List.range n).map fun i => localByte s t.core t.g.ctx (at_ l + i)))) ∧
      (t.g.stack.length < 8 →
        ∀ a, (∀ l, LastToTouch t n at_ a l →
            localByte u t.core t.g.ctx a = BitVec.ofNat 8 (new l / 256 ^ (a - at_ l))) ∧
          ((∀ l, ¬ TouchesByte t n at_ l a) → localByte u t.core t.g.ctx a = localByte s t.core t.g.ctx a))

/-- R126, R133, R146, R227, R230, R265: LDC completes once the pages of its active threads translate. A thread on a strict page has what
memory holds, and a thread whose line the core holds, or whose sector has arrived, what that line shows under the core's own stores; the
threads whose data is on its way keep their registers until it arrives and are held with the load. It changes no memory. -/
def Obligations.CachedLoad : Prop :=
  ∀ s s' s1 s2 w t xs vs rest, Issues s w mCMEM 0x00 t s' → wType t.w ≤ 4 → regOk t.g (sizeWords (wType t.w)) (wXD t.w) = true →
    regOk t.g 2 (wXA t.w) = true → (∀ l ∈ t.active, vaGood (2 ^ wType t.w) (laneVa t l) = true) →
    xlateLanes t 1 s' = (some xs, s1) → xs.foldl (loadOne t (2 ^ wType t.w)) ⟨[], [], true, s1⟩ = ⟨vs, rest, true, s2⟩ →
    let k := sizeWords (wType t.w)
    let n := 2 ^ wType t.w
    Answers (exec (.ldc t.core t.slot w) s) fun u => ∃ h,
      Landed t u h ∧ SameScalars t.g h ∧ OnlyLanes t h (wXD t.w) k ∧
      h.loads = (if rest = [] then t.g.loads else t.g.loads ++ [⟨wXD t.w, k, n, rest⟩]) ∧
      Only [.freeSeq, .regs, .ctxs, .trans, .pkgs, .slices, .cores] (fetched s t) u ∧ (coreSt u t.core).stores = (coreSt s t.core).stores ∧
      ∀ x ∈ xs, x.1 ∈ t.active ∧ x.2.1 = laneVa t x.1 ∧
        (leafStrict x.2.2.2 = true → laneWide k h (wXD t.w) x.1 = ofLE (peek s x.2.2.1 n) % 2 ^ (32 * k)) ∧
        (leafStrict x.2.2.2 = false → ∀ d v, loadLine s1 t x.2.1 = some (d, v) →
          laneWide k h (wXD t.w) x.1 = fieldLE (ownView s t.core (x.2.2.1 / 128 * 128) d) (x.2.1 % 128) n % 2 ^ (32 * k)) ∧
        (leafStrict x.2.2.2 = false → loadLine s1 t x.2.1 = none →
          (x.1, x.2.1, x.2.2.1) ∈ rest ∧ laneWide k h (wXD t.w) x.1 = laneWide k t.g (wXD t.w) x.1)

/-- R146, R265: a core's load of a line sees the core's own stores that have not been performed: each byte is that of the newest store to
it, and a byte that none has stored is that of the line. R133, R146, R270: an STC of one active thread, no earlier load of whose group
waits for data of its line. To a page that is not strict, with room in the store buffer, it puts its bytes in the buffer and changes no
memory; to a strict page it writes memory, at its translated address only. R230, R240, R270: an entry that leaves the store buffer goes to
its line's home slice, behind what waits there but for the stores to its line that came in the same cycle from cores above its own;
without a home it is performed. The next sector of a line arrives; with the fourth the line is held and its fill ends; the groups whose
instruction has arrived go on, and the loads that waited for the sector have their data, under the core's own stores. -/
def Obligations.CachedStores : Prop :=
  (∀ (s : State) (core pa off : Nat) (d : List Byte), off < d.length →
    (∀ e ∈ pendingStores s core pa, ∀ p ∈ e, p.1 < d.length) → (∀ e ∈ pendingStores s core pa, keysRise e = true) →
    (ownView s core pa d)[off]? = some (((pendingStores s core pa).reverse.findSome? fun e => find e off).getD (d.getD off 0#8))) ∧
  (∀ s s' s1 w t l va pa leaf, Issues s w mCMEM 0x01 t s' → wType t.w ≤ 4 →
    regOk t.g (sizeWords (wType t.w)) (wXB t.w) = true → regOk t.g 2 (wXA t.w) = true → t.active = [l] →
    vaGood (2 ^ wType t.w) (laneVa t l) = true → xlateLanes t 2 s' = (some [(l, va, pa, leaf)], s1) →
    lineAhead t.g [(l, va, pa, leaf)] = none →
    let data := toLE (2 ^ wType t.w) (laneWide (sizeWords (wType t.w)) t.g (wXB t.w) l)
    (leafStrict leaf = false → (coreSt s t.core).stores.length < 16 →
      Answers (exec (.stc t.core t.slot w) s) fun u => ∃ h,
        Landed t u h ∧ SameLanes t.g h ∧ SameScalars t.g h ∧ Only [.freeSeq, .regs, .ctxs, .trans, .cores] (fetched s t) u ∧
        (∃ e ∈ (coreSt u t.core).stores, e.ctx = t.g.ctx ∧ e.pa = pa / 128 * 128 ∧
          ∀ i, i < data.length → find e.data (pa % 128 + i) = data[i]?) ∧
        ∀ e ∈ (coreSt s t.core).stores, e.ctx ≠ t.g.ctx ∨ e.pa ≠ pa / 128 * 128 → e ∈ (coreSt u t.core).stores) ∧
    (leafStrict leaf = true → accessOk s t.g.ctx pa data.length true = true → rangeUp s pa data.length = true →
      partlyPoisoned s pa data.length = [] →
      Answers (exec (.stc t.core t.slot w) s) fun u => ∃ h,
        Landed t u h ∧ SameLanes t.g h ∧ SameScalars t.g h ∧
        Only [.freeSeq, .regs, .ctxs, .trans, .cores, .bytes, .poison, .srPoison, .pkgs] (fetched s t) u ∧
        Written s pa data u)) ∧
  ((∀ s core i e slice, (coreSt s core).stores[i]? = some e → homeSlice s e.pa = some slice →
    Answers (exec (.storeBufferDrain core i) s) fun u =>
      (coreSt u core).stores = (coreSt s core).stores.eraseIdx i ∧ (coreSt u core).nextStore = (coreSt s core).nextStore + 1 ∧
      (∃ pre post, (sliceSt s slice).reqs = pre ++ post ∧
        (sliceSt u slice).reqs = pre ++ .store core s.tick.time.toNat (coreSt s core).nextStore e :: post ∧
        (post = [] ∨ ∃ c n x r, post = .store c s.tick.time.toNat n x :: r ∧ x.pa = e.pa ∧ core < c) ∧
        ∀ c n x, .store c s.tick.time.toNat n x ∈ pre → x.pa = e.pa → c ≤ core) ∧
      (∀ c, c ≠ slice → sliceSt u c = sliceSt s c) ∧ Only [.slices, .cores] s u) ∧
  (∀ s core i e, (coreSt s core).stores[i]? = some e → homeSlice s e.pa = none → (∀ p ∈ e.data, p.1 < 128) → keysRise e.data = true →
    e.pa % 128 = 0 → SoundAt s e.pa 128 → (∀ p ∈ e.data, accessOk s e.ctx (e.pa + p.1) 1 true = true) →
    accessOk s e.ctx e.pa 128 false = true →
    Answers (exec (.storeBufferDrain core i) s) fun u =>
      (coreSt u core).stores = (coreSt s core).stores.eraseIdx i ∧
      ∀ a, u.byteAt a = (if e.pa ≤ a then find e.data (a - e.pa) else none).getD (s.byteAt a)) ∧
  ∀ s core icache i f d, (coreSt s core).fills[i]? = some f → f.icache = icache → f.data = some d →
    let f' := { f with arrived := f.arrived + 1 }
    Answers (exec (.cacheSectorArrival core icache i) s) fun u => Only [.regs, .govs, .cores] s u ∧
      (f.arrived + 1 < 4 → (coreSt u core).fills[i]? = some f') ∧
      (4 ≤ f.arrived + 1 → (coreSt u core).fills = (coreSt s core).fills.eraseIdx i) ∧
      (4 ≤ f.arrived + 1 → f.stale = false → f.va % 128 = 0 → (∀ c, find ((coreSt s core).cache icache) (lineSet icache f.va) = some c →
          c.ways.length = (if icache then 4 else 8) ∧ ∀ l ∈ c.items, ¬ (l.ctx = f.ctx ∧ l.va = f.va)) →
        ∃ e k, cacheLine (coreSt u core) icache f.ctx f.va = some (e, k) ∧ e.data = d ∧ e.pa = f.pa) ∧
      (∀ slot g, groupAt s core slot = some g → g.ctx = f.ctx → g.cond = .lineMiss f.icache f.va →
        (f.icache = true → ∀ p, g.run = some p → sectorHere f' p.pc = true) →
        ∃ h, groupAt u core slot = some h ∧ h.cond = .clear ∧ h.run = g.run ∧ h.scalars = g.scalars ∧
          (icache = true ∨ g.loads = [] → h.lanes = g.lanes)) ∧
      ∀ slot g ld, groupAt s core slot = some g → g.ctx = f.ctx → icache = false → g.loads = [ld] →
        (ld.lanes.map Prod.fst).Nodup → (∀ e ∈ ld.lanes, e.1 < 32) →
        ∃ h, groupAt u core slot = some h ∧ ∀ e ∈ ld.lanes,
          (e.2.1 / 128 * 128 = f.va ∧ sectorHere f' e.2.1 = true → laneWide ld.words h ld.reg e.1 =
            fieldLE (ownView s core f.pa d) (e.2.1 % 128) ld.size % 2 ^ (32 * ld.words)) ∧
          (¬ (e.2.1 / 128 * 128 = f.va ∧ sectorHere f' e.2.1 = true) →
            laneWide ld.words h ld.reg e.1 = laneWide ld.words g ld.reg e.1 ∧ ∃ r ∈ h.loads, e ∈ r.lanes))

/-- R227, R274, R275: an ATC of one active thread on a strict page, with no store of its core waiting and no load of its group waiting for
data, reads the old value at the stack controller, writes the operation's result there and nowhere else, and puts the old value in XD.
R274: an ATC of one active thread on a page that is not strict works on the line at its home slice, when the slice holds it: the line
takes the new value and memory does not change. -/
def Obligations.CachedAtomics : Prop :=
  (∀ s s' s1 w t l va pa leaf, Issues s w mATOM 0x01 t s' → atomOk t true 2 = true → t.active = [l] →
    vaGood (2 ^ wType t.w) (laneVa t l) = true → xlateLanes t 11 s' = (some [(l, va, pa, leaf)], s1) →
    leafStrict leaf = true → accessOk s t.g.ctx pa (2 ^ wType t.w) true = true →
    accessOk s t.g.ctx pa (2 ^ wType t.w) false = true → SoundAt s pa (2 ^ wType t.w) →
    t.g.firstLoad = none → t.g.fenced = true ∨ NoStores s t.core →
    let k := sizeWords (wType t.w)
    let n := 2 ^ wType t.w
    let old := ofLE (peek s pa n)
    let new := atomicNew (wAop t.w) (8 * n) old (laneWide k t.g (wXB t.w) l) (laneWide k t.g (wXB t.w + k) l)
    Answers (exec (.atc t.core t.slot w) s) fun u => ∃ h,
      Landed t u h ∧ SameScalars t.g h ∧ OnlyLanes t h (wXD t.w) k ∧ laneWide k h (wXD t.w) l = old % 2 ^ (32 * k) ∧
      Only [.freeSeq, .regs, .ctxs, .trans, .cores, .bytes, .poison, .srPoison, .pkgs] (fetched s t) u ∧ Written s pa (toLE n new) u) ∧
  (∀ s s' s1 w t l va pa leaf slice i (line : AtticLine), Issues s w mATOM 0x01 t s' → atomOk t true 2 = true → t.active = [l] →
    vaGood (2 ^ wType t.w) (laneVa t l) = true → xlateLanes t 11 s' = (some [(l, va, pa, leaf)], s1) →
    leafStrict leaf = false → accessOk s t.g.ctx pa (2 ^ wType t.w) true = true →
    accessOk s t.g.ctx (pa / 128 * 128) 128 false = true → homeSlice s (pa / 128 * 128) = some slice →
    atticFind s slice (pa / 128 * 128) = some (i, line) → line.data.length = 128 →
    t.g.firstLoad = none → t.g.fenced = true ∨ NoStores s t.core →
    let k := sizeWords (wType t.w)
    let n := 2 ^ wType t.w
    let old := fieldLE line.data (pa % 128) n
    let new := atomicNew (wAop t.w) (8 * n) old (laneWide k t.g (wXB t.w) l) (laneWide k t.g (wXB t.w + k) l)
    Answers (exec (.atc t.core t.slot w) s) fun u => ∃ h,
      Landed t u h ∧ SameScalars t.g h ∧ OnlyLanes t h (wXD t.w) k ∧ laneWide k h (wXD t.w) l = old % 2 ^ (32 * k) ∧
      Only [.freeSeq, .regs, .ctxs, .trans, .cores, .slices] (fetched s t) u ∧
      ∃ j m, atticFind u slice (pa / 128 * 128) = some (j, m) ∧ m.dirty = true ∧
        m.data = overlayBytes line.data (pa % 128) (toLE n new))

/-- R131, R137, R139: BZ and BNZ test lane XA. A branch that none of the path's threads takes goes on; one that all take goes to its
target; one that some take divides the path: the others go on, and the threads that took it wait on the stack at the target. R131, R137,
R139: JMP goes to its target; BSZ and BSNZ do when scalar SA is, or is not, zero, and else go on; they never divide the path. -/
def Obligations.Branches : Prop :=
  (let branch (mk : Nat → Nat → BitVec 64 → Instr) (op : Nat) (takes : Nat → Prop) : Prop :=
    ∀ s s' w t, Issues s w mCTRL op t s' → regOk t.g 1 (wBrX t.w) = true →
      let taken := fun l => l ∈ t.active ∧ takes (lane t.g (wBrX t.w) l)
      let stays := fun l => l ∈ t.active ∧ ¬ takes (lane t.g (wBrX t.w) l)
      ((∀ l, ¬ taken l) →
        Answers (exec (mk t.core t.slot w) s) fun u => ∃ h, Ran t s u h ∧ SameLanes t.g h ∧ SameScalars t.g h) ∧
      (t.active ≠ [] → (∀ l, ¬ stays l) → GoesTo mk s w t (Target w t).toNat) ∧
      ((∃ l, taken l) → (∃ l, stays l) → t.g.stack.length < t.g.depth →
        (∀ d ∈ (DividedNest t).head?, d.2 ≠ (t.p.pc + 8) % 2 ^ 48 ∧ d.2 ≠ (Target w t).toNat) →
        DividesInto mk s w t ((t.p.pc + 8) % 2 ^ 48, stays) [((Target w t).toNat, taken)])
  branch .bz 0x00 (fun v => v = 0) ∧ branch .bnz 0x01 (fun v => v ≠ 0)) ∧
  ((∀ s s' w t, Issues s w mCTRL 0x04 t s' → GoesTo .jmp s w t (Target w t).toNat) ∧
  (∀ s s' w t, Issues s w mCTRL 0x02 t s' →
    GoesTo .bsz s w t (if getD 0 t.g.scalars (w.extractLsb' 16 6).toNat = 0 then (Target w t).toNat else (t.p.pc + 8) % 2 ^ 48)) ∧
  ∀ s s' w t, Issues s w mCTRL 0x03 t s' →
    GoesTo .bsnz s w t (if getD 0 t.g.scalars (w.extractLsb' 16 6).toNat = 0 then (t.p.pc + 8) % 2 ^ 48 else (Target w t).toNat))

/-- R131, R132: CALL puts the address of the next instruction in the pair XA of the active threads and goes to its target. R132, R137: JR
sends each thread to the address in its pair XA. With one address the path goes there; with more, the threads of the lowest run on and
those of each other address wait on the stack there. -/
def Obligations.CallsAndJumps : Prop :=
  (∀ s s' w t, Issues s w mCTRL 0x05 t s' → regOk t.g 2 (wBrX t.w) = true →
    Answers (exec (.call t.core t.slot w) s) fun u => ∃ h, OnlyGroup t.core t.slot (fetched s t) u ∧ groupAt u t.core t.slot = some h ∧
      SameLaunch t.g h ∧ SameScalars t.g h ∧ OnlyLanes t h (wBrX t.w) 2 ∧ PathAt t h (Target w t).toNat ∧
      ∀ l, l < 32 → bit t.p.mask l = true → laneWide 2 h (wBrX t.w) l = (t.p.pc + 8) % 2 ^ 48) ∧
  (∀ s s' w t, Issues s w mCTRL 0x06 t s' → regOk t.g 2 (wBrX t.w) = true →
    let goes := fun l => laneWide 2 t.g (wBrX t.w) l % 2 ^ 48
    (∀ a, t.active ≠ [] → (∀ l ∈ t.active, goes l = a) → GoesTo .jr s w t a) ∧
    (∀ a rest, rest ≠ [] → (a :: rest).Pairwise (· < ·) → (∀ l ∈ t.active, goes l ∈ a :: rest) →
      (∀ b ∈ a :: rest, ∃ l ∈ t.active, goes l = b) → t.g.stack.length + rest.length ≤ t.g.depth →
      (∀ d ∈ (DividedNest t).head?, d.2 ∉ a :: rest) →
      DividesInto .jr s w t (a, fun l => l ∈ t.active ∧ goes l = a) (rest.map fun b => (b, fun l => l ∈ t.active ∧ goes l = b))))

/-- R125, R138: EXIT ends the path's threads. With another path the group stays, without those threads; with none it leaves its slot, and
every other group stays. R139: after 64 backward transfers, with another path that is not blocked on top of the stack, the running path
goes to the bottom of the stack and the top entry is scheduled with a count of 0; one that waited at its reconvergence PC goes on as a
detached path of the enclosing divergence. The group's registers stay. -/
def Obligations.PathEnds : Prop :=
  (∀ s s' w t, Issues s w mCTRL 0x07 t s' →
    (t.g.stack ≠ [] → Answers (exec (.exit t.core t.slot w) s) fun u => ∃ h,
      OnlyGroup t.core t.slot (fetched s t) u ∧ groupAt u t.core t.slot = some h ∧ h.lanes = t.g.lanes ∧ h.scalars = t.g.scalars ∧
      h.queue = t.g.queue ∧ ∀ l, l < 32 → bit h.live l = (bit t.g.live l && !bit t.p.mask l)) ∧
    (t.g.stack = [] → Answers (exec (.exit t.core t.slot w) s) fun u =>
      groupAt u t.core t.slot = none ∧ (∀ n, n ≠ t.slot → groupAt u t.core n = groupAt s t.core n) ∧
      ∀ c, c ≠ t.core → find u.cores c = find s.cores c)) ∧
  (∀ s core slot g p q rest, core < 144 → groupAt s core slot = some g → g.run = some p → g.active = true → g.cond = .clear →
    p.canRun = true → 64 ≤ p.back → p.atRpc = false → g.stack = q :: rest → q.blocked = none → g.stack.length ≤ 8 →
    let q' : Path := if q.waiting then { q with waiting := false, nest := q.nest.tail, back := 0 } else { q with back := 0 }
    q'.atRpc = false →
    Answers (exec (.pathRotation core slot) s) fun u => ∃ h,
      OnlyGroup core slot s u ∧ groupAt u core slot = some h ∧ SameLaunch g h ∧ SameLanes g h ∧ SameScalars g h ∧
      h.run = some q' ∧ p ∈ h.stack)

/-- R148, R150, R126, R140: CWAIT goes on when its local counter has reached the low 32 bits of SA, by the sign of their 32-bit
difference; else its path is blocked at the next instruction, and a group with no other path waits on its counters. R149, R150, R126:
RCWAIT does the same with a remote counter that hardware holds; for one it does not hold, the group is not ready until its fetch, and
executes the instruction again. No loss is due before it (`State.settled`, which every step keeps). -/
def Obligations.CounterWaits : Prop :=
  (∀ s s' w t, Issues s w mSYNC 0x00 t s' →
    let n := bits (wImm t.w) 5 0
    let thr : Word32 := (getD 0 t.g.scalars (wSA t.w)).setWidth 32
    bits (wImm t.w) 15 6 = 0 → n < localCtrs s t.core t.g.ctx →
    (0 ≤ (localCtr s t.core t.g.ctx n - thr).toInt →
      Answers (exec (.cwait t.core t.slot w) s) fun u => ∃ h, Ran t s u h ∧ SameLanes t.g h ∧ SameScalars t.g h) ∧
    ((localCtr s t.core t.g.ctx n - thr).toInt < 0 → t.g.stack = [] →
      WaitsOn .cwait s w t [.freeSeq, .regs, .cores] .counters fun u h => OnlyGroup t.core t.slot (fetched s t) u ∧
        ∃ p, h.run = some p ∧ p.pc = (t.p.pc + 8) % 2 ^ 48 ∧ p.mask = t.p.mask ∧ p.blocked = some (.counter false n thr)) ∧
    ((localCtr s t.core t.g.ctx n - thr).toInt < 0 → ∀ q rest, t.g.stack = q :: rest → q.canRun = true →
      q.atRpc = false → rest.length < 8 →
      Answers (exec (.cwait t.core t.slot w) s) fun u => ∃ h, OnlyGroup t.core t.slot (fetched s t) u ∧
        groupAt u t.core t.slot = some h ∧ SameLaunch t.g h ∧ SameLanes t.g h ∧ SameScalars t.g h ∧ h.active = true ∧
        h.run = some { q with back := 0 } ∧ Blocked h false n thr)) ∧
  (∀ s s' w t, Issues s w mSYNC 0x01 t s' → s.settled →
    let n := bits (wImm t.w) 9 0
    let thr : Word32 := (getD 0 t.g.scalars (wSA t.w)).setWidth 32
    bits (wImm t.w) 15 10 = 0 →
    (HeldCounter s t.g.ctx n → 0 ≤ (remoteCtr s t.g.ctx n - thr).toInt →
      Completes .rcwait s w t [.freeSeq, .regs, .ctxs, .cores] fun u => ∀ c m, remoteCtr u c m = remoteCtr s c m) ∧
    (HeldCounter s t.g.ctx n → (remoteCtr s t.g.ctx n - thr).toInt < 0 → t.g.stack = [] →
      WaitsOn .rcwait s w t [.freeSeq, .regs, .ctxs, .cores] .counters fun u h => (∀ c m, remoteCtr u c m = remoteCtr s c m) ∧
        ∃ p, h.run = some p ∧ p.pc = (t.p.pc + 8) % 2 ^ 48 ∧ p.blocked = some (.counter true n thr)) ∧
    ((∀ c, find s.ctxs t.g.ctx = some c → n ∉ c.heldCtrs) → StaysFor .rcwait s w t [.cores] (.counterFetch n)))

/-- R57, R148, R150, R158: CSET sets a local counter to the low 32 bits of SA and CADD adds them modulo 2^32; every path of the core's
groups of the context that waited for that counter with a threshold it now meets stops waiting. CREAD reads it. R149, R286: on a remote
counter that hardware holds, CSET and CADD of scope 5, the core's stores performed (its FENCE.ST is over, or no store waits), write the
context's counter, and CREAD reads it. R149: the fetch of a remote counter makes it held, the most recently used of at most 256, and no
group goes on waiting for it; the counters of its context keep their values, one that leaves hardware in its backing word. -/
def Obligations.Counters : Prop :=
  (let writes (mk : Nat → Nat → BitVec 64 → Instr) (op : Nat) (new : Word32 → Word32 → Word32) : Prop :=
    ∀ s s' w t, Issues s w mSYNC op t s' → t.p.atRpc = false → t.g.stack.length < 8 →
      let n := bits (wImm t.w) 5 0
      let v := new (localCtr s t.core t.g.ctx n) ((getD 0 t.g.scalars (wSA t.w)).setWidth 32)
      bits (wImm t.w) 15 6 = 0 → n < localCtrs s t.core t.g.ctx →
      Completes mk s w t [.freeSeq, .regs, .govs, .cores] fun u =>
        localCtr u t.core t.g.ctx n = v ∧
        (∀ ctx m, ctx ≠ t.g.ctx ∨ m ≠ n → localCtr u t.core ctx m = localCtr s t.core ctx m) ∧
        (∀ ctx a, localByte u t.core ctx a = localByte s t.core ctx a) ∧
        ∀ m g thr, groupAt s t.core m = some g → g.ctx = t.g.ctx → 0 ≤ (v - thr).toInt →
          ∃ h, groupAt u t.core m = some h ∧ ¬ Blocked h false n thr
  writes .cset 0x02 (fun _ x => x) ∧ writes .cadd 0x03 (fun old x => old + x) ∧
  ∀ s s' w t, Issues s w mSYNC 0x04 t s' → bits (wImm t.w) 15 6 = 0 → bits (wImm t.w) 5 0 < localCtrs s t.core t.g.ctx →
    ScalarGets .cread s w t ((localCtr s t.core t.g.ctx (bits (wImm t.w) 5 0)).setWidth 64)) ∧
  (let writes (mk : Nat → Nat → BitVec 64 → Instr) (op : Nat) (new : Word32 → Word32 → Word32) : Prop :=
    ∀ s s' w t, Issues s w mSYNC op t s' → s.settled → t.p.atRpc = false → (t.g.fenced = true ∨ NoStores s t.core) →
      bits (wFlags t.w) 4 2 = 5 →
      let n := bits (wImm t.w) 9 0
      let v := new (remoteCtr s t.g.ctx n) ((getD 0 t.g.scalars (wSA t.w)).setWidth 32)
      bits (wImm t.w) 15 10 = 0b100000 → HeldCounter s t.g.ctx n →
      Completes mk s w t [.freeSeq, .regs, .govs, .ctxs, .cores] fun u =>
        remoteCtr u t.g.ctx n = v ∧ (∀ ctx m, ctx ≠ t.g.ctx ∨ m ≠ n → remoteCtr u ctx m = remoteCtr s ctx m)
  writes .cset 0x02 (fun _ x => x) ∧ writes .cadd 0x03 (fun old x => old + x) ∧
  ∀ s s' w t, Issues s w mSYNC 0x04 t s' → s.settled → bits (wImm t.w) 15 10 = 0b100000 → HeldCounter s t.g.ctx (bits (wImm t.w) 9 0) →
    Answers (exec (.cread t.core t.slot w) s) fun u => ∃ h, Landed t u h ∧ SameLanes t.g h ∧ OnlyScalar t h (wSD t.w) ∧
      Only [.freeSeq, .regs, .ctxs, .cores] (fetched s t) u ∧
      getD 0 h.scalars (wSD t.w) = (remoteCtr s t.g.ctx (bits (wImm t.w) 9 0)).setWidth 64) ∧
  (∀ s ctx n core slot g c, groupAt s core slot = some g → g.ctx = ctx → g.cond = .counterFetch n → find s.ctxs ctx = some c →
    s.settled → c.heldCtrs.length ≤ 256 → c.heldCtrs.Nodup → (∀ m ∈ n :: c.heldCtrs, SoundAt s (backingPa c m) 4) →
    Answers (exec (.remoteCounterFetched ctx n) s) fun u =>
      (∃ d, find u.ctxs ctx = some d ∧ d.heldCtrs = (n :: c.heldCtrs.filter (· != n)).take 256) ∧
      (∀ m, remoteCtr u ctx m = remoteCtr s ctx m) ∧
      (∃ h, groupAt u core slot = some h ∧ h.cond = .clear ∧ h.lanes = g.lanes ∧ h.scalars = g.scalars ∧ h.run = g.run) ∧
      Only [.regs, .govs, .ctxs, .bytes, .poison, .srPoison, .cores] s u)

/-- R287 to R290: a BAR that keeps to its fields counts an arrival of its core, with E from SA and the widest scope of the phase; while a
member core is missing the group waits on the barrier; the arrival that completes a barrier of one module starts its next phase and clears
every group of the context that waits on it. -/
def Obligations.Barriers : Prop :=
  ∀ s s' w t c b, Issues s w mSYNC 0x05 t s' → barBad s t = false → find s.ctxs t.g.ctx = some c →
    let n := bits (wImm t.w) 3 0
    find c.bars n = some b → t.core < numCores s →
    (t.g.fenced = true ∨ NoStores s t.core ∨ bits (wFlags t.w) 4 2 < 2) →
    let k := barrierCount b t.core
    let arrived := (k.1 + 1, (getD 0 t.g.scalars (wSA t.w)).toNat, max k.2.2 (bits (wFlags t.w) 4 2))
    let b' := { b with counts := insert b.counts t.core arrived }
    (allArrived s b' = false →
      WaitsOn .bar s w t [.freeSeq, .regs, .ctxs, .cores] (.barrier n) fun u h =>
        ((t.p.rpc ≠ some ((t.p.pc + 8) % 2 ^ 48)) → ∃ p, h.run = some p ∧ p.pc = (t.p.pc + 8) % 2 ^ 48) ∧
        ∃ d, find u.ctxs t.g.ctx = some d ∧ find d.bars n = some b') ∧
    (allArrived s b' = true → b.ring = none →
      Answers (exec (.bar t.core t.slot w) s) fun u => ∃ h d,
        groupAt u t.core t.slot = some h ∧ SameLaunch t.g h ∧ SameLanes t.g h ∧ SameScalars t.g h ∧ h.cond = .clear ∧
        find u.ctxs t.g.ctx = some d ∧ find d.bars n = some { b with counts := [], phase := b.phase + 1 } ∧
        (∀ core ∈ barrierCores s b, ∀ m g, groupAt s core m = some g → g.ctx = t.g.ctx → g.cond = .barrier n →
          ∃ h, groupAt u core m = some h ∧ h.cond = .clear ∧ h.lanes = g.lanes ∧ h.scalars = g.scalars))

/-- R272, R273: a legal FENCE completes, the group's registers as they were, once its load fence has the data of every earlier load of the
group and its store fence of scope 2 to 5 finds every store of the core performed; a load fence of scope 2 to 5 leaves no line of the
context in the core's data cache, and one of scope 0 or 1 changes nothing but the group's path. Until then the group waits: for the line
of its first load, or, every store having left the buffer for its slice, for the stores numbered so far. R126, R127: YIELD sends the group
to the pending set with its condition cleared last of all. R147: ICINV and DCINV drop the context's lines of the core's caches: all of
them, or for DCINV with SB ≠ 0 those that meet [SA, SA + SB). R36: PROG raises the progress counter of a real-time submission by 1, and
does nothing to another's. -/
def Obligations.FencesAndInvalidations : Prop :=
  (∀ s s' w t, Issues s w mSYNC 0x06 t s' → bit (wFlags t.w) 5 = false → bits (wFlags t.w) 4 2 ≤ 5 →
    let loads := bit (wFlags t.w) 0
    let stores := bit (wFlags t.w) 1 && decide (2 ≤ bits (wFlags t.w) 4 2)
    (loads = true → ∀ va, t.g.firstLoad = some va → WaitsOn .fence s w t [.cores] (.lineMiss false va) fun _ h => h.run = some t.p) ∧
    ((loads = true → t.g.firstLoad = none) →
      (bits (wFlags t.w) 4 2 < 2 →
        Answers (exec (.fence t.core t.slot w) s) fun u => ∃ h, Ran t s u h ∧ SameLanes t.g h ∧ SameScalars t.g h) ∧
      ((stores = true → t.g.fenced = true ∨ NoStores s t.core) →
        Completes .fence s w t [.freeSeq, .regs, .cores] fun u => loads = true → 2 ≤ bits (wFlags t.w) 4 2 →
          ∀ e ∈ (coreSt u t.core).dcache, ∀ l ∈ e.2.items, l.ctx ≠ t.g.ctx) ∧
      (stores = true → t.g.fenced = false → (coreSt s t.core).stores ≠ [] →
        (∀ e ∈ (coreSt s t.core).stores, (homeSlice s e.pa).isSome = true) →
        WaitsOn .fence s w t [.slices, .cores] (.fence ((coreSt s t.core).nextStore + (coreSt s t.core).stores.length)) fun u h =>
          h.run = some t.p ∧ (coreSt u t.core).stores = []))) ∧
  ((∀ s s' w t, Issues s w mSYNC 0x07 t s' → t.p.rpc ≠ some ((t.p.pc + 8) % 2 ^ 48) →
    WaitsOn .yield s w t [.freeSeq, .regs, .govs, .cores] .clear fun u h => PathAt t h ((t.p.pc + 8) % 2 ^ 48) ∧
      h.clearedAt = (coreSt s t.core).clearSeq + 1 ∧ (coreSt u t.core).clearSeq = (coreSt s t.core).clearSeq + 1 ∧
      ∀ m, m ≠ t.slot → groupAt u t.core m = groupAt s t.core m) ∧
  (∀ s s' w t, Issues s w mSYNC 0x08 t s' → Completes .icinv s w t [.freeSeq, .regs, .govs, .cores] fun u =>
    (∀ e ∈ (coreSt u t.core).icache, ∀ l ∈ e.2.items, l.ctx ≠ t.g.ctx) ∧ (coreSt u t.core).dcache = (coreSt s t.core).dcache) ∧
  (∀ s s' w t, Issues s w mSYNC 0x09 t s' → Completes .dcinv s w t [.freeSeq, .regs, .govs, .cores] fun u =>
    let a := (getD 0 t.g.scalars (wSA t.w)).toNat
    let n := (getD 0 t.g.scalars (wSB t.w)).toNat
    ∀ e ∈ (coreSt u t.core).dcache, ∀ l ∈ e.2.items, l.ctx = t.g.ctx → n ≠ 0 ∧ (a + n ≤ l.va ∨ l.va + 128 ≤ a)) ∧
  (∀ s s' w t b q, Issues s w mSYNC 0x0A t s' → find s.subs t.g.queue = some b → find s.queues t.g.queue = some q →
    Completes .prog s w t [.freeSeq, .regs, .subs, .cores] fun u => find u.subs t.g.queue =
      some (if q.cls = 0 then { b with progress := b.progress + 1 } else b) ∧ ∀ k, k ≠ t.g.queue → find u.subs k = find s.subs k))

/-- R151, R152: ACOPY with a descriptor at SA that keeps to its table, and room for one more of 32, copies the descriptor and puts the
copy at the end of its core's list; with 32 there the group waits and executes it again. ACOPY_START starts the oldest waiting copy while
fewer than four run. ACOPY_COMPLETE of a copy within local store moves its bytes, adds 1 to the counter that CTR names, and removes it.
R154, R318, R320: DBELL takes the queue of SA and the write index of SB, sends the core's stores to their slices, and blocks its path
until the group's earlier work is visible; the group's registers stay. DBELL_POST then lets the path go on with 0 in SD and the queue's
write index set, when the bell is accepted; with 1 when the queue is not created, takes no device doorbells or belongs to another
partition; and with 2 when the index is out of its range; in these two cases no queue changes. -/
def Obligations.CopiesAndDoorbells : Prop :=
  ((∀ s s' w t, Issues s w mCOPY 0x00 t s' →
    let a := (getD 0 t.g.scalars (wSA t.w)).toNat
    let d := lsRead s t.core t.g.ctx a 32
    let gen := genOf s t.g.queue t.g.ctx
    let k := coreSt s t.core
    a % 32 = 0 → lsRange s t.core t.g.ctx a 32 = true →
    (32 ≤ k.copies.length → WaitsOn .acopy s w t [.cores] .copyFull fun _ h => h.run = some t.p) ∧
    (k.copies.length < 32 → cdOk s t.core t.g.ctx d = true → ∀ x y,
      copySide s t.g.ctx gen (cdSrcSpace d) (cdSrcHandle d) (cdSrc d) (cdLength d) false = some x →
      copySide s t.g.ctx gen (cdDstSpace d) (cdDstHandle d) (cdDst d) (cdLength d) true = some y →
      outsideSpace (cdSrcSpace d) x (cdLength d) = false → outsideSpace (cdDstSpace d) y (cdLength d) = false →
      Completes .acopy s w t [.freeSeq, .regs, .cores] fun u => (coreSt u t.core).copies =
        k.copies ++ [⟨k.nextCopy, t.g.ctx, t.g.queue, t.slot, d, gen, false, 0, none⟩])) ∧
  (∀ s core c rest front, (coreSt s core).copies = front ++ c :: rest → (∀ x ∈ front, x.running = true ∧ x.id ≠ c.id) →
    (∀ x ∈ rest, x.id ≠ c.id) → c.running = false → (coreSt s core).copies.countP Copy.running < 4 → mayRun s c.queue = true →
    (coreSt s core).held = false →
    Answers (exec (.acopyStart core) s) fun u => Only [.regs, .trans, .cores] s u ∧
      (coreSt u core).copies = front ++ { c with running := true } :: rest) ∧
  (∀ s core i c, (coreSt s core).copies[i]? = some c → c.running = true → c.stall = none → c.done = 0 →
    missing s (.copy core c.id) = false → mayRun s c.queue = true → (coreSt s core).held = false →
    cdSrcSpace c.desc = 0 → cdDstSpace c.desc = 0 → 0 < cdLength c.desc → cdLength c.desc ≤ 65536 →
    (lsAlloc s core c.ctx).isSome = true →
    Answers (exec (.acopyComplete core i) s) fun u => Only [.regs, .govs, .subs, .cores] s u ∧
      (coreSt u core).copies = (coreSt s core).copies.filter (fun x => x.id != c.id) ∧
      (∀ a, localByte u core c.ctx a = if cdDst c.desc ≤ a ∧ a < cdDst c.desc + cdLength c.desc then
        localByte s core c.ctx (cdSrc c.desc + (a - cdDst c.desc)) else localByte s core c.ctx a) ∧
      ∀ n, localCtr u core c.ctx n =
        if bit (cdCtr c.desc) 7 = true ∧ n = bits (cdCtr c.desc) 5 0 then localCtr s core c.ctx n + 1 else localCtr s core c.ctx n)) ∧
  ((∀ s s' w t, Issues s w mISSUE 0x01 t s' → (∀ e ∈ (coreSt s t.core).stores, (homeSlice s e.pa).isSome = true) →
    Answers (exec (.dbell t.core t.slot w) s) fun u => ∃ h,
      let k := coreSt s t.core
      groupAt u t.core t.slot = some h ∧ SameLaunch t.g h ∧ SameLanes t.g h ∧ SameScalars t.g h ∧
      Only [.freeSeq, .regs, .slices, .cores] (fetched s t) u ∧ (coreSt u t.core).stores = [] ∧
      (coreSt u t.core).dbells = k.dbells ++ [⟨k.nextBell, t.slot, t.g.queue, (getD 0 t.g.scalars (wSA t.w)).toNat % 8192,
        (getD 0 t.g.scalars (wSB t.w)).setWidth 32, wSD t.w, k.nextStore + k.stores.length⟩] ∧
      (t.g.stack = [] → h.run = some { t.p with pc := (t.p.pc + 8) % 2 ^ 48, blocked := some (.bell k.nextBell) })) ∧
  ∀ s core slot b g p, (coreSt s core).dbells.find? (fun x => x.slot == slot) = some b → groupAt s core slot = some g → s.settled →
    g.run = some p → p.blocked = some (.bell b.id) → p.waiting = false → p.atRpc = false → g.cond = .counters → mayRun s g.queue = true →
    storesAwaited s core b.upto = false → (coreSt s core).copies.any (fun c => c.slot == slot && c.queue == g.queue) = false →
    (coreSt s core).draughts.any (fun d => d.slot == some slot && d.queue == g.queue && writesBulk d) = false →
    partlyPoisoned s (regPair s offQueueTable + 64 * b.rings + 0x18) 8 = [] →
    let r := match find s.queues b.rings with
      | none => 1
      | some u =>
        if bit u.flags 0 = false ∨ ctxPartition s u.ctx ≠ ctxPartition s g.ctx then 1
        else if (b.index - u.write).toNat ≤ 2 ^ u.log2 ∧ (b.index - u.read).toNat ≤ 2 ^ u.log2 then 0 else 2
    Answers (exec (.dbellPost core slot) s) fun u => ∃ h,
      groupAt u core slot = some h ∧ SameLaunch g h ∧ SameLanes g h ∧ h.cond = .clear ∧ h.run = some { p with blocked := none } ∧
      (∀ k, getD 0 h.scalars k = if k = b.sd then BitVec.ofNat 64 r else getD 0 g.scalars k) ∧
      (coreSt u core).dbells = (coreSt s core).dbells.filter (fun x => x.id != b.id) ∧
      (r = 0 → (∃ x, find u.queues b.rings = some x ∧ x.write = b.index) ∧ ∀ k, k ≠ b.rings → find u.queues k = find s.queues k) ∧
      (r ≠ 0 → Only [.regs, .govs, .cores] s u))

/-- R123, R124, R127: the waiting group that comes first for its context, and whose submission may run, takes a slot with the registers of
its launch: all lanes zero, ARG0 to ARG15 in s0 to s15, THREADS live, at ENTRY. R126: with fewer than eight active groups, the pending one
whose condition cleared first becomes active. R292: a core whose groups all wait on counters or barriers and that has no work in progress
stops its clock, and keeps all else. R293, R441, R442: in a window of 100 ns a die's governor grants, in the order of their asking, at
most what the window still holds; a granted wake starts the core's clock, and a granted hold or release sets or clears the core's hold. -/
def Obligations.GroupsAndClocks : Prop :=
  ((∀ s core i r slot at_, nextResident s (coreSt s core) = some (i, r, slot, at_) → r.args.length = 16 →
    Answers (exec (.groupResident core) s) fun u => ∃ h,
      groupAt u core slot = some h ∧ groupAt s core slot = none ∧ (∀ n, n ≠ slot → groupAt u core n = groupAt s core n) ∧
      (coreSt u core).launchQ = (coreSt s core).launchQ.eraseIdx i ∧ (coreSt u core).allocs = (coreSt s core).allocs ∧
      h.ctx = r.ctx ∧ h.queue = r.queue ∧ h.regs = r.regs ∧ h.depth = r.depth ∧ h.scratchAt = at_ ∧ h.launchIdx = r.idx ∧
      (∀ x l, lane h x l = 0) ∧ (∀ x, getD 0 h.scalars x = if x < 16 then r.args.getD x 0 else 0) ∧
      h.live = 2 ^ r.threads - 1 ∧ (∃ p, h.run = some p ∧ p.pc = r.entry ∧ p.mask = 2 ^ r.threads - 1) ∧ h.stack = [] ∧
      h.active = false ∧ h.cond = .clear ∧ Only [.regs, .govs, .cores] s u) ∧
  ∀ s core slot g, promotable (coreSt s core) = some (slot, g) → (coreSt s core).groups.countP (fun x => x.2.active) < 8 →
    (coreSt s core).gated = false → keysRise (coreSt s core).groups = true →
    groupAt s core slot = some g ∧ g.active = false ∧ g.cond = .clear ∧
    (∀ n h, groupAt s core n = some h → h.active = false → h.cond = .clear → g.clearedAt ≤ h.clearedAt) ∧
    Answers (exec (.groupPromote core) s) fun u => groupAt u core slot = some { g with active := true } ∧
      (∀ n, n ≠ slot → groupAt u core n = groupAt s core n) ∧ Only [.cores] s u ∧
      ∀ c, c ≠ core → find u.cores c = find s.cores c) ∧
  ((∀ s core, (coreSt s core).gated = false → (coreSt s core).groups ≠ [] →
    (∀ e ∈ (coreSt s core).groups, e.2.active = false ∧ (e.2.cond = .counters ∧ waitsCounter e.2 = true ∨ ∃ n, e.2.cond = .barrier n)) →
    coreQuiet s core = true →
    Answers (exec (.coreClockGate core) s) fun u => coreSt u core = { coreSt s core with gated := true } ∧
      (∀ c, c ≠ core → find u.cores c = find s.cores c) ∧ Only [.cores] s u) ∧
  ∀ s die, die < 2 → Answers (exec (.wakeWindow die) s) fun u =>
    let g := governor s die
    let g := if g.window = s.tick.time.toNat / 100 then g else { g with window := s.tick.time.toNat / 100, grants := 0, gust := false }
    let n := 16 - windowUsed (g.trim (s.tick.time.toNat / 100)) (s.tick.time.toNat / 100)
    (governor u die).waiting = (governor s die).waiting.drop n ∧
    (∀ w ∈ (governor s die).waiting.take n, ((governor s die).waiting.take n).countP (fun x => x.core == w.core) = 1 →
      (w.kind = .wake → (coreSt u w.core).gated = false) ∧ (w.kind = .enter → (coreSt u w.core).held = true) ∧
      (w.kind = .leave → (coreSt u w.core).held = false)) ∧
    (∀ c, (∀ w ∈ (governor s die).waiting.take n, w.core ≠ c) → find u.cores c = find s.cores c) ∧
    Only [.regs, .govs, .cores] s u)

/-- R106 to R109, R118: MLOAD, MRUN, MDRAIN, MCLR and MTF, with their configuration legal, put their operation in the matrix queue, with
the values of SA and SB at issue, and the group goes on; with 16 entries in use the group waits and executes the instruction again. An
MLOAD's issue closes the open batches on the banks that it loads into (R117). R114, R115, R117: MREQ writes its status to SD: 1 for a
context that does not own the array and for a tag that no RESIDENT bank has, 3 with no rows reserved, 2 where it needs a new batch and two
gather. Accepted, it is the last request of the first open batch that shares its tag, bank, formats and slices, or of a new one; a batch
that is full, or has no window, closes. -/
def Obligations.MatrixRequests : Prop :=
  (let queues (mk : Nat → Nat → BitVec 64 → Instr) (op : Nat) (ok : State → Thread → ArraySt → Nat → Nat → Nat → Nat → Prop)
      (put : ArraySt → MatOp → ArraySt) : Prop :=
    ∀ s s' w t a v p n, Issues s w mMATRIX op t s' → Owned s t.core t.g.ctx a v →
      let x := scalar t.g (wSA t.w)
      let y := scalar t.g (wSB t.w)
      ok s t a x y p n →
      (16 ≤ a.inUse → WaitsOn mk s w t [.cores] .matrixFull fun _ h => h.run = some t.p) ∧
      (a.inUse < 16 → Completes mk s w t [.freeSeq, .regs, .cores] fun u =>
        (coreSt u t.core).array = put { a with seq := a.seq + 1 }
          ⟨a.seq, w, BitVec.ofNat 64 x, BitVec.ofNat 64 y, t.slot, t.g.queue, t.g.ctx, p, n⟩ ∧ (coreSt u t.core).vec = v)
  let behind (a : ArraySt) (o : MatOp) : ArraySt := { a with queue := a.queue ++ [o] }
  queues .mload 0x00
    (fun s t _ x y p n => n = 0 ∧ lcfgOk y = true ∧ x % 64 = 0 ∧ lsRange s t.core t.g.ctx x (planeTileBytes (lcFormat y) (32 * lcKb y)) = true ∧
      p = reducedPlanes s t.g.queue (elemOf (lcFormat y)) (lcPlanes y))
    (fun a o =>
      let a := closeBatches a (fun b => b.bank == bnat (bit (wFlags o.w.toNat) 0) || decide (16 < o.planes))
      { a with loads := a.loads ++ [⟨o, 0, false⟩] }) ∧
  queues .mrun 0x01
    (fun s t a x y p n => ∃ tile, tileOfBank a (bnat (bit (wFlags t.w) 1)) = some tile ∧ p = tile.1 ∧ n = tile.2.2 ∧
      rcfgOk a y tile.2.1 (needsWide tile.1 (rcSlices y)) = true ∧ x % 64 = 0 ∧
      lsRange s t.core t.g.ctx x ((rcRows y - 1) * (32 * rcStride y) + actRowBytes (rcFormat y) (32 * rcKlen y)) = true) behind ∧
  queues .mdrain 0x02
    (fun s t a x y p n => p = 0 ∧ n = 0 ∧ dcfgOk a y (modeAhead a) = true ∧ x % 32 = 0 ∧
      lsRange s t.core t.g.ctx (x + drainHead (dcFormat y))
        ((dcRows y - 1) * (32 * dcStride y) + drainRowBytes (dcFormat y) (dcCols y)) = true ∧
      (bit (wFlags t.w) 1 = true → bits (wImm t.w) 5 0 < localCtrs s t.core t.g.ctx)) behind ∧
  queues .mclr 0x03
    (fun _ t a _ _ p n => p = 0 ∧ n = 0 ∧ 1 ≤ bits (wImm t.w) 13 7 ∧
      bits (wImm t.w) 6 0 + bits (wImm t.w) 13 7 ≤ if modeAhead a then 32 else 64) behind ∧
  queues .mtf 0x04 (fun _ _ _ _ _ p n => p = 0 ∧ n = 0) behind) ∧
  (∀ s s' w t, Issues s w mMATRIX 0x05 t s' →
    let a := (coreSt s t.core).array
    let y := scalar t.g (wSB t.w)
    let tag := wImm t.w
    qcfgOk s t y = true →
    (a.owner ≠ some t.g.ctx → ScalarGets .mreq s w t 1) ∧
    (a.owner = some t.g.ctx → a.batchRows = 0 → ScalarGets .mreq s w t 3) ∧
    (a.owner = some t.g.ctx → 1 ≤ a.batchRows → taggedBank a tag = none → ScalarGets .mreq s w t 1) ∧
    ∀ bank, a.owner = some t.g.ctx → 1 ≤ a.batchRows → taggedBank a tag = some bank →
      lsRange s t.core t.g.ctx (scalar t.g (wSA t.w)) (actRowBytes (qcFormat y) (32 * (a.bank bank).kblocks)) = true →
      lsRange s t.core t.g.ctx (qcDest y) (drainRowBytes (qcOut y) (a.bank bank).cols) = true →
      let r : BatchReq := ⟨scalar t.g (wSA t.w), qcDest y, qcCtr y, t.g.queue⟩
      let like (b : Batch) : Prop := b.tag = tag ∧ b.bank = bank ∧ b.actFmt = qcFormat y ∧ b.slices = qcSlices y ∧
        b.outFmt = qcOut y ∧ b.due = false
      let fresh : Batch := ⟨a.seq, false, tag, bank, qcFormat y, qcSlices y, qcOut y, t.g.ctx, [r]⟩
      let answers (v : BitVec 64) (opened closed : List Batch) : Prop :=
        Answers (exec (.mreq t.core t.slot w) s) fun u => ∃ h, Landed t u h ∧ SameLanes t.g h ∧ OnlyScalar t h (wSD t.w) ∧
          getD 0 h.scalars (wSD t.w) = v ∧ (coreSt u t.core).array.opened = opened ∧ (coreSt u t.core).array.closed = closed ∧
          Only [.freeSeq, .regs, .cores] (fetched s t) u
      ((∀ b ∈ a.opened, ¬ like b) → 2 ≤ a.opened.length → answers 2 a.opened a.closed) ∧
      ((∀ b ∈ a.opened, ¬ like b) → a.opened.length < 2 → batchWindow s t.core ≠ 0 → 1 < batchFull a fresh →
        answers 0 (a.opened ++ [fresh]) a.closed) ∧
      ((∀ b ∈ a.opened, ¬ like b) → a.opened.length < 2 → batchWindow s t.core = 0 → a.closed.length < 2 →
        answers 0 a.opened (a.closed ++ [{ fresh with seq := a.seq + 1 }])) ∧
      (∀ pre b post, a.opened = pre ++ b :: post → (∀ x ∈ pre, ¬ like x) → like b → b ∉ post → batchWindow s t.core ≠ 0 →
        b.reqs.length + 1 < batchFull a b → answers 0 (pre ++ { b with reqs := b.reqs ++ [r] } :: post) a.closed))

/-- R107, R108, R113, R115: MFLUSH leaves no open batch of its tag that is not due to close, and touches no other; MBCFG reserves rows
once the matrix queue is empty and the rows are clean; MFENCE completes when no earlier matrix operation of its group is queued or
executes, and waits else; MSTAT reads the status word. BATCH_WINDOW_EXPIRE closes its batch. R118, R159: a matrix instruction, but MREQ,
and an instruction of the element engine, of a context that another context's ownership keeps out, makes its group wait for the array, and
changes nothing else but an event count. -/
def Obligations.MatrixServices : Prop :=
  ((∀ s s' w t a v, Issues s w mMATRIX 0x06 t s' → Owned s t.core t.g.ctx a v →
    Completes .mflush s w t [.freeSeq, .regs, .cores] fun u =>
      let z := (coreSt u t.core).array
      (∀ b ∈ z.opened, b.tag = wImm t.w → b.due = true) ∧
      z.opened.filter (fun b => b.tag != wImm t.w) = a.opened.filter (fun b => b.tag != wImm t.w) ∧
      z.queue = a.queue ∧ z.loads = a.loads ∧ z.run = a.run ∧ z.acc = a.acc) ∧
  (∀ s s' w t a v, Issues s w mMATRIX 0x07 t s' → Owned s t.core t.g.ctx a v →
    let c := bits (wImm t.w) 6 0
    c ≤ 64 →
    (a.inUse ≠ 0 → WaitsOn .mbcfg s w t [.cores] .matrixFull fun _ h => h.run = some t.p) ∧
    (a.inUse = 0 → (∀ row, bit a.dirty row = true → row < if a.wide then 32 - (c + 1) / 2 else 64 - c) →
      Completes .mbcfg s w t [.freeSeq, .regs, .cores] fun u => (coreSt u t.core).array = { a with batchRows := c })) ∧
  (∀ s s' w t a v, Issues s w mMATRIX 0x08 t s' → Owned s t.core t.g.ctx a v →
    (matrixBusy a t.slot t.g.queue = false →
      Completes .mfence s w t [.freeSeq, .regs, .cores] fun u => (coreSt u t.core).array = a) ∧
    (matrixBusy a t.slot t.g.queue = true → WaitsOn .mfence s w t [.cores] .mfence fun _ h => h.run = some t.p)) ∧
  (∀ s s' w t a v, Issues s w mMATRIX 0x09 t s' → Owned s t.core t.g.ctx a v →
    let code (k : Bank) : Nat := match k.state with | .empty => 0 | .loading => 1 | .stream => 2 | .resident => 3
    let tag (k : Bank) : Nat := if k.state = .resident then k.tag else 0
    Answers (exec (.mstat t.core t.slot w) s) fun u => ∃ h, Landed t u h ∧ SameLanes t.g h ∧ OnlyScalar t h (wSD t.w) ∧
      Only [.freeSeq, .regs, .cores] (fetched s t) u ∧ (coreSt u t.core).array = a ∧
      getD 0 h.scalars (wSD t.w) = BitVec.ofNat 64 (code a.bank0 + 16 * code a.bank1 + 2 ^ 11 * bnat a.wide +
        2 ^ 12 * a.inUse + 2 ^ 17 * a.batchRows + 2 ^ 32 * tag a.bank0 + 2 ^ 48 * tag a.bank1)) ∧
  ∀ s core i b, (coreSt s core).array.opened[i]? = some b → b.due = false → arrayFrozen s core = false →
    Answers (exec (.batchWindowExpire core i) s) fun u =>
      let a := (coreSt s core).array
      let z := (coreSt u core).array
      Only [.regs, .cores] s u ∧
      (a.closed.length < 2 → z.closed = a.closed ++ [{ b with seq := a.seq }] ∧ b ∉ z.opened) ∧
      (2 ≤ a.closed.length → z.closed = a.closed ∧ z.opened[i]? = some { b with due := true })) ∧
  (let kept (major : Nat) (x : (Nat → Nat → BitVec 64 → Instr) × Nat) : Prop :=
    ∀ s s' w t, Issues s w major x.2 t s' → Foreign s t.core t.g.ctx →
      WaitsOn x.1 s w t [.regs, .cores] .ownership fun _ h => h.run = some t.p
  (∀ x ∈ [(Instr.mload, 0), (.mrun, 1), (.mdrain, 2), (.mclr, 3), (.mtf, 4), (.mflush, 6), (.mbcfg, 7), (.mfence, 8), (.mstat, 9)],
    kept mMATRIX x) ∧
  ∀ x ∈ [(Instr.vld, 0), (.vst, 1), (.vadd, 2), (.vsub, 3), (.vmul, 4), (.vfma, 5), (.vmin, 6), (.vmax, 7), (.vdiv, 8), (.vsqrt, 9),
    (.vfn, 10), (.vcmp, 11), (.vsel, 12), (.vcvt, 13), (.vlogic, 14), (.vshift, 15), (.vbcst, 16), (.vred, 17), (.vperm, 18),
    (.vmask, 19), (.viota, 20), (.vprog, 21), (.vfence, 22)], kept mELEM x)

/-- R98, R100, R106, R115: the load at the head of the load path starts on its bank, which is LOADING, or closes the batches that gather
on that bank. The entry at the head of the run path starts: a run on its bank, in its mode, its rows dirty, and zeroed first when it
clears; a drain; a clear, done at once; new factors. A closed batch runs with its rows cleared. R91, R98, R100, R101, R105, R110: a group
load that completes puts the group, aligned to the tile's planes, in its bank; a group that streams adds its passes to each entry of each
row of the run, in place, and no other entry changes; so does a run of a RESIDENT tile of one group when it completes. A run whose groups
are over leaves the run path idle, and so does a drain, which writes each row's conversion to local store, zeroes the rows unless KEEP,
and adds 1 to the counter it names. -/
def Obligations.ArrayWork : Prop :=
  ((∀ s core j rest, (coreSt s core).array.loads = j :: rest → j.started = false → arrayFrozen s core = false →
    loadGoesOn s core j = true →
    let a := (coreSt s core).array
    let b := loadBank j
    (a.opened.any (fun x => x.bank == b && !x.due) = true →
      Answers (exec (.loadPathStart core) s) fun u => Only [.cores] s u ∧
        ∀ x ∈ (coreSt u core).array.opened, x.bank = b → x.due = true) ∧
    (a.opened.any (fun x => x.bank == b && !x.due) = false → (a.bank b).state ≠ .stream → (a.bank b).state ≠ .loading →
      readsBefore a b j.op.seq = false → residentInUse (coreSt s core) b = false →
      Answers (exec (.loadPathStart core) s) fun u => ∃ z, ArrayBecomes s core z u ∧
        z.bank b = { Bank.none with state := .loading } ∧ (∀ c, c ≤ 1 → c ≠ b → z.bank c = a.bank c) ∧
        z.loads = { j with started := true } :: rest ∧ z.queue = a.queue ∧ z.run = a.run ∧ z.acc = a.acc ∧ z.dirty = a.dirty)) ∧
  (∀ s core o rest, (coreSt s core).array.queue = o :: rest → (coreSt s core).array.closed = [] → (coreSt s core).array.run = none →
    mayStart s core o.queue = true → (coreSt s core).array.holder = none →
    let a := (coreSt s core).array
    let w := o.w.toNat
    (wOp w = 1 → loadAhead a (opBank o) o.seq = false →
      ((a.bank (opBank o)).state = .stream ∨ (a.bank (opBank o)).state = .resident) → (a.bank (opBank o)).group = 0 →
      let wide := needsWide o.planes (rcSlices o.b.toNat)
      (a.wide = wide ∨ a.dirty = 0) →
      Answers (exec (.runPathStart core) s) fun u => ∃ z, ArrayBecomes s core z u ∧ z.run = some (.run o 0) ∧ z.queue = rest ∧
        z.wide = wide ∧ z.dirty = a.dirty ||| opRows o ∧ z.bank0 = a.bank0 ∧ z.bank1 = a.bank1 ∧
        ∀ row col, col < 256 → z.entry row col =
          if a.wide ≠ wide ∨ (bit (wFlags w) 0 = true ∧ bit (opRows o) row = true) then AccEntry.zero else a.entry row col) ∧
    (wOp w = 2 → Answers (exec (.runPathStart core) s) fun u =>
      ArrayBecomes s core { a with queue := rest, run := some (.drain o) } u) ∧
    (wOp w = 3 → opRows o < 2 ^ 64 → Answers (exec (.runPathStart core) s) fun u => Only [.regs, .govs, .cores] s u ∧
      let z := (coreSt u core).array
      z.queue = rest ∧ z.run = none ∧ (∀ row, row < 64 → bit z.dirty row = (bit a.dirty row && !bit (opRows o) row)) ∧
      ∀ row col, col < 256 → z.entry row col = if bit (opRows o) row = true then AccEntry.zero else a.entry row col) ∧
    (wOp w = 4 → Answers (exec (.runPathStart core) s) fun u => Only [.regs, .govs, .cores] s u ∧
      (coreSt u core).array = { a with queue := rest, factor := o.a.toNat, tOut := o.b.toNat % 2 ^ 32 })) ∧
  ∀ s core b more, (coreSt s core).array.queue = [] → (coreSt s core).array.closed = b :: more → (coreSt s core).array.run = none →
    (coreSt s core).held = false → arrayFrozen s core = false → (∀ x ∈ (coreSt s core).array.opened, x.due = false) →
    let a := (coreSt s core).array
    (a.bank b.bank).state = .resident → (a.wide = batchWide a b ∨ a.dirty = 0) →
    Answers (exec (.runPathStart core) s) fun u => Only [.regs, .cores] s u ∧
      let z := (coreSt u core).array
      z.run = some (.batchRun b) ∧ z.closed = more ∧ z.opened = a.opened ∧ z.wide = batchWide a b ∧
      ∀ i col, i < b.reqs.length → col < 256 → z.entry (batchBase a (batchWide a b) + i) col = AccEntry.zero) ∧
  ((∀ s core j rest, (coreSt s core).array.loads = j :: rest → j.started = true → arrayFrozen s core = false →
    let y := j.op.b.toNat
    let rd := lsByte s core j.op.ctx j.op.a.toNat
    let t := alignTile (elemOf (lcFormat y)) j.op.planes ((List.range (lcN y)).map (planeColumn rd (lcFormat y) (32 * lcKb y)))
    let groups := t.1 * ((j.op.planes + 15) / 16)
    Answers (exec (.groupLoadDone core) s) fun u => Only [.regs, .govs, .cores] s u ∧
      let z := (coreSt u core).array
      (z.bank (loadBank j)).cells = t.2 ∧ (z.bank (loadBank j)).groups = groups ∧ (z.bank (loadBank j)).group = j.group ∧
      (z.bank (loadBank j)).planes = j.op.planes ∧ (z.bank (loadBank j)).tag = wImm j.op.w.toNat ∧
      (z.bank (loadBank j)).state = (if bit (wFlags j.op.w.toNat) 1 = true ∨ 2 < groups then .stream else .resident) ∧
      (opLives s j.op.queue = true → j.group + 1 < groups → z.loads = { j with group := j.group + 1, started := false } :: rest) ∧
      (j.group + 1 = groups → z.loads = rest) ∧ z.acc = (coreSt s core).array.acc) ∧
  (∀ s core o g, (coreSt s core).array.run = some (.run o g) → arrayFrozen s core = false →
    let a := (coreSt s core).array
    let k := a.bank (groupBank (opBank o) g)
    k.state = .stream → k.group = g → k.held = 1 → k.cols ≤ 256 →
    let x := runArgs s core o k
    Answers (exec (.groupPassesDone core) s) fun u => Only [.regs, .cores] s u ∧
      let z := (coreSt u core).array
      z.run = some (.run o (g + 1)) ∧
      (∀ r n bands exact, x.rows[r]? = some (bands, exact) → n < k.cols →
        z.entry (x.base + r) n = (groupEntry k a.wide x bands g n (a.entry (x.base + r) n, 0)).1) ∧
      ∀ row n, n < 256 → (row < x.base ∨ x.base + x.rows.length ≤ row ∨ k.cols ≤ n) → z.entry row n = a.entry row n) ∧
  (∀ s core o g, (coreSt s core).array.run = some (.run o g) → arrayFrozen s core = false →
    let a := (coreSt s core).array
    runOver a o g = true → (a.bank (opBank o)).state ≠ .resident →
    Answers (exec (.runDone core .none) s) fun u => Only [.regs, .govs, .subs, .cores] s u ∧
      (coreSt u core).array = { a with run := none }) ∧
  (∀ s core o, (coreSt s core).array.run = some (.run o 0) → arrayFrozen s core = false →
    let a := (coreSt s core).array
    let k := a.bank (opBank o)
    runOver a o 0 = true → k.state = .resident → k.groups = 1 → k.held = 1 → k.cols ≤ 256 →
    let x := runArgs s core o k
    Answers (exec (.runDone core .none) s) fun u => Only [.regs, .govs, .subs, .cores] s u ∧
      let z := (coreSt u core).array
      z.run = none ∧ z.bank0 = a.bank0 ∧ z.bank1 = a.bank1 ∧
      (∀ r n bands exact, x.rows[r]? = some (bands, exact) → n < k.cols →
        z.entry (x.base + r) n = (groupEntry k a.wide x bands 0 n (a.entry (x.base + r) n, 0)).1) ∧
      ∀ row n, n < 256 → (row < x.base ∨ x.base + x.rows.length ≤ row ∨ k.cols ≤ n) → z.entry row n = a.entry row n) ∧
  ∀ s core o, (coreSt s core).array.run = some (.drain o) → arrayFrozen s core = false → (lsAlloc s core o.ctx).isSome = true →
    let a := (coreSt s core).array
    let y := o.b.toNat
    let row (r : Nat) : List Byte := drainRow a (dcBase y + r) (dcCols y) (dcFormat y) a.factor a.tOut
    drainFormatOk (dcFormat y) a.wide = true → dcCols y ≤ 256 → (∀ r, r < dcRows y → (row r).length ≤ 32 * dcStride y) →
    wOp o.w.toNat = 2 →
    Answers (exec (.drainDone core .none) s) fun u => Only [.regs, .govs, .subs, .cores] s u ∧
      let z := (coreSt u core).array
      z.run = none ∧
      (∀ r i, r < dcRows y → i < (row r).length → isRaw (elemOf (dcFormat y)) = false →
        localByte u core o.ctx (o.a.toNat + r * (32 * dcStride y) + i) = (row r).getD i 0#8) ∧
      (∀ e n, n < 256 → z.entry e n = if bit (wFlags o.w.toNat) 0 = false ∧ dcBase y ≤ e ∧ e < dcBase y + dcRows y then
        AccEntry.zero else a.entry e n) ∧
      ∀ n, localCtr u core o.ctx n = if bit (wFlags o.w.toNat) 1 = true ∧ n = bits (wImm o.w.toNat) 5 0
        then localCtr s core o.ctx n + 1 else localCtr s core o.ctx n)

/-- R71, R91, R92: the passes of one bank group over two's-complement weights of P ≤ 16 planes and activations of S slices add the exact
product of the aligned block to an entry whose sums fit, at steps that cancel. -/
def Obligations.PassesAreExact : Prop :=
  ∀ (n p sl : Nat) (ws xs : Block), 2 ≤ p → p ≤ 16 → 1 ≤ sl → sl ≤ 8 → ws.step + xs.step = 0 → ws.ints.length ≤ 32 →
    xs.ints.length = ws.ints.length →
    (∀ w ∈ ws.ints, -(2 ^ (p - 1) : Int) ≤ w ∧ w < 2 ^ (p - 1)) →
    (∀ x ∈ xs.ints, -(2 ^ (8 * sl - 1) : Int) ≤ x ∧ x < 2 ^ (8 * sl - 1)) →
    (∀ k ∈ ws.kind ++ xs.kind, k = 0 ∨ k = 1 ∨ k = 5) → p + 8 * sl + 5 < n →
    let r := groupPasses n true p sl 0 [ws] [xs] (AccEntry.zero, 0)
    r.2 = 0 ∧ r.1.anchor = 0 ∧ r.1.special = 0 ∧
      r.1.int = ((List.zip ws.ints xs.ints).map (fun e => e.1 * e.2)).sum

/-- R159, R162 to R165, R176: an ELEM instruction that keeps to its format, a VLD or VST with its 2,048 bytes aligned in local store, goes
to the end of the core's vector queue with the values of SA and SB at issue; while 16 wait it is issued again. VFENCE completes when no
earlier ELEM instruction of its group is queued or executes, and is not ready else. The head of the queue starts to execute when nothing
does, VPROG once its program is held and legal (R171); an uncorrectable error zeroes one of the registers that it reads, and its
submission stops (which of them: log entry 30). -/
def Obligations.VectorQueueing : Prop :=
  (∀ x ∈ [(Instr.vld, 0), (.vst, 1), (.vadd, 2), (.vsub, 3), (.vmul, 4), (.vfma, 5), (.vmin, 6), (.vmax, 7), (.vdiv, 8), (.vsqrt, 9),
      (.vfn, 10), (.vcmp, 11), (.vsel, 12), (.vcvt, 13), (.vlogic, 14), (.vshift, 15), (.vbcst, 16), (.vred, 17), (.vperm, 18),
      (.vmask, 19), (.viota, 20), (.vprog, 21)],
    ∀ s s' w t a v, Issues s w mELEM x.2 t s' → Owned s t.core t.g.ctx a v → vecOk t.w = true →
      let sa := scalar t.g (vSa t.w)
      (x.2 ≤ 1 → sa % 64 = 0 ∧ lsRange s t.core t.g.ctx (sa % 2 ^ 21) 2048 = true) →
      (v.queue.length < 16 → Completes x.1 s w t [.freeSeq, .regs, .cores] fun u => (coreSt u t.core).array = a ∧
        (coreSt u t.core).vec = { v with queue := v.queue ++
          [⟨w, BitVec.ofNat 64 sa, BitVec.ofNat 64 (scalar t.g (vSb t.w)), t.slot, t.g.queue, t.g.ctx⟩] }) ∧
      (16 ≤ v.queue.length → exec (x.1 t.core t.slot w) s = .next (fetched s t))) ∧
  (∀ s s' w t a v, Issues s w mELEM 0x16 t s' → Owned s t.core t.g.ctx a v → vecOk t.w = true →
    (vectorBusy v t.slot t.g.queue = false → Completes .vfence s w t [.freeSeq, .regs, .cores] fun u => (coreSt u t.core).vec = v) ∧
    (vectorBusy v t.slot t.g.queue = true → StaysFor .vfence s w t [.cores] .vfence)) ∧
  ∀ s core op rest, (coreSt s core).vec.exec = none → (coreSt s core).vec.queue = op :: rest → mayStart s core op.queue = true →
    let prog := heldProg (coreSt s core) op.ctx (op.a.toNat % 2 ^ 32) op.queue
    (wOp op.w.toNat = 0x15 → ∃ p, prog = some p ∧ programOk (lsSize s core op.ctx) p = true ∧ computeFmt (pgIn p) = true) →
    (Answers (exec (.vectorExecute core .clean) s) fun u => Only [.cores] s u ∧
      (coreSt u core).vec = { (coreSt s core).vec with queue := rest, exec := some op } ∧
      (∀ c, c ≠ core → find u.cores c = find s.cores c) ∧
      heldProg (coreSt u core) op.ctx (op.a.toNat % 2 ^ 32) op.queue = prog) ∧
    (vecReads op.w.toNat ≠ [] → (wOp op.w.toNat = 0x15 → prog ≠ none) →
      Answers (exec (.vectorExecute core .uncorrectable) s) fun u => Stopped s op.queue stFaultMemory u ∧
        ∃ x ∈ vecReads op.w.toNat, match x with
          | .inl r => vreg (coreSt u core).vec r = 0
          | .inr m => vmask (coreSt u core).vec m = 0)

/-- R160, R161, R163, R164, R172, R173: the ELEM operation that executes completes with its result in each element of VD that its mask
selects, every other element and every other register and mask as they were. A floating result is the exact value rounded once to the
format; an integer one wraps; counts of shifts are modulo the width. R161, R163, R170, R171: VLD and VST move the selected elements from
and to local store, byte for byte; VCMP and VMASK write a mask; VSEL chooses by a mask; a program object read for the core, legal at its
address, is first of at most eight in the program store. -/
def Obligations.VectorOperations : Prop :=
  (let both (f : Nat → Machine.Num → Machine.Num → Machine.Num → Machine.Num) (g : (w : Nat) → BitVec w → BitVec w → BitVec w → BitVec w) :
      Nat → Nat → Nat → Nat → Nat := fun fmt a b c =>
    if fmt ≤ 8 then encodeElem fmt (f fmt (decodeElem fmt a) (decodeElem fmt b) (decodeElem fmt c))
    else (g (elemBits fmt) (.ofNat _ a) (.ofNat _ b) (.ofNat _ c)).toNat
  let does (op : Nat) (ok : Nat → Nat → Prop) (f : Nat → Nat → Nat → Nat → Nat → Nat) : Prop :=
    ∀ s core o, (coreSt s core).vec.exec = some o → arrayFrozen s core = false → wOp o.w.toNat = op →
      let w := o.w.toNat
      let fmt := vFmt w
      computeFmt fmt = true → ok fmt (vSub w) →
      Answers (exec (.vectorComplete core) s) fun u => Only [.regs, .govs, .subs, .cores] s u ∧
        let v := (coreSt s core).vec
        let z := (coreSt u core).vec
        let el (v : VecSt) (r i : Nat) : Nat := elemAt (elemBits fmt) (vreg v r) i
        z.exec = none ∧ z.queue = v.queue ∧ z.vm = v.vm ∧ (∀ r, r ≠ vVd w → vreg z r = vreg v r) ∧
        ∀ i, i < 16384 / elemBits fmt → el z (vVd w) i =
          if vMen w = true ∧ bit (vmask v (vMsk w)) i = false then el v (vVd w) i
          else f (vSub w) fmt (el v (vVa w) i) (el v (vVb w) i) (el v (vVc w) i)
  let any (_ _ : Nat) : Prop := True
  does 0x02 any (fun _ => both (fun _ a b _ => addNum a b) (fun _ a b _ => a + b)) ∧
  does 0x03 any (fun _ => both (fun _ a b _ => subNum a b) (fun _ a b _ => a - b)) ∧
  does 0x04 any (fun _ => both (fun _ a b _ => mulNum a b) (fun _ a b _ => a * b)) ∧
  does 0x05 any (fun _ => both (fun _ a b c => fmaNum a b c) (fun _ a b c => a * b + c)) ∧
  does 0x06 any (fun _ => both (fun _ a b _ => minNum a b) (fun _ a b _ => if b.slt a then b else a)) ∧
  does 0x07 any (fun _ => both (fun _ a b _ => maxNum a b) (fun _ a b _ => if a.slt b then b else a)) ∧
  does 0x08 (fun _ sub => sub = 0) (fun _ => both (fun _ a b _ => divNum a b) (fun _ a b _ => if b = 0 then 0 else a.sdiv b)) ∧
  does 0x08 (fun fmt sub => 9 ≤ fmt ∧ sub = 1)
    (fun _ => both (fun _ a _ _ => a) (fun _ a b _ => if b = 0 then a else a.srem b)) ∧
  does 0x09 (fun fmt _ => fmt ≤ 8) (fun _ => both (fun _ a _ _ => sqrtNum a) (fun _ a _ _ => a)) ∧
  does 0x0A (fun fmt _ => fmt ≤ 8) (fun sub fmt a _ _ => encodeElem fmt (fnNum sub fmt (decodeElem fmt a) a)) ∧
  does 0x0E (fun fmt sub => 9 ≤ fmt ∧ sub ≤ 3) (fun sub => both (fun _ a _ _ => a) (fun _ a b _ =>
    if sub = 0 then a &&& b else if sub = 1 then a ||| b else if sub = 2 then a ^^^ b else a &&& ~~~b)) ∧
  does 0x0F (fun fmt sub => 9 ≤ fmt ∧ sub ≤ 2) (fun sub => both (fun _ a _ _ => a) (fun w a b _ =>
    if sub = 0 then a <<< (b.toNat % w) else if sub = 1 then a >>> (b.toNat % w) else a.sshiftRight (b.toNat % w)))) ∧
  ((∀ s core o, (coreSt s core).vec.exec = some o → arrayFrozen s core = false →
    let w := o.w.toNat
    let wd := elemBits (vFmt w)
    let n := 16384 / wd
    let v := (coreSt s core).vec
    let at_ := o.a.toNat % 2 ^ 21
    let sel (i : Nat) : Prop := vMen w = false ∨ bit (vmask v (vMsk w)) i = true
    let onlyMask (z : VecSt) : Prop := z.exec = none ∧ (∀ m, m ≠ bits (wImm w) 2 0 → vmask z m = vmask v m) ∧
      ∀ i, (i < n → ¬ sel i → bit (vmask z (bits (wImm w) 2 0)) i = bit (vmask v (bits (wImm w) 2 0)) i) ∧
        (n ≤ i → bit (vmask z (bits (wImm w) 2 0)) i = false)
    computeFmt (vFmt w) = true → (lsAlloc s core o.ctx).isSome = true →
    (wOp w = 0x00 → Answers (exec (.vectorComplete core) s) fun u => Only [.regs, .govs, .subs, .cores] s u ∧
      let z := (coreSt u core).vec
      z.exec = none ∧ z.vm = v.vm ∧ (∀ r, r ≠ vVd w → vreg z r = vreg v r) ∧
      ∀ i, i < n → (sel i → elemAt wd (vreg z (vVd w)) i = ofLE (lsRead s core o.ctx (at_ + i * (wd / 8)) (wd / 8))) ∧
        (¬ sel i → elemAt wd (vreg z (vVd w)) i = elemAt wd (vreg v (vVd w)) i)) ∧
    (wOp w = 0x01 → Answers (exec (.vectorComplete core) s) fun u => Only [.regs, .govs, .subs, .cores] s u ∧
      (coreSt u core).vec = { v with exec := none } ∧
      ∀ a, (∀ i j, i < n → sel i → j < wd / 8 → a = at_ + i * (wd / 8) + j →
          localByte u core o.ctx a = BitVec.ofNat 8 (elemAt wd (vreg v (vVd w)) i / 256 ^ j)) ∧
        ((∀ i j, i < n → sel i → j < wd / 8 → a ≠ at_ + i * (wd / 8) + j) → localByte u core o.ctx a = localByte s core o.ctx a)) ∧
    (wOp w = 0x0B → Answers (exec (.vectorComplete core) s) fun u => Only [.regs, .govs, .subs, .cores] s u ∧
      let z := (coreSt u core).vec
      z.vr = v.vr ∧ onlyMask z ∧ ∀ i, i < n → sel i → bit (vmask z (bits (wImm w) 2 0)) i =
        elCmp (vFmt w) (vSub w) (elemAt wd (vreg v (vVa w)) i) (elemAt wd (vreg v (vVb w)) i)) ∧
    (wOp w = 0x13 → Answers (exec (.vectorComplete core) s) fun u => Only [.regs, .govs, .subs, .cores] s u ∧
      let z := (coreSt u core).vec
      let a (i : Nat) : Bool := bit (vmask v (bits (wImm w) 5 3)) i
      let b (i : Nat) : Bool := bit (vmask v (bits (wImm w) 8 6)) i
      z.vr = v.vr ∧ onlyMask z ∧ ∀ i, i < n → sel i → bit (vmask z (bits (wImm w) 2 0)) i =
        match vSub w with
        | 0 => a i && b i
        | 1 => a i || b i
        | 2 => xor (a i) (b i)
        | 3 => !a i
        | 4 => true
        | _ => false) ∧
    (wOp w = 0x0C → Answers (exec (.vectorComplete core) s) fun u => Only [.regs, .govs, .subs, .cores] s u ∧
      let z := (coreSt u core).vec
      z.exec = none ∧ z.vm = v.vm ∧ (∀ r, r ≠ vVd w → vreg z r = vreg v r) ∧
      ∀ i, i < n → elemAt wd (vreg z (vVd w)) i =
        if vMen w = true ∧ bit (vmask v (vMsk w)) i = false then elemAt wd (vreg v (vVd w)) i
        else elemAt wd (vreg v (if bit (vmask v (bits (wImm w) 2 0)) i = true then vVa w else vVb w)) i)) ∧
  ∀ s core ctx h who q d e r, progWaits (coreSt s core) ctx h = some (who, q, d) → heldProg (coreSt s core) ctx h q = none →
    mayRun s q = true → attached s (onCore core who) = false → goodUse s ctx (genOf s q ctx) h [1] 0 512 true false = some e →
    heBase e % 512 = 0 → virtRead s (onCore core who) ctx q (heBase e) 512 = r → r.ok = true →
    Answers (exec (.elementProgramRead core ctx h) s) fun u =>
      (coreSt u core).progs = (⟨ctx, h, q, r.data⟩ :: (coreSt r.st core).progs).take 8 ∧
      heldProg (coreSt u core) ctx h q = some r.data ∧ Only [.cores] r.st u)

/-- R55, R57, R58, R153, R48: DISSUE with an aligned descriptor in local store copies its 128 bytes into the core's queue of 16, last of
all, its tile split until its need fits the pool (R52 to R54), which the record of its submission shows; with the queue full the group
waits. DRAUGHT_ACTIVATE makes the oldest queued draught active, its programs held and its need free. R44, R48, R55, R57, R149: a station
that has its tile, an output buffer free and its condition met, and whose turn it is among the draughts that share it, begins the tile,
and nothing else of the core changes (LOAD and RECEIVE from bulk, ELEMENT and REDUCE; a RECEIVE whose counter is held). An ELEMENT station
that finishes frees its input and hands on the program's tile; a SEND station whose writes are acknowledged frees its input. Tiles that
are over retire: LOCAL_CTR names the counter that rises by 1 for each; with the last tile the draught leaves, and DONE_CTR rises when
FLAGS asks. -/
def Obligations.Draughts : Prop :=
  ((∀ s s' w t, Issues s w mISSUE 0x00 t s' →
    let a := scalar t.g (wSA t.w)
    let k := coreSt s t.core
    a % 128 = 0 → lsRange s t.core t.g.ctx a 128 = true →
    (16 ≤ k.draughts.length → WaitsOn .dissue s w t [.cores] .draughtFull fun _ h => h.run = some t.p) ∧
    (k.draughts.length < 16 → Completes .dissue s w t [.freeSeq, .regs, .subs, .cores] fun u => ∃ x,
      (coreSt u t.core).draughts = k.draughts ++ [x] ∧ x.desc = lsRead s t.core t.g.ctx a 128 ∧ x.ctx = t.g.ctx ∧
      x.queue = t.g.queue ∧ x.slot = some t.slot ∧ x.active = false ∧ x.retired = 0 ∧ x.order = k.nextDraught ∧
      (∀ y ∈ x.stations, y.next = 0 ∧ y.busy = false ∧ y.outs = []) ∧ x.stations.length = descLen x.desc ∧ x.need ≤ poolBytes s t.core t.g.ctx ∧
      ∀ q b, find s.subs q = some b → find u.subs q =
        some (if q = t.g.queue then { b with splitLog2 := max b.splitLog2 x.split } else b))) ∧
  ∀ s core x progs, (coreSt s core).draughts.find? (fun x => !x.active) = some x →
    (∀ y ∈ (coreSt s core).draughts, y.order = x.order → y = x) →
    (coreSt s core).draughts.countP Draught.active < 4 → mayRun s x.queue = true → (coreSt s core).held = false →
    attached s (.station core x.order (8 + stCELLAR)) = false →
    heldProgs s core x = some progs → splitDraught s core x (progs.map pgOut) = x → x.need ≠ 0 →
    poolUsed (coreSt s core) x.ctx + x.need + poolPrefetch (coreSt s core) x.ctx ≤ poolBytes s core x.ctx →
    draughtLegal s core x.ctx x.gen x.desc x.rows progs = true →
    elemOf (dsSrcFmt x.desc) ≠ fmtCB2 → descHas x.desc stCELLAR = false →
    Answers (exec (.draughtActivate core) s) fun u => Only [.subs, .cores] s u ∧
      (∃ y, draughtAt u core x.order = some y ∧ y.active = true ∧ y.progs = progs ∧ y.binding = [] ∧ y.desc = x.desc ∧
        y.stations = x.stations ∧ y.need = x.need ∧
        y.resident = (computes x.desc && ((coreSt s core).array.bank x.bank).state == .resident)) ∧
      (∀ d, d ≠ x.order → draughtAt u core d = draughtAt s core d) ∧
      ∀ b, find s.subs x.queue = some b → find u.subs x.queue = some { b with splitLog2 := max b.splitLog2 x.split }) ∧
  ((∀ s core d st x j y, draughtAt s core d = some x → st < descLen x.desc → startable s core x st = some j → x.stations[st]? = some y →
    let code := descStation x.desc st
    let seq := sequencerOf x.desc code
    nextServed s core seq = some d →
    let begun (l : List StatePart) : Prop := Answers (exec (.stationTileStart core d st) s) fun u => Only l s u ∧
        draughtAt u core d = some { x with stations := x.stations.set st { y with busy := true, next := j } } ∧
        (∀ e, e ≠ d → draughtAt u core e = draughtAt s core e) ∧ find (coreSt u core).turns seq = some d ∧
        (coreSt u core).array = (coreSt s core).array ∧ (coreSt u core).allocs = (coreSt s core).allocs ∧
        (coreSt u core).groups = (coreSt s core).groups ∧ ∀ c, c ≠ core → find u.cores c = find s.cores c
    let bulk : Prop := ∃ e, handleEntry s x.ctx x.gen (dsSrcHandle x.desc) = some e ∧ heKind e = 1
    ((code = 0x4 ∨ code = 0x5) → begun [.cores]) ∧
    (code = 0x1 → bulk → begun [.regs, .trans, .cores]) ∧
    (code = 0x8 → bulk → s.settled → HeldCounter s x.ctx (bits (dsRemote x.desc) 9 0) → begun [.regs, .ctxs, .trans, .cores])) ∧
  ∀ s core d st x y t, draughtAt s core d = some x → x.stations[st + 1]? = some y →
    (stationOf x st).outs.head? = some t → y.busy = true → y.waits = false → y.stall = none →
    missing s (.station core d (st + 1)) = false → mayFinish s x.queue = true → (lsAlloc s core x.ctx).isSome = true →
    let code := descStation x.desc (st + 1)
    (code = 0x7 → modeOf (dsDstFmt x.desc) = 2 → x.tOut ≠ none) →
    let out : Option (List Tile) := if code = 0x4 then
        some [elementTile (programAt x (st + 1)) (lsByte s core x.ctx 0) (elemOrigin x (st + 1) t.idx).1 (elemOrigin x (st + 1) t.idx).2 t]
      else if code = 0x7 then some [] else none
    ∀ o, out = some o →
      let freed : List StationSt := x.stations.modify st (fun z => { z with outs := z.outs.drop 1 })
      let y1 : StationSt := { y with busy := false, waits := false, got := none, parts := [], next := y.next + 1, outs := y.outs ++ o }
      let x1 : Draught := { x with stations := freed.set (st + 1) y1 }
      let n := oldestTile x1 - x.retired
      let beyond := x.count ≤ oldestTile x1 ∧ ∀ z ∈ x1.stations, z.busy = false
      Answers (exec (.stationTileDone core d (st + 1)) s) fun u => Only [.regs, .govs, .subs, .cores] s u ∧
        (¬ beyond → draughtAt u core d = some { x1 with retired := oldestTile x1 }) ∧ (beyond → draughtAt u core d = none) ∧
        ∀ m, localCtr u core x.ctx m = localCtr s core x.ctx m +
          (if bit (dsLocal x.desc) 7 = true ∧ m = bits (dsLocal x.desc) 5 0 then BitVec.ofNat 32 n else 0) +
          (if beyond ∧ bit (dsFlags x.desc) 2 = true ∧ m = bits (dsDone x.desc) 5 0 then 1 else 0))

/-- R182, R186 to R188, R194 to R201: a command that may enter goes to the end of its stack's queue once every page of its ranges is
translated, and keeps its place until then; the one at the head starts on its unit and takes its result with it. CELLAR_FILL repeats its
pattern; CELLAR_COPY carries A; GATHER takes the rows that the indices name, a row outside what holds the table as zeros; DECODE and
KVPACK convert each row of A; MATVEC gives one product for each row of A and vector of B; CELLAR_REDUCE combines its inputs element by
element. SCATTER writes its rows in list order, none outside what holds its table (A_STRIDE for both: log entry 51). R184, R189, R191,
R192, R206: a command of the front end that completes writes its bytes at D, to scratch or to sound memory, and leaves its unit idle; one
of a station gives it its tile. CBARM sets or clears the arm flag of its identifier. CBLOAD takes the highest scratch slot for the
identifier's new generation, which a fill that completes holds, byte for byte, ready for its switch. -/
def Obligations.CellarCommands : Prop :=
  ((∀ s st c, (cellar s st).waiting.find? (canEnter s st) = some c → 1 ≤ ccOp c.cmd → ccOp c.cmd ≤ 10 →
    (∀ r ∈ objRanges c, rangeInside r = true) →
    ∀ ok m s1, mapPages s (cellRequester s c) c.ctx c.queue c.maps
        (pagesOf ((objRanges c).map (fun r => (rangeVa r, r.2.1, r.2.2.2.2)))) = (ok, m, s1) →
    Answers (exec (.cellarCommandEnqueue st) s) fun u => Only [.regs, .ctxs, .trans, .cellars] s u ∧
      (∀ k, k ≠ st → cellar u k = cellar s k) ∧
      cellar u st = if ok then { cellar s st with
          queue := (cellar s st).queue ++ [{ c with maps := m }], waiting := (cellar s st).waiting.erase c }
        else { cellar s st with waiting := (cellar s st).waiting.map (fun x => if x = c then { c with maps := m } else x) }) ∧
  CellarRuns .cellarFill 0x6 false (fun _ _ c => (List.replicate (ccN c.cmd / 8) (toLE 8 (ccBO c.cmd))).flatten) ∧
  CellarRuns .cellarCopy 0x7 false (fun s st c => operandBytes s st c (placeA c) 0 (ccN c.cmd)) ∧
  CellarRuns .gather 0x4 false (fun s st c =>
    let p := placeA c
    let size := tableSize p c.aSize ((c.tile.map (fun t => t.bytes.length)).getD 0)
    let row (i : Int) : List Byte :=
      let o := (tableOff p (ccAO c.cmd) : Int) + i * (ccStride c.cmd : Int)
      if 0 ≤ o ∧ o + ccK c.cmd ≤ size then operandBytes s st c p o.toNat (ccK c.cmd) else List.replicate (ccK c.cmd) 0#8
    ((indices s st c).map row).flatten) ∧
  CellarRuns .decode 0x2 false (fun s st c =>
    ((rowsOfA s st c (ccN c.cmd) (rowBytes (ccAF c.cmd) 3 (ccK c.cmd))).map (convertRow s st c)).flatten) ∧
  CellarRuns .kvpack 0x3 false (fun s st c =>
    ((rowsOfA s st c (ccN c.cmd) (rowBytes (ccAF c.cmd) 3 (ccK c.cmd))).map (convertRow s st c)).flatten) ∧
  CellarRuns .matvec 0x1 true (fun s st c =>
    let xs := (rowsOfB s st c).map fun b =>
      (chunksOf 32 (ccK c.cmd / 32 + 1) (decodeRow (ccBF c.cmd) (fun _ => []) (ccK c.cmd) b)).map
        (alignActs (elemOf (ccBF c.cmd)) (mvSlices c.cmd))
    let rows := (rowsOfA s st c (if ccTrans c.cmd then ccK c.cmd else ccN c.cmd) (aRow c.cmd)).map fun b =>
      if isKv (ccAF c.cmd) then kvBlocks (ccAF c.cmd) (cellPlanes s c) (if ccTrans c.cmd then ccN c.cmd else ccK c.cmd) b
      else weightBlocks (ccAF c.cmd) (cellPlanes s c) (ccK c.cmd) (bookOf s st c) b
    matvecBytes s st c (xs.map fun x =>
      if ccTrans c.cmd then (List.range (ccN c.cmd)).map (fun n => (dotTrans rows x n).1)
      else rows.map (fun w => (dotBlocks (isTwos (elemOf (ccAF c.cmd))) (cellPlanes s c) (mvSlices c.cmd) w x).1))) ∧
  CellarRuns .cellarReduce 0x8 false (fun s st c => (reduceBytes s st c).1) ∧
  ∀ s st c rest, Starts s st 0x5 false c rest →
    let p := placeD c
    let size := tableSize p c.dSize (outTileLen s c)
    let rows : List (Nat × List Byte) := (List.zip (List.range (ccN c.cmd)) (indices s st c)).filterMap (fun r =>
      let o := (tableOff p (ccDO c.cmd) : Int) + r.2 * (ccStride c.cmd : Int)
      if 0 ≤ o ∧ o + ccK c.cmd ≤ size then some (o.toNat, operandBytes s st c (placeA c) (r.1 * ccStride c.cmd) (ccK c.cmd)) else none)
    Answers (exec (.scatter st) s) fun u => Only [.regs, .cellars] s u ∧ (∀ k, k ≠ st → cellar u k = cellar s k) ∧ ∃ e,
      cellar u st = { cellar s st with queue := rest, move := some e } ∧ e.cmd = c ∧
      e.writes = (rows.map (fun r => operandWrites c p r.1 r.2)).flatten ∧
      e.result = if p = .tile then rows.foldl (fun b r => overlayBytes b r.1 r.2) (List.replicate (outTileLen s c) 0#8) else []) ∧
  ((∀ s st (unit : CellarUnit) e, (match unit with | .matvec => (cellar s st).mv | .move => (cellar s st).move) = some e →
    (cellar s st).fillWaits = [] →
    (∀ a b, e.writes = [(2 ^ 48 + a, b)] → e.cmd.core = none →
      Answers (exec (.cellarCommandComplete st unit .none) s) fun u => Only [.regs, .front, .cellars] s u ∧
        (match unit with | .matvec => (cellar u st).mv | .move => (cellar u st).move) = none ∧
        (cellar u st).queue = (cellar s st).queue ∧
        ∀ x, find (cellar u st).sram x = if a ≤ x ∧ x < a + b.length then b[x - a]? else find (cellar s st).sram x) ∧
    (∀ pa b, e.writes = [(pa, b)] → pa < 2 ^ 48 → SoundAt s pa b.length → s.settled → e.cmd.core = none →
      Answers (exec (.cellarCommandComplete st unit .none) s) fun u => Only [.regs, .bytes, .front, .cellars] s u ∧
        Written s pa b u ∧ ∀ f ∈ u.front.feCopies, f.id = e.cmd.draught → f.onStack = none) ∧
    (∀ k x y, e.writes = [] → e.cmd.core = some k → draughtAt s k e.cmd.draught = some x → dTile e.cmd.cmd = true →
      x.stations[descPos x.desc stCELLAR]? = some y → y.waits = true → y.next = e.cmd.tileIdx →
      Answers (exec (.cellarCommandComplete st unit .none) s) fun u => Only [.freeSeq, .regs, .cellars, .cores] s u ∧
        ∃ x' t, draughtAt u k e.cmd.draught = some x' ∧ stationOf x' (descPos x.desc stCELLAR) = { y with got := some t, waits := false } ∧
          t.bytes = e.result ∧ t.idx = e.cmd.tileIdx ∧ t.rows = x.rows ∧ t.cols = x.cols ∧ t.fmt = dsLsFmt x.desc)) ∧
  (∀ s st c rest, (cellar s st).queue = c :: rest → ccOp c.cmd = 10 → cmdHeld s c = false → ccFence c.cmd = false →
    cmdFault s st c = none → c.core = none →
    Answers (exec (.cbarm st) s) fun u => Only [.front, .cellars] s u ∧ (cellar u st).queue = rest ∧
      (ccCount c.cmd < (cellar s st).ids.length → (codebook u st (ccCount c.cmd)).armed = ccArm c.cmd) ∧
      ∀ i, i ≠ ccCount c.cmd → codebook u st i = codebook s st i) ∧
  (∀ s st c rest slot, (cellar s st).queue = c :: rest → ccOp c.cmd = 9 → cmdHeld s c = false → ccFence c.cmd = false →
    cmdFault s st c = none → c.slotA = none → (cellar s st).fill = none → (cellar s st).fillWaits = [] →
    (codebook s st (ccCount c.cmd)).shadow = none → ccCount c.cmd < (cellar s st).ids.length → slot < 8 → (cellar s st).slots.length = 8 →
    slotUse s st slot = .scratch → (∀ k, slot < k → k < 8 → slotUse s st k ≠ .scratch) → scratchInUse s st slot = false →
    Answers (exec (.cbload st) s) fun u => Only [.cellars] s u ∧ (cellar u st).queue = rest ∧
      (∃ e, (cellar u st).fill = some e ∧ e.cmd = c) ∧ (cellar u st).slots[slot]? = some (.generation (ccCount c.cmd)) ∧
      (codebook u st (ccCount c.cmd)).shadow = some slot ∧
      (codebook u st (ccCount c.cmd)).active = (codebook s st (ccCount c.cmd)).active) ∧
  ∀ s st e slot, (cellar s st).fill = some e → (cellar s st).fillWaits = [] → (codebook s st (ccCount e.cmd.cmd)).shadow = some slot →
    ccCount e.cmd.cmd < (cellar s st).ids.length → operandPoison s e.cmd (placeA e.cmd) 0 524288 = [] → e.cmd.core = none →
    Answers (exec (.codebookFillDone st .clean) s) fun u => Only [.regs, .front, .cellars] s u ∧ (cellar u st).fill = none ∧
      (codebook u st (ccCount e.cmd.cmd)).state = (if (codebook s st (ccCount e.cmd.cmd)).active = none then 2 else 5) ∧
      ∀ i b, (operandBytes s st e.cmd (placeA e.cmd) 0 524288)[i]? = some b → find (cellar u st).sram (slot * 524288 + i) = some b)

/-- R216 to R223: a stack's controller performs a granted request on one 32-byte unit: a write stores its bytes, a read changes nothing. A
read that finds an uncorrectable error leaves the stack not ONLINE with the page retired. An aged entry waits behind the aged ones before
it. The scrubber goes to the next unit. A temperature of 95 °C or more throttles the cellar engine, below 90 °C it runs again, and at 105
°C the stack goes OFFLINE, as with a link error that retraining does not clear. R216, R222 to R224: no command but a cold or warm reset, a
clock gate of stacks or the end of a stack's training, and what can bring one of these (a register or dictionary write, a ring message,
power, a function reset), betters the state of a stack: once out of ONLINE it stays out, OFFLINE stays, and a retired page stays retired.
-/
def Obligations.StackControllers : Prop :=
  ((∀ s stack (r : MemReq), unitReq stack r = true → agedFirst (stackSt s stack) (channelOf r.pa) r.tag = true →
    stackUp s stack = true → s.mem.poison.contains (r.pa / 32) = false →
    (r.write = true → accessOk s r.master r.pa r.data.length true = true →
      Answers (exec (.stackAccess stack r .clean) s) fun u => Only [.freeSeq, .regs, .stackSts, .bytes, .hist] s u ∧
        Written s r.pa r.data u ∧ (stackSt u stack).state = (stackSt s stack).state ∧
        (stackSt u stack).aged = (stackSt s stack).aged.erase (channelOf r.pa, r.tag)) ∧
    (r.write = false → accessOk s r.master r.pa r.len false = true →
      (Answers (exec (.stackAccess stack r .clean) s) fun u => Only [.freeSeq, .regs, .stackSts, .hist] s u) ∧
      Answers (exec (.stackAccess stack r .uncorrectable) s) fun u => (stackSt u stack).state ≠ .online ∧
        (stackPage r.pa ∈ (stackSt u stack).retire ∨ 64 ≤ (stackSt u stack).retire.length))) ∧
  (∀ s stack ch tag, stack < 12 → ch < 64 → (ch, tag) ∉ (stackSt s stack).aged →
    (stackSt s stack).aged.countP (fun e => e.1 == ch) < 48 →
    Answers (exec (.reorderEntryAged stack ch tag) s) fun u => Only [.stackSts] s u ∧
      stackSt u stack = { stackSt s stack with aged := (stackSt s stack).aged ++ [(ch, tag)] } ∧
      ∀ k, k ≠ stack → stackSt u k = stackSt s k) ∧
  (∀ s stack, (stackSt s stack).scrubbing = true → stackUp s stack = true →
    s.mem.poison.contains (stack * 2 ^ 31 + (stackSt s stack).scrubPos) = false →
    Answers (exec (.scrubRead stack .clean) s) fun u => Only [.stackSts] s u ∧
      stackSt u stack = { stackSt s stack with scrubPos := ((stackSt s stack).scrubPos + 1) % 2 ^ 31 }) ∧
  (∀ s stack temp, stack < 12 → (stackSt s stack).state ≠ .absent →
    (temp < 840 → Answers (exec (.stackTempReadout stack temp) s) fun u => Only [.regs, .stackSts] s u ∧
      (stackSt u stack).temp = temp ∧ (stackSt u stack).state = (stackSt s stack).state ∧
      (stackSt u stack).hot = (if 760 ≤ temp then true else if temp < 720 then false else (stackSt s stack).hot)) ∧
    (840 ≤ temp → stackUp s stack = true →
      Answers (exec (.stackTempReadout stack temp) s) fun u => (stackSt u stack).state = .offline)) ∧
  ∀ s stack, stack < 12 → stackUp s stack = true →
    (Answers (exec (.stackLinkError stack true) s) fun u => Only [.regs] s u ∧ bit (reg u (offStk stack + 4)) 3 = true) ∧
    Answers (exec (.stackLinkError stack false) s) fun u => (stackSt u stack).state = .offline) ∧
  (∀ i s u, exec i s = .next u →
    match i with
    | .registerWrite .. | .ckGateStack .. | .stackTrained .. => True
    | .powerApplied .. | .inputFault .. | .inputRestored .. | .junctionSample .. | .tripRestartDelay .. | .modReset .. => True
    | .perstAssert .. | .pfFlr .. | .resetCtrlWarm .. | .imageVerifyDone .. | .monitorWindowEnd .. | .pllUnlock .. => True
    | .dictRead .. | .dictWrite .. | .readSet .. | .describe .. | .normal .. | .tickInfo .. | .census .. | .survey .. => True
    | _ => ∀ st, NoBetter (stackSt s st) (stackSt u st))

/-- R225, R228, R229, R270, R273, R494: the home slice serves its oldest request; a line that it holds goes to the fill that waits for it,
and a store is merged into the line that it holds; with the last store that a FENCE of a group waits for, its wait is over (R273). A flush
of a slice's partition leaves no line in its range, and it is over with ATTIC_FLUSH_DONE. R232 to R237, R364: a store-room controller
writes the bytes of a granted request on one block, or reads it; a read of a block that fails its checks poisons it. A page move that is
first to go runs, of at most 16; when it is over the page's bytes are at the destination, and no TLB holds the page's translation; a
pinned page does not move, and fails its command (R246). -/
def Obligations.SlicesAndStoreRoom : Prop :=
  ((∀ s slice core icache ctx va pa rest i l, (sliceSt s slice).reqs = .line core icache ctx va pa :: rest → pa % 128 = 0 →
    homeSlice s pa = some slice → atticFind s slice pa = some (i, l) → l.data.length = 128 →
    accessOk s ctx pa 128 false = true → (icache = true ∨ pendingStores s core pa = []) →
    Answers (exec (.atticAccess slice .none) s) fun u => Only [.regs, .slices, .cores] s u ∧ (sliceSt u slice).reqs = rest ∧
      ∀ f ∈ (coreSt u core).fills, f.icache = icache → f.ctx = ctx → f.va = va →
        f.data = some l.data ∨ (f ∈ (coreSt s core).fills ∧ f.data ≠ none)) ∧
  (∀ s slice core at_ seq e rest i l, (sliceSt s slice).reqs = .store core at_ seq e :: rest → e.pa % 128 = 0 →
    homeSlice s e.pa = some slice → atticFind s slice e.pa = some (i, l) → l.data.length = 128 →
    accessOk s e.ctx e.pa 128 false = true → e.data ≠ [] →
    (∀ b ∈ e.data, b.1 < 128 ∧ accessOk s e.ctx (e.pa + b.1) 1 true = true) →
    Answers (exec (.atticAccess slice .none) s) fun u => Only [.regs, .govs, .slices, .cores] s u ∧ (sliceSt u slice).reqs = rest ∧
      (∃ j m, atticFind u slice e.pa = some (j, m) ∧ m.dirty = true ∧ m.data = e.data.foldl (fun d b => setAt d b.1 b.2) l.data) ∧
      (∀ c, c ≠ core → find u.cores c = find s.cores c) ∧
      ∀ n g upto, groupAt s core n = some g → g.cond = .fence upto → storesAwaited u core upto = false →
        ∃ h, groupAt u core n = some h ∧ h.fenced = true ∧ h.cond = .clear) ∧
  (∀ s slice p, HostMayWrite s (offAtc slice + 4) → slice < 16 → partOfCluster s slice = some p → (sliceSt s slice).busy = false →
    Answers (exec (.atticFlush slice) s) fun u => Only [.regs, .bytes, .poison, .srPoison, .slices] s u ∧
      ∀ k ∈ partSlices s p, (sliceSt u k).busy = true ∧ ∀ e ∈ (sliceSt u k).lines, ∀ l ∈ e.2.items,
        match flushRange s slice with
        | none => False
        | some r => l.pa < r.1 ∨ r.2 ≤ l.pa) ∧
  ∀ s p k, k ∈ partSlices s p → (sliceSt s k).busy = true →
    Answers (exec (.atticFlushDone p) s) fun u => Only [.dict, .slices] s u ∧
      (∀ k ∈ partSlices s p, (sliceSt u k).busy = false ∧ (sliceSt u k).lines = (sliceSt s k).lines) ∧
      ∀ c ∈ u.dict.clusters, c.partition = p → c.flushed = true) ∧
  ((∀ s (r : MemReq), let n := if r.write then r.data.length else r.len
    1 ≤ n → r.pa / 4096 = (r.pa + n - 1) / 4096 → inStoreRoom r.pa = true → inStoreRoom (r.pa + n - 1) = true →
    accessOk s r.master r.pa n r.write = true → SoundAt s r.pa n →
    (r.write = true → Answers (exec (.storeRoomAccess r .ok) s) fun u => Only [.freeSeq, .regs, .bytes, .pkgs, .hist] s u ∧
      Written s r.pa r.data u) ∧
    (r.write = false → Answers (exec (.storeRoomAccess r .ok) s) fun u => Only [.freeSeq, .regs, .pkgs, .hist] s u) ∧
    (r.write = false → r.master = 4096 → r.queue = none → s.settled → Answers (exec (.storeRoomAccess r .crcMismatch) s) fun u =>
      r.pa / 4096 ∈ u.mem.srPoison ∧ Only [.freeSeq, .regs, .srPoison, .pkgs, .hist] s u)) ∧
  (∀ s p i m, s.mem.moves[i]? = some m → m.partition = p → m.running = false → moveFree s.mem.moves i m = true →
    (∀ j x, j < i → s.mem.moves[j]? = some x → x.partition = p → x.running = false → moveFree s.mem.moves j x = false) →
    s.mem.moves.countP (fun m => m.partition == p && m.running) < 16 →
    Answers (exec (.pageMoveStart p) s) fun u => Only [.moves] s u ∧ u.mem.moves[i]? = some { m with running := true } ∧
      ∀ j, j ≠ i → u.mem.moves[j]? = s.mem.moves[j]?) ∧
  (∀ s p i m q slot e, (s.mem.moves.filter (fun m => m.partition == p && m.running))[i]? = some m → m.queue = some q →
    inFlightOf s ⟨m.ctx, some (m.va / 65536 * 65536, m.va / 65536 * 65536 + 65536), false, none⟩ = false →
    leafOf s m.ctx m.va = some (slot, e) → leafPin e = true →
    Answers (exec (.pageMoveDone p i) s) fun u => u.mem.bytes = s.mem.bytes ∧ u.mem.moves = s.mem.moves.erase m ∧
      Stopped s q stFaultCommand u) ∧
  ∀ s p i m q slot e, (s.mem.moves.filter (fun m => m.partition == p && m.running))[i]? = some m → m.queue = some q →
    s.settled →
    inFlightOf s ⟨m.ctx, some (m.va / 65536 * 65536, m.va / 65536 * 65536 + 65536), false, none⟩ = false →
    leafOf s m.ctx m.va = some (slot, e) → leafBulk e = true → leafPin e = false → leafAddr e = m.src →
    SoundAt s m.src 65536 → SoundAt s m.dst 65536 → SoundAt s slot 8 → (slot + 8 ≤ m.dst ∨ m.dst + 65536 ≤ slot) →
    Answers (exec (.pageMoveDone p i) s) fun u => Only [.regs, .govs, .subs, .trans, .bytes, .pkgs, .moves, .cellars, .cores] s u ∧
      u.mem.moves = s.mem.moves.erase m ∧
      (∀ k, k < 65536 → u.byteAt (m.dst + k) = s.byteAt (m.src + k)) ∧
      (∀ a, (a < m.dst ∨ m.dst + 65536 ≤ a) → (a < slot ∨ slot + 8 ≤ a) → u.byteAt a = s.byteAt a) ∧
      NoTranslation u m.ctx (fun va => va / 65536 = m.va / 65536) ∧
      ∀ b, find s.subs q = some b → ∃ c, find u.subs q = some c ∧ c.work = b.work - 1)

/-- R245, R247, R248, R250, R254, R355: the oldest miss of a die takes one of its 16 walkers, or joins the walk of its page. A walk that
ends at a leaf that the access may use puts the translation first in the TLB of the core that asked and lets the group go on; after an
invalidation that its walk met, no TLB holds it and the group's request alone has it; one that ends at no valid entry takes a new token
for it, or joins the token of its context, page and class, and the group waits on the token. -/
def Obligations.Walks : Prop :=
  (∀ s die m rest, let v := enterMisses s die
    missesOf v die = m :: rest →
    ((∀ w, w ∈ walksOf s die → ¬ (w.ctx = m.ctx ∧ w.va / 65536 = m.va / 65536)) → (walksOf s die).length < 16 →
      Answers (exec (.walkStart die) s) fun u => Only [.regs, .trans] s u ∧ missesOf u die = rest ∧
        walksOf u die = walksOf s die ++ [{ m with nocache := false }]) ∧
    (∀ (i : Nat) (w : Miss), (walksOf s die)[i]? = some w → w.ctx = m.ctx → w.va / 65536 = m.va / 65536 →
      Answers (exec (.walkStart die) s) fun u => Only [.trans] s u ∧ missesOf u die = rest ∧
        (walksOf u die)[i]? = some { w with reqs := w.reqs ++ m.reqs })) ∧
  (∀ s die i m core slot va acc q e level g a leaf block, (walksOf s die)[i]? = some m → m.reqs = [⟨.lane core slot, va, acc, 0, q⟩] →
    (walk s die m.ctx m.va).1 = .leaf e level →
    judgeLeaf s (.lane core slot) va acc 0 level e (level == 2) = .ok leaf block →
    groupAt s core slot = some g → g.cond = .walk a →
    Answers (exec (.walkComplete die i) s) fun u =>
      Only [.freeSeq, .regs, .govs, .ctxs, .trans, .cores, .hist] s u ∧
      (m.nocache = false → ((find u.trans.coreTlb core).getD []).head? = some ⟨m.ctx, va / 65536 * 65536, block, leaf⟩) ∧
      (m.nocache = true → u.trans.coreTlb = s.trans.coreTlb ∧ u.trans.clusterTlb = s.trans.clusterTlb ∧
        u.trans.walkCache = s.trans.walkCache ∧
        u.trans.given = s.trans.given ++ [⟨.lane core slot, q, ⟨m.ctx, va / 65536 * 65536, block, leaf⟩⟩]) ∧
      (∃ h, groupAt u core slot = some h ∧ h.cond = .clear ∧ h.lanes = g.lanes ∧ h.scalars = g.scalars ∧ h.run = g.run) ∧
      ∀ c st, find s.ctxs m.ctx = some c → stackOf (leafPa leaf block va) = some st →
        ∃ d, find u.ctxs m.ctx = some d ∧ bit d.stackMask st = true) ∧
  ∀ s die i m core slot va acc q r level e g, (walksOf s die)[i]? = some m → m.reqs = [⟨.lane core slot, va, acc, 0, q⟩] →
    (walk s die m.ctx m.va).1 = .bad r level e → groupAt s core slot = some g →
    (∀ shared, (∀ t ∈ s.trans.tokens, ¬ (t.ctx = m.ctx ∧ t.page = faultPage va false ∧ t.cls = faultClass acc)) →
      tokenFor s (((find s.ctxs m.ctx).map Context.partition).getD 0) false = some shared →
      Answers (exec (.walkComplete die i) s) fun u => Only [.freeSeq, .regs, .trans, .cores, .hist] s u ∧
        u.trans.nextToken = s.trans.nextToken + 1 ∧ u.trans.records.length = s.trans.records.length + 1 ∧
        (∃ t, u.trans.tokens = s.trans.tokens ++ [t] ∧ t.token = s.trans.nextToken ∧ t.ctx = m.ctx ∧ t.va = va ∧
          t.who = [(.lane core slot, q)]) ∧
        u.trans.walkCache = s.trans.walkCache ∧
        ∃ h, groupAt u core slot = some h ∧ h.cond = .fault s.trans.nextToken ∧ h.active = false ∧ h.run = g.run) ∧
    ∀ t, s.trans.tokens.find? (fun t => t.ctx == m.ctx && t.page == faultPage va false && t.cls == faultClass acc) = some t →
      Answers (exec (.walkComplete die i) s) fun u => Only [.freeSeq, .regs, .trans, .cores, .hist] s u ∧
        u.trans.nextToken = s.trans.nextToken ∧ u.trans.records = s.trans.records ∧
        (∃ k ∈ u.trans.tokens, k.token = t.token ∧ (.lane core slot, q) ∈ k.who) ∧
        ∃ h, groupAt u core slot = some h ∧ h.cond = .fault t.token ∧ h.active = false ∧ h.run = g.run

/-- R250 to R253, R262, R376: the oldest fault record goes to the ring at HEAD, which advances; a token of fabric ingress is free with its
record. RESUME of an outstanding token lets the groups that wait on it go on, and those that wait for a token; TERMINATE stops the
submissions attached to it; a token that is not outstanding has no effect. A token that reached its limit of boundaries costs its context.
R257 to R259, R262: an invalidation by tag leaves no translation of its context in any TLB, one by range none of a page in it; both are
accepted in order, at most 16 at once, a further one only sets its error bit; the oldest completes once no use of what it removed is in
flight. -/
def Obligations.FaultsAndInvalidations : Prop :=
  ((∀ s b rest, s.trans.records = b :: rest → bit (reg s offFaultCfg) 31 = true → faultRingFull s = false →
    s.front.d3hot.contains 0 = false →
    Answers (exec .faultRecordWrite s) fun u => Only [.regs, .govs, .front, .trans, .host, .cores, .sent] s u ∧ u.trans.records = rest ∧
      HostWritten s (regPair s offFaultBase + reg s offFaultHead % 2 ^ faultRingLog2 s * 64) b u ∧
      reg u offFaultHead = (reg s offFaultHead + 1) % 2 ^ 32 ∧
      (¬ (fieldLE b 0x08 1 = 0 ∧ fieldLE b 0x0B 1 = 5) → Only [.regs, .trans, .host, .sent] s u ∧ u.trans.tokens = s.trans.tokens) ∧
      (fieldLE b 0x08 1 = 0 ∧ fieldLE b 0x0B 1 = 5 → ∀ k ∈ u.trans.tokens, k.token.toNat ≠ fieldLE b 0x30 4)) ∧
  (∀ s, HostMayWrite s 0x10001C → respToken s = none →
    exec .faultResume s = .next s ∧ exec .faultTerminate s = .next s) ∧
  (∀ s t, HostMayWrite s 0x10001C → respToken s = some t →
    (Answers (exec .faultResume s) fun u => Only [.regs, .govs, .front, .trans, .cores] s u ∧
      u.trans.tokens = s.trans.tokens.filter (fun k => k.token != t.token) ∧ u.trans.noToken = [] ∧
      ∀ core slot g, ((∃ q, (.lane core slot, q) ∈ t.who) ∨ ∃ w ∈ s.trans.noToken, w.who = .lane core slot) →
        groupAt s core slot = some g → ((∃ k, g.cond = .fault k) ∨ ∃ a, g.cond = .walk a) →
        ∃ h, groupAt u core slot = some h ∧ h.cond = .clear ∧ h.lanes = g.lanes ∧ h.scalars = g.scalars ∧ h.run = g.run) ∧
    Answers (exec .faultTerminate s) fun u => (∀ x ∈ t.who, Stopped s x.2 stFaultTranslation u) ∧
      ∀ k ∈ u.trans.tokens, k.token ≠ t.token) ∧
  ∀ s t, t ∈ s.trans.tokens → (∀ k ∈ s.trans.tokens, k.token = t.token → k = t) →
    t.tick.toNat + obj s 0x4010 1 ≤ s.tick.count.toNat →
    Answers (exec (.faultTimeout t.token) s) fun u => LosesContext s t.ctx 2 u ∧ ∀ k ∈ u.trans.tokens, k.token ≠ t.token) ∧
  ((∀ s, HostMayWrite s 0x100034 → s.trans.invals.countP Inval.reg < 16 →
    let ctx := bits (reg s offInvCtx) 11 0
    (bit (reg s offInvCtx) 12 = false → Answers (exec .invalidateByTag s) fun u => Only [.regs, .subs, .trans, .cellars] s u ∧
      NoTranslation u ctx (fun _ => True) ∧ u.trans.invals = s.trans.invals ++ [⟨ctx, none, true, none⟩] ∧
      bits (reg u offInvSeq) 31 16 = (bits (reg s offInvSeq) 31 16 + 1) % 2 ^ 16) ∧
    (bit (reg s offInvCtx) 12 = true → Answers (exec .invalidateByRange s) fun u => Only [.regs, .subs, .trans, .cellars] s u ∧
      NoTranslation u ctx (fun va => (invRange s).1 ≤ va ∧ va < (invRange s).2) ∧
      u.trans.invals = s.trans.invals ++ [⟨ctx, some (invRange s), true, none⟩] ∧
      bits (reg u offInvSeq) 31 16 = (bits (reg s offInvSeq) 31 16 + 1) % 2 ^ 16)) ∧
  (∀ s, HostMayWrite s 0x100034 → 16 ≤ s.trans.invals.countP Inval.reg →
    (bit (reg s offInvCtx) 12 = false → exec .invalidateByTag s = .next (orReg s offInvStatus 0x100)) ∧
    (bit (reg s offInvCtx) 12 = true → exec .invalidateByRange s = .next (orReg s offInvStatus 0x100))) ∧
  ∀ s v rest, s.trans.invals = v :: rest → inFlightOf s v = false →
    ((∀ c, find s.ctxs v.ctx = some c → c.state ≠ .free) → Answers (exec .invalidationDrainDone s) fun u =>
      Only [.regs, .subs, .trans] s u ∧ u.trans.invals = rest ∧
      (v.reg = true → bits (reg u offInvSeq) 15 0 = (bits (reg s offInvSeq) 15 0 + 1) % 2 ^ 16) ∧
      ∀ q b, v.queue = some q → find s.subs q = some b → ∃ c, find u.subs q = some c ∧ c.work = b.work - 1) ∧
    ∀ c, find s.ctxs v.ctx = some c → c.state = .free → s.settled → Answers (exec .invalidationDrainDone s) fun u =>
      find u.ctxs v.ctx = none ∧ u.trans.invals.map Inval.ctx = rest.map Inval.ctx)

/-- R318, R320, R324, R334, R335: a doorbell whose write index W lies within its queue's size of WRITE and of READ makes WRITE W and asks
for a slot; any other changes nothing but the function's error bit. The first request that can have a slot takes it, and the queue that is
evicted for it gives up its own. R312, R319, R321, R324, R325, R343: a resident queue's next entry is read whole from its ring in order,
with the status that its checks find; the entry's command buffer, and its fallback buffer, are read whole, under the access table in force
as they are read; a poll of fence waits marks each wait that is met; a context's load over, its work starts. -/
def Obligations.DoorbellsAndPrefetch : Prop :=
  ((∀ s q (w : BitVec 32) u, HostMayWrite s 0x10000 → find s.queues q = some u →
    ((w - u.write).toNat ≤ 2 ^ u.log2 → (w - u.read).toNat ≤ 2 ^ u.log2 →
      Answers (exec (.feDoorbell q w) s) fun t => (∃ v, find t.queues q = some v ∧ v.write = w) ∧
        (QuietAt s (regPair s offQueueTable + 64 * q + 0x18) 8 → Only [.front, .queues, .bytes] s t ∧
          (∃ v, find t.queues q = some v ∧ v.write = w ∧ v.read = u.read ∧ v.fetched = u.fetched ∧
            (u.resident = false → v.request.isSome = true)) ∧ ∀ k, k ≠ q → find t.queues k = find s.queues k)) ∧
    (2 ^ u.log2 < (w - u.write).toNat ∨ 2 ^ u.log2 < (w - u.read).toNat →
      Answers (exec (.feDoorbell q w) s) fun t => Only [.regs] s t ∧ bit (reg t offFeStatus) 3 = true)) ∧
  (∀ s q (w : BitVec 32), HostMayWrite s 0x10000 → find s.queues q = none →
    Answers (exec (.feDoorbell q w) s) fun t => Only [.regs] s t ∧ bit (reg t offFeStatus) 3 = true) ∧
  (∀ s fn k (w : BitVec 32), 1 ≤ fn → fn < 64 → k < 64 → feDrops s = false → s.front.d3hot.contains fn = false →
    regsGranted s fn 0 true = true →
    (∀ q u, vfQueue s fn k = some q → find s.queues q = some u →
      ((w - u.write).toNat ≤ 2 ^ u.log2 → (w - u.read).toNat ≤ 2 ^ u.log2 →
        Answers (exec (.feVfDoorbell fn k w) s) fun t => (∃ v, find t.queues q = some v ∧ v.write = w) ∧
          (QuietAt s (regPair s offQueueTable + 64 * q + 0x18) 8 → Only [.front, .queues, .bytes] s t)) ∧
      (2 ^ u.log2 < (w - u.write).toNat ∨ 2 ^ u.log2 < (w - u.read).toNat →
        Answers (exec (.feVfDoorbell fn k w) s) fun t => Only [.vfRegs] s t ∧ bit (vfReg t fn 0x1000) 2 = true)) ∧
    (vfQueue s fn k = none →
      Answers (exec (.feVfDoorbell fn k w) s) fun t => Only [.vfRegs] s t ∧ bit (vfReg t fn 0x1000) 2 = true)) ∧
  (∀ s (w : BitVec 32), HostMayWrite s 0x034 →
    ((w - s.front.kWrite).toNat ≤ 2 ^ kringLog2 s → (w - s.front.kRead).toNat ≤ 2 ^ kringLog2 s →
      exec (.feKringDoorbell w) s = .next (s.withFront { s.front with kWrite := w })) ∧
    (2 ^ kringLog2 s < (w - s.front.kWrite).toNat ∨ 2 ^ kringLog2 s < (w - s.front.kRead).toNat →
      Answers (exec (.feKringDoorbell w) s) fun t => Only [.regs] s t ∧ bit (reg t offFeStatus) 3 = true)) ∧
  ∀ s q u how, (slotRequests s).find? (fun e => (slotFor s e.2).isSome) = some (q, u) → slotFor s u = some how →
    find s.queues q = some u → how ≠ some q →
    Answers (exec .queueSlotLoad s) fun t => Only [.queues] s t ∧
      find t.queues q = some { u with resident := true, request := none } ∧
      (∀ v b, how = some v → find s.queues v = some b → find t.queues v = some { b with resident := false, fetched := [] }) ∧
      ∀ k, k ≠ q → how ≠ some k → find t.queues k = find s.queues k) ∧
  ((∀ s q u, q ≠ kring → find s.queues q = some u → u.resident = true → (∀ f ∈ u.fetched, f.status = 0) →
    (u.fetched.length < 2 ∨ (u.fetched.length = 2 ∧ u.cls ≠ 0 ∧ thirdOk s q = true)) →
    u.read + BitVec.ofNat 32 u.fetched.length ≠ u.write →
    let i := u.read + BitVec.ofNat 32 u.fetched.length
    let pa := u.ringBase + i.toNat % 2 ^ u.log2 * 64
    let e := peek s pa 64
    let gets (st : Nat) : Prop := Answers (exec (.ringEntryFetch q .clean) s) fun t => Only [.queues] s t ∧
      (∃ f, find t.queues q = some { u with fetched := u.fetched ++ [f] } ∧ f.idx = i ∧ f.status = st ∧ f.buffer = none ∧
        f.fallback = none ∧ f.met = 0 ∧ (st ≠ stRefusedAccess → f.entry = e) ∧
        (st = 0 → u.cls = 0 →
          f.badHandle = (resolveFallback s u.ctx (((find s.ctxs u.ctx).map Context.gen).getD false) e).isNone)) ∧
      ∀ k, k ≠ q → find t.queues k = find s.queues k
    (s.settled → ctxLost s u.ctx = false → accessOk s u.ctx pa 64 false = true → SoundAt s pa 64 →
      (entryStatus s q u e = 0 ∨ (find s.subs q).isSome = true) → gets (entryStatus s q u e)) ∧
    ((find s.subs q).isSome = true → (ctxLost s u.ctx = true → gets stRefusedLost) ∧
      (ctxLost s u.ctx = false → accessOk s u.ctx pa 64 false = false → gets stRefusedAccess))) ∧
  (∀ s q u f rest, s.settled → q ≠ kring → find s.queues q = some u → u.fetched = f :: rest → f.status = 0 → (∀ x ∈ rest, x.idx ≠ f.idx) →
    (f.buffer = none →
      (accessOk s u.ctx (reCbAddr f.entry) (reCbLen f.entry) false = true → SoundAt s (reCbAddr f.entry) (reCbLen f.entry) →
        Answers (exec (.commandBufferFetch q false .clean) s) fun t => Only [.queues] s t ∧ find t.queues q = some { u with
          fetched := { f with buffer := some (peek s (reCbAddr f.entry) (reCbLen f.entry)) } :: rest }) ∧
      (accessOk s u.ctx (reCbAddr f.entry) (reCbLen f.entry) false = false → (find s.subs q).isSome = true →
        Answers (exec (.commandBufferFetch q false .clean) s) fun t => Only [.queues] s t ∧ find t.queues q = some { u with
          fetched := { f with status := stRefusedAccess } :: rest })) ∧
    (f.fallback = none → f.badHandle = false → f.fbSize ≠ 0 → accessOk s u.ctx f.fbBase f.fbSize false = true →
      SoundAt s f.fbBase f.fbSize →
      Answers (exec (.commandBufferFetch q true .clean) s) fun t => Only [.queues] s t ∧ find t.queues q = some { u with
        fetched := { f with fallback := some (peek s f.fbBase f.fbSize) } :: rest })) ∧
  (∀ s e, s.settled → s.front.kFetched = some e → find s.subs kring = none → s.front.d3hot.contains 0 = false →
    accessOk s 4096 (reCbAddr e) (reCbLen e) false = true →
    SoundAt s (reCbAddr e) (reCbLen e) → opUnits (cmOp (peek s (reCbAddr e) (reCbLen e))) ≠ 0 →
    Answers (exec (.commandBufferFetch kring false .clean) s) fun t => Only [.subs] s t ∧
      ∃ b, find t.subs kring = some b ∧ b.buffer = peek s (reCbAddr e) (reCbLen e) ∧ b.pos = 0 ∧ b.phase = .running ∧ b.entry = e) ∧
  (∀ s, s.settled →
    (∀ q u f w, find s.queues q = some u → f ∈ u.fetched → w ∈ waitsOf f → bit w.1 63 = true ∨ poisonedIn s w.1 8 = []) →
    Answers (exec .fenceWaitPoll s) fun t => Only [.queues, .sent] s t ∧ ∀ q u f, find s.queues q = some u → f ∈ u.fetched →
      (∀ x ∈ u.fetched, x.idx = f.idx → x = f) →
      ∃ v g, find t.queues q = some v ∧ g ∈ v.fetched ∧ g = { f with met := g.met } ∧
        ∀ i w, (waitsOf f)[i]? = some w →
          bit g.met i = (bit f.met i || waitMet w.2 (waitWord s q u.ctx (some (ctxPartition s u.ctx)) w.1).1)) ∧
  ∀ s ctx c, find s.ctxs ctx = some c → c.loading = true →
    Answers (exec (.contextSlotLoad ctx) s) fun t => Only [.ctxs, .subs] s t ∧
      find t.ctxs ctx = some { c with loading := false } ∧
      ∀ q b, find s.subs q = some b → find t.subs q = some b ∨ (b.held = true ∧ find t.subs q = some { b with held := false }))

/-- R122, R124, R315, R324 to R326, R348: a command of a queue that keeps to its form and may be dispatched has its effect, and its
submission goes on to the next. NOP has none; a FENCE_WAIT has waited before admission; LAUNCH puts its groups in the launch queues of its
cores in turn; DRAUGHT issues its descriptor; COPY and FILL start, on a stack's cellar engine or on the copy engine; INV_RANGE invalidates
and is work until it has drained; HANDLE_ARM sets the arm flag. -/
def Obligations.QueueCommands : Prop :=
  (∀ s q u c, Dispatches s q 0x00 u c → Answers (exec (.nop q) s) fun t => GoesOn s q 0x00 0 t ∧ Only [.subs] s t) ∧
  (∀ s q u c, Dispatches s q 0x01 u c → s.settled →
    let r := (waitWord s q u.ctx (if q = kring then none else some u.partition) (fieldLE c 0x08 8)).1
    (∀ v, r = .inl v → q ≠ kring ∨ fieldLE c 0x10 8 ≤ v →
      Answers (exec (.fenceWait q) s) fun t => GoesOn s q 0x01 0 t ∧ Only [.subs, .sent] s t) ∧
    (∀ v, r = .inl v → q = kring → v < fieldLE c 0x10 8 → Answers (exec (.fenceWait q) s) fun t => Only [.sent] s t) ∧
    (r = .inr stFaultAccess → Answers (exec (.fenceWait q) s) fun t => Stopped s q stFaultAccess t)) ∧
  (∀ s q u c, Dispatches s q 0x02 u c →
    let cores := launchCores u (fieldLE c 0x18 24)
    (launchOk c = true → cores ≠ [] → staticNeed (fieldLE c 0x13 1) (fieldLE c 0x14 4) ≤ staticBytes s u.ctx →
      Answers (exec (.launch q) s) fun t => GoesOn s q 0x02 0 t ∧ Only [.regs, .govs, .subs, .cores] s t ∧
        ∀ core, (coreSt t core).groups = (coreSt s core).groups ∧ (coreSt t core).launchQ = (coreSt s core).launchQ ++
          ((List.range (cmArg c)).filter (fun g => cores.getD (g % cores.length) 0 == core)).map (launchReq u q c)) ∧
    (launchOk c = false ∨ cores = [] ∨ staticBytes s u.ctx < staticNeed (fieldLE c 0x13 1) (fieldLE c 0x14 4) →
      Answers (exec (.launch q) s) fun t => Stopped s q stFaultCommand t)) ∧
  (∀ s q u c, Dispatches s q 0x03 u c →
    (cmArg c < numCores s → (coreSt s (cmArg c)).draughts.length < 16 →
      Answers (exec (.draught q) s) fun t => GoesOn s q 0x03 0 t ∧ Only [.regs, .govs, .subs, .cores] s t ∧
        ∃ x, (coreSt t (cmArg c)).draughts = (coreSt s (cmArg c)).draughts ++ [x] ∧ x.desc = (c.drop 0x10).take 128 ∧
          x.ctx = u.ctx ∧ x.queue = q ∧ x.slot = none ∧ x.active = false) ∧
    (numCores s ≤ cmArg c → Answers (exec (.draught q) s) fun t => Stopped s q stFaultCommand t)) ∧
  (∀ s q u c, Dispatches s q 0x04 u c → (coSrcHost c = true → fieldLE c 0x08 4 = 0) → (coDstHost c = true → fieldLE c 0x0C 4 = 0) →
    4 ≤ coLen c → coLen c ≤ 2 ^ 40 → coLen c % 4 = 0 →
    let n := coLen c
    let src := if coSrcHost c then Side.host (fieldLE c 0x10 8) else objectSide s u (fieldLE c 0x08 4) (fieldLE c 0x10 8) n false
    let dst := if coDstHost c then Side.host (fieldLE c 0x18 8) else objectSide s u (fieldLE c 0x0C 4) (fieldLE c 0x18 8) n true
    let ranges := sideRange src n false ++ sideRange dst n true
    let r := mapPages s (.frontEnd q) u.ctx q u.maps (pagesOf ranges)
    let onEngine (peer : Option (Nat × Nat)) : Prop := Answers (exec (.copy q) s) fun t => GoesOn s q 0x04 0 t ∧
      Only [.regs, .ctxs, .trans, .front, .subs] s t ∧ ∃ f, t.front.feCopies = s.front.feCopies ++ [f] ∧ f.cmd = c ∧ f.queue = q ∧
        f.src = sideAt src ∧ f.dst = sideAt dst ∧ f.done = 0 ∧ f.onStack = none ∧ f.peer = peer
    sideOutside src n = false → sideOutside dst n = false → r.1 = true →
    (∀ a, src = .host a → (∃ b, dst = .host b) ∨ (∃ vb, dst = .object vb) → onEngine none) ∧
    (∀ va b, src = .object va → dst = .host b → onEngine none) ∧
    (∀ va port x b, src = .object va → dst = .peer port x b → cachedVa va = false → onEngine (some (port, x))) ∧
    (∀ va vb, src = .object va → dst = .object vb →
      (∀ st, oneStack r.2.1.pages ranges = some st → n % 8 = 0 → n ≤ 2 ^ 26 →
        spansMeet (mappedSpans r.2.1.pages va n) (mappedSpans r.2.1.pages vb n) = false →
        Answers (exec (.copy q) s) fun t => GoesOn s q 0x04 0 t ∧ Only [.regs, .ctxs, .trans, .front, .subs, .cellars] s t ∧ ∃ k,
          (cellar t st).waiting = (cellar s st).waiting ++ [k] ∧ ccOp k.cmd = ocCOPY ∧ ccN k.cmd = n ∧ k.queue = q ∧ k.core = none) ∧
      (oneStack r.2.1.pages ranges = none ∨ n % 8 ≠ 0 ∨ 2 ^ 26 < n ∨
        spansMeet (mappedSpans r.2.1.pages va n) (mappedSpans r.2.1.pages vb n) = true → onEngine none))) ∧
  (∀ s q u c e, Dispatches s q 0x05 u c →
    let n := cmArg c * 8
    let va := heBase e + fieldLE c 0x10 8
    let r := mapPages s (.frontEnd q) u.ctx q u.maps (pagesOf [(va, n, true)])
    goodUse s u.ctx u.gen (fieldLE c 0x08 4) [1] (fieldLE c 0x10 8) n false true = some e →
    sideOutside (.object va) n = false →
      (r.1 = false → Answers (exec (.fill q) s) fun t => Only [.regs, .ctxs, .trans, .subs] s t ∧
        find t.subs q = some { u with maps := r.2.1 }) ∧
      (∀ st, r.1 = true → oneStack r.2.1.pages [(va, n, true)] = some st → n ≤ 2 ^ 26 →
        Answers (exec (.fill q) s) fun t => GoesOn s q 0x05 0 t ∧ Only [.regs, .ctxs, .trans, .front, .subs, .cellars] s t ∧ ∃ k,
          (cellar t st).waiting = (cellar s st).waiting ++ [k] ∧ ccOp k.cmd = ocFILL ∧ ccN k.cmd = n ∧ k.queue = q ∧ k.core = none) ∧
      (r.1 = true → oneStack r.2.1.pages [(va, n, true)] = none ∨ 2 ^ 26 < n →
        Answers (exec (.fill q) s) fun t => GoesOn s q 0x05 0 t ∧ Only [.regs, .ctxs, .trans, .front, .subs] s t ∧ ∃ f,
          t.front.feCopies = s.front.feCopies ++ [f] ∧ f.cmd = c ∧ f.dst = va ∧ f.done = 0 ∧ f.onStack = none)) ∧
  (∀ s f, nextFeCopy s = some f → (∀ g ∈ s.front.feCopies, g.id = f.id → g = f) → cmOp f.cmd = 0x04 → coSrcHost f.cmd = true →
    coDstHost f.cmd = true → f.peer = none →
    let n := min 65536 (coLen f.cmd - f.done)
    Answers (exec .copyEnginePieceDone s) fun t => Only [.front, .host, .sent] s t ∧
      HostWritten s (f.dst + f.done) (hostRead s (fnOfQueue s f.queue) (f.src + f.done) n).1 t ∧
      ∀ g ∈ t.front.feCopies, g.id = f.id → g.done = f.done + n ∧ (g.done < coLen f.cmd ∨ f.peerAcks ≠ 0)) ∧
  (∀ s q u c, Dispatches s q 0x06 u c →
    let ctx := if q = kring then cmArg c else u.ctx
    let lo := fieldLE c 0x08 8
    let hi := lo + fieldLE c 0x10 8 * 65536
    Answers (exec (.invRange q) s) fun t => GoesOn s q 0x06 1 t ∧ Only [.subs, .trans, .cellars] s t ∧
      NoTranslation t ctx (fun va => lo ≤ va ∧ va < hi) ∧ t.trans.invals = s.trans.invals ++ [⟨ctx, some (lo, hi), false, some q⟩]) ∧
  ∀ s q u c x, Dispatches s q 0x07 u c → find s.ctxs u.ctx = some x →
    Answers (exec (.handleArm q) s) fun t => GoesOn s q 0x07 0 t ∧ Only [.ctxs, .subs] s t ∧
      find t.ctxs u.ctx = some { x with armed := cmArg c == 1 }

/-- R246, R309 to R311, R316, R327, R332: the kernel ring's commands. CTX_CREATE makes an IDLE context of its descriptor; CTX_DESTROY
loses the context with reason 5 where it is asked to, else releases it and invalidates its translations; QUEUE_CREATE makes an empty queue
of its descriptor and QUEUE_DESTROY removes one; MOVE queues a page move, but of a pinned page; INV_TAG invalidates a context. -/
def Obligations.KernelCommands : Prop :=
  (∀ s u c, Dispatches s kring 0x40 u c →
    let ctx := cmArg c
    let pa := fieldLE c 0x08 8
    let d := peek s pa 1024
    (find s.ctxs ctx = none → accessOk s 4096 pa 1024 false = true → SoundAt s pa 1024 → ctxDescOk s pa d = true →
      QuietAt s (regPair s offCtxTable + 16 * ctx) 16 →
      Answers (exec (.ctxCreate kring) s) fun t => GoesOn s kring 0x40 0 t ∧ Only [.ctxs, .subs, .bytes] s t ∧
        (∃ x, find t.ctxs ctx = some x ∧ x.state = .idle ∧ x.descAddr = pa ∧ x.partition = fieldLE d 0x01 1 ∧
          x.lsUnits = fieldLE d 0x04 1 ∧ x.fn = fieldLE d 0x06 1 ∧ x.l1 = fieldLE d 0x08 8 ∧ x.htable0 = fieldLE d 0x10 8 ∧
          x.htable1 = fieldLE d 0x18 8 ∧ x.handles = fieldLE d 0x20 4 ∧ x.gen = false ∧ x.armed = false) ∧
        ∀ k, k ≠ ctx → find t.ctxs k = find s.ctxs k) ∧
    (∀ x, find s.ctxs ctx = some x → Answers (exec (.ctxCreate kring) s) fun t => Stopped s kring stFaultCommand t)) ∧
  (∀ s u c x, Dispatches s kring 0x41 u c → find s.ctxs (cmArg c) = some x →
    (bit (cmFlags c) 0 = true → Answers (exec (.ctxDestroy kring) s) fun t => LosesContext s (cmArg c) 5 t) ∧
    (bit (cmFlags c) 0 = false → queuesOf s (cmArg c) = [] →
      Answers (exec (.ctxDestroy kring) s) fun t => GoesOn s kring 0x41 1 t ∧ Only [.ctxs, .subs, .trans, .cellars, .cores] s t ∧
        (∃ y, find t.ctxs (cmArg c) = some y ∧ y.state = .free) ∧ NoTranslation t (cmArg c) (fun _ => True) ∧
        t.trans.invals = s.trans.invals ++ [⟨cmArg c, none, false, some kring⟩] ∧
        ∀ core slot g, groupAt t core slot = some g → g.ctx ≠ cmArg c) ∧
    (bit (cmFlags c) 0 = false → queuesOf s (cmArg c) ≠ [] →
      Answers (exec (.ctxDestroy kring) s) fun t => Stopped s kring stFaultCommand t)) ∧
  (∀ s u c, Dispatches s kring 0x42 u c →
    let d := (c.drop 0x10).take 64
    (find s.queues (cmArg c) = none → queueDescOk s d = true → QuietAt s (regPair s offQueueTable + 64 * cmArg c) 64 →
      Answers (exec (.queueCreate kring) s) fun t => GoesOn s kring 0x42 0 t ∧ Only [.queues, .subs, .bytes] s t ∧
        (∃ x, find t.queues (cmArg c) = some x ∧ x.read = 0 ∧ x.write = 0 ∧ x.cls = fieldLE d 0x01 1 ∧ x.ctx = fieldLE d 0x02 2 ∧
          x.log2 = fieldLE d 0x05 1 ∧ x.ringBase = fieldLE d 0x08 8 ∧ x.compBase = fieldLE d 0x10 8 ∧ x.resident = false ∧
          x.fetched = []) ∧ ∀ k, k ≠ cmArg c → find t.queues k = find s.queues k) ∧
    (queueDescOk s d = false → Answers (exec (.queueCreate kring) s) fun t => Stopped s kring stFaultCommand t)) ∧
  (∀ s u c x, Dispatches s kring 0x43 u c → find s.queues (cmArg c) = some x →
    (x.read = x.write → find s.subs (cmArg c) = none →
      Answers (exec (.queueDestroy kring) s) fun t => GoesOn s kring 0x43 0 t ∧ Only [.queues, .subs] s t ∧
        find t.queues (cmArg c) = none ∧ ∀ k, k ≠ cmArg c → find t.queues k = find s.queues k) ∧
    (x.read ≠ x.write → Answers (exec (.queueDestroy kring) s) fun t => Stopped s kring stFaultCommand t)) ∧
  (∀ s u c x pa e s1, Dispatches s kring 0x44 u c →
    let va := fieldLE c 0x08 8
    let dst := fieldLE c 0x10 8
    let src := pa / 65536 * 65536
    find s.ctxs (cmArg c) = some x → dst % 65536 = 0 → va < 2 ^ 48 →
    xlate s (.frontEnd kring) (cmArg c) va 1 kring = (some (pa, e), s1) →
    (leafBulk e = true → leafPin e = false → (leafOf s1 (cmArg c) va).isSome = true → pageInPart s1 x.partition src = true →
      pageInPart s1 x.partition dst = true → (inStoreRoom src = false ∨ inStoreRoom dst = false) →
      Answers (exec (.move kring) s) fun t => GoesOn s kring 0x44 1 t ∧ Only [.regs, .ctxs, .trans, .subs, .moves] s t ∧
        t.mem.moves = s.mem.moves ++ [⟨x.partition, cmArg c, va / 65536 * 65536, src, dst, some kring, false⟩]) ∧
    (leafPin e = true → Answers (exec (.move kring) s) fun t => Stopped s kring stFaultCommand t ∧ t.mem.moves = s.mem.moves)) ∧
  ∀ s u c, Dispatches s kring 0x45 u c →
    Answers (exec (.invTag kring) s) fun t => GoesOn s kring 0x45 1 t ∧ Only [.subs, .trans, .cellars] s t ∧
      NoTranslation t (cmArg c) (fun _ => True) ∧ t.trans.invals = s.trans.invals ++ [⟨cmArg c, none, false, some kring⟩]

/-- R22, R23, R334, R343: at a boundary the tick's count rises and the time is latched, the doorbells that have arrived are taken, and an
armed access table that is ready replaces the one in force; without both, the access table stands. While FE_CTRL.ENABLE is 0 no submission
is admitted. -/
def Obligations.Boundaries : Prop :=
  ∀ s, s.tick.running = true → s.clock.hold = false →
    Answers (exec .tickBoundary s) fun u =>
      u.tick.count = s.tick.count + 1 ∧ u.tick.boundary = s.tick.time ∧ u.tick.time = s.tick.time ∧
      (∀ q v, find s.queues q = some v → ∃ w, find u.queues q = some w ∧ w.taken = v.write ∧ w.write = v.write) ∧
      (s.part.armed = true → s.part.ready = true →
        u.part.rows = s.part.shadow ∧ u.part.gen = (s.part.gen + 1) % 65536 ∧ u.part.armed = false ∧ u.part.ready = false) ∧
      (s.part.armed = false ∨ s.part.ready = false →
        u.part.rows = s.part.rows ∧ u.part.gen = s.part.gen ∧ u.part.armed = s.part.armed) ∧
      (bit (reg s offFeCtrl) 0 = false → ∀ q, find s.subs q = none → find u.subs q = none)

/-- R34, R36, R38, R40: at the checkpoint, a real-time primary that runs with too little progress is aborted: it stops and its groups are
gone; with enough progress it goes on. The end of the abort discards what is left and starts the fallback, with no progress, from its
first command. The end of the reserved window is noted with the submission. R31, R325, R330, R471: a submission whose work is over
completes: it leaves, READ passes its entry, and its record lies in the completion ring with its status, its queue and its index; a frozen
submission completes once its stations stand. -/
def Obligations.SubmissionsEnd : Prop :=
  ((∀ s q b, isRt s q = true → find s.subs q = some b → b.phase = .running → b.isFallback = false → b.stopped = false →
    b.checked = false →
    (reProgress b.entry ≤ b.progress.toNat → Answers (exec (.deadlineCheckpoint q) s) fun u => Only [.subs] s u ∧
      find u.subs q = some { b with checked := true } ∧ ∀ k, k ≠ q → find u.subs k = find s.subs k) ∧
    (b.progress.toNat < reProgress b.entry → Answers (exec (.deadlineCheckpoint q) s) fun u =>
      (∃ c, find u.subs q = some c ∧ c.phase = .aborting ∧ c.stopped = true ∧ c.fault = b.fault) ∧
      (∀ k, k ≠ q → find u.subs k = find s.subs k) ∧ ∀ core slot g, groupAt u core slot = some g → g.queue ≠ q)) ∧
  (∀ s q b v, find s.subs q = some b → find s.queues q = some v → b.phase = .aborting → abortBusy s q = false → b.fault = 0 →
    opUnits (cmOp b.fallback) ≠ 0 →
    Answers (exec (.rtAbortComplete q) s) fun u =>
      (∃ c, find u.subs q = some c ∧ c.isFallback = true ∧ c.phase = .running ∧ c.stopped = false ∧ c.pos = 0 ∧ c.progress = 0 ∧
        c.entry = b.entry) ∧
      (∃ w, find u.queues q = some w ∧ w.fallbacks = (v.fallbacks + 1) % 65536 ∧ w.read = v.read) ∧
      ∀ t ∈ u.trans.tokens, ∀ w ∈ t.who, w.2 ≠ q) ∧
  ∀ s q b, isRt s q = true → find s.subs q = some b →
    Answers (exec (.reservedWindowEnd q) s) fun u => Only [.subs] s u ∧
      ∃ c, find u.subs q = some c ∧ c.windowOver = true ∧ c.phase = b.phase ∧ c.pos = b.pos) ∧
  ((∀ s q b v, q ≠ kring → find s.subs q = some b → find s.queues q = some v → b.phase = .running → b.stopped = false → b.held = false →
    workLeft s q = false → b.code.length ≤ b.pos →
    (∀ f ∈ v.fetched, f.idx = v.read ∨ f.status = 0) → fenceEn b.entry = false → bit v.compBase 63 = true →
    v.compBase % 2 ^ 63 + b.idx.toNat % 2 ^ v.log2 * 32 < 2 ^ 63 → v.compBase < 2 ^ 64 →
    s.front.d3hot.contains (fnOfQueue s q) = false → QuietAt s (regPair s offQueueTable + 64 * q + 0x18) 8 →
    Answers (exec (.submissionComplete q) s) fun u => find u.subs q = none ∧ (∀ k, k ≠ q → (find u.subs k).isSome = (find s.subs k).isSome) ∧
      (∃ w, find u.queues q = some w ∧ w.read = v.read + 1 ∧ w.write = v.write) ∧
      ∃ r, r.length = 32 ∧ fieldLE r 0 1 = submissionStatus b % 256 ∧ fieldLE r 2 2 = q % 65536 ∧ fieldLE r 4 4 = b.idx.toNat ∧
        HostWritten s (v.compBase % 2 ^ 63 + b.idx.toNat % 2 ^ v.log2 * 32) r u) ∧
  ∀ s q b, find s.subs q = some b → b.phase = .frozen → queueStill s q = true →
    Answers (exec (.hangDumpDone q) s) fun u => find u.subs q = none ∧ ∀ core slot g, groupAt u core slot = some g → g.queue ≠ q)

/-- R304, R306: a host access through a BAR2 window reaches the physical address that the window gives, as the physical function; one
through a context window, as its virtual function. A read returns what lies there and a write changes those bytes. Where the window is not
valid, the address is reserved or the access check fails, a read returns zero, a write is dropped, and the error bit is set. -/
def Obligations.Apertures : Prop :=
  (∀ s off acc, off < 2 ^ 36 → acc.len ≠ 0 → asleep s 0 = false →
    let w := reg s (0x080 + 4 * (off / 2 ^ 32))
    let pa := bits w 11 0 * 2 ^ 32 + off % 2 ^ 32
    let good := bit w 31 = true ∧ reservedPa pa = false ∧ accessOk s 4096 pa acc.len acc.write = true
    (good → SoundAt s pa acc.len → acc.write = false → Answers (exec (.bar2Access off acc) s) fun u =>
      u.sent = (emit s (.aperture (peek s pa acc.len))).sent ∧ Only [.regs, .pkgs, .sent] s u ∧
      ((stackOf pa).isSome = true → u.regs = s.regs ∧ u.mem.pkgs = s.mem.pkgs)) ∧
    (good → SoundAt s pa acc.len → acc.write = true → Answers (exec (.bar2Access off acc) s) fun u =>
      Only [.regs, .bytes, .pkgs] s u ∧ Written s pa (sliceBytes acc.data 0 acc.len) u ∧
      ((stackOf pa).isSome = true → u.regs = s.regs ∧ u.mem.pkgs = s.mem.pkgs)) ∧
    (¬ good → acc.write = false → exec (.bar2Access off acc) s =
      .next (emit (orReg s offFeStatus 4) (.aperture (zeroBytes acc.len)))) ∧
    (¬ good → acc.write = true → exec (.bar2Access off acc) s = .next (orReg s offFeStatus 4))) ∧
  ∀ s fn off acc, 1 ≤ fn → fn < 64 → 0x10000 ≤ off → off < 0x100000 → acc.len ≠ 0 → asleep s fn = false →
    let w := vfReg s fn (0x1400 + 4 * ((off - 0x10000) / 0x10000))
    let pa := bits w 27 0 * 65536 + off % 65536
    let good := bit w 31 = true ∧ reservedPa pa = false ∧ accessOk s (4096 + fn) pa acc.len acc.write = true
    (good → SoundAt s pa acc.len → acc.write = false → Answers (exec (.contextWindowAccess fn off acc) s) fun u =>
      u.sent = (emit s (.aperture (peek s pa acc.len))).sent ∧ Only [.regs, .pkgs, .sent] s u ∧
      ((stackOf pa).isSome = true → u.regs = s.regs ∧ u.mem.pkgs = s.mem.pkgs)) ∧
    (good → SoundAt s pa acc.len → acc.write = true → Answers (exec (.contextWindowAccess fn off acc) s) fun u =>
      Only [.regs, .bytes, .pkgs] s u ∧ Written s pa (sliceBytes acc.data 0 acc.len) u ∧
      ((stackOf pa).isSome = true → u.regs = s.regs ∧ u.mem.pkgs = s.mem.pkgs)) ∧
    (¬ good → acc.write = false → exec (.contextWindowAccess fn off acc) s =
      .next (emit (orVfEvent s fn 2) (.aperture (zeroBytes acc.len)))) ∧
    (¬ good → acc.write = true → exec (.contextWindowAccess fn off acc) s = .next (orVfEvent s fn 2))

/-- R300, R302, R449, R453, R456, R460: a function that enters D3hot has what it would write or send held; its return to D0 writes and
sends that. A configuration request is retried until the module is ready. A reset of a virtual function clears its window registers and
loses its contexts (with reason 6, but for one that an error of memory met on the way costs first); a reset of the physical function, and
the module's own warm reset register, reset the module warm: once it has started, start-up begins again before stage 4, no context is
left, and memory, the count and the time stay. In stages 1 to 3 of a cold start-up the reset waits. A context reset loses its context. -/
def Obligations.FunctionStates : Prop :=
  (∀ s fn, fn < 64 → asleep s fn = false →
    exec (.d3hotEntry fn) s = .next (s.withFront { s.front with d3hot := fn :: s.front.d3hot })) ∧
  (∀ s fn, asleep s fn = true → Answers (exec (.d0Return fn) s) fun u => Only [.front, .host, .sent] s u ∧ asleep u fn = false ∧
    find u.front.heldOut fn = none ∧ (∀ k, k ≠ fn → asleep u k = asleep s k) ∧
    ((find s.front.heldOut fn).getD [] = [] → u.mem.host = s.mem.host ∧ u.sent = s.sent) ∧
    (∀ a d, find s.front.heldOut fn = some [.hostWrite a d] → HostWritten s a d u ∧
      u.sent = (emit s (.host fn true a d.length)).sent) ∧
    ∀ v, find s.front.heldOut fn = some [.msix v] → u.mem.host = s.mem.host ∧ u.sent = (emit s (.msix fn v)).sent) ∧
  (∀ s fn, fn < 64 → s.front.linkUp = true → s.power.phase ≠ .failed ∨ fn = 0 →
    exec (.configRequest fn) s = .next (emit s (.config fn (!s.power.configReady)))) ∧
  (∀ s fn, 1 ≤ fn → fn < 64 → Answers (exec (.vfFlr fn) s) fun u =>
    (∀ o, 0x1000 < o → o < 0x2000 → vfReg u fn o = 0) ∧
    ∀ ctx c, find s.ctxs ctx = some c → c.fn = fn →
      (LosesContext s ctx 6 u ∨ LosesContext s ctx 3 u) ∧ (ctxsOfFn s fn = [ctx] → LosesContext s ctx 6 u)) ∧
  (∀ s, s.power.phase = .done → s.clock.hold = false →
    let warm (cause : Nat) (u : State) : Prop :=
      u.power.phase = .warm ∧ u.power.stage = 0 ∧ u.power.cause = cause ∧ u.power.configReady = false ∧ u.ctxs = [] ∧ u.queues = [] ∧
      u.subs = [] ∧ u.cores = State.reset.cores ∧ u.tick.count = s.tick.count ∧ u.tick.time = s.tick.time ∧ u.tick.running = false ∧
      Only [.regs, .vfRegs, .tick, .dict, .ring, .ports, .clock, .power, .govs, .part, .front, .ctxs, .queues, .subs, .trans, .stackSts,
        .pkgs, .slices, .moves, .cellars, .cores, .hist, .pins, .sent, .due] s u
    Answers (exec .pfFlr s) (warm 17) ∧
    ∀ v : BitVec 32, HostMayWrite s 0x308008 → v.getLsbD 0 = true → Answers (exec (.resetCtrlWarm v) s) (warm 18)) ∧
  (∀ s, s.power.phase = .cold → s.power.stage ≤ 3 →
    exec .pfFlr s = .next (s.withPower { s.power with warmPending := true })) ∧
  ∀ s (v : BitVec 32), HostMayWrite s 0x308010 → v.getLsbD 31 = true →
    Answers (exec (.contextReset v) s) fun u => LosesContext s (v.toNat % 4096) 5 u

/-- R341, R343, R365: FILL, ARM and DISARM of the access table. A fill that ends well makes the 4,225 rows of 16 bytes of the image the
shadow generation, ready to be switched to; one whose image breaks the form fails. The rows in force stand. R311, R356 to R358, R365: GO
pre-empts a context that runs: its submissions stop and are saved; where it may not, REFUSED is set. Once everything of it stands, its
groups are saved as they were and leave their cores, and it is IDLE; a restore brings the groups of the submissions that resume back to
their slots, with their registers. -/
def Obligations.AccessTableAndPreemption : Prop :=
  ((∀ s, HostMayWrite s 0x200008 →
    exec .ptAccFill s = .next (s.withPart { s.part with filling := true, ready := false }) ∧
    exec .ptAccArm s = .next (s.withPart { s.part with armed := true }) ∧
    exec .ptAccDisarm s = .next (s.withPart { s.part with armed := false })) ∧
  ∀ s, s.settled → s.part.filling = true →
    let pa := bits (regPair s offAccImage) 43 12 * 4096
    let row (i : Nat) : Nat := fieldLE (peek s pa 67600) (16 * i) 16
    SoundAt s pa 67600 →
    ((∀ i, i < 4225 → rowMalformed (row i) = false) → Answers (exec (.accessTableFillDone .clean) s) fun u => Only [.part] s u ∧
      u.part.filling = false ∧ u.part.ready = true ∧ u.part.rows = s.part.rows ∧ u.part.armed = s.part.armed ∧
      u.part.fillErr = s.part.fillErr ∧ ∀ i, i < 4225 → (find u.part.shadow i).getD 0 = row i) ∧
    ((∃ i, i < 4225 ∧ rowMalformed (row i) = true) → Answers (exec (.accessTableFillDone .clean) s) fun u => Only [.part] s u ∧
      u.part.filling = false ∧ u.part.ready = false ∧ u.part.fillErr = true ∧ u.part.rows = s.part.rows)) ∧
  ((∀ s (v : BitVec 32) c, HostMayWrite s offPreempt → v.getLsbD 31 = true → s.part.preBusy = false →
    let ctx := v.toNat % 4096
    find s.ctxs ctx = some c →
    (runningOf s ctx ≠ [] → c.saving = false → savable s ctx = true → Answers (exec (.ptPreempt v) s) fun u =>
      u.part.preBusy = true ∧ (∃ d, find u.ctxs ctx = some d ∧ d.saving = true ∧ d.driverPre = true) ∧
      (s.settled → s.mem.poison = [] → s.mem.srPoison = [] →
        ∀ q b, q ≠ kring → find s.subs q = some b → b.ctx = ctx → b.phase = .running →
          ∃ d, find u.subs q = some d ∧ d.phase = .preempting ∧ d.wasPreempted = true ∧ d.pos = b.pos)) ∧
    (runningOf s ctx = [] ∨ c.saving = true ∨ savable s ctx = false → Answers (exec (.ptPreempt v) s) fun u => Only [.regs] s u ∧
      bit (reg u offPreemptStatus) 1 = true)) ∧
  (∀ s ctx x, find s.ctxs ctx = some x → x.saving = true → noneEnding s ctx = true → (ctxCores s ctx).all (coreStill s ctx) = true →
    Answers (exec (.preemptSaveDone ctx) s) fun u => (∃ y, find u.ctxs ctx = some y ∧ y.saving = false) ∧
      (∀ core, core ∈ ctxCores s ctx → ∀ slot g, groupAt u core slot = some g → g.ctx ≠ ctx) ∧
      (s.settled → s.mem.poison = [] → s.mem.srPoison = [] →
      (∀ q b, find s.subs q = some b → b.ctx = ctx → b.phase = .preempting → ∃ d, find u.subs q = some d ∧ d.phase = .saved) ∧
      ∃ y, find u.ctxs ctx = some y ∧ y.state = .idle ∧
        ∀ core slot g, (find (coreSt s core).allocs ctx).isSome = true → groupAt s core slot = some g → g.ctx = ctx →
          ∃ r ∈ y.saved, r.core = core ∧ find r.groups slot = some g)) ∧
  ∀ s ctx x, find s.ctxs ctx = some x → x.restoring = true → x.loading = false →
    x.saved.all (coreHasRoom s (restoringOf s ctx)) = true →
    Answers (exec (.restoreDone ctx) s) fun u =>
      (∃ y, find u.ctxs ctx = some y ∧ y.restoring = false ∧ y.state = x.state) ∧
      (∀ q b, find s.subs q = some b → b.ctx = ctx → b.phase = .restoring → ∃ d, find u.subs q = some d ∧ d.phase = .running ∧ d.pos = b.pos) ∧
      ∀ r slot g, x.saved = [r] → (slot, g) ∈ r.groups → (∀ e ∈ r.groups, e.1 = slot → e.2 = g) → g.queue ∈ restoringOf s ctx →
        ∃ h, groupAt u r.core slot = some h ∧ SameLaunch g h ∧ SameLanes g h ∧ SameScalars g h)

/-- R367, R368, R370, R377, R420: the states of a port. ENABLE and RETRAIN make it train, keeping what it still has to resend; disabling
forgets its link. A port that leaves UP fails the submission that awaits answers through it. Training that ends well sends INIT with the
module's ring position and lock state; it is UP once the peer's INIT has come, both are locked and the positions differ; training that
fails makes it FAILED. A packet resent 16 times makes it retrain, and a second such event within a second makes it FAILED. R369 to R371: a
packet out of sequence is dropped, of whatever type, and so is one that fails its checks: the port asks for the SEQ it expects; an
uncorrected codeword counts a retry. RETRY resends what the replay buffer holds from its SEQ on, each counted. CREDIT brings the freed
credits up to date. -/
def Obligations.PortLinks : Prop :=
  (let off (n : Nat) : Nat := 0x500004 + 0x20 * n
  let fails (s : State) (n : Nat) (u : State) : Prop :=
    ∀ q, (port s n).state = 2 → (port s n).waits ≠ [] → (∀ w ∈ (port s n).waits, w.2.2.1 = q) → Stopped s q stFaultAccess u
  let trains (s : State) (n : Nat) (u : State) : Prop :=
    (port u n).state = 1 ∧ (port u n).trained = false ∧ (port u n).waits = [] ∧ (port u n).replay = (port s n).replay ∧
      (port u n).sendSeq = (port s n).sendSeq ∧ (port u n).recvSeq = (port s n).recvSeq ∧ (∀ m, m ≠ n → (port u m).state = (port s m).state) ∧
      fails s n u
  (∀ s n, portClocked s n = true → HostMayWrite s (off n) →
    ((port s n).state = 0 → Answers (exec (.portEnable n) s) fun u => trains s n u ∧ (port u n).enabled = true) ∧
    ((port s n).state ≠ 0 → exec (.portEnable n) s = .next (setPort s n { port s n with enabled := true }) ∧
      Answers (exec (.retrain n) s) (trains s n)) ∧
    Answers (exec (.portDisable n) s) fun u => port u n = { Port.reset with nextTag := (port s n).nextTag } ∧ fails s n u) ∧
  (∀ s n, portClocked s n = true → bit s.clock.fabricLock (n / 4) = true → (port s n).state = 1 → (port s n).trained = false →
    (port s n).outq = [] → (port s n).peerInit = none →
    Answers (exec (.portTrainingDone n true) s) fun u => Only [.ports, .sent] s u ∧ (port u n).trained = true ∧ (port u n).state = 1 ∧
      ∃ x : Packet, u.sent = s.sent ++ [.packet n x] ∧ x.type = 0x0A ∧ x.seq = (port s n).sendSeq % 65536 ∧
        x.payload = [BitVec.ofNat 8 s.ring.position, BitVec.ofNat 8 s.tick.lock] ++ List.replicate 6 0#8) ∧
  (∀ s n, portClocked s n = true → bit s.clock.fabricLock (n / 4) = true → (port s n).state = 1 → (port s n).trained = false →
    Answers (exec (.portTrainingDone n false) s) fun u => (port u n).state = 3 ∧ bit (reg u (offPortErr n)) 1 = true) ∧
  (∀ s n (x : Packet), portClocked s n = true → (port s n).state = 1 → (port s n).trained = true → (port s n).outq = [] →
    x.type = 0x0A → x.seq = (port s n).recvSeq → packetForm x = true →
    let up := s.tick.lock ≠ 3 ∧ fieldLE x.payload 1 1 ≠ 3 ∧ fieldLE x.payload 0 1 ≠ s.ring.position
    Answers (exec (.init n x) s) fun u => Only [.ports] s u ∧ (port u n).recvSeq = ((port s n).recvSeq + 1) % 65536 ∧
      (up → (port u n).state = 2 ∧ (port u n).peer = some (fieldLE x.payload 0 1)) ∧ (¬ up → (port u n).state = 1)) ∧
  ∀ s n within k v, (port s n).state = 2 → find (port s n).resent k = some v → 16 ≤ v →
    (((port s n).auto = false ∨ within = false) → Answers (exec (.portAutoRetrain n within) s) fun u =>
      (port u n).state = 1 ∧ (port u n).auto = true ∧ bit (reg u (offPortErr n)) 2 = true ∧ fails s n u) ∧
    ((port s n).auto = true → within = true → Answers (exec (.portAutoRetrain n within) s) fun u =>
      (port u n).state = 3 ∧ bit (reg u (offPortErr n)) 1 = true ∧ fails s n u)) ∧
  (let asks (s : State) (n : Nat) (u : State) : Prop := ∃ x : Packet, u.sent = s.sent ++ [.packet n x] ∧ x.type = 0x09 ∧
    x.payload = toLE 2 (port s n).recvSeq ∧ (port u n).recvSeq = (port s n).recvSeq
  (∀ s n (x : Packet) (mk : Nat → Packet → Instr),
    mk ∈ [Instr.write, Instr.read, Instr.atomic, Instr.ack, Instr.data, Instr.result, Instr.nack, Instr.credit, Instr.retry, Instr.init] →
    portClocked s n = true → (port s n).state = 2 → (port s n).outq = [] → x.seq ≠ (port s n).recvSeq →
    Answers (exec (mk n x) s) fun u => Only [.ports, .sent] s u ∧ asks s n u) ∧
  (∀ s n why, portClocked s n = true → (port s n).state = 2 → (port s n).outq = [] →
    Answers (exec (.packetDrop n why) s) fun u => Only [.regs, .ports, .sent] s u ∧ asks s n u ∧
      bits (reg u (offPortErr n)) 31 16 =
        if why = .fec then min (bits (reg s (offPortErr n)) 31 16 + 1) 65535 else bits (reg s (offPortErr n)) 31 16) ∧
  (∀ s n (x : Packet), portClocked s n = true → (port s n).state = 2 → x.type = 0x09 → x.seq = (port s n).recvSeq → packetForm x = true →
    let again := (port s n).replay.filter (fun y => decide ((y.seq + 65536 - fieldLE x.payload 0 2) % 65536 < 32768))
    Answers (exec (.retry n x) s) fun u => Only [.regs, .ports, .sent] s u ∧ u.sent = s.sent ++ again.map (Sent.packet n) ∧
      (port u n).replay = (port s n).replay ∧
      bits (reg u (offPortErr n)) 31 16 = min (bits (reg s (offPortErr n)) 31 16 + again.length) 65535) ∧
  ∀ s n (x : Packet), portClocked s n = true → (port s n).state = 2 → (port s n).outq = [] → x.type = 0x08 → x.seq = (port s n).recvSeq →
    packetForm x = true →
    Answers (exec (.credit n x) s) fun u => Only [.ports] s u ∧ ∀ vc, vc < 3 →
      getD 0 (port s n).returned vc ≤ getD 0 (port u n).returned vc ∧
      getD 0 (port u n).returned vc % 65536 = fieldLE x.payload (2 * vc) 2)

/-- R149, R371, R374 to R376: a request that passes the checks of its port is performed and answered after its credits are returned: a
WRITE writes its payload and raises its counter, a held one or the word that backs it, a READ returns the bytes, an ATOMIC replaces the
value by the operation's and returns the old one. A sender without a valid row is answered NACK ACCESS, a context that does not exist NACK
CONTEXT, and a request that a walk found not to translate NACK TRANSLATION, with nothing done. -/
def Obligations.RemoteRequests : Prop :=
  let comes (s : State) (n : Nat) (x : Packet) (ty : Nat) : Prop := portClocked s n = true ∧ (port s n).state = 2 ∧ (port s n).outq = [] ∧
    x.type = ty ∧ x.seq = (port s n).recvSeq
  let answered (s u : State) (n : Nat) (x : Packet) (ty arg : Nat) (b : List Byte) : Prop := ∃ c y : Packet,
    u.sent = s.sent ++ [.packet n c, .packet n y] ∧ c.type = 0x08 ∧ y.type = ty ∧ y.vc = 2 ∧ y.tag = x.tag ∧ y.ctx = x.ctx ∧ y.arg = arg ∧
      y.payload = b
  let room (s : State) (n k : Nat) : Prop := ceilDiv (32 + ceilDiv k 32 * 32) 256 ≤ creditsHeld (port s n) 2
  (∀ s n x t pa, comes s n x 1 → packetForm x = true → room s n 0 →
    ingressChecks (takePacket s n x) n x = .go [(pa, x.payload.length)] t → SoundAt t pa x.payload.length →
    accessOk t (4161 + x.src) pa x.payload.length true = true →
    (bit x.counter 15 = false → Answers (exec (.write n x) s) fun u => Written s pa x.payload u ∧ answered s u n x 4 0 []) ∧
    (bit x.counter 15 = true → s.settled →
      let k := bits x.counter 9 0
      (∀ c, HeldCounter s x.ctx k → find s.ctxs x.ctx = some c → c.state = .resident → Answers (exec (.write n x) s) fun u =>
        Written s pa x.payload u ∧ answered s u n x 4 0 [] ∧
        remoteCtr u x.ctx k = remoteCtr s x.ctx k + BitVec.ofNat 32 x.payload.length) ∧
      (∀ c, find s.ctxs x.ctx = some c → c.state ≠ .resident → k ∉ c.heldCtrs → SoundAt t (backingPa c k) 4 →
        backingPa c k + 4 ≤ pa ∨ pa + x.payload.length ≤ backingPa c k → Answers (exec (.write n x) s) fun u =>
          answered s u n x 4 0 [] ∧ remoteCtr u x.ctx k = remoteCtr s x.ctx k + BitVec.ofNat 32 x.payload.length))) ∧
  (∀ s n x t pa, comes s n x 2 → packetForm x = true → room s n x.arg → ingressChecks (takePacket s n x) n x = .go [(pa, x.arg)] t →
    SoundAt t pa x.arg → accessOk t (4161 + x.src) pa x.arg false = true →
    Answers (exec (.read n x) s) fun u => answered s u n x 5 0 (peek s pa x.arg) ∧ ∀ a, u.byteAt a = s.byteAt a) ∧
  (∀ s n x t pa, comes s n x 3 → packetForm x = true → room s n 8 →
    let k := 2 ^ bits x.aop 6 4
    ingressChecks (takePacket s n x) n x = .go [(pa, k)] t → SoundAt t pa k →
    accessOk t (4161 + x.src) pa k false = true → accessOk t (4161 + x.src) pa k true = true →
    let old := ofLE (peek s pa k)
    Answers (exec (.atomic n x) s) fun u => answered s u n x 6 0 (toLE 8 old) ∧
      Written s pa (toLE k (atomicNew (bits x.aop 3 0) (8 * k) old (fieldLE x.payload 0 k) (fieldLE x.payload 8 k))) u) ∧
  ∀ s n x (mk : Nat → Packet → Instr) ty, (mk, ty) ∈ [(Instr.write, 1), (Instr.read, 2), (Instr.atomic, 3)] → comes s n x ty → room s n 0 →
    (rowValid (accRow s (4161 + x.src)) = false → Answers (exec (mk n x) s) fun u => Only [.regs, .ports, .sent] s u ∧
      answered s u n x 7 1 [] ∧ bit (reg u (offPortErr n)) 3 = true) ∧
    (x.src < 64 → rowValid (accRow s (4161 + x.src)) = true → rowPort (accRow s (4161 + x.src)) n = true → find s.ctxs (x.ctx % 4096) = none →
      Answers (exec (mk n x) s) fun u => Only [.regs, .ports, .sent] s u ∧ answered s u n x 7 3 [] ∧ bit (reg u (offPortErr n)) 3 = true) ∧
    (∀ c, x.src < 64 → rowValid (accRow s (4161 + x.src)) = true → rowPort (accRow s (4161 + x.src)) n = true →
      find s.ctxs (x.ctx % 4096) = some c → c.state ≠ .free → c.state ≠ .lost → c.partition = rowPart (accRow s (4161 + x.src)) →
      cachedVa (x.addr % 2 ^ 48) = false → cachedVa ((x.addr % 2 ^ 48 + reqBytes x - 1) % 2 ^ 48) = false → (port s n).refused = true →
      Answers (exec (mk n x) s) fun u => Only [.regs, .ports, .sent] s u ∧ answered s u n x 7 2 [] ∧
        bit (reg u (offPortErr n)) 3 = true ∧ (port u n).refused = false)

/-- R283, R374, R375, R377: an answer to a request ends its wait. ACK leaves its station one answer fewer to wait for, DATA brings the
piece as well; the RESULT of an ATR puts the old value in XD of its thread; NACK stops the submission with the status of its reason. ATR
of one thread sends one ATOMIC to the peer and waits for the result. -/
def Obligations.RemoteAnswers : Prop :=
  let comes (s : State) (n : Nat) (x : Packet) (ty : Nat) (who : Requester) (q aux : Nat) : Prop :=
    portClocked s n = true ∧ (port s n).state = 2 ∧ x.type = ty ∧ x.seq = (port s n).recvSeq ∧ packetForm x = true ∧
      (port s n).waits.find? (fun w => w.1 == x.tag) = some (x.tag, who, q, aux)
  let beyond (s u : State) (n : Nat) (x : Packet) : Prop := (port u n).waits = (port s n).waits.filter (fun w => w.1 != x.tag)
  (∀ s n x core d st q aux z, comes s n x 4 (.station core d st) q aux → z ∈ (coreSt s core).draughts → z.order = d →
    st < z.stations.length → Answers (exec (.ack n x) s) fun u => Only [.ports, .cores, .sent] s u ∧ beyond s u n x ∧
      ∃ y ∈ (coreSt u core).draughts, y.order = d ∧ (stationOf y st).awaits = (stationOf z st).awaits - 1 ∧
        (stationOf y st).parts = (stationOf z st).parts) ∧
  (∀ s n x core d st q aux z, comes s n x 5 (.station core d st) q aux → z ∈ (coreSt s core).draughts → z.order = d →
    st < z.stations.length → Answers (exec (.data n x) s) fun u => Only [.ports, .cores, .sent] s u ∧ beyond s u n x ∧
      ∃ y ∈ (coreSt u core).draughts, y.order = d ∧ (stationOf y st).awaits = (stationOf z st).awaits - 1 ∧
        find (stationOf y st).parts aux = some x.payload) ∧
  (∀ s n x core slot q g l xd k, comes s n x 6 (.lane core slot) q (l + 32 * xd + 2 ^ 20 * k) → groupAt s core slot = some g →
    l < 32 → xd < 256 → Answers (exec (.result n x) s) fun u => beyond s u n x ∧ ∃ h, groupAt u core slot = some h ∧
      laneWide k h xd l = ofLE x.payload % 2 ^ (32 * k) ∧ SameScalars g h ∧
      ∀ r j, j < 32 → j ≠ l ∨ r < xd ∨ xd + k ≤ r → lane h r j = lane g r j) ∧
  (∀ s n x who q aux, comes s n x 7 who q aux → Answers (exec (.nack n x) s) fun u =>
    Stopped s q (if x.arg = 2 then 0x40 else if x.arg = 4 then 0x42 else 0x41) u) ∧
  ∀ s s' w t l e o n, Issues s w mATOM 0x02 t s' → t.g.firstLoad = none → t.g.fenced = true ∨ NoStores s t.core → t.active = [l] → atomOk t false 2 = true → wScope t.w = 5 →
    atrUse s' t (2 ^ wType t.w) l = some (e, o, n) → (heBase e + o) % 2 ^ wType t.w = 0 → windowPort s' t.g.ctx n e = true →
    portRoom s' n 1 = true → (port s n).outq = [] → 1 ≤ creditsHeld (port s n) 1 →
    Answers (exec (.atr t.core t.slot w) s) fun u => Only [.freeSeq, .regs, .ports, .cores, .slices, .sent] (fetched s t) u ∧
      (∃ h, groupAt u t.core t.slot = some h ∧ h.cond = .remote ∧ h.active = false ∧ SameLanes t.g h ∧ SameScalars t.g h) ∧
      (port u n).waits = (port s n).waits ++ [((port s n).nextTag, .lane t.core t.slot, t.g.queue,
        l + 32 * wXD t.w + 2 ^ 20 * sizeWords (wType t.w))] ∧
      ∃ x : Packet, u.sent = s.sent ++ [.packet n x] ∧ x.type = 3 ∧ x.vc = 1 ∧ x.tag = (port s n).nextTag ∧ x.src = s.ring.position ∧
        x.ctx = hePeerCtx e ∧ x.addr = (heBase e + o) % 2 ^ 48 ∧ x.aop = wAop t.w + 16 * wType t.w

/-- R42, R379 to R382, R385, R387: frames on the tick ring. A frame whose CRC fails goes on unchanged. A module forwards a frame of
another origin: NORMAL with ARRIVE and its contribution, TICK_INFO with the delay of its hop added, from which it takes RING_OFFSET,
CENSUS with its own bits, unless its position is taken. An eligible module discards frames of a higher origin, and gives way to a lower
one; two ticks in a row near the prediction lock it. The master completes barriers that return and keeps the census; an edge that is
missing leads to Holdover and the fourth to Free. R382 to R384, R388, R410: the master takes a census once a second. A survey's token
makes its module stop transmitting and send sixteen echoes; the hop it measures is kept, and the token goes to the next position that the
census shows. A message whose cells stop for 1 ms is forgotten. -/
def Obligations.RingFrames : Prop :=
  (let passes (s : State) (f : Frame) : Prop := onRing s = true ∧ s.ring.bypass = false ∧ s.ring.listening = false ∧ f.crcOk = true ∧
    f.origin ≠ s.ring.position ∧ (forwardsOnly s = true ∨ f.origin < s.ring.position) ∧ s.tick.lock ≠ 0 ∧
    fieldLE f.mgmt 0 1 = 0xFF ∧ s.ring.mgmtOut = []
  let own (s : State) (f : Frame) : Prop := onRing s = true ∧ s.ring.bypass = false ∧ f.crcOk = true ∧ f.origin = s.ring.position ∧
    s.ring.originates = true ∧ s.tick.lock = 0 ∧ s.ring.position < 64 ∧ fieldLE f.mgmt 0 1 = 0xFF ∧ s.ring.mgmtOut = []
  (∀ s f, onRing s = true → s.ring.bypass = false → f.crcOk = false →
    exec (.normal f) s = .next (emit s (.frame 1 f)) ∧ exec (.tickInfo f) s = .next (emit s (.frame 2 f)) ∧
    exec (.census f) s = .next (emit s (.frame 3 f)) ∧ exec (.survey f) s = .next (emit s (.frame 4 f))) ∧
  (∀ s f, onRing s = true → s.ring.bypass = false → f.crcOk = true → s.ring.position < f.origin → forwardsOnly s = false →
    exec (.normal f) s = .next s ∧ exec (.tickInfo f) s = .next s ∧ exec (.census f) s = .next s ∧ exec (.survey f) s = .next s) ∧
  (∀ s f, passes s f → f.aux = 0 → Answers (exec (.normal f) s) fun u => Only [.ring, .sent] s u ∧ u.ring.master = some f.origin ∧
    u.ring.originates = false ∧ ∃ a m, u.sent = s.sent ++ [.frame 1 { f with arrive := a, mgmt := m }] ∧
      ∀ k, k < 64 → bit a k = (bit f.arrive k && (!takesPart s k || contribution s k))) ∧
  (∀ s f, onRing s = true → s.ring.bypass = false → f.crcOk = true → f.origin < s.ring.position → s.tick.lock = 0 → f.aux = 0 →
    fieldLE f.mgmt 0 1 = 0xFF → Answers (exec (.normal f) s) fun u => u.tick.lock = 3 ∧ u.ring.originates = false ∧
      u.ring.master = some f.origin) ∧
  (∀ s f, own s f → f.aux = 0 → Answers (exec (.normal f) s) fun u => u.tick.lock = 0 ∧
    ∀ k, k < 64 → bit u.ring.release k = (bit s.ring.release k || bit f.arrive k)) ∧
  (∀ s f t, passes s f → s.ring.dupPos = false → s.ring.edge16 = some t →
    let corr := bits f.aux 63 40
    let b := restoreB s (bits f.aux 39 0)
    let near := edgeNear s (edgeOf t corr) ((16 * (b : Int) - edgeOf t corr) / 16)
    let inRow := ∃ b0 lo, s.ring.lastInfo = some (b0, lo) ∧ f.tickLo = (lo + 1) % 65536
    Answers (exec (.tickInfo f) s) fun u => u.ring.offset = (16 * (b : Int) - edgeOf t corr) / 16 ∧ u.ring.delay16 = corr ∧
      u.ring.edge16 = none ∧ (near = false → u.tick.good = 0 ∧ u.tick.lock = s.tick.lock) ∧
      (near = true → inRow → 1 ≤ s.tick.good → u.tick.lock = 1) ∧
      (near = true → ¬ (inRow ∧ 1 ≤ s.tick.good) → u.tick.good = 1 ∧ u.tick.lock = s.tick.lock) ∧
      ∃ a m, Sent.frame 2 { f with arrive := a, mgmt := m, aux := bits f.aux 39 0 + 2 ^ 40 * ((corr + 2560 + s.ring.hop16) % 2 ^ 24) } ∈ u.sent) ∧
  (∀ s f, passes s f →
    (bit f.aux s.ring.position = false → Answers (exec (.census f) s) fun u => Only [.ring, .sent] s u ∧ u.ring.dupPos = false ∧
      ∃ m, u.sent = s.sent ++ [.frame 3 ⟨f.origin, f.tickLo,
        (if obj s 0x5000 2 = 1 then setBit f.arrive s.ring.position true else f.arrive), m, setBit f.aux s.ring.position true, true⟩]) ∧
    (bit f.aux s.ring.position = true → Answers (exec (.census f) s) fun u => u.ring.dupPos = true ∧ u.tick.lock = 3 ∧
      u.ring.originates = false ∧ bit (reg u offRingStatus) 4 = true ∧ Sent.frame 3 f ∈ u.sent)) ∧
  (∀ s f, own s f → Answers (exec (.census f) s) fun u => Only [.ring] s u ∧ u.ring.census = f.aux) ∧
  (∀ s, s.tick.lock = 1 ∨ s.tick.lock = 2 → Answers (exec .ringEdgeMissing s) fun u => u.tick.missing = s.tick.missing + 1 ∧
    u.tick.good = 0 ∧ (s.tick.missing < 3 → u.tick.lock = 2) ∧ (3 ≤ s.tick.missing → u.tick.lock = 3 ∧ u.ring.master = none) ∧
    (u.tick.lock ≠ s.tick.lock → bit (reg u offTickStatus) 6 = true)) ∧
  ∀ s t, onRing s = true → s.tick.lock ≠ 0 → Answers (exec (.tickSymbol t) s) fun u => Only [.tick, .ring, .sent] s u ∧
    u.sent = s.sent ++ [.tickSymbol] ∧ u.ring.bypass = false ∧ u.ring.edge16 = some t ∧ u.tick.missing = 0 ∧ u.tick.lock = s.tick.lock) ∧
  ((∀ s, s.tick.lock = 0 → s.ring.originates = true → s.ring.surveying = false → Answers (exec .censusDue s) fun u =>
    Only [.ring, .sent] s u ∧ ∃ m, u.sent = s.sent ++ [.frame 3 ⟨s.ring.position, s.tick.count.toNat % 65536,
      (if obj s 0x5000 2 = 1 then 2 ^ s.ring.position else 0), m, 2 ^ s.ring.position, true⟩]) ∧
  (∀ s f, onRing s = true → s.ring.bypass = false → f.crcOk = true → f.origin ≠ s.ring.position →
    (forwardsOnly s = true ∨ f.origin < s.ring.position) → s.tick.lock ≠ 0 → s.ring.dupPos = false → fieldLE f.mgmt 0 1 = 0xFF →
    s.ring.mgmtOut = [] → f.aux % 256 = s.ring.position →
    Answers (exec (.survey f) s) fun u => Only [.ring, .sent] s u ∧ u.sent = s.sent ++ List.replicate 16 Sent.echo ∧
      u.ring.surveying = true ∧ u.ring.token = some s.ring.position) ∧
  (∀ s hop p, s.ring.surveying = true → s.ring.token = some s.ring.position → s.tick.lock ≠ 0 → s.ring.census ≠ 0 →
    ((List.range 64).map (fun i => (s.ring.position + 1 + i) % 64)).find? (fun q => bit s.ring.census q) = some p →
    Answers (exec (.surveyHopDone hop) s) fun u => Only [.ring, .sent] s u ∧ u.ring.hop16 = hop ∧ u.ring.surveying = false ∧
      u.ring.token = none ∧ ∃ f : Frame, u.sent = s.sent ++ [.frame 4 f] ∧ f.aux = p ∧ f.crcOk = true) ∧
  (∀ s hop, s.ring.surveying = true → s.ring.token = some s.ring.position → s.tick.lock ≠ 0 → s.ring.census = 0 →
    Answers (exec (.surveyHopDone hop) s) fun u => Only [.freeSeq, .ring, .sent] s u ∧ u.ring.hop16 = hop ∧ u.ring.surveying = false ∧
      u.ring.token = none) ∧
  (∀ s, s.ring.bypass = false → Answers (exec .surveyEcho s) fun u => Only [.sent] s u ∧
    u.sent = s.sent ++ List.replicate 16 Sent.echo) ∧
  ∀ s src sq b, (src, sq, b) ∈ s.ring.mgmtIn → Answers (exec (.mgmtCellTimeout src sq) s) fun u => Only [.ring] s u ∧
    ∀ m, m ∈ u.ring.mgmtIn ↔ m ∈ s.ring.mgmtIn ∧ ¬ (m.1 = src ∧ m.2.1 = sq))

/-- R397, R402 to R408: requests over MCTP. One that keeps to its form, of a requester that may have it, is answered with its SEQ and the
count of the tick: a READ with the object's value, DESCRIBE with its 32 bytes, READ_SET with an entry of 16 bytes for each object, and any
that the checks refuse with the abort code of the first that fails. A WRITE to a next-boundary object is staged and not yet answered, one
to the calendar sets it at once. Over a mailbox the answer lies in its response buffer and DONE is set. -/
def Obligations.DictionaryRequests : Prop :=
  let mctp (t : Transport) : Prop := (∃ e n, t = .mctpPcie e n) ∨ ∃ e n, t = .mctpI3c e n
  let comes (s : State) (t : Transport) (r : List Byte) (op : Nat) : Prop := reachesDict s t = true ∧ mctp t ∧ rqOk r = true ∧
    rqOp r = op ∧ r.length ≤ 272 ∧ dictServes s t r = true ∧ requesterBusy s t = false
  let answered (s u : State) (t : Transport) (r : List Byte) (code ty : Nat) (data : List Byte) : Prop := ∃ b : List Byte,
    u.sent = s.sent ++ [.dictRsp t b] ∧ fieldLE b 0 1 = 1 ∧ fieldLE b 1 1 = 128 + rqOp r ∧ fieldLE b 2 1 = rqSeq r ∧
      fieldLE b 3 1 = rqCount r ∧ fieldLE b 4 4 = code ∧ fieldLE b 8 8 = s.tick.count.toNat ∧ fieldLE b 16 2 = data.length % 65536 ∧
      fieldLE b 18 1 = ty % 256 ∧ b.drop 32 = data
  (∀ s t r, comes s t r 1 →
    (∀ d, objAccess s t (rqIndex r) (rqSub r) false = .inl d → Answers (exec (.dictRead t r) s) fun u => Only [.dict, .sent] s u ∧
      answered s u t r 0 d.ty (toLE d.size (readValue s t d (rqIndex r) (rqSub r)))) ∧
    (∀ code, objAccess s t (rqIndex r) (rqSub r) false = .inr code → Answers (exec (.dictRead t r) s) fun u => Only [.dict, .sent] s u ∧
      answered s u t r code 0 [])) ∧
  (∀ s t r, comes s t r 4 → ∀ d, objAccess s t (rqIndex r) (rqSub r) false = .inl d →
    Answers (exec (.describe t r) s) fun u => Only [.dict, .sent] s u ∧ ∃ b : List Byte, b.length = 32 ∧ answered s u t r 0 0 b ∧
      fieldLE b 0 1 = d.ty % 256 ∧ fieldLE b 1 1 = bnat d.next ∧ fieldLE b 4 2 = d.size % 65536 ∧
      fieldLE b 16 8 = (d.range.getD (0, 0)).1 % 2 ^ 64 ∧ fieldLE b 24 8 = (d.range.getD (0, 0)).2 % 2 ^ 64) ∧
  (∀ s t r, comes s t r 3 → Answers (exec (.readSet t r) s) fun u => Only [.dict, .sent] s u ∧ ∃ b : List Byte,
    b.length = 16 * rqCount r ∧ answered s u t r 0 0 b ∧ ∀ k, k < rqCount r →
      (∀ d, objAccess s t (fieldLE r (16 + 4 * k) 2) (fieldLE r (18 + 4 * k) 1) false = .inl d → fieldLE b (16 * k) 4 = 0 ∧
        fieldLE b (16 * k + 8) 8 = readValue s t d (fieldLE r (16 + 4 * k) 2) (fieldLE r (18 + 4 * k) 1) % 2 ^ 64) ∧
      ∀ code, objAccess s t (fieldLE r (16 + 4 * k) 2) (fieldLE r (18 + 4 * k) 1) false = .inr code → fieldLE b (16 * k) 4 = code % 2 ^ 32) ∧
  (∀ s t r d p, comes s t r 2 → objAccess s t (rqIndex r) (rqSub r) true = .inl d → rqType r = d.ty → rqLength r = d.size →
    inRange s d (rqIndex r) (rqSub r) (ofLE (r.drop 16)) = true →
    (d.next = true → stageEntry s t = some p → Answers (exec (.dictWrite t r) s) fun u => Only [.dict] s u ∧ u.sent = s.sent ∧
      ∃ x : Staged, u.dict.staged.getLast? = some x ∧ x.key = rqIndex r * 256 + rqSub r ∧ x.value = ofLE (r.drop 16) ∧ x.who = some t ∧
        x.seq = rqSeq r ∧ x.part = p ∧ x.superseded = false ∧ u.dict.staged.length = s.dict.staged.length + 1 ∧
        ∀ y ∈ u.dict.staged.dropLast, y.key = x.key → y.superseded = true) ∧
    (d.next = false → rqIndex r = 0x1010 → Answers (exec (.dictWrite t r) s) fun u => Only [.dict, .sent] s u ∧
      answered s u t r 0 0 [] ∧ u.dict.calendar = ofLE (r.drop 16) ∧ u.dict.calValid = true)) ∧
  (∀ s t r (mk : Transport → List Byte → Instr) op, (mk, op) ∈ [(Instr.dictRead, 1), (Instr.dictWrite, 2), (Instr.readSet, 3), (Instr.describe, 4)] →
    reachesDict s t = true → mctp t → rqOp r = op → r.length ≤ 272 → rqOk r = false →
    Answers (exec (mk t r) s) fun u => Only [.dict, .sent] s u ∧ answered s u t r 0x06000001 0 []) ∧
  ∀ s r d, reachesDict s (.mailbox 0) = true → HostMayWrite s 0x700400 → s.dict.mboxBusy.contains 0 = false → rqOk r = true → rqOp r = 1 →
    r.length ≤ 272 → dictServes s (.mailbox 0) r = true → requesterBusy s (.mailbox 0) = false →
    objAccess s (.mailbox 0) (rqIndex r) (rqSub r) false = .inl d → 1 ≤ d.size → d.size ≤ 4 →
    Answers (exec (.dictRead (.mailbox 0) r) s) fun u => Only [.regs, .dict] s u ∧ bit (reg u 0x700404) 2 = true ∧
      getD 0 u.dict.mboxSeq 0 = rqSeq r ∧
      (getD 0 u.dict.mboxRsp 8).toNat = readValue s (.mailbox 0) d (rqIndex r) (rqSub r) % 2 ^ (8 * d.size)

/-- R401, R409: MCTP control messages, whose forms the model takes from DSP0236 (log entry 32). Set Endpoint ID sets an ID of 8 to 254 of
its binding, Get Endpoint ID tells it, the message types are one, 0x7E; versions and vendor are asked for with one byte. ENTDAA gives the
I3C address; the calendar that has ended is no longer valid. -/
def Obligations.ControlMessages : Prop :=
  let answers (mk : Binding → MctpRequest → Instr) (ok : List Byte → Prop) (b : Binding) (s : State) (P : State → List Byte → Prop) : Prop :=
    ∀ m : MctpRequest, bindingUp s b = true → ok m.data → Answers (exec (mk b m) s) fun u => ∃ d, u.sent = s.sent ++ [.mctpRsp b m.src m.tag d] ∧
      fieldLE d 0 1 = 0 ∧ P u d
  (∀ s b e op, 8 ≤ e → e ≤ 254 → op ≤ 1 → answers .setEndpointId (fun l => l = [BitVec.ofNat 8 op, BitVec.ofNat 8 e]) b s fun u d =>
    Only [.dict, .sent] s u ∧ eidOf u b = e ∧ fieldLE d 2 1 = e ∧ ∀ c, c ≠ b → eidOf u c = eidOf s c) ∧
  (∀ s b, answers .getEndpointId (· = []) b s fun u d => Only [.sent] s u ∧ fieldLE d 1 1 = eidOf s b % 256) ∧
  (∀ s b, answers .getMessageTypeSupport (· = []) b s fun u d => Only [.sent] s u ∧ d.drop 1 = [1#8, 0x7E#8]) ∧
  (∀ s b, answers .getMctpVersionSupport (· = [0x7E#8]) b s fun u d => Only [.sent] s u ∧ d.length = 6 ∧ fieldLE d 1 1 = 1) ∧
  (∀ s b, answers .getVendorDefinedMsgSupport (· = [0#8]) b s fun u d => Only [.sent] s u ∧ d.length = 7 ∧ fieldLE d 2 1 = 0) ∧
  (∀ s a, s.power.phase ≠ .off → s.power.phase ≠ .held → 1 ≤ a → a < 128 →
    exec (.entdaa a) s = .next (s.withDict { s.dict with i3cAddr := a })) ∧
  ∀ s, s.dict.calendar = calMake 2399 12 31 23 59 59 → exec .calendarEnd s = .next (s.withDict { s.dict with calValid := false })

/-- R15, R418, R421 to R424: the clock checks. A window of 8,960 to 11,520 reference edges is in range; one out of it, or the loss of root
lock, while the domains run on the root PLL, starts the clock-failure hold: the oscillator drives them, the event's bit and a non-maskable
event tell it, and a module that ran is reset warm. Without the oscillator there is no failover. Locks and stability are noted as they are
reached, and RESUME ends the hold only while the reference is good. R224, R419, R420: a gate register takes each enable bit that is
written 1, and each written 0 but for a unit in use, which keeps it and sets GATE_REFUSED. A stack or a package that stops is as after a
reset, but that a stack keeps its retire list; the others stand. -/
def Obligations.Clocks : Prop :=
  (let inHold (bitNo : Nat) (s u : State) : Prop := u.clock.hold = true ∧ u.clock.onOsc = true ∧
    u.clock.failovers = s.clock.failovers + 1 ∧ bit (reg u offCkEvent) bitNo = true ∧ Sent.nmi bitNo ∈ u.sent ∧ u.tick.count = s.tick.count ∧
    u.tick.time = s.tick.time ∧ (s.power.phase = .done → s.power.image.isSome = true → u.power.phase = .warm ∧ u.power.stage = 0 ∧
      u.power.cause = 20 ∧ u.ctxs = [] ∧ u.queues = [] ∧ u.subs = [] ∧ u.tick.running = false ∧ u.dict.online = false)
  (∀ s n, s.clock.oscOk = true → s.clock.oscFail = false →
    (8960 ≤ n → n ≤ 11520 → exec (.monitorWindowEnd n) s =
      .next (s.withClock { s.clock with monCount := n, inRange := true })) ∧
    (n < 8960 ∨ 11520 < n → onRoot s = true → s.clock.hold = false → Answers (exec (.monitorWindowEnd n) s) fun u =>
      inHold 1 s u ∧ u.clock.inRange = false ∧ u.clock.refStable = false)) ∧
  (∀ s, s.clock.rootLock = true → onRoot s = true → s.clock.hold = false →
    (s.clock.oscFail = false → Answers (exec .pllUnlock s) fun u => inHold 2 s u ∧ u.clock.rootLock = false) ∧
    (s.clock.oscFail = true → Answers (exec .pllUnlock s) fun u => Only [.regs, .clock, .sent] s u ∧ u.clock.hold = false ∧
      u.sent = s.sent ++ [.nmi 2])) ∧
  (∀ s, s.clock.oscOk = true → onRoot s = true → s.clock.oscFail = false → s.clock.hold = false →
    Answers (exec .oscFail s) fun u => Only [.regs, .clock, .sent] s u ∧ u.clock.oscFail = true ∧ bit (reg u offCkEvent) 3 = true ∧
      u.sent = s.sent ++ [.nmi 3]) ∧
  (∀ s, 2 ≤ s.power.rails → s.power.railsOff = false → s.clock.oscOk = false → s.clock.oscFail = false → s.power.phase = .cold →
    Answers (exec .oscillatorStable s) fun u => Only [.ring, .clock, .power, .pins] s u ∧ u.clock.oscOk = true ∧
      (s.power.stage = 1 → s.power.rails = 7 → u.power.stage = 2 ∧ u.ring.position = s.pins.id) ∧
      (s.power.stage ≠ 1 ∨ s.power.rails ≠ 7 → u.power = s.power)) ∧
  (∀ s, s.clock.oscOk = true → s.clock.refStable = false → s.clock.inRange = true →
    (onRoot s = true ∨ (s.power.phase = .cold ∧ s.power.stage = 2)) →
    exec .referenceStable s = .next (s.withClock { s.clock with refStable := true })) ∧
  (∀ s, s.clock.refStable = true →
    (s.clock.rootLock = false → Answers (exec (.pllLocked .root) s) fun u => Only [.tick, .clock] s u ∧ u.clock.rootLock = true ∧
      u.tick.counting = true ∧ u.tick.time = s.tick.time) ∧
    (s.clock.pcieLock = false → exec (.pllLocked .pcie) s = .next (s.withClock { s.clock with pcieLock := true })) ∧
    (4 ≤ s.power.stage → onRoot s = true → s.clock.hold = false → ∀ n,
      (n < 12 → bit s.clock.gateStack n = true → bit s.clock.stackLock n = false →
        exec (.pllLocked (.stack n)) s = .next (s.withClock { s.clock with stackLock := setBit s.clock.stackLock n true })) ∧
      (n < 16 → bit s.clock.gateSr n = true → bit s.clock.srLock n = false →
        exec (.pllLocked (.storeRoom n)) s = .next (s.withClock { s.clock with srLock := setBit s.clock.srLock n true })) ∧
      (n < 4 → bits s.clock.gatePort (4 * n + 3) (4 * n) ≠ 0 → bit s.clock.fabricLock n = false →
        exec (.pllLocked (.fabric n)) s = .next (s.withClock { s.clock with fabricLock := setBit s.clock.fabricLock n true })))) ∧
  ∀ s (v : BitVec 32), v.getLsbD 0 = true → s.clock.hold = true →
    ((s.clock.refStable = false ∨ s.clock.rootLock = false ∨ s.clock.inRange = false) → exec (.resume v) s = .next s) ∧
    (s.clock.refStable = true → s.clock.rootLock = true → s.clock.inRange = true → Answers (exec (.resume v) s) fun u =>
      Only [.ports, .clock, .power] s u ∧ u.clock.hold = false ∧ u.clock.onOsc = false ∧
      (s.power.phase = .warm → u.power.stage = 4 ∧ u.power.configReady = true) ∧ (s.power.phase ≠ .warm → u.power = s.power))) ∧
  (let refused (n old new : Nat) (used : Nat → Bool) (s u : State) : Prop :=
    ((∃ i, i < n ∧ bit old i = true ∧ bit new i = false ∧ used i = true) → bit (reg u offCkEvent) 4 = true) ∧
    ((∀ i, i < n → bit old i = true → used i = true → bit new i = true) → u.regs = s.regs)
  (∀ s (v : BitVec 32), HostMayWrite s 0x300020 → Answers (exec (.ckGateStack v) s) fun u =>
    (∀ i, i < 12 → bit u.clock.gateStack i = (v.getLsbD i || (bit s.clock.gateStack i && (partOfStack s i).isSome))) ∧
    refused 12 s.clock.gateStack v.toNat (fun i => (partOfStack s i).isSome) s u ∧
    ∀ i, i < 12 → (bit s.clock.gateStack i = true → bit u.clock.gateStack i = false →
        stackSt u i = { StackSt.reset with retire := (stackSt s i).retire } ∧ bit u.clock.stackLock i = false) ∧
      (bit s.clock.gateStack i = bit u.clock.gateStack i → stackSt u i = stackSt s i)) ∧
  (∀ s (v : BitVec 32), HostMayWrite s 0x300024 → Answers (exec (.ckGateSr v) s) fun u =>
    (∀ i, i < 16 → bit u.clock.gateSr i = (v.getLsbD i || (bit s.clock.gateSr i && srTotal s != 0))) ∧
    refused 16 s.clock.gateSr v.toNat (fun _ => srTotal s != 0) s u ∧
    ∀ i, i < 16 → (bit s.clock.gateSr i = true → bit u.clock.gateSr i = false →
        pkgSt u i = PkgSt.reset ∧ bit u.clock.srLock i = false) ∧
      (bit s.clock.gateSr i = bit u.clock.gateSr i → pkgSt u i = pkgSt s i)) ∧
  (∀ s (v : BitVec 32), HostMayWrite s 0x300028 → Answers (exec (.ckGatePort v) s) fun u => Only [.regs, .ports, .clock] s u ∧
    (∀ i, i < 16 → bit u.clock.gatePort i = (v.getLsbD i || (bit s.clock.gatePort i && (port s i).state != 0))) ∧
    refused 16 s.clock.gatePort v.toNat (fun i => (port s i).state != 0) s u ∧
    ∀ g, g < 4 → (∀ i, i < 4 → bit u.clock.gatePort (4 * g + i) = false) → bit u.clock.fabricLock g = false) ∧
  ∀ s (v : BitVec 32), HostMayWrite s 0x30002C → exec (.ckGateMisc v) s = .next (s.withClock { s.clock with gateOb := v.getLsbD 0 }))

/-- R434, R436, R447, R449, R450, R484: power. A cold reset begins at stage 1, or on the release of MOD_RESET#, with its cause, the count
and the time zero and nothing left of contexts and queues; an input fault and a thermal trip shut the module down with theirs and drive
TRIP#. Rail groups come one after the other; one that misses power-good turns them off and the sequence retries once. After a thermal trip
a second passes before the restart that was asked for. R434, R438, R442, R446, R447: samples. A rail sample charges each partition its
energy, notes the voltage, and starts a hold of both dies when the module's power is above 110 % of its rating; a junction sample keeps
the temperature, starts a hold of its die from 102 °C on, and shuts the module down at 110 °C, or at 105 °C throughout 100 µs. -/
def Obligations.PowerAndSamples : Prop :=
  (let gone (s u : State) : Prop := u.ctxs = [] ∧ u.queues = [] ∧ u.subs = [] ∧ u.tick.running = false ∧ u.pins.readyPin = false ∧
    u.dict.online = false ∧ u.mem.host = s.mem.host ∧ u.pending = s.pending ∧ u.sent = s.sent
  let cold (cause : Nat) (s u : State) : Prop := gone s u ∧ u.tick.count = 0 ∧ u.tick.time = 0 ∧ u.power.cause = cause ∧
    u.power.rails = 1 ∧ u.pins.trip = false ∧
    (s.pins.modReset = false → u.power.phase = .cold ∧ u.power.stage = 1) ∧ (s.pins.modReset = true → u.power.phase = .held)
  let down (cause : Nat) (s u : State) : Prop := gone s u ∧ u.power.phase = .off ∧ u.power.cause = cause ∧ u.power.tripHeld = some cause ∧
    u.power.rails = 1 ∧ u.pins.trip = true
  let seq (s : State) : Prop := s.power.phase = .cold ∧ s.power.stage = 1 ∧ s.power.railsOff = false ∧ s.power.rails < 7
  (∀ s, s.power.input = false → Answers (exec .powerApplied s) fun u => cold 1 s u ∧ u.power.input = true) ∧
  (∀ s, s.power.input = true → Answers (exec .inputFault s) fun u => down 5 s u ∧ u.power.input = false) ∧
  (∀ s, s.power.input = false → s.power.tripHeld = some 5 → Answers (exec .inputRestored s) fun u => cold 5 s u ∧ u.power.input = true) ∧
  (∀ s, seq s → Answers (exec .railPowerGood s) fun u => Only [.ring, .power, .pins] s u ∧ u.power.rails = s.power.rails + 1 ∧
    (s.power.rails = 6 → s.clock.oscOk = true → u.power.stage = 2 ∧ u.ring.position = s.pins.id ∧ u.pins.idHeld = s.pins.id) ∧
    (s.power.rails < 6 ∨ s.clock.oscOk = false → u.power.stage = 1)) ∧
  (∀ s, seq s → Answers (exec .railTimeout s) fun u => Only [.clock, .power] s u ∧ u.power.rails = 1 ∧ u.power.railsOff = true ∧
    u.power.phase = .cold ∧ u.power.railRetry = s.power.railRetry) ∧
  (∀ s, s.power.railsOff = true → s.power.railRetry = false →
    exec .railRetry s = .next (s.withPower { s.power with railsOff := false, railRetry := true })) ∧
  (∀ s, s.power.phase = .off → s.power.tripHeld = some 4 → s.power.tripOver = false →
    (s.power.tripWait = true → Answers (exec .tripRestartDelay s) (cold 4 s)) ∧
    (s.power.tripWait = false → exec .tripRestartDelay s = .next (s.withPower { s.power with tripOver := true }))) ∧
  ∀ s, s.pins.modReset = false →
    (s.power.phase ≠ .off → Answers (exec .modReset s) fun u => gone s u ∧ u.power.phase = .held ∧ u.power.cause = 2 ∧ u.tick.count = 0 ∧
      u.pins.modReset = true) ∧
    (s.power.phase = .off → s.power.tripHeld = some 4 → s.power.tripOver = false → Answers (exec .modReset s) fun u =>
      Only [.power, .pins] s u ∧ u.power.tripWait = true ∧ u.power.phase = .off)) ∧
  ((∀ s m, s.power.phase ≠ .off → Answers (exec (.railSample m) s) fun u => Only [.regs, .power, .govs] s u ∧
    u.power.volt = m.volt % 65536 ∧ (m.volt < 4800 ∨ 6000 < m.volt → bit (reg u offPwEvent) 7 = true) ∧
    (moduleRating s * 11 < m.avg100 * 10 → u.power.holdPower = true ∧ u.power.sampleHigh = true ∧
      (s.power.holdPower = false → bit (reg u offPwEvent) 3 = true)) ∧
    (m.avg100 * 10 ≤ moduleRating s * 11 → u.power.holdPower = s.power.holdPower ∧ u.power.sampleHigh = false ∧ u.govs = s.govs) ∧
    ∀ p x, p < 16 → m.charges[p]? = some x → (partPower u p).charge = (partPower s p).charge + x) ∧
  ∀ s die temp sustained, s.power.phase ≠ .off → die < 2 →
    (880 ≤ temp ∨ (sustained = true ∧ 840 ≤ temp) → Answers (exec (.junctionSample die temp sustained) s) fun u =>
      u.power.phase = .off ∧ u.power.cause = 4 ∧ u.power.tripHeld = some 4 ∧ u.pins.trip = true ∧ u.ctxs = [] ∧ u.power.input = s.power.input) ∧
    (temp < 880 → (sustained = true → temp < 840) → Answers (exec (.junctionSample die temp sustained) s) fun u =>
      Only [.regs, .power, .govs] s u ∧ (diePower u die).temp = temp ∧ (diePower u die).last = temp ∧
      (∃ h, (diePower u die).hottest = some h ∧ temp ≤ h ∧ ∀ g, (diePower s die).hottest = some g → h = max g temp) ∧
      (816 ≤ temp → (diePower u die).hold = true ∧ ((diePower s die).hold = false → bit (reg u offPwEvent) 2 = true)) ∧
      (temp < 816 → (diePower u die).hold = (diePower s die).hold ∧ u.govs = s.govs)))

/-- R3, R231, R389, R449, R451 to R457, R484, R488, R489: start-up, stage by stage. Fuses that pass, as burned, lead to stage 3, others to
recovery; the first image that passes is applied and training begins, and when both fail, recovery; stacks and packages train, three tries
each, and the last leads to stage 5; with the caches invalid the cores are released at ÷3; the dictionary comes online and ring join
begins, which ends in READY. -/
def Obligations.StartUp : Prop :=
  (∀ s f, s.power.phase = .cold → s.power.stage = 2 → s.clock.rootLock = true → s.clock.pcieLock = true →
    (f.ok = true → s.pins.burned = none ∨ s.pins.burned = some f → Answers (exec (.fuseLoadDone f) s) fun u =>
      Only [.power, .front, .pins] s u ∧ u.power.stage = 3 ∧ u.power.fuses = some f ∧ u.power.phase = .cold ∧
        u.front.linkUp = (!s.pins.perst) ∧ u.pins.burned = some f) ∧
    (f.ok = false → Answers (exec (.fuseLoadDone f) s) fun u => Only [.power, .front] s u ∧ u.power.phase = .failed ∧ u.power.failCode = 2 ∧ u.power.configReady = true ∧ u.power.fuses = s.power.fuses)) ∧
  (∀ s h, s.power.phase = .cold → s.power.stage = 3 → s.clock.hold = false →
    (imageOk h = true → s.power.warmPending = false → Answers (exec (.imageVerifyDone (some h)) s) fun u => Only [.ports, .power] s u ∧
      u.power.image = some h ∧ u.power.configReady = true ∧ u.power.stage = 4 ∧ u.power.phase = .cold ∧
      ∀ n, n < 16 → bit h.ports n = true → (port u n).state = 1 ∧ (port u n).enabled = true) ∧
    (imageOk h = false → s.power.slotB = false →
      exec (.imageVerifyDone (some h)) s = .next (s.withPower { s.power with slotB := true }) ∧
      exec (.imageVerifyDone none) s = .next (s.withPower { s.power with slotB := true })) ∧
    (s.power.slotB = true → Answers (exec (.imageVerifyDone none) s) fun u => Only [.power] s u ∧ u.power.phase = .failed ∧
      u.power.failCode = 1 ∧ u.power.image = s.power.image)) ∧
  (∀ s st, mayTrain s = true → st < 12 → bit s.clock.gateStack st = true → bit s.clock.stackLock st = true →
    (stackSt s st).state = .absent → (stackSt s st).tries < 3 →
    (Answers (exec (.stackTrained st true) s) fun u => Only [.power, .stackSts] s u ∧ (stackSt u st).state = .online ∧
      ∀ k, k ≠ st → stackSt u k = stackSt s k) ∧
    Answers (exec (.stackTrained st false) s) fun u => Only [.power, .stackSts] s u ∧ (stackSt u st).state = .absent ∧
      (stackSt u st).tries = (stackSt s st).tries + 1) ∧
  (∀ s p, mayTrain s = true → p < 16 → bit s.clock.gateSr p = true → bit s.clock.srLock p = true → (pkgSt s p).trained = false →
    (pkgSt s p).failed = false →
    (Answers (exec (.srPackageTrained p true) s) fun u => Only [.power, .pkgs] s u ∧ (pkgSt u p).trained = true ∧
      (s.power.phase = .cold → s.power.stage = 4 → (∀ i, i < 12 → stackSettled s i = true) → (∀ i, i < 16 → i ≠ p → pkgSettled s i = true) →
        u.power.stage = 5)) ∧
    Answers (exec (.srPackageTrained p false) s) fun u => Only [.power, .pkgs] s u ∧ (pkgSt u p).trained = false ∧
      (pkgSt u p).failed = decide (2 ≤ (pkgSt s p).tries)) ∧
  (∀ s, atStage s 5 = true → Answers (exec .invalidateDone s) fun u => Only [.clock, .power, .trans, .cores] s u ∧ u.power.stage = 7 ∧
    u.clock.dividers = List.replicate 16 3 ∧ (∀ c, coreSt u c = Core.fresh) ∧ u.trans = TransSt.reset) ∧
  (∀ s, atStage s 7 = true → Answers (exec .dictionaryOnline s) fun u => Only [.dict, .ring, .power, .sent] s u ∧ u.dict.online = true ∧
    u.power.stage = 8 ∧ u.ring.listening = true ∧ (obj s 0x5000 2 ≠ 1 → u.sent = s.sent)) ∧
  (∀ s, atStage s 8 = true → s.ring.listening = true → Answers (exec .ringJoinTimeout s) fun u => Only [.tick, .ring, .power, .pins] s u ∧
    u.power.phase = .done ∧ u.power.ready = true ∧ u.pins.readyPin = true ∧ u.tick.running = true ∧ u.ring.bypass = false ∧
    u.tick.lock = s.tick.lock) ∧
  (∀ s, s.power.phase = .warm → s.power.stage = 0 → s.power.configReady = false → Answers (exec .quiesceDone s) fun u =>
    Only [.ports, .power] s u ∧ u.power.configReady = true ∧ u.power.stage = if s.clock.hold then 0 else 4) ∧
  (∀ s, s.pins.modReset = true → Answers (exec .modResetRelease s) fun u => Only [.power, .pins] s u ∧ u.pins.modReset = false ∧
    u.pins.flPins = false ∧ (s.power.phase = .held → u.power.phase = .cold ∧ u.power.stage = 1) ∧
    (s.power.phase ≠ .held → u.power = s.power)) ∧
  (∀ s, s.pins.perst = false → s.power.phase = .done → s.clock.hold = false →
    (s.pins.perstSeen = true → Answers (exec .perstAssert s) fun u => u.pins.perst = true ∧ u.front.linkUp = false ∧
      u.power.phase = .warm ∧ u.power.cause = 16 ∧ u.tick.count = s.tick.count ∧ u.ctxs = []) ∧
    (s.pins.perstSeen = false → Answers (exec .perstAssert s) fun u => Only [.front, .pins] s u ∧ u.pins.perst = true ∧
      u.front.linkUp = false)) ∧
  (∀ s, s.pins.perst = true → Answers (exec .perstDeassert s) fun u => Only [.front, .pins] s u ∧ u.pins.perst = false ∧
    u.pins.perstSeen = true ∧ u.front.linkUp = onRoot s) ∧
  ∀ s a, Answers (exec (.flEn a) s) fun u => Only [.pins] s u ∧ u.pins.flEn = a ∧ u.pins.flPins = (s.pins.modReset && a) ∧
    u.pins.modReset = s.pins.modReset

/-- R118, R229, R231, R333, R363, R451: a write of GO resets a partition that is not being reset: its contexts are lost with reason 7 (but
for one that an error of memory met on the way costs first), its cores' caches are invalid and their arrays as for a new owner, its slices
are empty, its engines' queues too, and its pool is disabled. The end of the reset is told once. -/
def Obligations.PartitionResets : Prop :=
  (∀ s (v : BitVec 32), HostMayWrite s offPartReset → v.getLsbD 31 = true → s.power.partBusy = false →
    let p := v.toNat % 16
    Answers (exec (.partitionReset v) s) fun u => u.power.partBusy = true ∧
      (∀ ctx c, find s.ctxs ctx = some c → c.partition = p → (LosesContext s ctx 7 u ∨ LosesContext s ctx 3 u) ∧
        ((s.ctxs.filter (fun e => e.2.partition == p)).map Prod.fst = [ctx] → LosesContext s ctx 7 u)) ∧
      (∀ c ∈ partCores s p, (find s.cores c).isSome = true → (coreSt u c).icache = [] ∧ (coreSt u c).dcache = [] ∧
        (coreSt u c).array = ArraySt.fresh none ∧ (coreSt u c).vec = VecSt.fresh) ∧
      (∀ c ∈ partSlices s p, sliceSt u c = SliceSt.reset) ∧
      (∀ st, st < 12 → bit (partStacks s p) st = true → (cellar u st).queue = [] ∧ (cellar u st).mv = none ∧ (cellar u st).move = none) ∧
      (poolOf u p).enabled = false ∧ (partPower u p).target = 3 ∧ (partPower u p).level = 0) ∧
  (∀ s (v : BitVec 32), HostMayWrite s offPartReset → v.getLsbD 31 = false ∨ s.power.partBusy = true →
    Answers (exec (.partitionReset v) s) fun u => Only [.regs] s u) ∧
  ∀ s, s.power.partBusy = true → exec .partitionResetDone s = .next (s.withPower { s.power with partBusy := false })

/-- R12, R208, R239, R365, R392, R412, R413, R475: a 32-bit read of a register with an RC field returns the register and clears the field,
and nothing else; a 16-bit read of the other half clears nothing. A 64-bit read of a count of the wake governor returns both registers and
clears both fields. R12, R342, R412, R413: a 32-bit host write acts by the access codes of the register: it stores RW bits, clears W1C
bits that it writes 1, and leaves reserved offsets alone; a write of the registers that have a command of their own is that command. A
64-bit write is that of the lower register and then the higher; an 8- or 16-bit write changes nothing but ACCESS_ERR. -/
def Obligations.RegisterAccesses : Prop :=
  (let readable (s : State) (off : Nat) : Prop := blockDrops s off = false ∧ regGated s off = false ∧
    s.front.d3hot.contains 0 = false ∧ regsGranted s 0 (blockOf off) false = true
  (∀ e ∈ ([(Instr.mcCelErrRead, 12, fun n => offCel n + 8), (Instr.mcStkErrRead, 12, fun n => offStk n + 4),
      (Instr.mcSrStatusRead, 16, fun n => offPkg n), (Instr.mcSrErrRead, 16, fun n => offPkg n + 4),
      (Instr.mcAtcErrRead, 16, fun n => offAtc n + 0x14), (Instr.fbPortErrRead, 16, fun n => offPortErr n),
      (Instr.ptPoolEventRead, 16, fun n => offPool n + 8)] : List ((Nat → RegRead → Instr) × Nat × (Nat → Nat))),
    ∀ s n, n < e.2.1 → readable s (e.2.2 n) →
      (Answers (exec (e.1 n ⟨0, 4⟩) s) fun u => Only [.regs, .sent] s u ∧ OnlyRegs (· = e.2.2 n) s u ∧
        u.sent = s.sent ++ [.barRead (regValue s (e.2.2 n))] ∧ reg u (e.2.2 n) = reg s (e.2.2 n) % 2 ^ 16) ∧
      exec (e.1 n ⟨0, 2⟩) s = .next (emit s (.barRead (regValue s (e.2.2 n) % 2 ^ 16)))) ∧
  ∀ e ∈ ([(Instr.obGustsRead, 0x108), (Instr.obHeldRead, 0x110), (Instr.obWaitNsRead, 0x118)] : List ((Nat → RegRead → Instr) × Nat)),
    ∀ s die, die < 2 → readable s (obDie die + e.2) →
      let off := obDie die + e.2
      Answers (exec (e.1 die ⟨0, 8⟩) s) fun u => Only [.regs, .sent] s u ∧ OnlyRegs (fun o => o = off ∨ o = off + 4) s u ∧
        u.sent = s.sent ++ [.barRead (regValue s off + 2 ^ 32 * regValue s (off + 4))] ∧ reg u off = 0 ∧
        reg u (off + 4) = reg s (off + 4) / 2 ^ 16 * 2 ^ 16) ∧
  ((∀ s (v : BitVec 32), HostMayWrite s 0x004 → exec (.registerWrite 0 0x004 4 v.toNat) s = .next (setReg s 0x004 (v.toNat &&& 3))) ∧
  (∀ e ∈ [(0x10003C, 0x300), (0x300004, 0x1F), (0x30801C, 0x1FF)], ∀ s (v : BitVec 32), HostMayWrite s e.1 →
    Answers (exec (.registerWrite 0 e.1 4 v.toNat) s) fun u => Only [.regs] s u ∧ OnlyRegs (· = e.1) s u ∧
      ∀ i, i < 32 → bit (reg u e.1) i = (bit (reg s e.1) i && !(bit e.2 i && v.getLsbD i))) ∧
  (∀ e ∈ ([(Instr.ckGateStack, 0x300020), (Instr.ckGateSr, 0x300024), (Instr.ckGatePort, 0x300028), (Instr.ckGateMisc, 0x30002C),
      (Instr.resetCtrlWarm, 0x308008), (Instr.partitionReset, 0x30800C), (Instr.contextReset, 0x308010), (Instr.ptPreempt, 0x200010),
      (Instr.feKringDoorbell, 0x034)] : List ((BitVec 32 → Instr) × Nat)), ∀ s (v : BitVec 32), HostMayWrite s e.2 →
    exec (.registerWrite 0 e.2 4 v.toNat) s = exec (e.1 v) s) ∧
  (∀ s (v : BitVec 64), HostMayWrite s 0x020 → exec (.registerWrite 0 0x020 8 v.toNat) s =
    .next (setReg (setReg s 0x020 (v.toNat % 2 ^ 32 &&& 0xFFFFF000)) 0x024 (v.toNat / 2 ^ 32 &&& 0x7FFFFFFF))) ∧
  (∀ s off v, off % 4 = 0 → off < 0x1000000 → regKnown s off = false → exec (.registerWrite 0 off 4 v) s = .next s) ∧
  ∀ s w v, w = 1 ∨ w = 2 → blockDrops s 0x004 = false → s.front.d3hot.contains 0 = false →
    Answers (exec (.registerWrite 0 0x004 w v) s) fun u => Only [.regs] s u ∧ OnlyRegs (· = 0x008) s u ∧ bit (reg u 0x008) 0 = true)

/-- R420, R468, R470, R490: the test port takes its instruction, and EXTEST drives pins only under MOD_RESET#. A sampling buffer of 64
records is drained: what fits goes to the partition's ring in the order taken, HEAD after it, and the rest is counted as dropped. A clear
of the histograms clears those that MASK selects. -/
def Obligations.TestPortAndSampling : Prop :=
  (∀ e ∈ [(Instr.bypass, 0), (Instr.idcode, 1), (Instr.samplePreload, 2), (Instr.extest, 3)], ∀ s,
    (s.power.rails = 0 → exec e.1 s = .next s) ∧
    (s.power.rails ≠ 0 → Answers (exec e.1 s) fun u => Only [.pins] s u ∧ u.pins.tap = e.2 ∧
      u.pins.tapDrives = (s.pins.modReset && e.2 == 3) ∧ u.pins.modReset = s.pins.modReset)) ∧
  (∀ s c p, s.settled → 64 ≤ (coreSt s c).samples.length → partOfCore s c = some p → obj s (0x6010 + p) 1 ≠ 0 →
    let base := obj s (0x6010 + p) 1
    let size := 2 ^ obj s (0x6010 + p) 2
    let head := ofLE (peek s base 8)
    let room := size - (head + 2 ^ 64 - ofLE (peek s (base + 8) 8)) % 2 ^ 64
    let n := min (coreSt s c).samples.length room
    (∀ r ∈ (coreSt s c).samples, r.length = 32) → (∀ o, o < 2 + size → SoundAt s (base + 32 * o) 32) → base % 32 = 0 →
    Answers (exec (.sampleBufferDrain c) s) fun u => Only [.bytes, .cores] s u ∧ (coreSt u c).samples = [] ∧
      peek u base 8 = toLE 8 (head + n) ∧
      (∀ i r, i < n → (coreSt s c).samples[i]? = some r → peek u (base + 64 + (head + i) % size * 32) 32 = r) ∧
      (n < (coreSt s c).samples.length →
        peek u (base + 16) 8 = toLE 8 (ofLE (peek s (base + 16) 8) + ((coreSt s c).samples.length - n))) ∧
      ∀ k, k ≠ c → coreSt u k = coreSt s k) ∧
  ∀ s, (s.clock.gateOb = false → exec .histogramClear s = .next s) ∧
    (s.clock.gateOb = true → HostMayWrite s 0x431004 → Answers (exec .histogramClear s) fun u => Only [.hist] s u ∧
      ∀ h b, b < 16 → getD 0 u.hist (16 * h + b) = if bit (regPair s 0x431000) h then 0 else getD 0 s.hist (16 * h + b))
end

