-- ==== Sys2Proof/Laws/Bits.lean ====
section
/-!
SUPPORT. The integer operations of a width are those of bit vectors (R134, R173).
-/

namespace Sys2Proof.Machine

theorem twos_toNat (w : Nat) (v : Int) : twos w v = (BitVec.ofInt w v).toNat := by
  rw [BitVec.toNat_ofInt]
  rfl

theorem signedOf_toNat {w : Nat} (a : BitVec w) : signedOf w a.toNat = a.toInt := by
  rw [BitVec.toInt_eq_toNat_cond]
  unfold signedOf
  rw [Nat.mod_eq_of_lt a.isLt]

theorem valueW_toNat {w : Nat} (sg : Bool) (a : BitVec w) :
    valueW sg w a.toNat = if sg then a.toInt else (a.toNat : Int) := by
  unfold valueW
  split
  · exact signedOf_toNat a
  · rw [Nat.mod_eq_of_lt a.isLt]

theorem addW_toNat {w : Nat} (a b : BitVec w) : addW w a.toNat b.toNat = (a + b).toNat := (BitVec.toNat_add a b).symm

theorem mulW_toNat {w : Nat} (a b : BitVec w) : mulW w a.toNat b.toNat = (a * b).toNat := (BitVec.toNat_mul a b).symm

theorem subW_toNat {w : Nat} (a b : BitVec w) : subW w a.toNat b.toNat = (a - b).toNat := by
  unfold subW
  rw [twos_toNat]
  congr 1
  apply BitVec.eq_of_toInt_eq
  rw [BitVec.toInt_ofInt, BitVec.toInt_sub, Int.sub_bmod, BitVec.toInt_eq_toNat_bmod, BitVec.toInt_eq_toNat_bmod]

theorem lt_iff {w : Nat} (sg : Bool) (a b : BitVec w) :
    decide (valueW sg w a.toNat < valueW sg w b.toNat) = if sg then a.slt b else a.ult b := by
  rw [valueW_toNat, valueW_toNat]
  cases sg
  · simp [BitVec.ult]
  · rfl

theorem minW_toNat {w : Nat} (sg : Bool) (a b : BitVec w) :
    minW sg w a.toNat b.toNat = (if (if sg then b.slt a else b.ult a) then b else a).toNat := by
  unfold minW
  rw [← lt_iff]
  by_cases h : valueW sg w b.toNat < valueW sg w a.toNat
  · simp [h]
  · simp [h]

theorem maxW_toNat {w : Nat} (sg : Bool) (a b : BitVec w) :
    maxW sg w a.toNat b.toNat = (if (if sg then a.slt b else a.ult b) then b else a).toNat := by
  unfold maxW
  rw [← lt_iff]
  by_cases h : valueW sg w a.toNat < valueW sg w b.toNat
  · simp [h]
  · simp [h]

theorem shlW_toNat {w : Nat} (a b : BitVec w) : shlW w a.toNat b.toNat = (a <<< (b.toNat % w)).toNat := by
  rw [BitVec.toNat_shiftLeft]
  rfl

theorem shrW_toNat {w : Nat} (a b : BitVec w) : shrW w a.toNat b.toNat = (a >>> (b.toNat % w)).toNat := by
  rw [BitVec.toNat_ushiftRight]
  unfold shrW
  rw [Nat.mod_eq_of_lt a.isLt]

theorem sarW_toNat {w : Nat} (a b : BitVec w) : sarW w a.toNat b.toNat = (a.sshiftRight (b.toNat % w)).toNat := by
  unfold sarW
  rw [twos_toNat, signedOf_toNat]
  congr 1
  rw [show a.toInt / ((2 ^ (b.toNat % w) : Nat) : Int) = (a.sshiftRight (b.toNat % w)).toInt by
    rw [BitVec.toInt_sshiftRight, Int.shiftRight_eq_div_pow]]
  exact BitVec.ofInt_toInt

theorem divW_toNat {w : Nat} (sg : Bool) (a b : BitVec w) :
    divW sg w a.toNat b.toNat = (if b = 0 then 0 else if sg then a.sdiv b else a / b).toNat := by
  unfold divW
  rw [Nat.mod_eq_of_lt b.isLt]
  by_cases h : b = 0
  · simp [h]
  · have h' : b.toNat ≠ 0 := fun e => h (BitVec.eq_of_toNat_eq e)
    rw [if_neg h', if_neg h, twos_toNat, valueW_toNat, valueW_toNat]
    congr 1
    cases sg
    · simp only [Bool.false_eq_true, if_false]
      rw [show (a.toNat : Int).tdiv b.toNat = ((a / b).toNat : Int) by rw [BitVec.toNat_udiv]; rfl,
        BitVec.ofInt_natCast, BitVec.ofNat_toNat, BitVec.setWidth_eq]
    · simp only [if_true]
      apply BitVec.eq_of_toInt_eq
      rw [BitVec.toInt_ofInt, BitVec.toInt_sdiv]

theorem remW_toNat {w : Nat} (sg : Bool) (a b : BitVec w) :
    remW sg w a.toNat b.toNat = (if b = 0 then a else if sg then a.srem b else a % b).toNat := by
  unfold remW
  rw [Nat.mod_eq_of_lt b.isLt, Nat.mod_eq_of_lt a.isLt]
  by_cases h : b = 0
  · simp [h]
  · have h' : b.toNat ≠ 0 := fun e => h (BitVec.eq_of_toNat_eq e)
    rw [if_neg h', if_neg h, twos_toNat, valueW_toNat, valueW_toNat]
    congr 1
    cases sg
    · simp only [Bool.false_eq_true, if_false]
      rw [show (a.toNat : Int).tmod b.toNat = ((a % b).toNat : Int) by rw [BitVec.toNat_umod]; rfl,
        BitVec.ofInt_natCast, BitVec.ofNat_toNat, BitVec.setWidth_eq]
    · simp only [if_true]
      rw [← BitVec.toInt_srem]
      exact BitVec.ofInt_toInt

/-- The high half of a product. -/
theorem mulhW_toNat {w : Nat} (sg : Bool) (a b : BitVec w) : mulhW sg w a.toNat b.toNat =
    (if sg then BitVec.ofInt w (a.toInt * b.toInt / 2 ^ w) else BitVec.ofNat w (a.toNat * b.toNat / 2 ^ w)).toNat := by
  unfold mulhW
  rw [twos_toNat, valueW_toNat, valueW_toNat]
  congr 1
  cases sg
  · simp only [Bool.false_eq_true, if_false]
    rw [show (a.toNat : Int) * b.toNat / ((2 ^ w : Nat) : Int) = ((a.toNat * b.toNat / 2 ^ w : Nat) : Int) by rfl,
      BitVec.ofInt_natCast]
  · simp

/-- The eight conditions on integers (R132). -/
theorem condInt_toNat {w : Nat} (cond : Nat) (sg : Bool) (a b : BitVec w) : condInt cond sg w a.toNat b.toNat =
    (let lt := if sg then a.slt b else a.ult b
     match cond with
     | 0 => a == b
     | 1 => a != b
     | 2 => lt
     | 3 => lt || a == b
     | 4 => !lt && a != b
     | 5 => !lt
     | 6 => a.ult b
     | _ => !a.ult b) := by
  have he : (a.toNat == b.toNat) = (a == b) := by
    by_cases h : a = b
    · rw [h, beq_self_eq_true, beq_self_eq_true]
    · rw [beq_eq_false_iff_ne.mpr h, beq_eq_false_iff_ne.mpr fun e => h (BitVec.eq_of_toNat_eq e)]
  have hl : (if sg then decide (signedOf w a.toNat < signedOf w b.toNat) else decide (a.toNat < b.toNat)) =
      if sg then a.slt b else a.ult b := by
    rw [signedOf_toNat, signedOf_toNat]
    rfl
  unfold condInt
  dsimp only
  have hn : (a.toNat != b.toNat) = (a != b) := congrArg not he
  have hu : decide (b.toNat ≤ a.toNat) = !a.ult b := by
    unfold BitVec.ult
    rw [← decide_not]
    exact decide_eq_decide.mpr Nat.not_lt.symm
  rw [Nat.mod_eq_of_lt a.isLt, Nat.mod_eq_of_lt b.isLt, hl, he, hn, hu]
  rcases cond with _ | _ | _ | _ | _ | _ | _ | n <;> first | rfl | exact Bool.not_or _ _

end Sys2Proof.Machine
end

