-- ==== Sys2Proof/Laws/Exec.lean ====
section
/-!
SUPPORT. The meaning that `exec` calls for each command.
-/

namespace Sys2Proof.Machine

@[simp] theorem exec_tickBoundary (s) : exec (.tickBoundary) s = execTickBoundary s := rfl
@[simp] theorem exec_reservedWindowEnd (q) (s) : exec (.reservedWindowEnd q) s = execReservedWindowEnd q s := rfl
@[simp] theorem exec_deadlineCheckpoint (q) (s) : exec (.deadlineCheckpoint q) s = execDeadlineCheckpoint q s := rfl
@[simp] theorem exec_rtAbortComplete (q) (s) : exec (.rtAbortComplete q) s = execRtAbortComplete q s := rfl
@[simp] theorem exec_submissionComplete (q) (s) : exec (.submissionComplete q) s = execSubmissionComplete q s := rfl
@[simp] theorem exec_hangDumpDone (q) (s) : exec (.hangDumpDone q) s = execHangDumpDone q s := rfl
@[simp] theorem exec_ringEdgeMissing (s) : exec (.ringEdgeMissing) s = execRingEdgeMissing s := rfl
@[simp] theorem exec_dissue (core slot w) (s) : exec (.dissue core slot w) s = execDissue core slot w s := rfl
@[simp] theorem exec_draughtActivate (core) (s) : exec (.draughtActivate core) s = execDraughtActivate core s := rfl
@[simp] theorem exec_stationTileStart (core d st) (s) : exec (.stationTileStart core d st) s = execStationTileStart core d st s := rfl
@[simp] theorem exec_stationTileDone (core d st) (s) : exec (.stationTileDone core d st) s = execStationTileDone core d st s := rfl
@[simp] theorem exec_launch (q) (s) : exec (.launch q) s = execLaunch q s := rfl
@[simp] theorem exec_groupResident (core) (s) : exec (.groupResident core) s = execGroupResident core s := rfl
@[simp] theorem exec_groupPromote (core) (s) : exec (.groupPromote core) s = execGroupPromote core s := rfl
@[simp] theorem exec_pathRotation (core slot) (s) : exec (.pathRotation core slot) s = execPathRotation core slot s := rfl
@[simp] theorem exec_lintAdd (core slot w) (s) : exec (.lintAdd core slot w) s = execLintAdd core slot w s := rfl
@[simp] theorem exec_lintSub (core slot w) (s) : exec (.lintSub core slot w) s = execLintSub core slot w s := rfl
@[simp] theorem exec_lintMul (core slot w) (s) : exec (.lintMul core slot w) s = execLintMul core slot w s := rfl
@[simp] theorem exec_lintMulh (core slot w) (s) : exec (.lintMulh core slot w) s = execLintMulh core slot w s := rfl
@[simp] theorem exec_lintMad (core slot w) (s) : exec (.lintMad core slot w) s = execLintMad core slot w s := rfl
@[simp] theorem exec_lintDiv (core slot w) (s) : exec (.lintDiv core slot w) s = execLintDiv core slot w s := rfl
@[simp] theorem exec_lintRem (core slot w) (s) : exec (.lintRem core slot w) s = execLintRem core slot w s := rfl
@[simp] theorem exec_lintAnd (core slot w) (s) : exec (.lintAnd core slot w) s = execLintAnd core slot w s := rfl
@[simp] theorem exec_lintOr (core slot w) (s) : exec (.lintOr core slot w) s = execLintOr core slot w s := rfl
@[simp] theorem exec_lintXor (core slot w) (s) : exec (.lintXor core slot w) s = execLintXor core slot w s := rfl
@[simp] theorem exec_lintShl (core slot w) (s) : exec (.lintShl core slot w) s = execLintShl core slot w s := rfl
@[simp] theorem exec_lintShr (core slot w) (s) : exec (.lintShr core slot w) s = execLintShr core slot w s := rfl
@[simp] theorem exec_lintMin (core slot w) (s) : exec (.lintMin core slot w) s = execLintMin core slot w s := rfl
@[simp] theorem exec_lintMax (core slot w) (s) : exec (.lintMax core slot w) s = execLintMax core slot w s := rfl
@[simp] theorem exec_lintCmp (core slot w) (s) : exec (.lintCmp core slot w) s = execLintCmp core slot w s := rfl
@[simp] theorem exec_lintSel (core slot w) (s) : exec (.lintSel core slot w) s = execLintSel core slot w s := rfl
@[simp] theorem exec_lintAddi (core slot w) (s) : exec (.lintAddi core slot w) s = execLintAddi core slot w s := rfl
@[simp] theorem exec_lintClz (core slot w) (s) : exec (.lintClz core slot w) s = execLintClz core slot w s := rfl
@[simp] theorem exec_lintPopc (core slot w) (s) : exec (.lintPopc core slot w) s = execLintPopc core slot w s := rfl
@[simp] theorem exec_lintMovs (core slot w) (s) : exec (.lintMovs core slot w) s = execLintMovs core slot w s := rfl
@[simp] theorem exec_lintLaneid (core slot w) (s) : exec (.lintLaneid core slot w) s = execLintLaneid core slot w s := rfl
@[simp] theorem exec_lintShfl (core slot w) (s) : exec (.lintShfl core slot w) s = execLintShfl core slot w s := rfl
@[simp] theorem exec_lintVote (core slot w) (s) : exec (.lintVote core slot w) s = execLintVote core slot w s := rfl
@[simp] theorem exec_fadd (core slot w) (s) : exec (.fadd core slot w) s = execFadd core slot w s := rfl
@[simp] theorem exec_fsub (core slot w) (s) : exec (.fsub core slot w) s = execFsub core slot w s := rfl
@[simp] theorem exec_fmul (core slot w) (s) : exec (.fmul core slot w) s = execFmul core slot w s := rfl
@[simp] theorem exec_ffma (core slot w) (s) : exec (.ffma core slot w) s = execFfma core slot w s := rfl
@[simp] theorem exec_fmin (core slot w) (s) : exec (.fmin core slot w) s = execFmin core slot w s := rfl
@[simp] theorem exec_fmax (core slot w) (s) : exec (.fmax core slot w) s = execFmax core slot w s := rfl
@[simp] theorem exec_fabs (core slot w) (s) : exec (.fabs core slot w) s = execFabs core slot w s := rfl
@[simp] theorem exec_fneg (core slot w) (s) : exec (.fneg core slot w) s = execFneg core slot w s := rfl
@[simp] theorem exec_fcmp (core slot w) (s) : exec (.fcmp core slot w) s = execFcmp core slot w s := rfl
@[simp] theorem exec_fdiv (core slot w) (s) : exec (.fdiv core slot w) s = execFdiv core slot w s := rfl
@[simp] theorem exec_fsqrt (core slot w) (s) : exec (.fsqrt core slot w) s = execFsqrt core slot w s := rfl
@[simp] theorem exec_frcp (core slot w) (s) : exec (.frcp core slot w) s = execFrcp core slot w s := rfl
@[simp] theorem exec_frsq (core slot w) (s) : exec (.frsq core slot w) s = execFrsq core slot w s := rfl
@[simp] theorem exec_fexp2 (core slot w) (s) : exec (.fexp2 core slot w) s = execFexp2 core slot w s := rfl
@[simp] theorem exec_flog2 (core slot w) (s) : exec (.flog2 core slot w) s = execFlog2 core slot w s := rfl
@[simp] theorem exec_fsin (core slot w) (s) : exec (.fsin core slot w) s = execFsin core slot w s := rfl
@[simp] theorem exec_fcos (core slot w) (s) : exec (.fcos core slot w) s = execFcos core slot w s := rfl
@[simp] theorem exec_fcvt (core slot w) (s) : exec (.fcvt core slot w) s = execFcvt core slot w s := rfl
@[simp] theorem exec_icvt (core slot w) (s) : exec (.icvt core slot w) s = execIcvt core slot w s := rfl
@[simp] theorem exec_saluAdd (core slot w) (s) : exec (.saluAdd core slot w) s = execSaluAdd core slot w s := rfl
@[simp] theorem exec_saluSub (core slot w) (s) : exec (.saluSub core slot w) s = execSaluSub core slot w s := rfl
@[simp] theorem exec_saluMul (core slot w) (s) : exec (.saluMul core slot w) s = execSaluMul core slot w s := rfl
@[simp] theorem exec_saluDiv (core slot w) (s) : exec (.saluDiv core slot w) s = execSaluDiv core slot w s := rfl
@[simp] theorem exec_saluRem (core slot w) (s) : exec (.saluRem core slot w) s = execSaluRem core slot w s := rfl
@[simp] theorem exec_saluAnd (core slot w) (s) : exec (.saluAnd core slot w) s = execSaluAnd core slot w s := rfl
@[simp] theorem exec_saluOr (core slot w) (s) : exec (.saluOr core slot w) s = execSaluOr core slot w s := rfl
@[simp] theorem exec_saluXor (core slot w) (s) : exec (.saluXor core slot w) s = execSaluXor core slot w s := rfl
@[simp] theorem exec_saluShl (core slot w) (s) : exec (.saluShl core slot w) s = execSaluShl core slot w s := rfl
@[simp] theorem exec_saluShr (core slot w) (s) : exec (.saluShr core slot w) s = execSaluShr core slot w s := rfl
@[simp] theorem exec_saluSar (core slot w) (s) : exec (.saluSar core slot w) s = execSaluSar core slot w s := rfl
@[simp] theorem exec_saluMin (core slot w) (s) : exec (.saluMin core slot w) s = execSaluMin core slot w s := rfl
@[simp] theorem exec_saluMax (core slot w) (s) : exec (.saluMax core slot w) s = execSaluMax core slot w s := rfl
@[simp] theorem exec_saluCmp (core slot w) (s) : exec (.saluCmp core slot w) s = execSaluCmp core slot w s := rfl
@[simp] theorem exec_saluLi (core slot w) (s) : exec (.saluLi core slot w) s = execSaluLi core slot w s := rfl
@[simp] theorem exec_saluAddi (core slot w) (s) : exec (.saluAddi core slot w) s = execSaluAddi core slot w s := rfl
@[simp] theorem exec_sread (core slot w) (s) : exec (.sread core slot w) s = execSread core slot w s := rfl
@[simp] theorem exec_xtos (core slot w) (s) : exec (.xtos core slot w) s = execXtos core slot w s := rfl
@[simp] theorem exec_ldl (core slot w) (s) : exec (.ldl core slot w) s = execLdl core slot w s := rfl
@[simp] theorem exec_stl (core slot w) (s) : exec (.stl core slot w) s = execStl core slot w s := rfl
@[simp] theorem exec_ldc (core slot w) (s) : exec (.ldc core slot w) s = execLdc core slot w s := rfl
@[simp] theorem exec_stc (core slot w) (s) : exec (.stc core slot w) s = execStc core slot w s := rfl
@[simp] theorem exec_atl (core slot w) (s) : exec (.atl core slot w) s = execAtl core slot w s := rfl
@[simp] theorem exec_atc (core slot w) (s) : exec (.atc core slot w) s = execAtc core slot w s := rfl
@[simp] theorem exec_atr (core slot w) (s) : exec (.atr core slot w) s = execAtr core slot w s := rfl
@[simp] theorem exec_bz (core slot w) (s) : exec (.bz core slot w) s = execBz core slot w s := rfl
@[simp] theorem exec_bnz (core slot w) (s) : exec (.bnz core slot w) s = execBnz core slot w s := rfl
@[simp] theorem exec_bsz (core slot w) (s) : exec (.bsz core slot w) s = execBsz core slot w s := rfl
@[simp] theorem exec_bsnz (core slot w) (s) : exec (.bsnz core slot w) s = execBsnz core slot w s := rfl
@[simp] theorem exec_jmp (core slot w) (s) : exec (.jmp core slot w) s = execJmp core slot w s := rfl
@[simp] theorem exec_call (core slot w) (s) : exec (.call core slot w) s = execCall core slot w s := rfl
@[simp] theorem exec_jr (core slot w) (s) : exec (.jr core slot w) s = execJr core slot w s := rfl
@[simp] theorem exec_exit (core slot w) (s) : exec (.exit core slot w) s = execExit core slot w s := rfl
@[simp] theorem exec_cwait (core slot w) (s) : exec (.cwait core slot w) s = execCwait core slot w s := rfl
@[simp] theorem exec_rcwait (core slot w) (s) : exec (.rcwait core slot w) s = execRcwait core slot w s := rfl
@[simp] theorem exec_cset (core slot w) (s) : exec (.cset core slot w) s = execCset core slot w s := rfl
@[simp] theorem exec_cadd (core slot w) (s) : exec (.cadd core slot w) s = execCadd core slot w s := rfl
@[simp] theorem exec_cread (core slot w) (s) : exec (.cread core slot w) s = execCread core slot w s := rfl
@[simp] theorem exec_bar (core slot w) (s) : exec (.bar core slot w) s = execBar core slot w s := rfl
@[simp] theorem exec_fence (core slot w) (s) : exec (.fence core slot w) s = execFence core slot w s := rfl
@[simp] theorem exec_yield (core slot w) (s) : exec (.yield core slot w) s = execYield core slot w s := rfl
@[simp] theorem exec_icinv (core slot w) (s) : exec (.icinv core slot w) s = execIcinv core slot w s := rfl
@[simp] theorem exec_dcinv (core slot w) (s) : exec (.dcinv core slot w) s = execDcinv core slot w s := rfl
@[simp] theorem exec_prog (core slot w) (s) : exec (.prog core slot w) s = execProg core slot w s := rfl
@[simp] theorem exec_acopy (core slot w) (s) : exec (.acopy core slot w) s = execAcopy core slot w s := rfl
@[simp] theorem exec_acopyStart (core) (s) : exec (.acopyStart core) s = execAcopyStart core s := rfl
@[simp] theorem exec_acopyComplete (core n) (s) : exec (.acopyComplete core n) s = execAcopyComplete core n s := rfl
@[simp] theorem exec_dbell (core slot w) (s) : exec (.dbell core slot w) s = execDbell core slot w s := rfl
@[simp] theorem exec_dbellPost (core slot) (s) : exec (.dbellPost core slot) s = execDbellPost core slot s := rfl
@[simp] theorem exec_storeBufferDrain (core n) (s) : exec (.storeBufferDrain core n) s = execStoreBufferDrain core n s := rfl
@[simp] theorem exec_cacheSectorArrival (core icache n) (s) : exec (.cacheSectorArrival core icache n) s = execCacheSectorArrival core icache n s := rfl
@[simp] theorem exec_remoteCounterFetched (ctx n) (s) : exec (.remoteCounterFetched ctx n) s = execRemoteCounterFetched ctx n s := rfl
@[simp] theorem exec_coreClockGate (core) (s) : exec (.coreClockGate core) s = execCoreClockGate core s := rfl
@[simp] theorem exec_wakeWindow (die) (s) : exec (.wakeWindow die) s = execWakeWindow die s := rfl
@[simp] theorem exec_mload (core slot w) (s) : exec (.mload core slot w) s = execMload core slot w s := rfl
@[simp] theorem exec_mrun (core slot w) (s) : exec (.mrun core slot w) s = execMrun core slot w s := rfl
@[simp] theorem exec_mdrain (core slot w) (s) : exec (.mdrain core slot w) s = execMdrain core slot w s := rfl
@[simp] theorem exec_mclr (core slot w) (s) : exec (.mclr core slot w) s = execMclr core slot w s := rfl
@[simp] theorem exec_mtf (core slot w) (s) : exec (.mtf core slot w) s = execMtf core slot w s := rfl
@[simp] theorem exec_mreq (core slot w) (s) : exec (.mreq core slot w) s = execMreq core slot w s := rfl
@[simp] theorem exec_mflush (core slot w) (s) : exec (.mflush core slot w) s = execMflush core slot w s := rfl
@[simp] theorem exec_mbcfg (core slot w) (s) : exec (.mbcfg core slot w) s = execMbcfg core slot w s := rfl
@[simp] theorem exec_mfence (core slot w) (s) : exec (.mfence core slot w) s = execMfence core slot w s := rfl
@[simp] theorem exec_mstat (core slot w) (s) : exec (.mstat core slot w) s = execMstat core slot w s := rfl
@[simp] theorem exec_batchWindowExpire (core n) (s) : exec (.batchWindowExpire core n) s = execBatchWindowExpire core n s := rfl
@[simp] theorem exec_loadPathStart (core) (s) : exec (.loadPathStart core) s = execLoadPathStart core s := rfl
@[simp] theorem exec_groupLoadDone (core) (s) : exec (.groupLoadDone core) s = execGroupLoadDone core s := rfl
@[simp] theorem exec_runPathStart (core) (s) : exec (.runPathStart core) s = execRunPathStart core s := rfl
@[simp] theorem exec_groupPassesDone (core) (s) : exec (.groupPassesDone core) s = execGroupPassesDone core s := rfl
@[simp] theorem exec_runDone (core err) (s) : exec (.runDone core err) s = execRunDone core err s := rfl
@[simp] theorem exec_drainDone (core err) (s) : exec (.drainDone core err) s = execDrainDone core err s := rfl
@[simp] theorem exec_vld (core slot w) (s) : exec (.vld core slot w) s = execVld core slot w s := rfl
@[simp] theorem exec_vst (core slot w) (s) : exec (.vst core slot w) s = execVst core slot w s := rfl
@[simp] theorem exec_vadd (core slot w) (s) : exec (.vadd core slot w) s = execVadd core slot w s := rfl
@[simp] theorem exec_vsub (core slot w) (s) : exec (.vsub core slot w) s = execVsub core slot w s := rfl
@[simp] theorem exec_vmul (core slot w) (s) : exec (.vmul core slot w) s = execVmul core slot w s := rfl
@[simp] theorem exec_vfma (core slot w) (s) : exec (.vfma core slot w) s = execVfma core slot w s := rfl
@[simp] theorem exec_vmin (core slot w) (s) : exec (.vmin core slot w) s = execVmin core slot w s := rfl
@[simp] theorem exec_vmax (core slot w) (s) : exec (.vmax core slot w) s = execVmax core slot w s := rfl
@[simp] theorem exec_vdiv (core slot w) (s) : exec (.vdiv core slot w) s = execVdiv core slot w s := rfl
@[simp] theorem exec_vsqrt (core slot w) (s) : exec (.vsqrt core slot w) s = execVsqrt core slot w s := rfl
@[simp] theorem exec_vfn (core slot w) (s) : exec (.vfn core slot w) s = execVfn core slot w s := rfl
@[simp] theorem exec_vcmp (core slot w) (s) : exec (.vcmp core slot w) s = execVcmp core slot w s := rfl
@[simp] theorem exec_vsel (core slot w) (s) : exec (.vsel core slot w) s = execVsel core slot w s := rfl
@[simp] theorem exec_vcvt (core slot w) (s) : exec (.vcvt core slot w) s = execVcvt core slot w s := rfl
@[simp] theorem exec_vlogic (core slot w) (s) : exec (.vlogic core slot w) s = execVlogic core slot w s := rfl
@[simp] theorem exec_vshift (core slot w) (s) : exec (.vshift core slot w) s = execVshift core slot w s := rfl
@[simp] theorem exec_vbcst (core slot w) (s) : exec (.vbcst core slot w) s = execVbcst core slot w s := rfl
@[simp] theorem exec_vred (core slot w) (s) : exec (.vred core slot w) s = execVred core slot w s := rfl
@[simp] theorem exec_vperm (core slot w) (s) : exec (.vperm core slot w) s = execVperm core slot w s := rfl
@[simp] theorem exec_vmask (core slot w) (s) : exec (.vmask core slot w) s = execVmask core slot w s := rfl
@[simp] theorem exec_viota (core slot w) (s) : exec (.viota core slot w) s = execViota core slot w s := rfl
@[simp] theorem exec_vprog (core slot w) (s) : exec (.vprog core slot w) s = execVprog core slot w s := rfl
@[simp] theorem exec_vfence (core slot w) (s) : exec (.vfence core slot w) s = execVfence core slot w s := rfl
@[simp] theorem exec_vectorExecute (core err) (s) : exec (.vectorExecute core err) s = execVectorExecute core err s := rfl
@[simp] theorem exec_vectorComplete (core) (s) : exec (.vectorComplete core) s = execVectorComplete core s := rfl
@[simp] theorem exec_elementProgramRead (core ctx h) (s) : exec (.elementProgramRead core ctx h) s = execElementProgramRead core ctx h s := rfl
@[simp] theorem exec_cellarCommandEnqueue (stack) (s) : exec (.cellarCommandEnqueue stack) s = execCellarCommandEnqueue stack s := rfl
@[simp] theorem exec_matvec (stack) (s) : exec (.matvec stack) s = execMatvec stack s := rfl
@[simp] theorem exec_decode (stack) (s) : exec (.decode stack) s = execDecode stack s := rfl
@[simp] theorem exec_kvpack (stack) (s) : exec (.kvpack stack) s = execKvpack stack s := rfl
@[simp] theorem exec_gather (stack) (s) : exec (.gather stack) s = execGather stack s := rfl
@[simp] theorem exec_scatter (stack) (s) : exec (.scatter stack) s = execScatter stack s := rfl
@[simp] theorem exec_cellarFill (stack) (s) : exec (.cellarFill stack) s = execCellarFill stack s := rfl
@[simp] theorem exec_cellarCopy (stack) (s) : exec (.cellarCopy stack) s = execCellarCopy stack s := rfl
@[simp] theorem exec_cellarReduce (stack) (s) : exec (.cellarReduce stack) s = execCellarReduce stack s := rfl
@[simp] theorem exec_cbload (stack) (s) : exec (.cbload stack) s = execCbload stack s := rfl
@[simp] theorem exec_cbarm (stack) (s) : exec (.cbarm stack) s = execCbarm stack s := rfl
@[simp] theorem exec_cellarCommandComplete (stack unit err) (s) : exec (.cellarCommandComplete stack unit err) s = execCellarCommandComplete stack unit err s := rfl
@[simp] theorem exec_codebookFillDone (stack err) (s) : exec (.codebookFillDone stack err) s = execCodebookFillDone stack err s := rfl
@[simp] theorem exec_stackAccess (stack req ecc) (s) : exec (.stackAccess stack req ecc) s = execStackAccess stack req ecc s := rfl
@[simp] theorem exec_reorderEntryAged (stack channel tag) (s) : exec (.reorderEntryAged stack channel tag) s = execReorderEntryAged stack channel tag s := rfl
@[simp] theorem exec_scrubRead (stack ecc) (s) : exec (.scrubRead stack ecc) s = execScrubRead stack ecc s := rfl
@[simp] theorem exec_stackTempReadout (stack temp) (s) : exec (.stackTempReadout stack temp) s = execStackTempReadout stack temp s := rfl
@[simp] theorem exec_atticAccess (slice err) (s) : exec (.atticAccess slice err) s = execAtticAccess slice err s := rfl
@[simp] theorem exec_atticFlush (slice) (s) : exec (.atticFlush slice) s = execAtticFlush slice s := rfl
@[simp] theorem exec_atticFlushDone (p) (s) : exec (.atticFlushDone p) s = execAtticFlushDone p s := rfl
@[simp] theorem exec_storeRoomAccess (req out) (s) : exec (.storeRoomAccess req out) s = execStoreRoomAccess req out s := rfl
@[simp] theorem exec_pageMoveStart (p) (s) : exec (.pageMoveStart p) s = execPageMoveStart p s := rfl
@[simp] theorem exec_pageMoveDone (p n) (s) : exec (.pageMoveDone p n) s = execPageMoveDone p n s := rfl
@[simp] theorem exec_walkStart (die) (s) : exec (.walkStart die) s = execWalkStart die s := rfl
@[simp] theorem exec_walkComplete (die n) (s) : exec (.walkComplete die n) s = execWalkComplete die n s := rfl
@[simp] theorem exec_faultRecordWrite (s) : exec (.faultRecordWrite) s = execFaultRecordWrite s := rfl
@[simp] theorem exec_faultResume (s) : exec (.faultResume) s = execFaultResume s := rfl
@[simp] theorem exec_faultTerminate (s) : exec (.faultTerminate) s = execFaultTerminate s := rfl
@[simp] theorem exec_faultTimeout (token) (s) : exec (.faultTimeout token) s = execFaultTimeout token s := rfl
@[simp] theorem exec_invalidateByTag (s) : exec (.invalidateByTag) s = execInvalidateByTag s := rfl
@[simp] theorem exec_invalidateByRange (s) : exec (.invalidateByRange) s = execInvalidateByRange s := rfl
@[simp] theorem exec_invalidationDrainDone (s) : exec (.invalidationDrainDone) s = execInvalidationDrainDone s := rfl
@[simp] theorem exec_feDoorbell (q w) (s) : exec (.feDoorbell q w) s = execFeDoorbell q w s := rfl
@[simp] theorem exec_feVfDoorbell (fn k w) (s) : exec (.feVfDoorbell fn k w) s = execFeVfDoorbell fn k w s := rfl
@[simp] theorem exec_feKringDoorbell (w) (s) : exec (.feKringDoorbell w) s = execFeKringDoorbell w s := rfl
@[simp] theorem exec_queueSlotLoad (s) : exec (.queueSlotLoad) s = execQueueSlotLoad s := rfl
@[simp] theorem exec_ringEntryFetch (q ecc) (s) : exec (.ringEntryFetch q ecc) s = execRingEntryFetch q ecc s := rfl
@[simp] theorem exec_commandBufferFetch (q fallback ecc) (s) : exec (.commandBufferFetch q fallback ecc) s = execCommandBufferFetch q fallback ecc s := rfl
@[simp] theorem exec_fenceWaitPoll (s) : exec (.fenceWaitPoll) s = execFenceWaitPoll s := rfl
@[simp] theorem exec_contextSlotLoad (ctx) (s) : exec (.contextSlotLoad ctx) s = execContextSlotLoad ctx s := rfl
@[simp] theorem exec_nop (q) (s) : exec (.nop q) s = execNop q s := rfl
@[simp] theorem exec_fenceWait (q) (s) : exec (.fenceWait q) s = execFenceWait q s := rfl
@[simp] theorem exec_draught (q) (s) : exec (.draught q) s = execDraught q s := rfl
@[simp] theorem exec_copy (q) (s) : exec (.copy q) s = execCopy q s := rfl
@[simp] theorem exec_fill (q) (s) : exec (.fill q) s = execFill q s := rfl
@[simp] theorem exec_copyEnginePieceDone (s) : exec (.copyEnginePieceDone) s = execCopyEnginePieceDone s := rfl
@[simp] theorem exec_invRange (q) (s) : exec (.invRange q) s = execInvRange q s := rfl
@[simp] theorem exec_handleArm (q) (s) : exec (.handleArm q) s = execHandleArm q s := rfl
@[simp] theorem exec_ctxCreate (q) (s) : exec (.ctxCreate q) s = execCtxCreate q s := rfl
@[simp] theorem exec_ctxDestroy (q) (s) : exec (.ctxDestroy q) s = execCtxDestroy q s := rfl
@[simp] theorem exec_queueCreate (q) (s) : exec (.queueCreate q) s = execQueueCreate q s := rfl
@[simp] theorem exec_queueDestroy (q) (s) : exec (.queueDestroy q) s = execQueueDestroy q s := rfl
@[simp] theorem exec_move (q) (s) : exec (.move q) s = execMove q s := rfl
@[simp] theorem exec_invTag (q) (s) : exec (.invTag q) s = execInvTag q s := rfl
@[simp] theorem exec_bar2Access (off acc) (s) : exec (.bar2Access off acc) s = execBar2Access off acc s := rfl
@[simp] theorem exec_contextWindowAccess (fn off acc) (s) : exec (.contextWindowAccess fn off acc) s = execContextWindowAccess fn off acc s := rfl
@[simp] theorem exec_configRequest (fn) (s) : exec (.configRequest fn) s = execConfigRequest fn s := rfl
@[simp] theorem exec_d3hotEntry (fn) (s) : exec (.d3hotEntry fn) s = execD3hotEntry fn s := rfl
@[simp] theorem exec_d0Return (fn) (s) : exec (.d0Return fn) s = execD0Return fn s := rfl
@[simp] theorem exec_vfFlr (fn) (s) : exec (.vfFlr fn) s = execVfFlr fn s := rfl
@[simp] theorem exec_pfFlr (s) : exec (.pfFlr) s = execPfFlr s := rfl
@[simp] theorem exec_ptAccFill (s) : exec (.ptAccFill) s = execPtAccFill s := rfl
@[simp] theorem exec_ptAccArm (s) : exec (.ptAccArm) s = execPtAccArm s := rfl
@[simp] theorem exec_ptAccDisarm (s) : exec (.ptAccDisarm) s = execPtAccDisarm s := rfl
@[simp] theorem exec_accessTableFillDone (ecc) (s) : exec (.accessTableFillDone ecc) s = execAccessTableFillDone ecc s := rfl
@[simp] theorem exec_ptPreempt (value) (s) : exec (.ptPreempt value) s = execPtPreempt value s := rfl
@[simp] theorem exec_preemptSaveDone (ctx) (s) : exec (.preemptSaveDone ctx) s = execPreemptSaveDone ctx s := rfl
@[simp] theorem exec_restoreDone (ctx) (s) : exec (.restoreDone ctx) s = execRestoreDone ctx s := rfl
@[simp] theorem exec_portEnable (n) (s) : exec (.portEnable n) s = execPortEnable n s := rfl
@[simp] theorem exec_portDisable (n) (s) : exec (.portDisable n) s = execPortDisable n s := rfl
@[simp] theorem exec_retrain (n) (s) : exec (.retrain n) s = execRetrain n s := rfl
@[simp] theorem exec_portTrainingDone (n ok) (s) : exec (.portTrainingDone n ok) s = execPortTrainingDone n ok s := rfl
@[simp] theorem exec_portAutoRetrain (n within1s) (s) : exec (.portAutoRetrain n within1s) s = execPortAutoRetrain n within1s s := rfl
@[simp] theorem exec_write (n p) (s) : exec (.write n p) s = execWrite n p s := rfl
@[simp] theorem exec_read (n p) (s) : exec (.read n p) s = execRead n p s := rfl
@[simp] theorem exec_atomic (n p) (s) : exec (.atomic n p) s = execAtomic n p s := rfl
@[simp] theorem exec_ack (n p) (s) : exec (.ack n p) s = execAck n p s := rfl
@[simp] theorem exec_data (n p) (s) : exec (.data n p) s = execData n p s := rfl
@[simp] theorem exec_result (n p) (s) : exec (.result n p) s = execResult n p s := rfl
@[simp] theorem exec_nack (n p) (s) : exec (.nack n p) s = execNack n p s := rfl
@[simp] theorem exec_credit (n p) (s) : exec (.credit n p) s = execCredit n p s := rfl
@[simp] theorem exec_retry (n p) (s) : exec (.retry n p) s = execRetry n p s := rfl
@[simp] theorem exec_init (n p) (s) : exec (.init n p) s = execInit n p s := rfl
@[simp] theorem exec_tickSymbol (t16) (s) : exec (.tickSymbol t16) s = execTickSymbol t16 s := rfl
@[simp] theorem exec_tickInfo (f) (s) : exec (.tickInfo f) s = execTickInfo f s := rfl
@[simp] theorem exec_normal (f) (s) : exec (.normal f) s = execNormal f s := rfl
@[simp] theorem exec_census (f) (s) : exec (.census f) s = execCensus f s := rfl
@[simp] theorem exec_survey (f) (s) : exec (.survey f) s = execSurvey f s := rfl
@[simp] theorem exec_surveyHopDone (hop16) (s) : exec (.surveyHopDone hop16) s = execSurveyHopDone hop16 s := rfl
@[simp] theorem exec_censusDue (s) : exec (.censusDue) s = execCensusDue s := rfl
@[simp] theorem exec_mgmtCellTimeout (src seq) (s) : exec (.mgmtCellTimeout src seq) s = execMgmtCellTimeout src seq s := rfl
@[simp] theorem exec_dictRead (t req) (s) : exec (.dictRead t req) s = execDictRead t req s := rfl
@[simp] theorem exec_dictWrite (t req) (s) : exec (.dictWrite t req) s = execDictWrite t req s := rfl
@[simp] theorem exec_readSet (t req) (s) : exec (.readSet t req) s = execReadSet t req s := rfl
@[simp] theorem exec_describe (t req) (s) : exec (.describe t req) s = execDescribe t req s := rfl
@[simp] theorem exec_setEndpointId (b m) (s) : exec (.setEndpointId b m) s = execSetEndpointId b m s := rfl
@[simp] theorem exec_getEndpointId (b m) (s) : exec (.getEndpointId b m) s = execGetEndpointId b m s := rfl
@[simp] theorem exec_getMctpVersionSupport (b m) (s) : exec (.getMctpVersionSupport b m) s = execGetMctpVersionSupport b m s := rfl
@[simp] theorem exec_getMessageTypeSupport (b m) (s) : exec (.getMessageTypeSupport b m) s = execGetMessageTypeSupport b m s := rfl
@[simp] theorem exec_getVendorDefinedMsgSupport (b m) (s) : exec (.getVendorDefinedMsgSupport b m) s = execGetVendorDefinedMsgSupport b m s := rfl
@[simp] theorem exec_entdaa (addr) (s) : exec (.entdaa addr) s = execEntdaa addr s := rfl
@[simp] theorem exec_calendarEnd (s) : exec (.calendarEnd) s = execCalendarEnd s := rfl
@[simp] theorem exec_monitorWindowEnd (count) (s) : exec (.monitorWindowEnd count) s = execMonitorWindowEnd count s := rfl
@[simp] theorem exec_pllUnlock (s) : exec (.pllUnlock) s = execPllUnlock s := rfl
@[simp] theorem exec_oscFail (s) : exec (.oscFail) s = execOscFail s := rfl
@[simp] theorem exec_oscillatorStable (s) : exec (.oscillatorStable) s = execOscillatorStable s := rfl
@[simp] theorem exec_referenceStable (s) : exec (.referenceStable) s = execReferenceStable s := rfl
@[simp] theorem exec_pllLocked (pll) (s) : exec (.pllLocked pll) s = execPllLocked pll s := rfl
@[simp] theorem exec_resume (value) (s) : exec (.resume value) s = execResume value s := rfl
@[simp] theorem exec_ckGateStack (value) (s) : exec (.ckGateStack value) s = execCkGateStack value s := rfl
@[simp] theorem exec_ckGateSr (value) (s) : exec (.ckGateSr value) s = execCkGateSr value s := rfl
@[simp] theorem exec_ckGatePort (value) (s) : exec (.ckGatePort value) s = execCkGatePort value s := rfl
@[simp] theorem exec_ckGateMisc (value) (s) : exec (.ckGateMisc value) s = execCkGateMisc value s := rfl
@[simp] theorem exec_powerApplied (s) : exec (.powerApplied) s = execPowerApplied s := rfl
@[simp] theorem exec_inputFault (s) : exec (.inputFault) s = execInputFault s := rfl
@[simp] theorem exec_inputRestored (s) : exec (.inputRestored) s = execInputRestored s := rfl
@[simp] theorem exec_railPowerGood (s) : exec (.railPowerGood) s = execRailPowerGood s := rfl
@[simp] theorem exec_railTimeout (s) : exec (.railTimeout) s = execRailTimeout s := rfl
@[simp] theorem exec_railRetry (s) : exec (.railRetry) s = execRailRetry s := rfl
@[simp] theorem exec_railSample (m) (s) : exec (.railSample m) s = execRailSample m s := rfl
@[simp] theorem exec_junctionSample (die temp sustained) (s) : exec (.junctionSample die temp sustained) s = execJunctionSample die temp sustained s := rfl
@[simp] theorem exec_tripRestartDelay (s) : exec (.tripRestartDelay) s = execTripRestartDelay s := rfl
@[simp] theorem exec_modReset (s) : exec (.modReset) s = execModReset s := rfl
@[simp] theorem exec_modResetRelease (s) : exec (.modResetRelease) s = execModResetRelease s := rfl
@[simp] theorem exec_perstAssert (s) : exec (.perstAssert) s = execPerstAssert s := rfl
@[simp] theorem exec_perstDeassert (s) : exec (.perstDeassert) s = execPerstDeassert s := rfl
@[simp] theorem exec_flEn (asserted) (s) : exec (.flEn asserted) s = execFlEn asserted s := rfl
@[simp] theorem exec_resetCtrlWarm (value) (s) : exec (.resetCtrlWarm value) s = execResetCtrlWarm value s := rfl
@[simp] theorem exec_quiesceDone (s) : exec (.quiesceDone) s = execQuiesceDone s := rfl
@[simp] theorem exec_partitionReset (value) (s) : exec (.partitionReset value) s = execPartitionReset value s := rfl
@[simp] theorem exec_partitionResetDone (s) : exec (.partitionResetDone) s = execPartitionResetDone s := rfl
@[simp] theorem exec_contextReset (value) (s) : exec (.contextReset value) s = execContextReset value s := rfl
@[simp] theorem exec_fuseLoadDone (f) (s) : exec (.fuseLoadDone f) s = execFuseLoadDone f s := rfl
@[simp] theorem exec_imageVerifyDone (img) (s) : exec (.imageVerifyDone img) s = execImageVerifyDone img s := rfl
@[simp] theorem exec_stackTrained (stack ok) (s) : exec (.stackTrained stack ok) s = execStackTrained stack ok s := rfl
@[simp] theorem exec_srPackageTrained (pkg ok) (s) : exec (.srPackageTrained pkg ok) s = execSrPackageTrained pkg ok s := rfl
@[simp] theorem exec_invalidateDone (s) : exec (.invalidateDone) s = execInvalidateDone s := rfl
@[simp] theorem exec_dictionaryOnline (s) : exec (.dictionaryOnline) s = execDictionaryOnline s := rfl
@[simp] theorem exec_ringJoinTimeout (s) : exec (.ringJoinTimeout) s = execRingJoinTimeout s := rfl
@[simp] theorem exec_sampleBufferDrain (core) (s) : exec (.sampleBufferDrain core) s = execSampleBufferDrain core s := rfl
@[simp] theorem exec_histogramClear (s) : exec (.histogramClear) s = execHistogramClear s := rfl
@[simp] theorem exec_mcCelErrRead (stack r) (s) : exec (.mcCelErrRead stack r) s = execMcCelErrRead stack r s := rfl
@[simp] theorem exec_mcStkErrRead (stack r) (s) : exec (.mcStkErrRead stack r) s = execMcStkErrRead stack r s := rfl
@[simp] theorem exec_mcSrStatusRead (pkg r) (s) : exec (.mcSrStatusRead pkg r) s = execMcSrStatusRead pkg r s := rfl
@[simp] theorem exec_mcSrErrRead (pkg r) (s) : exec (.mcSrErrRead pkg r) s = execMcSrErrRead pkg r s := rfl
@[simp] theorem exec_mcAtcErrRead (slice r) (s) : exec (.mcAtcErrRead slice r) s = execMcAtcErrRead slice r s := rfl
@[simp] theorem exec_fbPortErrRead (n r) (s) : exec (.fbPortErrRead n r) s = execFbPortErrRead n r s := rfl
@[simp] theorem exec_ptPoolEventRead (p r) (s) : exec (.ptPoolEventRead p r) s = execPtPoolEventRead p r s := rfl
@[simp] theorem exec_obGustsRead (die r) (s) : exec (.obGustsRead die r) s = execObGustsRead die r s := rfl
@[simp] theorem exec_obHeldRead (die r) (s) : exec (.obHeldRead die r) s = execObHeldRead die r s := rfl
@[simp] theorem exec_obWaitNsRead (die r) (s) : exec (.obWaitNsRead die r) s = execObWaitNsRead die r s := rfl
@[simp] theorem exec_registerWrite (fn off width value) (s) : exec (.registerWrite fn off width value) s = execRegisterWrite fn off width value s := rfl
@[simp] theorem exec_bypass (s) : exec (.bypass) s = execBypass s := rfl
@[simp] theorem exec_idcode (s) : exec (.idcode) s = execIdcode s := rfl
@[simp] theorem exec_samplePreload (s) : exec (.samplePreload) s = execSamplePreload s := rfl
@[simp] theorem exec_extest (s) : exec (.extest) s = execExtest s := rfl
@[simp] theorem exec_stackLinkError (stack cleared) (s) : exec (.stackLinkError stack cleared) s = execStackLinkError stack cleared s := rfl
@[simp] theorem exec_packetDrop (n why) (s) : exec (.packetDrop n why) s = execPacketDrop n why s := rfl
@[simp] theorem exec_surveyEcho (s) : exec (.surveyEcho) s = execSurveyEcho s := rfl

end Sys2Proof.Machine
end

