-- ==== Sys2Proof/Laws/Memory.lean ====
section
/-!
SUPPORT. Laws of keyed lists and of memory: a read after a write, and that every write keeps the canonical form (R213, log
entry 2).
-/

namespace Sys2Proof.Machine

section Keyed

variable {α : Type}

/-- A key below every key of the list. -/
def Below (k : Nat) (m : Assoc α) : Prop := ∀ e ∈ m, k < e.1

theorem keysRise_cons (e : Nat × α) (m : Assoc α) : keysRise (e :: m) = true ↔ Below e.1 m ∧ keysRise m = true := by
  induction m generalizing e with
  | nil => simp [keysRise, Below]
  | cons y t ih =>
    obtain ⟨k, v⟩ := e
    obtain ⟨k', v'⟩ := y
    simp only [keysRise, Bool.and_eq_true, decide_eq_true_eq]
    constructor
    · rintro ⟨h, ht⟩
      refine ⟨fun e he => ?_, ht⟩
      rcases List.mem_cons.mp he with rfl | he
      · exact h
      · exact Nat.lt_trans h (((ih (k', v')).mp ht).1 e he)
    · rintro ⟨h, ht⟩
      exact ⟨h _ List.mem_cons_self, ht⟩

theorem keysRise_filter (p : Nat × α → Bool) (m : Assoc α) (h : keysRise m = true) : keysRise (m.filter p) = true := by
  induction m with
  | nil => rfl
  | cons e t ih =>
    rw [keysRise_cons] at h
    by_cases hp : p e = true
    · rw [List.filter_cons_of_pos hp, keysRise_cons]
      exact ⟨fun x hx => h.1 x ((List.mem_filter.mp hx).1), ih h.2⟩
    · rw [List.filter_cons_of_neg hp]
      exact ih h.2

theorem mem_insert {m : Assoc α} {k : Nat} {v : α} {e : Nat × α} (h : e ∈ insert m k v) : e = (k, v) ∨ e ∈ m := by
  induction m with
  | nil => simpa [insert] using h
  | cons y t ih =>
    obtain ⟨k', v'⟩ := y
    simp only [insert] at h
    split at h
    · rcases List.mem_cons.mp h with h | h
      · exact .inl h
      · exact .inr h
    · split at h
      · rcases List.mem_cons.mp h with h | h
        · exact .inl h
        · exact .inr (List.mem_cons_of_mem _ h)
      · rcases List.mem_cons.mp h with h | h
        · exact .inr (h ▸ List.mem_cons_self)
        · exact (ih h).imp id (List.mem_cons_of_mem _)

theorem keysRise_insert (m : Assoc α) (k : Nat) (v : α) (h : keysRise m = true) : keysRise (insert m k v) = true := by
  induction m with
  | nil => rfl
  | cons y t ih =>
    obtain ⟨k', v'⟩ := y
    rw [keysRise_cons] at h
    simp only [insert]
    split
    · rename_i hlt
      rw [keysRise_cons, keysRise_cons]
      refine ⟨fun e he => ?_, h⟩
      rcases List.mem_cons.mp he with rfl | he
      · exact hlt
      · exact Nat.lt_trans hlt (h.1 e he)
    · split
      · rename_i heq
        rw [keysRise_cons]
        exact ⟨heq ▸ h.1, h.2⟩
      · rename_i hlt hne
        rw [keysRise_cons]
        refine ⟨fun e he => ?_, ih h.2⟩
        rcases mem_insert he with rfl | he
        · exact Nat.lt_of_le_of_ne (Nat.not_lt.mp hlt) hne
        · exact h.1 e he

theorem keysRise_erase (m : Assoc α) (k : Nat) (h : keysRise m = true) : keysRise (erase m k) = true :=
  keysRise_filter _ m h

/-- What was written is read. -/
@[simp] theorem find_insert_self (m : Assoc α) (k : Nat) (v : α) : find (insert m k v) k = some v := by
  induction m with
  | nil => simp [insert, find]
  | cons y t ih =>
    obtain ⟨k', v'⟩ := y
    simp only [insert]
    split
    · simp [find]
    · split
      · simp [find]
      · rename_i hne
        simp [find, hne, ih]

/-- A write leaves every other key alone. -/
@[simp] theorem find_insert_ne (m : Assoc α) {k k' : Nat} (v : α) (h : k' ≠ k) : find (insert m k v) k' = find m k' := by
  induction m with
  | nil => simp [insert, find, Ne.symm h]
  | cons y t ih =>
    obtain ⟨j, u⟩ := y
    simp only [insert]
    split
    · simp [find, Ne.symm h]
    · split
      · rename_i heq
        subst heq
        simp [find, Ne.symm h]
      · simp [find, ih]

@[simp] theorem find_erase_self (m : Assoc α) (k : Nat) : find (erase m k) k = none := by
  induction m with
  | nil => rfl
  | cons y t ih =>
    obtain ⟨j, u⟩ := y
    by_cases hj : j = k
    · simpa [erase, hj] using ih
    · simpa [erase, hj, find] using ih

@[simp] theorem find_erase_ne (m : Assoc α) {k k' : Nat} (h : k' ≠ k) : find (erase m k) k' = find m k' := by
  induction m with
  | nil => rfl
  | cons y t ih =>
    obtain ⟨j, u⟩ := y
    by_cases hj : j = k
    · subst hj
      simpa [erase, find, Ne.symm h] using ih
    · by_cases hk : j = k'
      · subst hk
        simp [erase, find, h]
      · simpa [erase, hj, find, hk] using ih

@[simp] theorem getD_putD_self [DecidableEq α] (d : α) (m : Assoc α) (k : Nat) (v : α) : getD d (putD d m k v) k = v := by
  unfold putD getD
  split <;> simp_all

@[simp] theorem getD_putD_ne [DecidableEq α] (d d' : α) (m : Assoc α) {k k' : Nat} (v : α) (h : k' ≠ k) :
    getD d' (putD d m k v) k' = getD d' m k' := by
  unfold putD getD
  split <;> simp [h]

end Keyed

/-! The canonical form. -/

theorem wf_iff (m : List Host.Cell) : Memory.wf m = true ↔ keysRise m = true ∧ ∀ e ∈ m, e.2 ≠ unwritten := by
  simp [Memory.wf]

theorem wf_filter (p : Host.Cell → Bool) {m : List Host.Cell} (h : Memory.wf m = true) : Memory.wf (m.filter p) = true := by
  rw [wf_iff] at *
  exact ⟨keysRise_filter p m h.1, fun e he => h.2 e ((List.mem_filter.mp he).1)⟩

theorem wf_putD {m : List Host.Cell} (k : Nat) (v : Byte) (h : Memory.wf m = true) :
    Memory.wf (putD unwritten m k v) = true := by
  unfold putD
  split
  · exact wf_filter _ h
  · rename_i hv
    rw [wf_iff] at *
    refine ⟨keysRise_insert m k v h.1, fun e he => ?_⟩
    rcases mem_insert he with rfl | he
    · exact hv
    · exact h.2 e he

theorem wf_writeCells {m : List Host.Cell} (a : Nat) (b : List Byte) (h : Memory.wf m = true) :
    Memory.wf (writeCells m a b) = true := by
  induction b generalizing m a with
  | nil => exact h
  | cons x t ih => exact ih (a + 1) (wf_putD a x h)

theorem wf_writeAround {m : List Host.Cell} (u : Nat) (bad : List Nat) (a : Nat) (b : List Byte)
    (h : Memory.wf m = true) : Memory.wf (writeAround m u bad a b) = true := by
  induction b generalizing m a with
  | nil => exact h
  | cons x t ih =>
    unfold writeAround
    split
    · exact ih (a + 1) h
    · exact ih (a + 1) (wf_putD a x h)

/-- A byte that a write covers reads as written. -/
theorem getD_writeCells_in (m : List Host.Cell) (a : Nat) (b : List Byte) (i : Nat) (h : i < b.length) :
    getD unwritten (writeCells m a b) (a + i) = b[i] := by
  induction b generalizing m a i with
  | nil => simp at h
  | cons x t ih =>
    cases i with
    | zero =>
      have step : ∀ (t : List Byte) (m : List Host.Cell) (c : Nat), a < c →
          getD unwritten (writeCells m c t) a = getD unwritten m a := by
        intro t
        induction t with
        | nil => intros; rfl
        | cons y t ih =>
          intro m c hc
          rw [writeCells, ih _ _ (Nat.lt_succ_of_lt hc), getD_putD_ne _ _ _ _ (Nat.ne_of_lt hc)]
      simp [writeCells, step t _ (a + 1) (Nat.lt_succ_self a)]
    | succ i =>
      have := ih (putD unwritten m a x) (a + 1) i (by simpa using h)
      rw [writeCells, show a + (i + 1) = a + 1 + i by omega, this]
      rfl

/-- A byte outside a write reads as before. -/
theorem getD_writeCells_out (m : List Host.Cell) (a : Nat) (b : List Byte) (c : Nat) (h : c < a ∨ a + b.length ≤ c) :
    getD unwritten (writeCells m a b) c = getD unwritten m c := by
  induction b generalizing m a with
  | nil => rfl
  | cons x t ih =>
    rw [writeCells, ih]
    · exact getD_putD_ne _ _ _ _ (by simp only [List.length_cons] at h; omega)
    · simp only [List.length_cons] at h; omega

/-- Bytes written are read back. -/
theorem readCells_writeCells (m : List Host.Cell) (a : Nat) (b : List Byte) :
    readCells (writeCells m a b) a b.length = b := by
  apply List.ext_getElem
  · simp [readCells]
  · intro i h1 h2
    simp [readCells, getD_writeCells_in m a b i h2]

end Sys2Proof.Machine
end

