-- ==== Sys2Proof/Laws/Flow.lean ====
section
/-!
SUPPORT. What every operation leaves true: `Flow M s t` says that t can follow s. What has left the module stays sent, the free
values that were used stay used, both memories keep their canonical form, and no part of the state differs but those whose bits
are set in M. Unless bit 31 of M is set, no loss that an error of memory makes due is left to be made (R223), and unless bit 32 is, no
stack is in a better state (R222 to R224).
-/

namespace Sys2Proof.Machine

set_option Elab.async false

/-- The bits of a are among those of M. -/
def Within (a M : Nat) : Prop := ∀ i, a.testBit i = true → M.testBit i = true

theorem Within.of {a b M : Nat} (h : Within a M) (e : b &&& a = b) : Within b M := fun i hb => h i (by
  rw [← e, Nat.testBit_and, Bool.and_eq_true] at hb
  exact hb.2)

theorem Within.bit {a M i : Nat} (h : Within a M) (e : a.testBit i = true) : M.testBit i = true := h i e

theorem Within.refl (M : Nat) : Within M M := fun _ h => h

/-- t can follow s, with no part but those of M changed. -/
structure Flow (M : Nat) (s t : State) : Prop where
  free    : s.freeSeq ≤ t.freeSeq
  sent    : s.sent <+: t.sent
  bytes   : Memory.wf s.mem.bytes = true → Memory.wf t.mem.bytes = true
  host    : Memory.wf s.mem.host = true → Memory.wf t.mem.host = true
  parts   : ∀ p : StatePart, M.testBit p.idx = false → p.same s t
  due     : M.testBit 31 = false → s.mem.due = [] → t.mem.due = []
  worse   : M.testBit 32 = false → ∀ st, NoBetter (stackSt s st) (stackSt t st)

theorem NoBetter.refl (k : StackSt) : NoBetter k k := ⟨id, id, List.prefix_refl _⟩

theorem NoBetter.trans {k l m : StackSt} (a : NoBetter k l) (b : NoBetter l m) : NoBetter k m :=
  ⟨b.online ∘ a.online, b.offline ∘ a.offline, a.retire.trans b.retire⟩

theorem NoBetter.of_eq {k l : StackSt} (e : l = k) : NoBetter k l := e ▸ .refl _

/-- Stacks that are as they were are no better. -/
theorem NoBetter.same {s t : State} (e : t.mem.stackSts = s.mem.stackSts) (st : Nat) : NoBetter (stackSt s st) (stackSt t st) := by
  exact .of_eq (by unfold stackSt; rw [e])

theorem StatePart.same_refl (p : StatePart) (s : State) : p.same s s := by cases p <;> rfl

theorem StatePart.same_trans {p : StatePart} {s t u : State} (a : p.same s t) (b : p.same t u) : p.same s u := by
  cases p <;> exact Eq.trans b a

theorem Flow.refl (M : Nat) (s : State) : Flow M s s :=
  ⟨Nat.le_refl _, List.prefix_refl _, id, id, fun p _ => p.same_refl s, fun _ => id, fun _ _ => .refl _⟩

theorem Flow.andThen {M : Nat} {s t u : State} (a : Flow M s t) (b : Flow M t u) : Flow M s u :=
  ⟨Nat.le_trans a.free b.free, a.sent.trans b.sent, b.bytes ∘ a.bytes, b.host ∘ a.host,
    fun p h => StatePart.same_trans (a.parts p h) (b.parts p h), fun h => b.due h ∘ a.due h,
    fun h st => (a.worse h st).trans (b.worse h st)⟩

/-- A change of parts of M, none of which `Flow` reads. -/
theorem Flow.chg {M : Nat} {z s t : State} (h : Flow M z s) (hf : t.freeSeq = s.freeSeq) (hs : t.sent = s.sent)
    (hb : t.mem.bytes = s.mem.bytes) (hh : t.mem.host = s.mem.host)
    (hd : t.mem.due = s.mem.due) (hk : t.mem.stackSts = s.mem.stackSts)
    (hp : ∀ p : StatePart, M.testBit p.idx = false → p.same s t) : Flow M z t :=
  h.andThen ⟨Nat.le_of_eq hf.symm, hs ▸ List.prefix_refl _, fun w => hb ▸ w, fun w => hh ▸ w, hp, fun _ e => hd.trans e,
    fun _ => NoBetter.same hk⟩

/-- M, with losses left due on the way (bit 31). -/
abbrev raw (M : Nat) : Nat := M ||| 0x80000000

theorem raw_bit {M : Nat} : (raw M).testBit 31 = true := by
  rw [Nat.testBit_or, Bool.or_eq_true]
  exact .inr (by decide)

theorem Within.raw {a b M : Nat} (h : Within a M) (e : b &&& (a ||| 0x80000000) = b) : Within b (raw M) := fun i hb => by
  have hi : (b &&& (a ||| 0x80000000)).testBit i = true := by
    rw [e]
    exact hb
  rw [Nat.testBit_and, Nat.testBit_or, Bool.and_eq_true, Bool.or_eq_true] at hi
  rw [Nat.testBit_or, Bool.or_eq_true]
  exact hi.2.imp (h i) id

theorem Flow.raw {M : Nat} {s t : State} (h : Flow M s t) : Flow (raw M) s t :=
  ⟨h.free, h.sent, h.bytes, h.host, fun p e => h.parts p (by rw [Nat.testBit_or] at e; exact (Bool.or_eq_false_iff.mp e).1),
    fun e => absurd raw_bit (ne_true_of_eq_false e),
    fun e => h.worse (by rw [Nat.testBit_or] at e; exact (Bool.or_eq_false_iff.mp e).1)⟩

/-- What ends with no loss due is as if none had been. -/
theorem Flow.settled {M : Nat} {s t : State} (h : Flow (Machine.raw M) s t) (e : t.mem.due = []) : Flow M s t :=
  ⟨h.free, h.sent, h.bytes, h.host, fun p hp => h.parts p (by
    rw [Nat.testBit_or, hp]
    cases p <;> rfl), fun _ _ => e, fun e => h.worse (by
    rw [Nat.testBit_or, e]
    rfl)⟩

/-- A next state that an outcome answers can follow z. -/
def FlowR (M : Nat) (z : State) (r : Res) : Prop := ∀ t, r = .next t → Flow M z t

theorem flowR_next {M : Nat} {z s : State} (h : Flow M z s) : FlowR M z (.next s) := fun _ e => by cases e; exact h
theorem flowR_refused {M : Nat} {z : State} (r : Refusal) : FlowR M z (.refused r) := fun _ e => nomatch e
theorem flowR_fault {M : Nat} {z : State} (r : Fault) : FlowR M z (.fault r) := fun _ e => nomatch e

/-- The state of a pair that was taken apart. -/
theorem flow_snd {M : Nat} {α : Type} {z t : State} {p : α × State} {a : α} (e : p = (a, t)) (h : Flow M z p.2) : Flow M z t := by
  subst e; exact h

theorem flow_fst {M : Nat} {α : Type} {z t : State} {p : State × α} {a : α} (e : p = (t, a)) (h : Flow M z p.1) : Flow M z t := by
  subst e; exact h

theorem flow_foldl {M : Nat} {α : Type} {z s : State} {f : State → α → State} {l : List α}
    (hf : ∀ s a, Flow M z s → Flow M z (f s a)) (h : Flow M z s) : Flow M z (l.foldl f s) := by
  induction l generalizing s with
  | nil => exact h
  | cons a t ih => exact ih (hf s a h)

theorem flow_foldr {M : Nat} {α : Type} {z s : State} {f : α → State → State} {l : List α}
    (hf : ∀ s a, Flow M z s → Flow M z (f a s)) (h : Flow M z s) : Flow M z (l.foldr f s) := by
  induction l with
  | nil => exact h
  | cons a t ih => exact hf _ a ih

/-- A fold that carries the state with something else. -/
theorem flow_foldl_fst {M : Nat} {α β : Type} {z : State} {f : State × β → α → State × β} {l : List α} {x : State × β}
    (hf : ∀ x a, Flow M z x.1 → Flow M z (f x a).1) (h : Flow M z x.1) : Flow M z (l.foldl f x).1 := by
  induction l generalizing x with
  | nil => exact h
  | cons a t ih => exact ih (hf x a h)

theorem flow_foldl_snd {M : Nat} {α β : Type} {z : State} {f : β × State → α → β × State} {l : List α} {x : β × State}
    (hf : ∀ x a, Flow M z x.2 → Flow M z (f x a).2) (h : Flow M z x.2) : Flow M z (l.foldl f x).2 := by
  induction l generalizing x with
  | nil => exact h
  | cons a t ih => exact ih (hf x a h)

theorem flow_foldl_st {M : Nat} {α : Type} {z : State} {f : MemOut → α → MemOut} {l : List α} {x : MemOut}
    (hf : ∀ x a, Flow M z x.st → Flow M z (f x a).st) (h : Flow M z x.st) : Flow M z (l.foldl f x).st := by
  induction l generalizing x with
  | nil => exact h
  | cons a t ih => exact ih (hf x a h)

theorem flow_foldl_fst_st {M : Nat} {α β : Type} {z : State} {f : MemOut × β → α → MemOut × β} {l : List α} {x : MemOut × β}
    (hf : ∀ x a, Flow M z x.1.st → Flow M z (f x a).1.st) (h : Flow M z x.1.st) : Flow M z (l.foldl f x).1.st := by
  induction l generalizing x with
  | nil => exact h
  | cons a t ih => exact ih (hf x a h)

theorem flow_foldl_snd_st {M : Nat} {α β : Type} {z : State} {f : β × MemOut → α → β × MemOut} {l : List α} {x : β × MemOut}
    (hf : ∀ x a, Flow M z x.2.st → Flow M z (f x a).2.st) (h : Flow M z x.2.st) : Flow M z (l.foldl f x).2.st := by
  induction l generalizing x with
  | nil => exact h
  | cons a t ih => exact ih (hf x a h)

theorem flow_getD {M : Nat} {z s : State} {o : Option State} (ho : ∀ t, o = some t → Flow M z t) (h : Flow M z s) :
    Flow M z (o.getD s) := by
  cases o with
  | none => exact h
  | some t => exact ho t rfl

/-- An update of several fields, none of which `Flow` reads. -/
theorem flow_mk {M : Nat} {z s : State} (h : Flow M z s) {regs vfRegs tick dict ring ports clock power govs part front ctxs queues
    subs trans cellars cores hist pins}
    (hregs : regs = s.regs ∨ M.testBit 2 = true := by first | exact .inl rfl | exact .inr (Within.bit (by assumption) (by decide)))
    (hvfRegs : vfRegs = s.vfRegs ∨ M.testBit 3 = true := by first | exact .inl rfl | exact .inr (Within.bit (by assumption) (by decide)))
    (htick : tick = s.tick ∨ M.testBit 4 = true := by first | exact .inl rfl | exact .inr (Within.bit (by assumption) (by decide)))
    (hdict : dict = s.dict ∨ M.testBit 5 = true := by first | exact .inl rfl | exact .inr (Within.bit (by assumption) (by decide)))
    (hring : ring = s.ring ∨ M.testBit 6 = true := by first | exact .inl rfl | exact .inr (Within.bit (by assumption) (by decide)))
    (hports : ports = s.ports ∨ M.testBit 7 = true := by first | exact .inl rfl | exact .inr (Within.bit (by assumption) (by decide)))
    (hclock : clock = s.clock ∨ M.testBit 8 = true := by first | exact .inl rfl | exact .inr (Within.bit (by assumption) (by decide)))
    (hpower : power = s.power ∨ M.testBit 9 = true := by first | exact .inl rfl | exact .inr (Within.bit (by assumption) (by decide)))
    (hgovs : govs = s.govs ∨ M.testBit 10 = true := by first | exact .inl rfl | exact .inr (Within.bit (by assumption) (by decide)))
    (hpart : part = s.part ∨ M.testBit 11 = true := by first | exact .inl rfl | exact .inr (Within.bit (by assumption) (by decide)))
    (hfront : front = s.front ∨ M.testBit 12 = true := by first | exact .inl rfl | exact .inr (Within.bit (by assumption) (by decide)))
    (hctxs : ctxs = s.ctxs ∨ M.testBit 13 = true := by first | exact .inl rfl | exact .inr (Within.bit (by assumption) (by decide)))
    (hqueues : queues = s.queues ∨ M.testBit 14 = true := by first | exact .inl rfl | exact .inr (Within.bit (by assumption) (by decide)))
    (hsubs : subs = s.subs ∨ M.testBit 15 = true := by first | exact .inl rfl | exact .inr (Within.bit (by assumption) (by decide)))
    (htrans : trans = s.trans ∨ M.testBit 16 = true := by first | exact .inl rfl | exact .inr (Within.bit (by assumption) (by decide)))
    (hcellars : cellars = s.cellars ∨ M.testBit 25 = true := by first | exact .inl rfl | exact .inr (Within.bit (by assumption) (by decide)))
    (hcores : cores = s.cores ∨ M.testBit 26 = true := by first | exact .inl rfl | exact .inr (Within.bit (by assumption) (by decide)))
    (hhist : hist = s.hist ∨ M.testBit 27 = true := by first | exact .inl rfl | exact .inr (Within.bit (by assumption) (by decide)))
    (hpins : pins = s.pins ∨ M.testBit 28 = true := by first | exact .inl rfl | exact .inr (Within.bit (by assumption) (by decide))) :
    Flow M z ⟨s.pending, s.freeSeq, regs, vfRegs, tick, dict, ring, ports, clock, power, govs, part, front, ctxs, queues, subs,
      trans, s.mem, cellars, cores, hist, pins, s.sent⟩ := by
  refine h.chg rfl rfl rfl rfl rfl rfl fun p hp => ?_
  cases p
  · rfl
  · rfl
  · exact hregs.resolve_right (ne_true_of_eq_false hp)
  · exact hvfRegs.resolve_right (ne_true_of_eq_false hp)
  · exact htick.resolve_right (ne_true_of_eq_false hp)
  · exact hdict.resolve_right (ne_true_of_eq_false hp)
  · exact hring.resolve_right (ne_true_of_eq_false hp)
  · exact hports.resolve_right (ne_true_of_eq_false hp)
  · exact hclock.resolve_right (ne_true_of_eq_false hp)
  · exact hpower.resolve_right (ne_true_of_eq_false hp)
  · exact hgovs.resolve_right (ne_true_of_eq_false hp)
  · exact hpart.resolve_right (ne_true_of_eq_false hp)
  · exact hfront.resolve_right (ne_true_of_eq_false hp)
  · exact hctxs.resolve_right (ne_true_of_eq_false hp)
  · exact hqueues.resolve_right (ne_true_of_eq_false hp)
  · exact hsubs.resolve_right (ne_true_of_eq_false hp)
  · exact htrans.resolve_right (ne_true_of_eq_false hp)
  · rfl
  · rfl
  · rfl
  · rfl
  · rfl
  · rfl
  · rfl
  · rfl
  · exact hcellars.resolve_right (ne_true_of_eq_false hp)
  · exact hcores.resolve_right (ne_true_of_eq_false hp)
  · exact hhist.resolve_right (ne_true_of_eq_false hp)
  · exact hpins.resolve_right (ne_true_of_eq_false hp)
  · rfl
  · rfl

/-- A change of one part. -/
theorem flow_one {M : Nat} {z s t : State} (q : StatePart) (hM : Within (2 ^ q.idx) M) (h : Flow M z s) (hf : t.freeSeq = s.freeSeq)
    (hs : t.sent = s.sent) (hb : t.mem.bytes = s.mem.bytes) (hh : t.mem.host = s.mem.host)
    (hd : t.mem.due = s.mem.due) (hk : t.mem.stackSts = s.mem.stackSts) (hp : ∀ p, p ≠ q → p.same s t) : Flow M z t :=
  h.chg hf hs hb hh hd hk fun p e => hp p (by
    rintro rfl
    exact ne_true_of_eq_false e (hM _ Nat.testBit_two_pow_self))

section
variable {M : Nat} {z s : State}

theorem flow_withRegs (hM : Within 0x4 M) (h : Flow M z s) (v) : Flow M z (s.withRegs v) :=
  flow_one .regs hM h rfl rfl rfl rfl rfl rfl fun p e => by cases p <;> first | rfl | exact absurd rfl e
theorem flow_withVfRegs (hM : Within 0x8 M) (h : Flow M z s) (v) : Flow M z (s.withVfRegs v) :=
  flow_one .vfRegs hM h rfl rfl rfl rfl rfl rfl fun p e => by cases p <;> first | rfl | exact absurd rfl e
theorem flow_withTick (hM : Within 0x10 M) (h : Flow M z s) (v) : Flow M z (s.withTick v) :=
  flow_one .tick hM h rfl rfl rfl rfl rfl rfl fun p e => by cases p <;> first | rfl | exact absurd rfl e
theorem flow_withDict (hM : Within 0x20 M) (h : Flow M z s) (v) : Flow M z (s.withDict v) :=
  flow_one .dict hM h rfl rfl rfl rfl rfl rfl fun p e => by cases p <;> first | rfl | exact absurd rfl e
theorem flow_withRing (hM : Within 0x40 M) (h : Flow M z s) (v) : Flow M z (s.withRing v) :=
  flow_one .ring hM h rfl rfl rfl rfl rfl rfl fun p e => by cases p <;> first | rfl | exact absurd rfl e
theorem flow_withPorts (hM : Within 0x80 M) (h : Flow M z s) (v) : Flow M z (s.withPorts v) :=
  flow_one .ports hM h rfl rfl rfl rfl rfl rfl fun p e => by cases p <;> first | rfl | exact absurd rfl e
theorem flow_withClock (hM : Within 0x100 M) (h : Flow M z s) (v) : Flow M z (s.withClock v) :=
  flow_one .clock hM h rfl rfl rfl rfl rfl rfl fun p e => by cases p <;> first | rfl | exact absurd rfl e
theorem flow_withPower (hM : Within 0x200 M) (h : Flow M z s) (v) : Flow M z (s.withPower v) :=
  flow_one .power hM h rfl rfl rfl rfl rfl rfl fun p e => by cases p <;> first | rfl | exact absurd rfl e
theorem flow_withGovs (hM : Within 0x400 M) (h : Flow M z s) (v) : Flow M z (s.withGovs v) :=
  flow_one .govs hM h rfl rfl rfl rfl rfl rfl fun p e => by cases p <;> first | rfl | exact absurd rfl e
theorem flow_withPart (hM : Within 0x800 M) (h : Flow M z s) (v) : Flow M z (s.withPart v) :=
  flow_one .part hM h rfl rfl rfl rfl rfl rfl fun p e => by cases p <;> first | rfl | exact absurd rfl e
theorem flow_withFront (hM : Within 0x1000 M) (h : Flow M z s) (v) : Flow M z (s.withFront v) :=
  flow_one .front hM h rfl rfl rfl rfl rfl rfl fun p e => by cases p <;> first | rfl | exact absurd rfl e
theorem flow_withCtxs (hM : Within 0x2000 M) (h : Flow M z s) (v) : Flow M z (s.withCtxs v) :=
  flow_one .ctxs hM h rfl rfl rfl rfl rfl rfl fun p e => by cases p <;> first | rfl | exact absurd rfl e
theorem flow_withQueues (hM : Within 0x4000 M) (h : Flow M z s) (v) : Flow M z (s.withQueues v) :=
  flow_one .queues hM h rfl rfl rfl rfl rfl rfl fun p e => by cases p <;> first | rfl | exact absurd rfl e
theorem flow_withSubs (hM : Within 0x8000 M) (h : Flow M z s) (v) : Flow M z (s.withSubs v) :=
  flow_one .subs hM h rfl rfl rfl rfl rfl rfl fun p e => by cases p <;> first | rfl | exact absurd rfl e
theorem flow_withTrans (hM : Within 0x10000 M) (h : Flow M z s) (v) : Flow M z (s.withTrans v) :=
  flow_one .trans hM h rfl rfl rfl rfl rfl rfl fun p e => by cases p <;> first | rfl | exact absurd rfl e
theorem flow_withCellars (hM : Within 0x2000000 M) (h : Flow M z s) (v) : Flow M z (s.withCellars v) :=
  flow_one .cellars hM h rfl rfl rfl rfl rfl rfl fun p e => by cases p <;> first | rfl | exact absurd rfl e
theorem flow_withCores (hM : Within 0x4000000 M) (h : Flow M z s) (v) : Flow M z (s.withCores v) :=
  flow_one .cores hM h rfl rfl rfl rfl rfl rfl fun p e => by cases p <;> first | rfl | exact absurd rfl e
theorem flow_withHist (hM : Within 0x8000000 M) (h : Flow M z s) (v) : Flow M z (s.withHist v) :=
  flow_one .hist hM h rfl rfl rfl rfl rfl rfl fun p e => by cases p <;> first | rfl | exact absurd rfl e
theorem flow_withPins (hM : Within 0x10000000 M) (h : Flow M z s) (v) : Flow M z (s.withPins v) :=
  flow_one .pins hM h rfl rfl rfl rfl rfl rfl fun p e => by cases p <;> first | rfl | exact absurd rfl e

/-- An update of the memory system that leaves both memories in their form. -/
theorem flow_withMem (h : Flow M z s) {v : MemSys} (hb : Memory.wf s.mem.bytes = true → Memory.wf v.bytes = true)
    (hh : Memory.wf s.mem.host = true → Memory.wf v.host = true)
    (hbytes : v.bytes = s.mem.bytes ∨ M.testBit 17 = true)
    (hhost : v.host = s.mem.host ∨ M.testBit 18 = true)
    (hpoison : v.poison = s.mem.poison ∨ M.testBit 19 = true)
    (hsrPoison : v.srPoison = s.mem.srPoison ∨ M.testBit 20 = true)
    (hstacks : v.stackSts = s.mem.stackSts ∨ M.testBit 21 = true)
    (hpkgs : v.pkgs = s.mem.pkgs ∨ M.testBit 22 = true)
    (hslices : v.slices = s.mem.slices ∨ M.testBit 23 = true)
    (hmoves : v.moves = s.mem.moves ∨ M.testBit 24 = true)
    (hdue : v.due = s.mem.due ∨ M.testBit 30 = true := by first | exact .inl rfl | exact .inr (Within.bit (by assumption) (by decide)))
    (hsettled : v.due = s.mem.due ∨ v.due = [] ∨ M.testBit 31 = true := by
      first | exact .inl rfl | exact .inr (.inl rfl) | exact .inr (.inr (Within.bit (by assumption) (by decide))))
    (hworse : v.stackSts = s.mem.stackSts ∨ M.testBit 32 = true ∨ ∀ st, NoBetter (stackSt s st) (stackSt (s.withMem v) st) := by
      first | exact .inl rfl | exact .inr (.inl (Within.bit (by assumption) (by decide)))) :
    Flow M z (s.withMem v) := by
  refine h.andThen ⟨Nat.le_refl _, List.prefix_refl _, hb, hh, fun p hp => ?_, fun e d => ?_, fun e => ?_⟩
  rotate_left 2
  · rcases hworse with x | x | x
    · exact NoBetter.same x
    · exact absurd x (ne_true_of_eq_false e)
    · exact x
  rotate_left
  · rcases hsettled with x | x | x
    · exact x.trans d
    · exact x
    · exact absurd x (ne_true_of_eq_false e)
  cases p
  · rfl
  · rfl
  · rfl
  · rfl
  · rfl
  · rfl
  · rfl
  · rfl
  · rfl
  · rfl
  · rfl
  · rfl
  · rfl
  · rfl
  · rfl
  · rfl
  · rfl
  · exact hbytes.resolve_right (ne_true_of_eq_false hp)
  · exact hhost.resolve_right (ne_true_of_eq_false hp)
  · exact hpoison.resolve_right (ne_true_of_eq_false hp)
  · exact hsrPoison.resolve_right (ne_true_of_eq_false hp)
  · exact hstacks.resolve_right (ne_true_of_eq_false hp)
  · exact hpkgs.resolve_right (ne_true_of_eq_false hp)
  · exact hslices.resolve_right (ne_true_of_eq_false hp)
  · exact hmoves.resolve_right (ne_true_of_eq_false hp)
  · rfl
  · rfl
  · rfl
  · rfl
  · rfl
  · exact hdue.resolve_right (ne_true_of_eq_false hp)

theorem flow_withFreeSeq (hM : Within 0x2 M) (h : Flow M z s) {n : Nat} (hn : s.freeSeq ≤ n) : Flow M z (s.withFreeSeq n) :=
  h.andThen ⟨hn, List.prefix_refl _, id, id, fun p hp => by
    cases p <;> first | rfl | exact absurd (hM.bit (by decide)) (ne_true_of_eq_false hp), fun _ => id, fun _ _ => .refl _⟩

theorem flow_emit (hM : Within 0x20000000 M) (h : Flow M z s) (x) : Flow M z (emit s x) :=
  h.andThen ⟨Nat.le_refl _, List.prefix_append _ _, id, id, fun p hp => by
    cases p <;> first | rfl | exact absurd (hM.bit (by decide)) (ne_true_of_eq_false hp), fun _ => id, fun _ _ => .refl _⟩

theorem flow_freshBytes (hM : Within 0x2 M) (h : Flow M z s) (n) : Flow M z (freshBytes s n).2 :=
  flow_withFreeSeq hM h (Nat.le_add_right _ _)
theorem flow_freshWord (hM : Within 0x2 M) (h : Flow M z s) : Flow M z (freshWord s).2 := flow_withFreeSeq hM h (Nat.le_succ _)
theorem flow_freshTime (hM : Within 0x2 M) (h : Flow M z s) : Flow M z (freshTime s).2 := flow_withFreeSeq hM h (Nat.le_succ _)

theorem flow_setStack (hM : Within 0x100200000 M) (h : Flow M z s) (st v) : Flow M z (setStack s st v) :=
  flow_withMem h id id (.inl rfl) (.inl rfl) (.inl rfl) (.inl rfl) (.inr (hM.bit (by decide))) (.inl rfl) (.inl rfl) (.inl rfl)
/-- A stack written to a state that is no better. -/
theorem flow_setStackKept (hM : Within 0x200000 M) (h : Flow M z s) (st) {v} (hv : NoBetter (stackSt s st) v) :
    Flow M z (setStack s st v) := by
  refine flow_withMem h id id (.inl rfl) (.inl rfl) (.inl rfl) (.inl rfl) (.inr (hM.bit (by decide))) (.inl rfl) (.inl rfl) (.inl rfl)
    (hworse := .inr (.inr fun j => ?_))
  by_cases e : j = st
  · subst e
    show NoBetter _ ((find (insert s.mem.stackSts j v) j).getD _)
    rw [find_insert_self]
    exact hv
  · refine .of_eq ?_
    show (find (insert s.mem.stackSts st v) j).getD _ = (find s.mem.stackSts j).getD _
    rw [find_insert_ne _ _ e]
theorem flow_setPkg (hM : Within 0x400000 M) (h : Flow M z s) (p v) : Flow M z (setPkg s p v) :=
  flow_withMem h id id (.inl rfl) (.inl rfl) (.inl rfl) (.inl rfl) (.inl rfl) (.inr (hM.bit (by decide))) (.inl rfl) (.inl rfl)
theorem flow_setSlice (hM : Within 0x800000 M) (h : Flow M z s) (c v) : Flow M z (setSlice s c v) :=
  flow_withMem h id id (.inl rfl) (.inl rfl) (.inl rfl) (.inl rfl) (.inl rfl) (.inl rfl) (.inr (hM.bit (by decide))) (.inl rfl)

theorem flow_poke (hM : Within 0x1a0000 M) (h : Flow M z s) (pa b) : Flow M z (poke s pa b) := by
  unfold poke
  split
  · exact h
  · dsimp only
    have hm : ∀ bad : List Nat, Memory.wf s.mem.bytes = true → Memory.wf (if bad.isEmpty then
        writeCells s.mem.bytes pa b else writeAround s.mem.bytes (unitSize pa) bad pa b) = true := by
      intro bad hw
      split
      · exact wf_writeCells _ _ hw
      · exact wf_writeAround _ _ _ _ hw
    split
    · exact flow_withMem h (hm _) id (.inr (hM.bit (by decide))) (.inl rfl) (.inr (hM.bit (by decide))) (.inl rfl) (.inl rfl) (.inl rfl) (.inl rfl) (.inl rfl)
    · exact flow_withMem h (hm _) id (.inr (hM.bit (by decide))) (.inl rfl) (.inl rfl) (.inr (hM.bit (by decide))) (.inl rfl) (.inl rfl) (.inl rfl) (.inl rfl)

theorem flow_hostWrite (hM : Within 0x20040000 M) (h : Flow M z s) (fn a b) : Flow M z (hostWrite s fn a b) :=
  flow_emit (s := s.withMem { s.mem with host := writeCells s.mem.host a b }) (hM.of (by decide))
    (flow_withMem h id (wf_writeCells _ _) (.inl rfl) (.inr (hM.bit (by decide))) (.inl rfl) (.inl rfl) (.inl rfl) (.inl rfl) (.inl rfl) (.inl rfl)) _

end

theorem flowR_enabled {M : Nat} {z s : State} {c : Bool} {what : String} (h : c = true → Flow M z s) : FlowR M z (enabled c what s) := by
  unfold enabled
  split
  · exact flowR_next (h ‹_›)
  · exact flowR_refused _

theorem flowR_needs {M : Nat} {α : Type} {z : State} {o : Option α} {what : String} {k : α → Res} (h : ∀ a, o = some a → FlowR M z (k a)) :
    FlowR M z (needs o what k) := by
  cases o with
  | none => exact flowR_refused _
  | some a => exact h a rfl

end Sys2Proof.Machine
end

