-- ==== Sys2Proof/Laws/FlowMemory.lean ====
section
/-!
SUPPORT. What the operations of commands of memory, translation and submissions leave true: the lemmas `flow_<operation>` say that its next state can follow
(`Flow`, Sys2Proof/Laws/Flow.lean).
-/

namespace Sys2Proof.Machine

set_option Elab.async false

/-! Sys2Proof/Machine/Ops.lean. -/

theorem flow_enabled {M : Nat} {z : State} {c : Bool} {what : String} {s : State} (hs : Flow M z s) : FlowR M z (enabled c what s) := by
  unfold enabled
  repeat' with_reducible first | assumption | apply flowR_next | exact flowR_refused _ | split

theorem flow_needs {M : Nat} {z : State} {α : Type} {o : Option α} {what : String} {k : α → Res} (hk : ∀ a0, FlowR M z (k a0)) :
    FlowR M z (needs o what k) := by
  unfold needs
  repeat' with_reducible first | exact flowR_refused _ | apply hk | split

theorem flow_setReg {M : Nat} (hM : Within 0x4 M) {z s : State} {off v : Nat} (hs : Flow M z s) : Flow M z (setReg s off v) := by
  unfold setReg
  repeat' with_reducible first | exact hM.of (by decide) | assumption | apply flow_withRegs

theorem flow_orReg {M : Nat} (hM : Within 0x4 M) {z s : State} {off m : Nat} (hs : Flow M z s) : Flow M z (orReg s off m) := flow_setReg (hM.of (by decide)) hs

theorem flow_setRegField {M : Nat} (hM : Within 0x4 M) {z s : State} {off hi lo v : Nat} (hs : Flow M z s) : Flow M z (setRegField s off hi lo v) := flow_setReg (hM.of (by decide)) hs

theorem flow_countHigh {M : Nat} (hM : Within 0x4 M) {z s : State} {off : Nat} (hs : Flow M z s) : Flow M z (countHigh s off) := flow_setRegField (hM.of (by decide)) hs

theorem flow_setVfReg {M : Nat} (hM : Within 0x8 M) {z s : State} {fn off v : Nat} (hs : Flow M z s) : Flow M z (setVfReg s fn off v) := by
  unfold setVfReg
  repeat' with_reducible first | exact hM.of (by decide) | assumption | apply flow_withVfRegs

theorem flow_orVfEvent {M : Nat} (hM : Within 0x8 M) {z s : State} {fn m : Nat} (hs : Flow M z s) : Flow M z (orVfEvent s fn m) := flow_setVfReg (hM.of (by decide)) hs

theorem flow_setObj {M : Nat} (hM : Within 0x20 M) {z s : State} {idx sub v : Nat} (hs : Flow M z s) : Flow M z (setObj s idx sub v) := by
  unfold setObj
  repeat' with_reducible first | exact hM.of (by decide) | assumption | apply flow_withDict

theorem flow_countPart {M : Nat} (hM : Within 0x800 M) {z s : State} {p n : Nat} (hs : Flow M z s) : Flow M z (countPart s p n) := by
  unfold countPart
  repeat' with_reducible first | exact hM.of (by decide) | assumption | apply flow_withPart

theorem flow_setUeAddr {M : Nat} (hM : Within 0x4 M) {z s : State} {lo pa : Nat} (hs : Flow M z s) : Flow M z (setUeAddr s lo pa) := by
  unfold setUeAddr
  repeat' with_reducible first | exact hM.of (by decide) | assumption | apply flow_setReg

theorem noBetter_error (k : StackSt) (page : Nat) :
    NoBetter k { k with retire := retirePage k.retire page, state := stackStateAfter k page } := by
  refine ⟨fun h => ?_, fun h => ?_, ?_⟩
  · show stackStateAfter k page ≠ .online
    unfold stackStateAfter
    repeat' split
    all_goals first | decide | assumption
  · show stackStateAfter k page = .offline
    unfold stackStateAfter
    rw [h]
    split <;> rfl
  · show k.retire <+: retirePage k.retire page
    unfold retirePage
    split
    · exact List.prefix_refl _
    · exact List.prefix_append _ _

theorem flow_noteUncorrectable {M : Nat} (hM : Within 0xc0280004 M) {z : State} {s : State} {pa : Nat} (hs : Flow M z s) :
    Flow M z (noteUncorrectable s pa) := by
  unfold noteUncorrectable
  split
  · exact hs
  · exact flow_setUeAddr (hM.of (by decide)) (flow_orReg (hM.of (by decide)) (flow_withMem (flow_setStackKept (hM.of (by decide)) hs _
      (noBetter_error _ _)) id id (.inl rfl) (.inl rfl) (.inr (hM.bit (by decide))) (.inl rfl) (.inl rfl) (.inl rfl) (.inl rfl) (.inl rfl)
      (.inr (hM.bit (by decide))) (.inr (.inr (hM.bit (by decide))))))

theorem flow_noteBlock {M : Nat} (hM : Within 0x500004 M) {z : State} {s : State} {pa : Nat} (hs : Flow M z s) :
    Flow M z (noteBlock s pa) := by
  unfold noteBlock
  try dsimp only
  repeat' with_reducible first
    | exact hM.of (by decide) | assumption | exact id | exact .inl rfl | exact .inr (hM.bit (by decide)) | apply flow_withMem
    | apply flow_orReg | apply flow_setUeAddr | split

theorem flow_noteUnits {M : Nat} (hM : Within 0xc0780004 M) {z : State} {s : State} {pa : Nat} {units : List Nat} (hs : Flow M z s) :
    Flow M z (noteUnits s pa units) := by
  unfold noteUnits
  try dsimp only
  repeat' with_reducible first
    | exact hM.of (by decide) | assumption | apply flow_foldl | apply flow_noteBlock | apply flow_noteUncorrectable | split
    | intro _

theorem flow_devRead {M : Nat} (hM : Within 0xc0780004 M) {z : State} {s : State} {pa : Nat} {n : Nat} (hs : Flow M z s) :
    Flow M z (devRead s pa n).2 := by
  unfold devRead
  try dsimp only
  repeat' with_reducible first | exact hM.of (by decide) | assumption | apply flow_noteUnits | split

theorem flow_devWrite {M : Nat} (hM : Within 0xc07a0004 M) {z : State} {s : State} {pa : Nat} {b : List Byte} (hs : Flow M z s) :
    Flow M z (devWrite s pa b) := by
  unfold devWrite
  try dsimp only
  repeat' with_reducible first | exact hM.of (by decide) | assumption | apply flow_noteUnits | apply flow_poke

theorem flow_hostRead {M : Nat} (hM : Within 0x20000000 M) {z : State} {s : State} {fn : Nat} {a : Nat} {n : Nat} (hs : Flow M z s) :
    Flow M z (hostRead s fn a n).2 := by
  unfold hostRead
  try dsimp only
  repeat' with_reducible first | exact hM.of (by decide) | assumption | apply flow_emit

theorem flow_noteAccessErr {M : Nat} (hM : Within 0x4 M) {z s : State} {off : Nat} (hs : Flow M z s) : Flow M z (noteAccessErr s off) := flow_orReg (hM.of (by decide)) hs

theorem flow_pfWrite {M : Nat} (hM : Within 0x4 M) {z : State} {off : Nat} {s : State} {r : Res} (hs : Flow M z s) (hr : FlowR M z r) :
    FlowR M z (pfWrite off s r) := by
  unfold pfWrite
  repeat' with_reducible first | exact hM.of (by decide) | assumption | apply flowR_next | apply flow_noteAccessErr | split

theorem flow_setCore {M : Nat} (hM : Within 0x4000000 M) {z s : State} {c : Nat} {v : Core} (hs : Flow M z s) : Flow M z (setCore s c v) := by
  unfold setCore
  repeat' with_reducible first | exact hM.of (by decide) | assumption | apply flow_withCores

theorem flow_modCore {M : Nat} (hM : Within 0x4000000 M) {z s : State} {c : Nat} {f : Core → Core} (hs : Flow M z s) : Flow M z (modCore s c f) := flow_setCore (hM.of (by decide)) hs

theorem flow_setGroup {M : Nat} (hM : Within 0x4000000 M) {z s : State} {c slot : Nat} {g : Group} (hs : Flow M z s) : Flow M z (setGroup s c slot g) := flow_modCore (hM.of (by decide)) hs

theorem flow_dropGroup {M : Nat} (hM : Within 0x4000000 M) {z s : State} {c slot : Nat} (hs : Flow M z s) : Flow M z (dropGroup s c slot) := flow_modCore (hM.of (by decide)) hs

theorem flow_addPair48 {M : Nat} (hM : Within 0x4 M) {z s : State} {off n : Nat} (hs : Flow M z s) : Flow M z (addPair48 s off n) := by
  unfold addPair48
  repeat' with_reducible first | exact hM.of (by decide) | assumption | apply flow_setReg

theorem flow_countOne {M : Nat} (hM : Within 0x4 M) {z : State} {sels cnts ovf code : Nat} {ctx : Option Nat} {n : Nat} {s : State} {k : Nat} (hs :
    Flow M z s) :
    Flow M z (countOne sels cnts ovf code ctx n s k) := by
  unfold countOne
  repeat' with_reducible first | exact hM.of (by decide) | assumption | apply flow_addPair48 | apply flow_orReg | split

theorem flow_coreEvent {M : Nat} (hM : Within 0x4 M) {z s : State} {c code : Nat} {ctx : Option Nat} {n : Nat} (hs : Flow M z s) :
    Flow M z (coreEvent s c code ctx n) := by
  unfold coreEvent
  repeat' with_reducible first | exact hM.of (by decide) | assumption | apply flow_foldl | apply flow_countOne | split

theorem flow_clusterEvent {M : Nat} (hM : Within 0x4 M) {z s : State} {cl code : Nat} {ctx : Option Nat} {n : Nat} (hs : Flow M z s) :
    Flow M z (clusterEvent s cl code ctx n) := by
  unfold clusterEvent
  repeat' with_reducible first | exact hM.of (by decide) | assumption | apply flow_foldl | apply flow_countOne | split

theorem flow_dieEvent {M : Nat} (hM : Within 0x4 M) {z s : State} {d code : Nat} {ctx : Option Nat} {n : Nat} (hs : Flow M z s) :
    Flow M z (dieEvent s d code ctx n) := by
  unfold dieEvent
  repeat' with_reducible first | exact hM.of (by decide) | assumption | apply flow_foldl | apply flow_countOne | split

theorem flow_askWake {M : Nat} (hM : Within 0x404 M) {z s : State} {c : Nat} (hs : Flow M z s) : Flow M z (askWake s c) := by
  unfold askWake
  try dsimp only
  repeat' with_reducible first | exact hM.of (by decide) | assumption | apply flow_withGovs | apply flow_dieEvent | split

theorem flow_clearCond {M : Nat} (hM : Within 0x4000404 M) {z s : State} {c slot : Nat} (hs : Flow M z s) : Flow M z (clearCond s c slot) := by
  unfold clearCond
  repeat' with_reducible first | exact hM.of (by decide) | assumption | apply flow_askWake | apply flow_setCore | split

theorem flow_clearWhere {M : Nat} (hM : Within 0x4000404 M) {z s : State} {c : Nat} {p : Group → Bool} (hs : Flow M z s) : Flow M z (clearWhere s c p) := by
  unfold clearWhere
  repeat' with_reducible first | exact hM.of (by decide) | assumption | apply flow_foldl | apply flow_clearCond | intro _

theorem flow_lsWrite {M : Nat} (hM : Within 0x4000000 M) {z s : State} {c ctx a : Nat} {b : List Byte} (hs : Flow M z s) : Flow M z (lsWrite s c ctx a b) := flow_modCore (hM.of (by decide)) hs

theorem flow_wakeCounter {M : Nat} (hM : Within 0x4000404 M) {z s : State} {c ctx : Nat} {remote : Bool} {n : Nat} {v : Word32} (hs : Flow M z s) :
    Flow M z (wakeCounter s c ctx remote n v) := by
  unfold wakeCounter
  repeat' with_reducible first | exact hM.of (by decide) | assumption | apply flow_clearWhere | apply flow_modCore

theorem flow_setLocalCtr {M : Nat} (hM : Within 0x4000404 M) {z s : State} {c ctx n : Nat} {v : Word32} (hs : Flow M z s) : Flow M z (setLocalCtr s c ctx n v) := by
  unfold setLocalCtr
  repeat' with_reducible first | exact hM.of (by decide) | assumption | apply flow_modCore | apply flow_wakeCounter

theorem flow_addLocalCtr {M : Nat} (hM : Within 0x4000404 M) {z s : State} {c ctx n : Nat} {v : Word32} (hs : Flow M z s) : Flow M z (addLocalCtr s c ctx n v) := flow_setLocalCtr (hM.of (by decide)) hs

theorem flow_modCtx {M : Nat} (hM : Within 0x2000 M) {z s : State} {ctx : Nat} {f : Context → Context} (hs : Flow M z s) : Flow M z (modCtx s ctx f) := by
  unfold modCtx
  repeat' with_reducible first | exact hM.of (by decide) | assumption | apply flow_withCtxs

theorem flow_modQueue {M : Nat} (hM : Within 0x4000 M) {z s : State} {q : Nat} {f : Queue → Queue} (hs : Flow M z s) : Flow M z (modQueue s q f) := by
  unfold modQueue
  repeat' with_reducible first | exact hM.of (by decide) | assumption | apply flow_withQueues

theorem flow_modSub {M : Nat} (hM : Within 0x8000 M) {z s : State} {q : Nat} {f : Submission → Submission} (hs : Flow M z s) : Flow M z (modSub s q f) := by
  unfold modSub
  repeat' with_reducible first | exact hM.of (by decide) | assumption | apply flow_withSubs

theorem flow_touchStack {M : Nat} (hM : Within 0x2000 M) {z s : State} {ctx pa : Nat} (hs : Flow M z s) : Flow M z (touchStack s ctx pa) := by
  unfold touchStack
  repeat' with_reducible first | exact hM.of (by decide) | assumption | apply flow_modCtx | split

theorem flow_backCtrs {M : Nat} (hM : Within 0xc07a0004 M) {z : State} {s : State} {c : Context} {l : List Nat} (hs : Flow M z s) :
    Flow M z (backCtrs s c l) := by
  unfold backCtrs
  try dsimp only
  repeat' with_reducible first | exact hM.of (by decide) | assumption | apply flow_foldl | apply flow_devWrite | intro _

theorem flow_setRemoteCtr {M : Nat} (hM : Within 0x4002404 M) {z s : State} {ctx n : Nat} {v : Word32} (hs : Flow M z s) : Flow M z (setRemoteCtr s ctx n v) := by
  unfold setRemoteCtr
  repeat' with_reducible first
    | exact hM.of (by decide) | assumption | apply flow_foldl | apply flow_modCtx | apply flow_wakeCounter | intro _

theorem flow_addRemoteCtr {M : Nat} (hM : Within 0x4002404 M) {z s : State} {ctx n : Nat} {v : Word32} (hs : Flow M z s) : Flow M z (addRemoteCtr s ctx n v) := flow_setRemoteCtr (hM.of (by decide)) hs

theorem flow_sendMsix {M : Nat} (hM : Within 0x20001000 M) {z s : State} {fn vector : Nat} (hs : Flow M z s) : Flow M z (sendMsix s fn vector) := by
  unfold sendMsix
  repeat' with_reducible first | exact hM.of (by decide) | assumption | apply flow_withFront | apply flow_emit | split

theorem flow_hostPost {M : Nat} (hM : Within 0x20041000 M) {z s : State} {fn a : Nat} {b : List Byte} (hs : Flow M z s) : Flow M z (hostPost s fn a b) := by
  unfold hostPost
  repeat' with_reducible first | exact hM.of (by decide) | assumption | apply flow_withFront | apply flow_hostWrite | split

theorem flow_codedWrite {M : Nat} (hM : Within 0xe07e1004 M) {z : State} {s : State} {fn : Nat} {addr : Nat} {b : List Byte} (hs : Flow M z s) :
    Flow M z (codedWrite s fn addr b) := by
  unfold codedWrite
  try dsimp only
  repeat' with_reducible first | exact hM.of (by decide) | assumption | apply flow_devWrite | apply flow_hostPost | split

/-! Sys2Proof/Machine/Calendar.lean. -/

theorem flow_idleCycle {M : Nat} (hM : Within 0x30 M) {z s : State} (hs : Flow M z s) : Flow M z (idleCycle s) := by
  unfold idleCycle
  repeat' with_reducible first | split | exact flow_mk (by assumption)

theorem flow_execCalendarEnd {M : Nat} (hM : Within 0x20 M) {z s : State} (hs : Flow M z s) : FlowR M z (execCalendarEnd s) := by
  unfold execCalendarEnd
  repeat' with_reducible first | exact hM.of (by decide) | assumption | apply flowR_enabled | apply flow_withDict | intro _

/-! Sys2Proof/Machine/Submit.lean. -/

theorem flow_freeEntries {M : Nat} (hM : Within 0x4000404 M) {z : State} {s : State} (hs : Flow M z s) :
    Flow M z (freeEntries s) := by
  unfold freeEntries
  try dsimp only
  repeat' with_reducible first | exact hM.of (by decide) | assumption | apply flow_foldl | apply flow_clearWhere | intro _

theorem flow_stopWork {M : Nat} (hM : Within 0x6013484 M) {z : State} {s : State} {q : Nat} (hs : Flow M z s) :
    Flow M z (stopWork s q) := by
  unfold stopWork
  try dsimp only
  repeat' with_reducible first
    | exact hM.of (by decide) | apply flow_freeEntries
    | exact flow_mk (by repeat' with_reducible first | exact hM.of (by decide) | assumption | apply flow_freeEntries | intro _ | dsimp only)

theorem flow_noteStop {M : Nat} (hM : Within 0x8000 M) {z s : State} {q : Nat} (hs : Flow M z s) : Flow M z (noteStop s q) := by
  unfold noteStop
  repeat' with_reducible first | exact hM.of (by decide) | assumption | apply flow_modSub | split

theorem flow_removeArrivals {M : Nat} (hM : Within 0x2000 M) {z : State} {q : Nat} {s : State} {c : Nat × Core} (hs : Flow M z s) :
    Flow M z (removeArrivals q s c) := by
  unfold removeArrivals
  repeat' with_reducible first | exact hM.of (by decide) | assumption | apply flow_foldl | apply flow_modCtx | split | intro _

theorem flow_startAbort {M : Nat} (hM : Within 0x601b484 M) {z : State} {s : State} {q : Nat} (hs : Flow M z s) :
    Flow M z (startAbort s q) := by
  unfold startAbort
  try dsimp only
  repeat' with_reducible first
    | exact hM.of (by decide) | assumption | apply flow_freeEntries | split
    | exact flow_mk (by repeat' with_reducible first | exact hM.of (by decide) | assumption | apply flow_foldl | apply flow_foldl_fst | apply flow_foldl_snd | apply flow_foldl_st | apply flow_foldl_fst_st | apply flow_foldl_snd_st | apply flow_freeEntries | apply flow_modSub | apply flow_noteStop | apply flow_removeArrivals | split | intro _ | dsimp only)

theorem flow_setFault {M : Nat} (hM : Within 0x601b484 M) {z s : State} {q status : Nat} (hs : Flow M z s) : Flow M z (setFault s q status) := by
  unfold setFault
  repeat' with_reducible first
    | exact hM.of (by decide) | assumption | apply flow_modSub | apply flow_noteStop | apply flow_stopWork | split

theorem flow_failSubmission {M : Nat} (hM : Within 0x601b484 M) {z s : State} {q status : Nat} (hs : Flow M z s) : Flow M z (failSubmission s q status) := by
  unfold failSubmission
  repeat' with_reducible first | exact hM.of (by decide) | assumption | apply flow_foldl | apply flow_setFault | intro _

theorem flow_writeFence {M : Nat} (hM : Within 0xe07e1004 M) {z : State} {s : State} {fn : Nat} {a : Nat} {v : Nat} (hs : Flow M z s) :
    Flow M z (writeFence s fn a v) := by
  unfold writeFence
  try dsimp only
  repeat' with_reducible first | exact hM.of (by decide) | assumption | apply flow_devWrite | apply flow_hostPost | split

theorem flow_pfPoke {M : Nat} (hM : Within 0xc07a0004 M) {z : State} {s : State} {pa : Nat} {b : List Byte} (hs : Flow M z s) :
    Flow M z (pfPoke s pa b) := by
  unfold pfPoke
  try dsimp only
  repeat' with_reducible first | exact hM.of (by decide) | assumption | apply flow_devWrite | split

theorem flow_writeQueueTable {M : Nat} (hM : Within 0xc07a0004 M) {z : State} {s : State} {q : Nat} (hs : Flow M z s) :
    Flow M z (writeQueueTable s q) := by
  unfold writeQueueTable
  try dsimp only
  repeat' with_reducible first | exact hM.of (by decide) | assumption | apply flow_pfPoke | split

theorem flow_raiseCompletion {M : Nat} (hM : Within 0x20001000 M) {z s : State} {q : Nat} {entry : List Byte} (hs : Flow M z s) :
    Flow M z (raiseCompletion s q entry) := by
  unfold raiseCompletion
  repeat' with_reducible first | exact hM.of (by decide) | assumption | apply flow_sendMsix | split

theorem flow_advanceRead {M : Nat} (hM : Within 0xc07a5004 M) {z s : State} {q : Nat} {fence : Option Nat} (hs : Flow M z s) : Flow M z (advanceRead s q fence) := by
  unfold advanceRead
  repeat' with_reducible first
    | exact hM.of (by decide) | assumption | apply flow_withFront | apply flow_modQueue | apply flow_writeQueueTable | split

theorem flow_completeEntry {M : Nat} (hM : Within 0xe07e5004 M) {z s : State} {q : Nat} {r : Record} (hs : Flow M z s) : Flow M z (completeEntry s q r) := by
  unfold completeEntry
  repeat' with_reducible first
    | exact hM.of (by decide) | assumption | apply flow_advanceRead | apply flow_codedWrite | apply flow_raiseCompletion
    | apply flow_writeFence | split

theorem flow_noteEnd {M : Nat} (hM : Within 0x8000 M) {z s : State} {q c : Nat} (hs : Flow M z s) : Flow M z (noteEnd s q c) := flow_modSub (hM.of (by decide)) hs

theorem flow_dropCopies {M : Nat} (hM : Within 0x4000000 M) {z : State} {s : State} {q : Nat} (hs : Flow M z s) :
    Flow M z (dropCopies s q) := by
  unfold dropCopies
  try dsimp only
  repeat' with_reducible first | exact hM.of (by decide) | assumption | apply flow_withCores

theorem flow_leaveSubmission {M : Nat} (hM : Within 0xe47ed004 M) {z : State} {s : State} {q : Nat} {u : Submission} {status : Nat} (hs : Flow M z s) :
    Flow M z (leaveSubmission s q u status) := by
  unfold leaveSubmission
  try dsimp only
  repeat' with_reducible first
    | exact hM.of (by decide) | assumption | apply flow_withSubs | apply flow_completeEntry | apply flow_dropCopies

theorem flow_countRefusal {M : Nat} (hM : Within 0x4800 M) {z s : State} {q status : Nat} (hs : Flow M z s) : Flow M z (countRefusal s q status) := by
  unfold countRefusal
  try dsimp only
  repeat' with_reducible first | exact hM.of (by decide) | assumption | apply flow_countPart | apply flow_modQueue | split

theorem flow_leaveHead {M : Nat} (hM : Within 0xe07e5804 M) {z : State} {s : State} {q : Nat} {status : Nat} {entry : List Byte} (hs : Flow M z s) :
    Flow M z (leaveHead s q status entry) := by
  unfold leaveHead
  try dsimp only
  repeat' with_reducible first
    | exact hM.of (by decide) | assumption | apply flow_completeEntry | apply flow_countRefusal | split

theorem flow_noteRingFull {M : Nat} (hM : Within 0x4 M) {z s : State} (hs : Flow M z s) : Flow M z (noteRingFull s) := by
  unfold noteRingFull
  repeat' with_reducible first | exact hM.of (by decide) | assumption | apply flow_orReg | split

theorem flow_queueRecord {M : Nat} (hM : Within 0x10004 M) {z s : State} {b : List Byte} (hs : Flow M z s) : Flow M z (queueRecord s b) := by
  unfold queueRecord
  repeat' with_reducible first | exact hM.of (by decide) | assumption | apply flow_withTrans | apply flow_noteRingFull

theorem flow_withdrawToken {M : Nat} (hM : Within 0x10004 M) {z s : State} {t : Token} (hs : Flow M z s) : Flow M z (withdrawToken s t) := by
  unfold withdrawToken
  repeat' with_reducible first | exact hM.of (by decide) | assumption | apply flow_withTrans | apply flow_queueRecord

theorem flow_stallReq {M : Nat} (hM : Within 0x4001000 M) {z s : State} {who : Requester} {va : Nat} {t : Option Word32} (hs : Flow M z s) :
    Flow M z (stallReq s who va t) := by
  unfold stallReq
  try dsimp only
  repeat' with_reducible first
    | exact hM.of (by decide) | assumption | apply flow_withFront | apply flow_modCore | apply flow_setGroup | split

theorem flow_releaseReq {M : Nat} (hM : Within 0x4001404 M) {z s : State} {who : Requester} (hs : Flow M z s) : Flow M z (releaseReq s who) := by
  unfold releaseReq
  try dsimp only
  repeat' with_reducible first | exact hM.of (by decide) | assumption | apply flow_clearCond | apply flow_stallReq | split

theorem flow_retryWaiting {M : Nat} (hM : Within 0x4011404 M) {z s : State} (hs : Flow M z s) : Flow M z (retryWaiting s) := by
  unfold retryWaiting
  repeat' with_reducible first
    | exact hM.of (by decide) | assumption | apply flow_foldl | apply flow_withTrans | apply flow_releaseReq | intro _

theorem flow_writeDirectory {M : Nat} (hM : Within 0xc07a0004 M) {z : State} {s : State} {ctx : Nat} (hs : Flow M z s) :
    Flow M z (writeDirectory s ctx) := by
  unfold writeDirectory
  try dsimp only
  repeat' with_reducible first | exact hM.of (by decide) | assumption | apply flow_pfPoke | split

theorem flow_releaseContext {M : Nat} (hM : Within 0x6002000 M) {z s : State} {ctx : Nat} (hs : Flow M z s) : Flow M z (releaseContext s ctx) := by
  unfold releaseContext
  repeat' with_reducible first | exact flow_mk (by assumption)

theorem flow_completeRun {M : Nat} (hM : Within 0xe07e5804 M) {z : State} {q : Nat} {status : Nat} {x0 : Nat} {x1 : State} (hx1 : Flow M z x1) :
    Flow M z (completeRun q status x0 x1) := by
  revert hx1
  fun_induction completeRun q status x0 x1 <;> intros
  all_goals repeat' with_reducible first | exact hM.of (by decide) | assumption | apply flow_leaveHead | apply_assumption

theorem flow_loseQueue {M : Nat} (hM : Within 0xe07e5804 M) {z s : State} {q : Nat} {u : Queue} (hs : Flow M z s) : Flow M z (loseQueue s q u) := by
  unfold loseQueue
  repeat' with_reducible first | exact hM.of (by decide) | assumption | apply flow_completeRun

theorem flow_loseRunning {M : Nat} (hM : Within 0xe67ff484 M) {z : State} {s : State} {q : Nat} (hs : Flow M z s) :
    Flow M z (loseRunning s q) := by
  unfold loseRunning
  try dsimp only
  repeat' with_reducible first
    | exact hM.of (by decide) | assumption | apply flow_leaveSubmission | apply flow_noteStop | apply flow_stopWork | split

theorem flow_loseOne {M : Nat} (hM : Within 0xe67ffc8c M) {z : State} {s : State} {ctx : Nat} {reason : Nat} (hs : Flow M z s) :
    Flow M z (loseOne s ctx reason) := by
  unfold loseOne
  try dsimp only
  repeat' with_reducible first
    | exact hM.of (by decide) | assumption | apply flow_foldl | apply flow_withFront | apply flow_withPart
    | apply flow_withTrans | apply flow_askWake | apply flow_clearWhere | apply flow_loseQueue | apply flow_loseRunning
    | apply flow_modCtx | apply flow_orReg | apply flow_orVfEvent | apply flow_releaseContext | apply flow_retryWaiting
    | apply flow_sendMsix | apply flow_setReg | apply flow_withdrawToken | apply flow_writeDirectory | split | intro _

theorem flow_loseDue {M : Nat} (hM : Within 0xe67ffc8c M) {z : State} {n : Nat} {s : State} (hs : Flow M z s) : Flow M z (loseDue n s) := by
  have clear : ∀ s, Flow M z s → Flow M z (s.withMem { s.mem with due := [] }) := fun s hs =>
    flow_withMem hs id id (.inl rfl) (.inl rfl) (.inl rfl) (.inl rfl) (.inl rfl) (.inl rfl) (.inl rfl) (.inl rfl)
      (.inr (hM.bit (by decide))) (.inr (.inl rfl))
  induction n generalizing s with
  | zero => exact clear s hs
  | succ n ih =>
    unfold loseDue
    split
    · exact hs
    · exact ih (flow_foldl (fun s a h => flow_loseOne (hM.of (by decide)) h) (clear s hs))

/-- Once the rounds are over, no loss is due. -/
theorem due_loseDue (n : Nat) (s : State) : (loseDue n s).mem.due = [] := by
  induction n generalizing s with
  | zero => rfl
  | succ n ih =>
    unfold loseDue
    split
    · exact List.isEmpty_iff.mp ‹_›
    · exact ih _

theorem flow_settleDue {M : Nat} (hM : Within 0x667ffc8c M) {z : State} {s : State} (hs : Flow (raw M) z s) : Flow M z (settleDue s) :=
  (flow_loseDue (hM.raw (by decide)) hs).settled (due_loseDue _ _)

theorem flow_loseContext {M : Nat} (hM : Within 0x667ffc8c M) {z : State} {s : State} {ctx : Nat} {reason : Nat} (hs : Flow M z s) :
    Flow M z (loseContext s ctx reason) := by
  unfold loseContext
  try dsimp only
  repeat' with_reducible first | exact hM.of (by decide) | exact hM.raw (by decide) | assumption | (refine Flow.raw ?_; assumption) | apply flow_loseOne | apply flow_settleDue

theorem flow_finishSubmission {M : Nat} (hM : Within 0x667ffc8c M) {z : State} {s : State} {q : Nat} {u : Submission} {status : Nat} (hs : Flow M z s) :
    Flow M z (finishSubmission s q u status) := by
  unfold finishSubmission
  try dsimp only
  repeat' with_reducible first | exact hM.of (by decide) | exact hM.raw (by decide) | assumption | (refine Flow.raw ?_; assumption) | apply flow_leaveSubmission | apply flow_settleDue

theorem flow_completeHead {M : Nat} (hM : Within 0x667ffc8c M) {z : State} {s : State} {q : Nat} {status : Nat} {entry : List Byte} (hs : Flow M z s) :
    Flow M z (completeHead s q status entry) := by
  unfold completeHead
  try dsimp only
  repeat' with_reducible first | exact hM.of (by decide) | exact hM.raw (by decide) | assumption | (refine Flow.raw ?_; assumption) | apply flow_leaveHead | apply flow_settleDue

/-! Sys2Proof/Machine/Memory.lean. -/

theorem flow_stackOffline {M : Nat} (hM : Within 0x667ffc8c M) {z s : State} {st : Nat} (hs : Flow M z s) : Flow M z (stackOffline s st) :=
  flow_settleDue (hM.of (by decide)) (flow_withMem (flow_setStackKept (v := { stackSt s st with state := .offline })
      (hM.raw (by decide)) hs.raw st ⟨fun _ h => StackState.noConfusion h, fun _ => rfl, List.prefix_refl _⟩) id id (.inl rfl) (.inl rfl) (.inl rfl)
    (.inl rfl) (.inl rfl) (.inl rfl) (.inl rfl) (.inl rfl) (.inr ((hM.raw (by decide) : Within 0x40000000 (raw M)).bit (by decide)))
    (.inr (.inr raw_bit)))

theorem flow_stackUncorrectable {M : Nat} (hM : Within 0x667ffc8c M) {z : State} {s : State} {pa : Nat} (hs : Flow M z s) :
    Flow M z (stackUncorrectable s pa) := by
  unfold stackUncorrectable
  try dsimp only
  repeat' with_reducible first | exact hM.of (by decide) | exact hM.raw (by decide) | assumption | (refine Flow.raw ?_; assumption) | apply flow_noteUncorrectable | apply flow_settleDue

theorem flow_stackCorrected {M : Nat} (hM : Within 0x4 M) {z s : State} {st : Nat} (hs : Flow M z s) : Flow M z (stackCorrected s st) := by
  unfold stackCorrected
  repeat' with_reducible first | exact hM.of (by decide) | assumption | apply flow_countHigh | apply flow_orReg

theorem flow_srPoisonHit {M : Nat} (hM : Within 0x667ffc8c M) {z : State} {s : State} {master : Nat} {pa : Nat} (hs : Flow M z s) :
    Flow M z (srPoisonHit s master pa) := by
  unfold srPoisonHit
  try dsimp only
  repeat' with_reducible first | exact hM.of (by decide) | assumption | apply flow_loseContext | apply flow_noteBlock | split

theorem flow_devNote {M : Nat} (hM : Within 0x667ffc8c M) {z : State} {s : State} {pa : Nat} {n : Nat} (hs : Flow M z s) :
    Flow M z (devNote s pa n) := by
  unfold devNote
  try dsimp only
  repeat' with_reducible first | exact hM.of (by decide) | exact hM.raw (by decide) | assumption | (refine Flow.raw ?_; assumption) | apply flow_devRead | apply flow_settleDue

theorem flow_errorUnit {M : Nat} (hM : Within 0x2 M) {z : State} {s : State} {pa : Nat} {n : Nat} (hs : Flow M z s) :
    Flow M z (errorUnit s pa n).2 := by
  unfold errorUnit
  try dsimp only
  repeat' with_reducible first | exact hM.of (by decide) | assumption | apply flow_freshWord

theorem flow_faultOf {M : Nat} (hM : Within 0x601b484 M) {z s : State} {q : Option Nat} {status : Nat} (hs : Flow M z s) : Flow M z (faultOf s q status) := by
  unfold faultOf
  repeat' with_reducible first | exact hM.of (by decide) | assumption | apply flow_failSubmission | split

theorem flow_poisonHits {M : Nat} (hM : Within 0x667ffc8c M) {z s : State} {master : Nat} {q : Option Nat} {pa : Nat} {units : List Nat}
    (hs : Flow M z s) : Flow M z (poisonHits s master q pa units) := by
  have h := flow_noteUnits (hM.raw (by decide)) (pa := pa) (units := units) (flow_faultOf (hM.of (by decide)) (q := q) (status := stFaultMemory) hs).raw
  unfold poisonHits loseContext
  dsimp only
  split
  · exact flow_settleDue (hM.of (by decide)) h
  · split
    · exact flow_settleDue (hM.of (by decide)) (flow_loseOne (hM.raw (by decide)) h)
    · exact flow_settleDue (hM.of (by decide)) h

theorem flow_poisonHit {M : Nat} (hM : Within 0x667ffc8c M) {z : State} {s : State} {master : Nat} {q : Option Nat} {pa : Nat} (hs : Flow M z s) :
    Flow M z (poisonHit s master q pa) := by
  unfold poisonHit
  try dsimp only
  repeat' with_reducible first | exact hM.of (by decide) | assumption | apply flow_poisonHits

theorem flow_useHeader {M : Nat} (hM : Within 0x400004 M) {z s : State} {pa : Nat} (hs : Flow M z s) : Flow M z (useHeader s pa) := by
  unfold useHeader
  try dsimp only
  repeat' with_reducible first | exact hM.of (by decide) | assumption | apply flow_countHigh | apply flow_setPkg | split

theorem flow_useHeaders {M : Nat} (hM : Within 0x400004 M) {z : State} {s : State} {pa : Nat} {n : Nat} (hs : Flow M z s) :
    Flow M z (useHeaders s pa n) := by
  unfold useHeaders
  try dsimp only
  repeat' with_reducible first
    | exact hM.of (by decide) | assumption | apply flow_foldl | apply flow_useHeader | split | intro _

theorem flow_memRead {M : Nat} (hM : Within 0x667ffc8c M) {z : State} {s : State} {master : Nat} {q : Option Nat} {pa : Nat} {n : Nat} (hs : Flow M z s) :
    Flow M z (memRead s master q pa n).st := by
  unfold memRead
  try dsimp only
  repeat' with_reducible first
    | exact hM.of (by decide) | assumption | apply flow_faultOf | apply flow_poisonHits | apply flow_useHeaders | split

theorem flow_memWrite {M : Nat} (hM : Within 0x667ffc8c M) {z : State} {s : State} {master : Nat} {q : Option Nat} {pa : Nat} {b : List Byte} (hs : Flow M z s) :
    Flow M z (memWrite s master q pa b).st := by
  unfold memWrite
  try dsimp only
  repeat' with_reducible first
    | exact hM.of (by decide) | assumption | apply flow_faultOf | apply flow_poisonHits | apply flow_poke
    | apply flow_useHeaders | split

theorem flow_setAtticSet {M : Nat} (hM : Within 0x800000 M) {z s : State} {slice pa : Nat} {c : CacheSet AtticLine} (hs : Flow M z s) :
    Flow M z (setAtticSet s slice pa c) := by
  unfold setAtticSet
  repeat' with_reducible first | exact hM.of (by decide) | assumption | apply flow_setSlice

theorem flow_writeBack {M : Nat} (hM : Within 0x1a0000 M) {z s : State} {l : AtticLine} (hs : Flow M z s) : Flow M z (writeBack s l) := by
  unfold writeBack
  repeat' with_reducible first | exact hM.of (by decide) | assumption | apply flow_poke | split

theorem flow_mergeVictim {M : Nat} (hM : Within 0x800000 M) {z : State} {s : State} {slice : Nat} {l : AtticLine} (hs : Flow M z s) :
    Flow M z (mergeVictim s slice l).1 := by
  unfold mergeVictim
  try dsimp only
  repeat' with_reducible first | exact hM.of (by decide) | assumption | apply flow_setSlice | split

theorem flow_atticPlace {M : Nat} (hM : Within 0x9a0000 M) {z : State} {s : State} {slice : Nat} {l : AtticLine} (hs : Flow M z s) :
    Flow M z (atticPlace s slice l) := by
  unfold atticPlace
  try dsimp only
  repeat' with_reducible first
    | exact hM.of (by decide) | assumption | apply flow_mergeVictim | apply flow_setAtticSet | apply flow_writeBack | split

theorem flow_atticLine {M : Nat} (hM : Within 0x66fffc8c M) {z s : State} {master : Nat} {q : Option Nat} {pa : Nat} (hs : Flow M z s) :
    Flow M z (atticLine s master q pa).2.st := by
  unfold atticLine
  try dsimp only
  repeat' with_reducible first
    | exact hM.of (by decide) | assumption | apply flow_atticPlace | apply flow_faultOf | apply flow_memRead
    | apply flow_setAtticSet | split

theorem flow_atticReadLine {M : Nat} (hM : Within 0x66fffc8c M) {z s : State} {master : Nat} {q : Option Nat} {pa n : Nat} (hs : Flow M z s) :
    Flow M z (atticReadLine s master q pa n).st := flow_atticLine (hM.of (by decide)) hs

theorem flow_atticWriteLine {M : Nat} (hM : Within 0x66fffc8c M) {z s : State} {master : Nat} {q : Option Nat} {pa : Nat} {b : List Byte} (hs : Flow M z s) :
    Flow M z (atticWriteLine s master q pa b).st := by
  unfold atticWriteLine
  try dsimp only
  repeat' with_reducible first
    | exact hM.of (by decide) | assumption | apply flow_atticLine | apply flow_faultOf | apply flow_memWrite
    | apply flow_setAtticSet | split

theorem flow_atticRead {M : Nat} (hM : Within 0x66fffc8c M) {z s : State} {master : Nat} {q : Option Nat} {pa n : Nat} (hs : Flow M z s) :
    Flow M z (atticRead s master q pa n).st := by
  unfold atticRead
  repeat' with_reducible first | exact hM.of (by decide) | assumption | apply flow_foldl_st | apply flow_atticReadLine | intro _

theorem flow_atticWrite {M : Nat} (hM : Within 0x66fffc8c M) {z s : State} {master : Nat} {q : Option Nat} {pa : Nat} {b : List Byte} (hs : Flow M z s) :
    Flow M z (atticWrite s master q pa b).st := by
  unfold atticWrite
  repeat' with_reducible first
    | exact hM.of (by decide) | assumption | apply flow_foldl_fst_st | apply flow_atticWriteLine | intro _

/-! Sys2Proof/Machine/Counters.lean. -/

theorem flow_opCount {M : Nat} (hM : Within 0x4 M) {z s : State} {c n by_ : Nat} (hs : Flow M z s) : Flow M z (opCount s c n by_) := by
  unfold opCount
  repeat' with_reducible first | exact hM.of (by decide) | assumption | apply flow_addPair48 | split

theorem flow_celCount {M : Nat} (hM : Within 0x4 M) {z s : State} {st n by_ : Nat} (hs : Flow M z s) : Flow M z (celCount s st n by_) := by
  unfold celCount
  repeat' with_reducible first | exact hM.of (by decide) | assumption | apply flow_addPair48 | split

theorem flow_histogram {M : Nat} (hM : Within 0x8000002 M) {z s : State} {h : Nat} (hs : Flow M z s) : Flow M z (histogram s h) := by
  unfold histogram
  repeat' with_reducible first | exact hM.of (by decide) | assumption | apply flow_withHist | apply flow_freshTime | split

theorem flow_noteIssue {M : Nat} (hM : Within 0x4000006 M) {z s : State} {c slot ctx pc major op dataAddr : Nat} {fault : Bool} (hs : Flow M z s) :
    Flow M z (noteIssue s c slot ctx pc major op dataAddr fault) := by
  unfold noteIssue
  try dsimp only
  repeat' with_reducible first
    | exact hM.of (by decide) | assumption | apply flow_coreEvent | apply flow_freshTime | apply flow_freshWord
    | apply flow_modCore | apply flow_setCore | split

theorem flow_drainSamples {M : Nat} (hM : Within 0xc47a0004 M) {z : State} {s : State} {c : Nat} (hs : Flow M z s) :
    Flow M z (drainSamples s c) := by
  unfold drainSamples
  try dsimp only
  repeat' with_reducible first
    | exact hM.of (by decide) | assumption | apply flow_foldl | apply flow_devRead | apply flow_devWrite | apply flow_modCore
    | split | intro _

/-! Sys2Proof/Machine/Translate.lean. -/

theorem flow_fillCore {M : Nat} (hM : Within 0x10000 M) {z s : State} {c : Nat} {e : TlbEntry} (hs : Flow M z s) : Flow M z (fillCore s c e) := by
  unfold fillCore
  repeat' with_reducible first | exact hM.of (by decide) | assumption | apply flow_withTrans

theorem flow_fillCluster {M : Nat} (hM : Within 0x10000 M) {z s : State} {cl : Nat} {e : TlbEntry} (hs : Flow M z s) : Flow M z (fillCluster s cl e) := by
  unfold fillCluster
  repeat' with_reducible first | exact hM.of (by decide) | assumption | apply flow_withTrans

theorem flow_fillFront {M : Nat} (hM : Within 0x10000 M) {z s : State} {e : TlbEntry} (hs : Flow M z s) : Flow M z (fillFront s e) := by
  unfold fillFront
  repeat' with_reducible first | exact hM.of (by decide) | assumption | apply flow_withTrans

theorem flow_tlbLookup {M : Nat} (hM : Within 0x10000 M) {z s t : State} {core : Option Nat} {ctx va : Nat} {b : TlbEntry} (hs : Flow M z s) (h : tlbLookup
    s core ctx va = some (b, t)) :
    Flow M z t := by
  unfold tlbLookup at h
  split at h
  · obtain ⟨r, _, e⟩ := Option.map_eq_some_iff.mp h
    cases e
    exact flow_withTrans (hM.of (by decide)) hs _
  · split at h
    · cases h
      exact flow_fillCore (hM.of (by decide)) hs
    · obtain ⟨r, _, e⟩ := Option.map_eq_some_iff.mp h
      cases e
      exact flow_fillCore (hM.of (by decide)) (flow_withTrans (hM.of (by decide)) hs _)

theorem flow_tlbDropPath {M : Nat} (hM : Within 0x10000 M) {z s : State} {core : Option Nat} {ctx va : Nat} (hs : Flow M z s) :
    Flow M z (tlbDropPath s core ctx va) := by
  unfold tlbDropPath
  repeat' with_reducible first | exact hM.of (by decide) | assumption | apply flow_withTrans | split

theorem flow_fillPath {M : Nat} (hM : Within 0x10000 M) {z s : State} {who : Requester} {e : TlbEntry} (hs : Flow M z s) : Flow M z (fillPath s who e) := by
  unfold fillPath
  repeat' with_reducible first
    | exact hM.of (by decide) | assumption | apply flow_fillCluster | apply flow_fillCore | apply flow_fillFront | split

theorem flow_fillWalk {M : Nat} (hM : Within 0x10000 M) {z s : State} {die ctx va : Nat} {l : Nat × Nat} (hs : Flow M z s) :
    Flow M z (fillWalk s die ctx va l) := by
  unfold fillWalk
  repeat' with_reducible first | exact hM.of (by decide) | assumption | apply flow_withTrans

theorem flow_setMisses {M : Nat} (hM : Within 0x10000 M) {z s : State} {die : Nat} {l : List Miss} (hs : Flow M z s) : Flow M z (setMisses s die l) := by
  unfold setMisses
  repeat' with_reducible first | exact hM.of (by decide) | assumption | apply flow_withTrans

theorem flow_setWalks {M : Nat} (hM : Within 0x10000 M) {z s : State} {die : Nat} {l : List Miss} (hs : Flow M z s) : Flow M z (setWalks s die l) := by
  unfold setWalks
  repeat' with_reducible first | exact hM.of (by decide) | assumption | apply flow_withTrans

theorem flow_setOut {M : Nat} (hM : Within 0x10000 M) {z : State} {s : State} {die : Nat} {l : List Miss} (hs : Flow M z s) :
    Flow M z (setOut s die l) := by
  unfold setOut
  try dsimp only
  repeat' with_reducible first | exact hM.of (by decide) | assumption | apply flow_withTrans

theorem flow_enterMisses {M : Nat} (hM : Within 0x10000 M) {z : State} {s : State} {die : Nat} (hs : Flow M z s) :
    Flow M z (enterMisses s die) := by
  unfold enterMisses
  try dsimp only
  repeat' with_reducible first
    | exact hM.of (by decide) | assumption | apply flow_foldl | apply flow_setMisses | apply flow_setOut | split | intro _

theorem flow_addMiss {M : Nat} (hM : Within 0x10004 M) {z : State} {s : State} {ctx : Nat} {r : MissReq} (hs : Flow M z s) :
    Flow M z (addMiss s ctx r) := by
  unfold addMiss
  try dsimp only
  repeat' with_reducible first
    | exact hM.of (by decide) | assumption | apply flow_clusterEvent | apply flow_coreEvent | apply flow_enterMisses
    | apply flow_setMisses | apply flow_setOut | apply flow_setWalks | split

theorem flow_useGiven {M : Nat} (hM : Within 0x10000 M) {z : State} {s : State} {g : Given} (hs : Flow M z s) :
    Flow M z (useGiven s g) := by
  unfold useGiven
  try dsimp only
  repeat' with_reducible first | exact hM.of (by decide) | assumption | apply flow_withTrans

theorem flow_xlatFound {M : Nat} (hM : Within 0x10000 M) {z s t : State} {who : Requester} {ctx va : Nat} {b : TlbEntry} (hs : Flow M z s)
    (h : xlatFound s who ctx va = some (b, t)) : Flow M z t := by
  unfold xlatFound at h
  split at h
  · cases h
    exact flow_useGiven (hM.of (by decide)) hs
  · exact flow_tlbLookup (hM.of (by decide)) hs h

theorem flow_xlate {M : Nat} (hM : Within 0x12004 M) {z s : State} {who : Requester} {ctx va acc q : Nat} (hs : Flow M z s) :
    Flow M z (xlate s who ctx va acc q).2 := by
  unfold xlate
  dsimp only
  split
  · exact flow_addMiss (hM.of (by decide)) hs
  · have h := flow_xlatFound (hM.of (by decide)) hs (by assumption)
    split
    · split
      · exact hs
      · exact flow_touchStack (hM.of (by decide)) h
    · exact flow_addMiss (hM.of (by decide)) (flow_tlbDropPath (hM.of (by decide)) h)

theorem flow_withdrawOnly {M : Nat} (hM : Within 0x4011404 M) {z s : State} {q : Nat} (hs : Flow M z s) : Flow M z (withdrawOnly s q) := by
  unfold withdrawOnly
  repeat' with_reducible first
    | exact hM.of (by decide) | assumption | apply flow_foldl | apply flow_withTrans | apply flow_retryWaiting
    | apply flow_withdrawToken

theorem flow_rtFault {M : Nat} (hM : Within 0x601b484 M) {z s : State} {r : MissReq} (hs : Flow M z s) : Flow M z (rtFault s r) := by
  unfold rtFault
  repeat' with_reducible first
    | exact hM.of (by decide) | assumption | apply flow_failSubmission | apply flow_startAbort | apply flow_withdrawOnly
    | split

theorem flow_restartCell {M : Nat} (hM : Within 0x2000000 M) {z : State} {s : State} {who : Requester} (hs : Flow M z s) :
    Flow M z (restartCell s who) := by
  unfold restartCell
  try dsimp only
  repeat' with_reducible first | exact hM.of (by decide) | assumption | apply flow_withCellars | split

theorem flow_takeFault {M : Nat} (hM : Within 0x601b484 M) {z : State} {s : State} {ctx : Nat} {va : Nat} {r : MissReq} {reason : Nat} {level : Nat} {entry : Nat} {block : Bool} (hs : Flow M z s) :
    Flow M z (takeFault s ctx va r reason level entry block) := by
  unfold takeFault
  try dsimp only
  repeat' with_reducible first
    | exact hM.of (by decide) | assumption | apply flow_withTrans | apply flow_orReg | apply flow_queueRecord
    | apply flow_restartCell | apply flow_rtFault | apply flow_stallReq | split

theorem flow_forgetReq {M : Nat} (hM : Within 0x10000 M) {z : State} {s : State} {who : Requester} (hs : Flow M z s) :
    Flow M z (forgetReq s who) := by
  unfold forgetReq
  try dsimp only
  repeat' with_reducible first | exact hM.of (by decide) | assumption | apply flow_withTrans

theorem flow_stopPrefetch {M : Nat} (hM : Within 0x4010000 M) {z : State} {s : State} {who : Requester} (hs : Flow M z s) :
    Flow M z (stopPrefetch s who) := by
  unfold stopPrefetch
  try dsimp only
  repeat' with_reducible first | exact hM.of (by decide) | assumption | apply flow_forgetReq | apply flow_modCore | split

theorem flow_refuseIngress {M : Nat} (hM : Within 0x80 M) {z : State} {s : State} {who : Requester} (hs : Flow M z s) :
    Flow M z (refuseIngress s who) := by
  unfold refuseIngress
  try dsimp only
  repeat' with_reducible first | exact hM.of (by decide) | assumption | apply flow_withPorts | split

theorem flow_deliverOutcome {M : Nat} (hM : Within 0x601b484 M) {z : State} {s : State} {ctx : Nat} {va : Nat} {r : MissReq} {o : Outcome} (hs : Flow M z s) :
    Flow M z (deliverOutcome s ctx va r o) := by
  unfold deliverOutcome
  try dsimp only
  repeat' with_reducible first
    | exact hM.of (by decide) | assumption | apply flow_failSubmission | apply flow_refuseIngress | apply flow_stopPrefetch
    | apply flow_takeFault | split

theorem flow_chainPoison {M : Nat} (hM : Within 0x667ffc8c M) {z s : State} {x0 : Chain} (hs : Flow M z s) : Flow M z (chainPoison s x0) := by
  unfold chainPoison
  repeat' with_reducible first | exact hM.of (by decide) | assumption | apply flow_stackUncorrectable | split

theorem flow_askPages {M : Nat} (hM : Within 0x10004 M) {z s : State} {who : Requester} {ctx va n acc q : Nat} (hs : Flow M z s) :
    Flow M z (askPages s who ctx va n acc q) := by
  unfold askPages
  repeat' with_reducible first
    | exact hM.of (by decide) | assumption | apply flow_foldl | apply flow_addMiss
    | refine flow_tlbLookup (hM.of (by decide)) ?_ (by assumption) | split | intro _

theorem flow_pageRead {M : Nat} (hM : Within 0x66fffc8c M) {z s : State} {ctx q va pa leaf n : Nat} (hs : Flow M z s) :
    Flow M z (pageRead s ctx q va pa leaf n).st := by
  unfold pageRead
  repeat' with_reducible first | exact hM.of (by decide) | assumption | apply flow_atticRead | apply flow_memRead | split

theorem flow_pageWrite {M : Nat} (hM : Within 0x66fffc8c M) {z s : State} {ctx q va pa leaf : Nat} {b : List Byte} (hs : Flow M z s) :
    Flow M z (pageWrite s ctx q va pa leaf b).st := by
  unfold pageWrite
  repeat' with_reducible first | exact hM.of (by decide) | assumption | apply flow_atticWrite | apply flow_memWrite | split

theorem flow_virtRead {M : Nat} (hM : Within 0x66fffc8c M) {z : State} {s : State} {who : Requester} {ctx : Nat} {q : Nat} {va : Nat} {n : Nat} (hs : Flow M z s) :
    Flow M z (virtRead s who ctx q va n).st := by
  unfold virtRead
  try dsimp only
  repeat' with_reducible first
    | exact hM.of (by decide) | assumption | apply flow_foldl_st | apply flow_pageRead | apply flow_xlate | split | intro _
    | refine flow_snd (by assumption) ?_

theorem flow_virtWrite {M : Nat} (hM : Within 0x66fffc8c M) {z : State} {s : State} {who : Requester} {ctx : Nat} {q : Nat} {va : Nat} {b : List Byte} (hs : Flow M z s) :
    Flow M z (virtWrite s who ctx q va b).st := by
  unfold virtWrite
  try dsimp only
  repeat' with_reducible first
    | exact hM.of (by decide) | assumption | apply flow_foldl_fst_st | apply flow_pageWrite | apply flow_xlate | split
    | intro _ | refine flow_snd (by assumption) ?_

theorem flow_invalidate {M : Nat} (hM : Within 0x2018000 M) {z : State} {s : State} {ctx : Nat} {range : Option (Nat × Nat)} (hs : Flow M z s) :
    Flow M z (invalidate s ctx range) := by
  unfold invalidate
  try dsimp only
  repeat' with_reducible first
    | split
    | exact flow_mk (by repeat' with_reducible first | exact hM.of (by decide) | assumption | split | intro _ | dsimp only)

/-! Sys2Proof/Machine/Walks.lean. -/

theorem flow_execWalkStart {M : Nat} (hM : Within 0x10004 M) {z : State} {die : Nat} {s : State} (hs : Flow M z s) :
    FlowR M z (execWalkStart die s) := by
  unfold execWalkStart
  try dsimp only
  repeat' with_reducible first
    | exact hM.of (by decide) | assumption | apply flowR_next | exact flowR_refused _ | apply flow_dieEvent
    | apply flow_enterMisses | apply flow_setMisses | apply flow_setWalks | split

theorem flow_walkDeliver {M : Nat} (hM : Within 0x601b484 M) {z : State} {m : Miss} {ch : Chain} {s : State} {r : MissReq} (hs : Flow M z s) :
    Flow M z (walkDeliver m ch s r) := by
  unfold walkDeliver
  try dsimp only
  repeat' with_reducible first
    | exact hM.of (by decide) | assumption | apply flow_withTrans | apply flow_deliverOutcome | apply flow_fillPath
    | apply flow_releaseReq | apply flow_touchStack | split

theorem flow_execWalkComplete {M : Nat} (hM : Within 0x6e7ffc8e M) {z : State} {die i : Nat} {s : State} (hs : Flow M z s) :
    FlowR M z (execWalkComplete die i s) := by
  unfold execWalkComplete
  repeat' with_reducible first
    | exact hM.of (by decide) | assumption | apply flowR_next | apply flowR_needs | apply flow_foldl | apply flow_chainPoison
    | apply flow_fillWalk | apply flow_histogram | apply flow_setWalks | apply flow_walkDeliver | split | intro _

theorem flow_dropToken {M : Nat} (hM : Within 0x10000 M) {z s : State} {t : Token} (hs : Flow M z s) : Flow M z (dropToken s t) := by
  unfold dropToken
  repeat' with_reducible first | exact hM.of (by decide) | assumption | apply flow_withTrans

theorem flow_freeToken {M : Nat} (hM : Within 0x4011404 M) {z : State} {s : State} {t : Token} (hs : Flow M z s) :
    Flow M z (freeToken s t) := by
  unfold freeToken
  try dsimp only
  repeat' with_reducible first
    | exact hM.of (by decide) | assumption | apply flow_foldl | apply flow_dropToken | apply flow_releaseReq
    | apply flow_retryWaiting | intro _

theorem flow_execFaultRecordWrite {M : Nat} (hM : Within 0x24051404 M) {z : State} {s : State} (hs : Flow M z s) :
    FlowR M z (execFaultRecordWrite s) := by
  unfold execFaultRecordWrite
  try dsimp only
  repeat' with_reducible first
    | exact hM.of (by decide) | assumption | apply flowR_next | exact flowR_refused _ | apply flow_foldl
    | apply flow_withTrans | apply flow_freeToken | apply flow_hostPost | apply flow_noteRingFull | apply flow_sendMsix
    | apply flow_setReg | split

theorem flow_execFaultResume {M : Nat} (hM : Within 0x4011404 M) {z : State} {s : State} (hs : Flow M z s) :
    FlowR M z (execFaultResume s) := by
  unfold execFaultResume
  try dsimp only
  repeat' with_reducible first
    | exact hM.of (by decide) | assumption | apply flowR_next | apply flow_freeToken | apply flow_pfWrite | split

theorem flow_terminateToken {M : Nat} (hM : Within 0x601b484 M) {z s : State} {t : Token} (hs : Flow M z s) : Flow M z (terminateToken s t) := by
  unfold terminateToken
  repeat' with_reducible first | exact hM.of (by decide) | assumption | apply flow_foldl | apply flow_failSubmission | intro _

theorem flow_execFaultTerminate {M : Nat} (hM : Within 0x601b484 M) {z s : State} (hs : Flow M z s) : FlowR M z (execFaultTerminate s) := by
  unfold execFaultTerminate
  repeat' with_reducible first
    | exact hM.of (by decide) | assumption | apply flowR_next | apply flow_dropToken | apply flow_pfWrite
    | apply flow_retryWaiting | apply flow_terminateToken | split

theorem flow_timeoutToken {M : Nat} (hM : Within 0x667ffc8c M) {z : State} {s : State} {t : Token} (hs : Flow M z s) :
    Flow M z (timeoutToken s t) := by
  unfold timeoutToken
  try dsimp only
  repeat' with_reducible first
    | exact hM.of (by decide) | assumption | apply flow_loseContext | apply flow_retryWaiting | apply flow_terminateToken
    | apply flow_withdrawToken

theorem flow_resolveOverdue {M : Nat} (hM : Within 0x667ffc8c M) {z : State} {s : State} (hs : Flow M z s) :
    Flow M z (resolveOverdue s) := by
  unfold resolveOverdue
  try dsimp only
  repeat' with_reducible first
    | exact hM.of (by decide) | assumption | apply flow_foldl | apply flow_timeoutToken | split | intro _

theorem flow_execFaultTimeout {M : Nat} (hM : Within 0x667ffc8c M) {z : State} {token : BitVec 32} {s : State} (hs : Flow M z s) :
    FlowR M z (execFaultTimeout token s) := by
  unfold execFaultTimeout
  try dsimp only
  repeat' with_reducible first
    | exact hM.of (by decide) | assumption | apply flowR_next | exact flowR_refused _ | apply flow_timeoutToken | split

theorem flow_acceptInv {M : Nat} (hM : Within 0x2018004 M) {z s : State} {range : Option (Nat × Nat)} (hs : Flow M z s) : Flow M z (acceptInv s range) := by
  unfold acceptInv
  repeat' with_reducible first
    | exact hM.of (by decide) | assumption | apply flow_withTrans | apply flow_invalidate | apply flow_orReg
    | apply flow_setRegField | split

theorem flow_execInvalidateByTag {M : Nat} (hM : Within 0x2018004 M) {z s : State} (hs : Flow M z s) : FlowR M z (execInvalidateByTag s) := by
  unfold execInvalidateByTag
  repeat' with_reducible first
    | exact hM.of (by decide) | assumption | apply flowR_enabled | apply flow_acceptInv | apply flow_pfWrite | intro _

theorem flow_execInvalidateByRange {M : Nat} (hM : Within 0x2018004 M) {z s : State} (hs : Flow M z s) : FlowR M z (execInvalidateByRange s) := by
  unfold execInvalidateByRange
  repeat' with_reducible first
    | exact hM.of (by decide) | assumption | apply flowR_enabled | apply flow_acceptInv | apply flow_pfWrite | intro _

theorem flow_endInval {M : Nat} (hM : Within 0x667ffc8c M) {z s : State} {v : Inval} (hs : Flow M z s) : Flow M z (endInval s v) := by
  unfold endInval
  try dsimp only
  repeat' with_reducible first
    | exact hM.of (by decide) | exact hM.raw (by decide) | assumption | (refine Flow.raw ?_; assumption) | apply flow_settleDue | apply flow_withCtxs | apply flow_modSub | apply flow_setRegField
    | apply flow_writeDirectory | split

theorem flow_execInvalidationDrainDone {M : Nat} (hM : Within 0x667ffc8c M) {z s : State} (hs : Flow M z s) : FlowR M z (execInvalidationDrainDone s) := by
  unfold execInvalidationDrainDone
  repeat' with_reducible first
    | exact hM.of (by decide) | assumption | apply flowR_next | exact flowR_refused _ | apply flow_withTrans
    | apply flow_endInval | split

end Sys2Proof.Machine
end

