-- ==== Sys2Proof/Laws/FlowThreads.lean ====
section
/-!
SUPPORT. What the operations of thread instructions leave true: the lemmas `flow_<operation>` say that its next state can follow
(`Flow`, Sys2Proof/Laws/Flow.lean).
-/

namespace Sys2Proof.Machine

set_option Elab.async false

/-! Sys2Proof/Machine/Operands.lean. -/

theorem flow_park {M : Nat} (hM : Within 0x4000000 M) {z s : State} {c slot : Nat} {g : Group} {cond : Cond} (hs : Flow M z s) :
    Flow M z (park s c slot g cond) := flow_setGroup (hM.of (by decide)) hs

theorem flow_wait_ {M : Nat} (hM : Within 0x4000000 M) {z : State} {s : State} {c : Nat} {slot : Nat} {g : Group} {cond : Cond} (hs : Flow M z s) :
    Flow M z (wait_ s c slot g cond) := by
  unfold wait_
  try dsimp only
  repeat' with_reducible first | exact hM.of (by decide) | assumption | apply flow_setGroup

theorem flow_askLine {M : Nat} (hM : Within 0x66fffc8c M) {z s : State} {core : Nat} {icache : Bool} {ctx q va pa leaf : Nat} (hs : Flow M z s) :
    Flow M z (askLine s core icache ctx q va pa leaf).st := by
  unfold askLine
  try dsimp only
  repeat' with_reducible first
    | exact hM.of (by decide) | assumption | apply flow_clusterEvent | apply flow_memRead | apply flow_modCore
    | apply flow_setSlice | split

theorem flow_askLine_home {M : Nat} (hM : Within 0x4800004 M) {z s : State} {core : Nat} {icache : Bool} {ctx q va pa leaf : Nat} (hs : Flow M z s)
    (hl : leafStrict leaf = false) {sl : Nat} (hh : homeSlice s (pa / 128 * 128) = some sl) :
    Flow M z (askLine s core icache ctx q va pa leaf).st := by
  unfold askLine
  simp only [hl, hh]
  repeat' with_reducible first
    | exact hM.of (by decide) | assumption | apply flow_clusterEvent | apply flow_modCore | apply flow_setSlice | split

theorem flow_prefetchNext {M : Nat} (hM : Within 0x4810004 M) {z s : State} {core slot pc : Nat} {g : Group} (hs : Flow M z s) :
    Flow M z (prefetchNext s core slot g pc) := by
  unfold prefetchNext
  dsimp only
  split
  · exact hs
  · split
    · exact hs
    · have ht := flow_tlbLookup (hM.of (by decide)) hs (by assumption)
      split
      · split
        · exact hs
        · rename_i hn
          simp only [Bool.or_eq_true, not_or, Bool.not_eq_true, Option.isNone_eq_false_iff] at hn
          obtain ⟨sl, hh⟩ := Option.isSome_iff_exists.mp hn.2
          exact flow_askLine_home (hM.of (by decide)) ht hn.1 hh
      · exact hs

theorem flow_fetch_word {M : Nat} (hM : Within 0x4810004 M) {z s t : State} {core slot pc w : Nat} {g : Group} (hs : Flow M z s)
    (h : fetch s core slot g pc = .word w t) : Flow M z t := by
  unfold fetch at h
  dsimp only at h
  repeat' split at h
  all_goals first
    | (cases h; exact flow_prefetchNext (hM.of (by decide)) hs)
    | (cases h; exact flow_prefetchNext (hM.of (by decide)) (flow_setCore (hM.of (by decide)) hs))
    | cases h

theorem flow_fetch_stall {M : Nat} (hM : Within 0x66fffc8c M) {z s t : State} {core slot pc : Nat} {g : Group} (hs : Flow M z s)
    (h : fetch s core slot g pc = .stall t) : Flow M z t := by
  unfold fetch at h
  dsimp only at h
  repeat' split at h
  all_goals try cases h
  · exact flow_park (hM.of (by decide)) hs
  · exact flow_wait_ (hM.of (by decide)) (flow_snd (by assumption) (flow_xlate (hM.of (by decide)) hs))
  · exact flow_park (hM.of (by decide)) (flow_askLine (hM.of (by decide)) (flow_coreEvent (hM.of (by decide))
      (flow_snd (by assumption) (flow_xlate (hM.of (by decide)) hs))))
  · exact flow_askLine (hM.of (by decide)) (flow_coreEvent (hM.of (by decide))
      (flow_snd (by assumption) (flow_xlate (hM.of (by decide)) hs)))

theorem flow_noted {M : Nat} (hM : Within 0x4000006 M) {z : State} {t : Thread} {s : State} {fault : Bool} (hs : Flow M z s) : Flow M z (noted t s fault) := flow_noteIssue (hM.of (by decide)) hs

theorem flow_failIssue {M : Nat} (hM : Within 0x601b486 M) {z : State} {t : Thread} {s : State} {status : Nat} (hs : Flow M z s) :
    FlowR M z (failIssue t s status) := by
  unfold failIssue
  repeat' with_reducible first
    | exact hM.of (by decide) | assumption | apply flowR_next | apply flow_failSubmission | apply flow_noted

theorem flow_spillPaths {M : Nat} (hM : Within 0x4000000 M) {z s : State} {core : Nat} {g : Group} (hs : Flow M z s) : Flow M z (spillPaths s core g) := by
  unfold spillPaths
  repeat' with_reducible first | exact hM.of (by decide) | assumption | apply flow_foldl | apply flow_lsWrite | intro _

theorem flow_reloadPaths {M : Nat} (hM : Within 0x4000000 M) {z : State} {s : State} {core : Nat} {slot : Nat} (hs : Flow M z s) :
    Flow M z (reloadPaths s core slot) := by
  unfold reloadPaths
  try dsimp only
  repeat' with_reducible first | exact hM.of (by decide) | assumption | apply flow_setGroup | split

theorem flow_placeGroup {M : Nat} (hM : Within 0x4000000 M) {z s : State} {core slot : Nat} {g : Group} (hs : Flow M z s) :
    Flow M z (placeGroup s core slot g) := by
  unfold placeGroup
  try dsimp only
  repeat' with_reducible first | exact hM.of (by decide) | assumption | apply flow_setGroup | apply flow_spillPaths | split

theorem flow_finish {M : Nat} (hM : Within 0x4000006 M) {z : State} {t : Thread} {s : State} {f : Group → Group} (hs : Flow M z s) : FlowR M z (finish t s f) := by
  unfold finish
  try dsimp only
  repeat' with_reducible first
    | exact hM.of (by decide) | assumption | apply flowR_next | apply flow_noted | apply flow_placeGroup | split

theorem flow_stallOn {M : Nat} (hM : Within 0x4000000 M) {z : State} {t : Thread} {s : State} {c : Cond} (hs : Flow M z s) : FlowR M z (stallOn t s c) := by
  unfold stallOn
  repeat' with_reducible first | exact hM.of (by decide) | assumption | apply flowR_next | apply flow_park

theorem flow_holdOn {M : Nat} (hM : Within 0x4000000 M) {z : State} {t : Thread} {s : State} {c : Cond} (hs : Flow M z s) :
    FlowR M z (holdOn t s c) := by
  unfold holdOn
  try dsimp only
  repeat' with_reducible first | exact hM.of (by decide) | assumption | apply flowR_next | apply flow_wait_

/-- What the issue of an instruction leaves true when its effect does (R126, R131, R135). -/
theorem flow_issue {M : Nat} (hM : Within 0x66fffc8e M) {z s : State} {core slot : Nat} {w : BitVec 64} {major op : Nat} {name : String}
    {body : Thread → State → Res} (hs : Flow M z s) (hbody : ∀ t s, Flow M z s → FlowR M z (body t s)) :
    FlowR M z (issue core slot w major op name s body) := by
  have hr := flow_reloadPaths (hM.of (by decide)) (core := core) (slot := slot) hs
  unfold issue
  dsimp only
  split
  · exact flowR_refused _
  · split
    · exact flowR_refused _
    · split
      · exact flowR_refused _
      · split
        · exact flow_failIssue (hM.of (by decide)) hr
        · split
          · exact flowR_next (flow_fetch_stall (hM.of (by decide)) hr (by assumption))
          · have h := flow_fetch_word (hM.of (by decide)) hr (by assumption)
            split
            · exact flowR_refused _
            · split
              · exact flow_failIssue (hM.of (by decide)) h
              · split
                · exact flowR_refused _
                · split
                  · exact flow_failIssue (hM.of (by decide)) h
                  · split
                    · exact flow_stallOn (hM.of (by decide)) h
                    · exact hbody _ _ h

/-! Sys2Proof/Machine/Lane.lean. -/

theorem flow_lintElems {M : Nat} (hM : Within 0x66fffc8e M) {z : State} {core slot : Nat} {w : BitVec 64} {op : Nat} {name : String} {sources : Nat} {f :
    Nat → Bool → Nat → Nat → Nat → Nat → Nat} {s : State} (hs : Flow M z s) :
    FlowR M z (lintElems core slot w op name sources f s) := by
  unfold lintElems
  try dsimp only
  repeat' with_reducible first
    | exact hM.of (by decide) | assumption | apply flow_failIssue | apply flow_finish | apply flow_issue | split | intro _

theorem flow_execLintAdd {M : Nat} (hM : Within 0x66fffc8e M) {z : State} {core slot : Nat} {w : BitVec 64} {s : State} (hs : Flow M z s) :
    FlowR M z (execLintAdd core slot w s) := flow_lintElems (hM.of (by decide)) hs

theorem flow_execLintSub {M : Nat} (hM : Within 0x66fffc8e M) {z : State} {core slot : Nat} {w : BitVec 64} {s : State} (hs : Flow M z s) :
    FlowR M z (execLintSub core slot w s) := flow_lintElems (hM.of (by decide)) hs

theorem flow_execLintMul {M : Nat} (hM : Within 0x66fffc8e M) {z : State} {core slot : Nat} {w : BitVec 64} {s : State} (hs : Flow M z s) :
    FlowR M z (execLintMul core slot w s) := flow_lintElems (hM.of (by decide)) hs

theorem flow_execLintMulh {M : Nat} (hM : Within 0x66fffc8e M) {z : State} {core slot : Nat} {w : BitVec 64} {s : State} (hs : Flow M z s) :
    FlowR M z (execLintMulh core slot w s) := flow_lintElems (hM.of (by decide)) hs

theorem flow_execLintMad {M : Nat} (hM : Within 0x66fffc8e M) {z : State} {core slot : Nat} {w : BitVec 64} {s : State} (hs : Flow M z s) :
    FlowR M z (execLintMad core slot w s) := flow_lintElems (hM.of (by decide)) hs

theorem flow_execLintDiv {M : Nat} (hM : Within 0x66fffc8e M) {z : State} {core slot : Nat} {w : BitVec 64} {s : State} (hs : Flow M z s) :
    FlowR M z (execLintDiv core slot w s) := flow_lintElems (hM.of (by decide)) hs

theorem flow_execLintRem {M : Nat} (hM : Within 0x66fffc8e M) {z : State} {core slot : Nat} {w : BitVec 64} {s : State} (hs : Flow M z s) :
    FlowR M z (execLintRem core slot w s) := flow_lintElems (hM.of (by decide)) hs

theorem flow_execLintAnd {M : Nat} (hM : Within 0x66fffc8e M) {z : State} {core slot : Nat} {w : BitVec 64} {s : State} (hs : Flow M z s) :
    FlowR M z (execLintAnd core slot w s) := flow_lintElems (hM.of (by decide)) hs

theorem flow_execLintOr {M : Nat} (hM : Within 0x66fffc8e M) {z : State} {core slot : Nat} {w : BitVec 64} {s : State} (hs : Flow M z s) :
    FlowR M z (execLintOr core slot w s) := flow_lintElems (hM.of (by decide)) hs

theorem flow_execLintXor {M : Nat} (hM : Within 0x66fffc8e M) {z : State} {core slot : Nat} {w : BitVec 64} {s : State} (hs : Flow M z s) :
    FlowR M z (execLintXor core slot w s) := flow_lintElems (hM.of (by decide)) hs

theorem flow_execLintShl {M : Nat} (hM : Within 0x66fffc8e M) {z : State} {core slot : Nat} {w : BitVec 64} {s : State} (hs : Flow M z s) :
    FlowR M z (execLintShl core slot w s) := flow_lintElems (hM.of (by decide)) hs

theorem flow_execLintShr {M : Nat} (hM : Within 0x66fffc8e M) {z : State} {core slot : Nat} {w : BitVec 64} {s : State} (hs : Flow M z s) :
    FlowR M z (execLintShr core slot w s) := flow_lintElems (hM.of (by decide)) hs

theorem flow_execLintMin {M : Nat} (hM : Within 0x66fffc8e M) {z : State} {core slot : Nat} {w : BitVec 64} {s : State} (hs : Flow M z s) :
    FlowR M z (execLintMin core slot w s) := flow_lintElems (hM.of (by decide)) hs

theorem flow_execLintMax {M : Nat} (hM : Within 0x66fffc8e M) {z : State} {core slot : Nat} {w : BitVec 64} {s : State} (hs : Flow M z s) :
    FlowR M z (execLintMax core slot w s) := flow_lintElems (hM.of (by decide)) hs

theorem flow_execLintCmp {M : Nat} (hM : Within 0x66fffc8e M) {z : State} {core slot : Nat} {w : BitVec 64} {s : State} (hs : Flow M z s) :
    FlowR M z (execLintCmp core slot w s) := flow_lintElems (hM.of (by decide)) hs

theorem flow_execLintSel {M : Nat} (hM : Within 0x66fffc8e M) {z : State} {core slot : Nat} {w : BitVec 64} {s : State} (hs : Flow M z s) :
    FlowR M z (execLintSel core slot w s) := flow_lintElems (hM.of (by decide)) hs

theorem flow_execLintAddi {M : Nat} (hM : Within 0x66fffc8e M) {z : State} {core slot : Nat} {w : BitVec 64} {s : State} (hs : Flow M z s) :
    FlowR M z (execLintAddi core slot w s) := flow_lintElems (hM.of (by decide)) hs

theorem flow_execLintClz {M : Nat} (hM : Within 0x66fffc8e M) {z : State} {core slot : Nat} {w : BitVec 64} {s : State} (hs : Flow M z s) :
    FlowR M z (execLintClz core slot w s) := flow_lintElems (hM.of (by decide)) hs

theorem flow_execLintPopc {M : Nat} (hM : Within 0x66fffc8e M) {z : State} {core slot : Nat} {w : BitVec 64} {s : State} (hs : Flow M z s) :
    FlowR M z (execLintPopc core slot w s) := flow_lintElems (hM.of (by decide)) hs

theorem flow_lintWhole {M : Nat} (hM : Within 0x66fffc8e M) {z : State} {core slot : Nat} {w : BitVec 64} {op : Nat} {name : String} {srcs : Nat → List Nat}
    {v : Thread → Nat → Nat → Nat} {s : State} (hs : Flow M z s) :
    FlowR M z (lintWhole core slot w op name srcs v s) := by
  unfold lintWhole
  try dsimp only
  repeat' with_reducible first
    | exact hM.of (by decide) | assumption | apply flow_failIssue | apply flow_finish | apply flow_issue | split | intro _

theorem flow_execLintMovs {M : Nat} (hM : Within 0x66fffc8e M) {z : State} {core slot : Nat} {w : BitVec 64} {s : State} (hs : Flow M z s) :
    FlowR M z (execLintMovs core slot w s) := flow_lintWhole (hM.of (by decide)) hs

theorem flow_execLintLaneid {M : Nat} (hM : Within 0x66fffc8e M) {z : State} {core slot : Nat} {w : BitVec 64} {s : State} (hs : Flow M z s) :
    FlowR M z (execLintLaneid core slot w s) := flow_lintWhole (hM.of (by decide)) hs

theorem flow_execLintShfl {M : Nat} (hM : Within 0x66fffc8e M) {z : State} {core slot : Nat} {w : BitVec 64} {s : State} (hs : Flow M z s) :
    FlowR M z (execLintShfl core slot w s) := flow_lintWhole (hM.of (by decide)) hs

theorem flow_execLintVote {M : Nat} (hM : Within 0x66fffc8e M) {z : State} {core slot : Nat} {w : BitVec 64} {s : State} (hs : Flow M z s) :
    FlowR M z (execLintVote core slot w s) := by
  unfold execLintVote
  try dsimp only
  repeat' with_reducible first
    | exact hM.of (by decide) | assumption | apply flow_failIssue | apply flow_finish | apply flow_freshWord
    | apply flow_issue | split | intro _

theorem flow_lfpElems {M : Nat} (hM : Within 0x66fffc8e M) {z : State} {core slot : Nat} {w : BitVec 64} {op : Nat} {name : String} {sources : Nat} {f : Nat
    → Nat → Nat → Nat → Nat → Nat} {s : State} (hs : Flow M z s) :
    FlowR M z (lfpElems core slot w op name sources f s) := by
  unfold lfpElems
  try dsimp only
  repeat' with_reducible first
    | exact hM.of (by decide) | assumption | apply flow_failIssue | apply flow_finish | apply flow_issue | split | intro _

theorem flow_execFadd {M : Nat} (hM : Within 0x66fffc8e M) {z : State} {core slot : Nat} {w : BitVec 64} {s : State} (hs : Flow M z s) :
    FlowR M z (execFadd core slot w s) := flow_lfpElems (hM.of (by decide)) hs

theorem flow_execFsub {M : Nat} (hM : Within 0x66fffc8e M) {z : State} {core slot : Nat} {w : BitVec 64} {s : State} (hs : Flow M z s) :
    FlowR M z (execFsub core slot w s) := flow_lfpElems (hM.of (by decide)) hs

theorem flow_execFmul {M : Nat} (hM : Within 0x66fffc8e M) {z : State} {core slot : Nat} {w : BitVec 64} {s : State} (hs : Flow M z s) :
    FlowR M z (execFmul core slot w s) := flow_lfpElems (hM.of (by decide)) hs

theorem flow_execFfma {M : Nat} (hM : Within 0x66fffc8e M) {z : State} {core slot : Nat} {w : BitVec 64} {s : State} (hs : Flow M z s) :
    FlowR M z (execFfma core slot w s) := flow_lfpElems (hM.of (by decide)) hs

theorem flow_execFmin {M : Nat} (hM : Within 0x66fffc8e M) {z : State} {core slot : Nat} {w : BitVec 64} {s : State} (hs : Flow M z s) :
    FlowR M z (execFmin core slot w s) := flow_lfpElems (hM.of (by decide)) hs

theorem flow_execFmax {M : Nat} (hM : Within 0x66fffc8e M) {z : State} {core slot : Nat} {w : BitVec 64} {s : State} (hs : Flow M z s) :
    FlowR M z (execFmax core slot w s) := flow_lfpElems (hM.of (by decide)) hs

theorem flow_execFabs {M : Nat} (hM : Within 0x66fffc8e M) {z : State} {core slot : Nat} {w : BitVec 64} {s : State} (hs : Flow M z s) :
    FlowR M z (execFabs core slot w s) := flow_lfpElems (hM.of (by decide)) hs

theorem flow_execFneg {M : Nat} (hM : Within 0x66fffc8e M) {z : State} {core slot : Nat} {w : BitVec 64} {s : State} (hs : Flow M z s) :
    FlowR M z (execFneg core slot w s) := flow_lfpElems (hM.of (by decide)) hs

theorem flow_execFcmp {M : Nat} (hM : Within 0x66fffc8e M) {z : State} {core slot : Nat} {w : BitVec 64} {s : State} (hs : Flow M z s) :
    FlowR M z (execFcmp core slot w s) := flow_lfpElems (hM.of (by decide)) hs

theorem flow_execFdiv {M : Nat} (hM : Within 0x66fffc8e M) {z : State} {core slot : Nat} {w : BitVec 64} {s : State} (hs : Flow M z s) :
    FlowR M z (execFdiv core slot w s) := flow_lfpElems (hM.of (by decide)) hs

theorem flow_execFsqrt {M : Nat} (hM : Within 0x66fffc8e M) {z : State} {core slot : Nat} {w : BitVec 64} {s : State} (hs : Flow M z s) :
    FlowR M z (execFsqrt core slot w s) := flow_lfpElems (hM.of (by decide)) hs

theorem flow_execFrcp {M : Nat} (hM : Within 0x66fffc8e M) {z : State} {core slot : Nat} {w : BitVec 64} {s : State} (hs : Flow M z s) :
    FlowR M z (execFrcp core slot w s) := flow_lfpElems (hM.of (by decide)) hs

theorem flow_execFrsq {M : Nat} (hM : Within 0x66fffc8e M) {z : State} {core slot : Nat} {w : BitVec 64} {s : State} (hs : Flow M z s) :
    FlowR M z (execFrsq core slot w s) := flow_lfpElems (hM.of (by decide)) hs

theorem flow_execFexp2 {M : Nat} (hM : Within 0x66fffc8e M) {z : State} {core slot : Nat} {w : BitVec 64} {s : State} (hs : Flow M z s) :
    FlowR M z (execFexp2 core slot w s) := flow_lfpElems (hM.of (by decide)) hs

theorem flow_execFlog2 {M : Nat} (hM : Within 0x66fffc8e M) {z : State} {core slot : Nat} {w : BitVec 64} {s : State} (hs : Flow M z s) :
    FlowR M z (execFlog2 core slot w s) := flow_lfpElems (hM.of (by decide)) hs

theorem flow_execFsin {M : Nat} (hM : Within 0x66fffc8e M) {z : State} {core slot : Nat} {w : BitVec 64} {s : State} (hs : Flow M z s) :
    FlowR M z (execFsin core slot w s) := flow_lfpElems (hM.of (by decide)) hs

theorem flow_execFcos {M : Nat} (hM : Within 0x66fffc8e M) {z : State} {core slot : Nat} {w : BitVec 64} {s : State} (hs : Flow M z s) :
    FlowR M z (execFcos core slot w s) := flow_lfpElems (hM.of (by decide)) hs

theorem flow_laneConvert {M : Nat} (hM : Within 0x601b486 M) {z : State} {t : Thread} {s : State} {ok : Bool} {n wFrom wTo : Nat} {f : Nat → Nat} (hs :
    Flow M z s) :
    FlowR M z (laneConvert t s ok n wFrom wTo f) := by
  unfold laneConvert
  try dsimp only
  repeat' with_reducible first | exact hM.of (by decide) | assumption | apply flow_failIssue | apply flow_finish | split

theorem flow_execFcvt {M : Nat} (hM : Within 0x66fffc8e M) {z : State} {core slot : Nat} {w : BitVec 64} {s : State} (hs : Flow M z s) :
    FlowR M z (execFcvt core slot w s) := by
  unfold execFcvt
  repeat' with_reducible first | exact hM.of (by decide) | assumption | apply flow_issue | apply flow_laneConvert | intro _

theorem flow_execIcvt {M : Nat} (hM : Within 0x66fffc8e M) {z : State} {core slot : Nat} {w : BitVec 64} {s : State} (hs : Flow M z s) :
    FlowR M z (execIcvt core slot w s) := by
  unfold execIcvt
  repeat' with_reducible first
    | exact hM.of (by decide) | assumption | apply flow_issue | apply flow_laneConvert | split | intro _

theorem flow_salu {M : Nat} (hM : Within 0x66fffc8e M) {z : State} {core slot : Nat} {w : BitVec 64} {op : Nat} {name : String} {f : Nat → Nat → Nat → Nat}
    {s : State} (hs : Flow M z s) :
    FlowR M z (salu core slot w op name f s) := by
  unfold salu
  repeat' with_reducible first | exact hM.of (by decide) | assumption | apply flow_finish | apply flow_issue | intro _

theorem flow_execSaluAdd {M : Nat} (hM : Within 0x66fffc8e M) {z : State} {core slot : Nat} {w : BitVec 64} {s : State} (hs : Flow M z s) :
    FlowR M z (execSaluAdd core slot w s) := flow_salu (hM.of (by decide)) hs

theorem flow_execSaluSub {M : Nat} (hM : Within 0x66fffc8e M) {z : State} {core slot : Nat} {w : BitVec 64} {s : State} (hs : Flow M z s) :
    FlowR M z (execSaluSub core slot w s) := flow_salu (hM.of (by decide)) hs

theorem flow_execSaluMul {M : Nat} (hM : Within 0x66fffc8e M) {z : State} {core slot : Nat} {w : BitVec 64} {s : State} (hs : Flow M z s) :
    FlowR M z (execSaluMul core slot w s) := flow_salu (hM.of (by decide)) hs

theorem flow_execSaluDiv {M : Nat} (hM : Within 0x66fffc8e M) {z : State} {core slot : Nat} {w : BitVec 64} {s : State} (hs : Flow M z s) :
    FlowR M z (execSaluDiv core slot w s) := flow_salu (hM.of (by decide)) hs

theorem flow_execSaluRem {M : Nat} (hM : Within 0x66fffc8e M) {z : State} {core slot : Nat} {w : BitVec 64} {s : State} (hs : Flow M z s) :
    FlowR M z (execSaluRem core slot w s) := flow_salu (hM.of (by decide)) hs

theorem flow_execSaluAnd {M : Nat} (hM : Within 0x66fffc8e M) {z : State} {core slot : Nat} {w : BitVec 64} {s : State} (hs : Flow M z s) :
    FlowR M z (execSaluAnd core slot w s) := flow_salu (hM.of (by decide)) hs

theorem flow_execSaluOr {M : Nat} (hM : Within 0x66fffc8e M) {z : State} {core slot : Nat} {w : BitVec 64} {s : State} (hs : Flow M z s) :
    FlowR M z (execSaluOr core slot w s) := flow_salu (hM.of (by decide)) hs

theorem flow_execSaluXor {M : Nat} (hM : Within 0x66fffc8e M) {z : State} {core slot : Nat} {w : BitVec 64} {s : State} (hs : Flow M z s) :
    FlowR M z (execSaluXor core slot w s) := flow_salu (hM.of (by decide)) hs

theorem flow_execSaluShl {M : Nat} (hM : Within 0x66fffc8e M) {z : State} {core slot : Nat} {w : BitVec 64} {s : State} (hs : Flow M z s) :
    FlowR M z (execSaluShl core slot w s) := flow_salu (hM.of (by decide)) hs

theorem flow_execSaluShr {M : Nat} (hM : Within 0x66fffc8e M) {z : State} {core slot : Nat} {w : BitVec 64} {s : State} (hs : Flow M z s) :
    FlowR M z (execSaluShr core slot w s) := flow_salu (hM.of (by decide)) hs

theorem flow_execSaluSar {M : Nat} (hM : Within 0x66fffc8e M) {z : State} {core slot : Nat} {w : BitVec 64} {s : State} (hs : Flow M z s) :
    FlowR M z (execSaluSar core slot w s) := flow_salu (hM.of (by decide)) hs

theorem flow_execSaluMin {M : Nat} (hM : Within 0x66fffc8e M) {z : State} {core slot : Nat} {w : BitVec 64} {s : State} (hs : Flow M z s) :
    FlowR M z (execSaluMin core slot w s) := flow_salu (hM.of (by decide)) hs

theorem flow_execSaluMax {M : Nat} (hM : Within 0x66fffc8e M) {z : State} {core slot : Nat} {w : BitVec 64} {s : State} (hs : Flow M z s) :
    FlowR M z (execSaluMax core slot w s) := flow_salu (hM.of (by decide)) hs

theorem flow_execSaluCmp {M : Nat} (hM : Within 0x66fffc8e M) {z : State} {core slot : Nat} {w : BitVec 64} {s : State} (hs : Flow M z s) :
    FlowR M z (execSaluCmp core slot w s) := flow_salu (hM.of (by decide)) hs

theorem flow_execSaluLi {M : Nat} (hM : Within 0x66fffc8e M) {z : State} {core slot : Nat} {w : BitVec 64} {s : State} (hs : Flow M z s) :
    FlowR M z (execSaluLi core slot w s) := by
  unfold execSaluLi
  repeat' with_reducible first | exact hM.of (by decide) | assumption | apply flow_finish | apply flow_issue | split | intro _

theorem flow_execSaluAddi {M : Nat} (hM : Within 0x66fffc8e M) {z : State} {core slot : Nat} {w : BitVec 64} {s : State} (hs : Flow M z s) :
    FlowR M z (execSaluAddi core slot w s) := flow_salu (hM.of (by decide)) hs

theorem flow_execSread {M : Nat} (hM : Within 0x66fffc8e M) {z : State} {core slot : Nat} {w : BitVec 64} {s : State} (hs : Flow M z s) :
    FlowR M z (execSread core slot w s) := by
  unfold execSread
  repeat' with_reducible first
    | exact hM.of (by decide) | assumption | apply flow_finish | apply flow_freshWord | apply flow_issue | split | intro _

theorem flow_execXtos {M : Nat} (hM : Within 0x66fffc8e M) {z : State} {core slot : Nat} {w : BitVec 64} {s : State} (hs : Flow M z s) :
    FlowR M z (execXtos core slot w s) := by
  unfold execXtos
  try dsimp only
  repeat' with_reducible first
    | exact hM.of (by decide) | assumption | apply flow_failIssue | apply flow_finish | apply flow_issue | split | intro _

/-! Sys2Proof/Machine/LaneMemory.lean. -/

theorem flow_noteReplay {M : Nat} (hM : Within 0x4 M) {z s : State} {t : Thread} {n : Nat} {each : Bool} (hs : Flow M z s) :
    Flow M z (noteReplay s t n each) := flow_coreEvent (hM.of (by decide)) hs

theorem flow_execLdl {M : Nat} (hM : Within 0x66fffc8e M) {z : State} {core slot : Nat} {w : BitVec 64} {s : State} (hs : Flow M z s) :
    FlowR M z (execLdl core slot w s) := by
  unfold execLdl
  try dsimp only
  repeat' with_reducible first
    | exact hM.of (by decide) | assumption | apply flow_failIssue | apply flow_finish | apply flow_issue
    | apply flow_noteReplay | split | intro _

theorem flow_execStl {M : Nat} (hM : Within 0x66fffc8e M) {z : State} {core slot : Nat} {w : BitVec 64} {s : State} (hs : Flow M z s) :
    FlowR M z (execStl core slot w s) := by
  unfold execStl
  try dsimp only
  repeat' with_reducible first
    | exact hM.of (by decide) | assumption | apply flow_foldl | apply flow_failIssue | apply flow_finish | apply flow_issue
    | apply flow_lsWrite | apply flow_noteReplay | split | intro _

theorem flow_atticMerge {M : Nat} (hM : Within 0x66fffc8c M) {z s : State} {master : Nat} {q : Option Nat} {pa : Nat} {m : Assoc Byte} (hs : Flow M z s) :
    Flow M z (atticMerge s master q pa m) := by
  unfold atticMerge
  repeat' with_reducible first | exact hM.of (by decide) | assumption | apply flow_foldl | apply flow_atticWriteLine | intro _

theorem flow_performStore {M : Nat} (hM : Within 0x66fffc8c M) {z s : State} {e : SbEntry} (hs : Flow M z s) : Flow M z (performStore s e) := flow_atticMerge (hM.of (by decide)) hs

theorem flow_sendStore {M : Nat} (hM : Within 0x66fffc8c M) {z : State} {core : Nat} {s : State} {e : SbEntry} (hs : Flow M z s) :
    Flow M z (sendStore core s e) := by
  unfold sendStore
  try dsimp only
  repeat' with_reducible first
    | exact hM.of (by decide) | assumption | apply flow_modCore | apply flow_performStore | apply flow_setSlice | split

theorem flow_sendStores {M : Nat} (hM : Within 0x66fffc8c M) {z : State} {s : State} {core : Nat} (hs : Flow M z s) :
    Flow M z (sendStores s core) := by
  unfold sendStores
  try dsimp only
  repeat' with_reducible first
    | exact hM.of (by decide) | assumption | apply flow_foldl | apply flow_modCore | apply flow_sendStore

theorem flow_endFences {M : Nat} (hM : Within 0x4000404 M) {z : State} {s : State} {core : Nat} (hs : Flow M z s) :
    Flow M z (endFences s core) := by
  unfold endFences
  try dsimp only
  repeat' with_reducible first | exact hM.of (by decide) | assumption | apply flow_clearWhere | apply flow_modCore

theorem flow_fenceFirst {M : Nat} (hM : Within 0x66fffc8c M) {z : State} {t : Thread} {s : State} {k : State → Res} (hs : Flow M z s) (hk : ∀ a0, Flow M z a0 → FlowR M z (k a0)) :
    FlowR M z (fenceFirst t s k) := by
  unfold fenceFirst
  try dsimp only
  repeat' with_reducible first
    | exact hM.of (by decide) | assumption | apply flowR_next | apply flow_park | apply flow_sendStores | apply hk | split

theorem flow_dropData {M : Nat} (hM : Within 0x4000000 M) {z s : State} {core : Nat} {p : Nat → Nat → Nat → Bool} (hs : Flow M z s) :
    Flow M z (dropData s core p) := by
  unfold dropData
  repeat' with_reducible first | exact hM.of (by decide) | assumption | apply flow_modCore

theorem flow_discardData {M : Nat} (hM : Within 0x4000000 M) {z s : State} {core ctx : Nat} (hs : Flow M z s) : Flow M z (discardData s core ctx) := flow_dropData (hM.of (by decide)) hs

theorem flow_updateLines {M : Nat} (hM : Within 0x4000000 M) {z s : State} {core pa off : Nat} {b : List Byte} (hs : Flow M z s) :
    Flow M z (updateLines s core pa off b) := flow_modCore (hM.of (by decide)) hs

theorem flow_bufferStore {M : Nat} (hM : Within 0x66fffc8c M) {z : State} {s : State} {core : Nat} {ctx : Nat} {q : Nat} {va : Nat} {pa : Nat} {b : List Byte} (hs : Flow M z s) :
    Flow M z (bufferStore s core ctx q va pa b) := by
  unfold bufferStore
  try dsimp only
  repeat' with_reducible first
    | exact hM.of (by decide) | assumption | apply flow_modCore | apply flow_sendStore | apply flow_setCore
    | apply flow_updateLines | split

theorem flow_xlateLanes {M : Nat} (hM : Within 0x4012004 M) {z : State} {t : Thread} {acc : Nat} {s : State} (hs : Flow M z s) :
    Flow M z (xlateLanes t acc s).2 := by
  unfold xlateLanes
  try dsimp only
  repeat' with_reducible first
    | exact hM.of (by decide) | assumption | apply flow_foldl_snd | apply flow_wait_ | apply flow_xlate | split | intro _
    | refine flow_snd (by assumption) ?_

theorem flow_loadLine {M : Nat} (hM : Within 0x4000000 M) {z s t : State} {x : Thread} {va : Nat} {b : List Byte} (hs : Flow M z s) (h : loadLine s x va =
    some (b, t)) :
    Flow M z t := by
  unfold loadLine at h
  dsimp only at h
  repeat' split at h
  all_goals cases h
  all_goals first | exact hs | exact flow_setCore (hM.of (by decide)) hs

theorem flow_loadOne {M : Nat} (hM : Within 0x66fffc8c M) {z : State} {t : Thread} {n : Nat} {r : Loads} {x : Nat × Nat × Nat × Nat} (hr : Flow M z r.st) :
    Flow M z (loadOne t n r x).st := by
  unfold loadOne
  dsimp only
  split
  · exact hr
  · split
    · exact flow_memRead (hM.of (by decide)) hr
    · split
      · exact flow_loadLine (hM.of (by decide)) hr (by assumption)
      · split
        · exact hr
        · exact flow_askLine (hM.of (by decide)) (flow_coreEvent (hM.of (by decide)) hr)

/-- The loads of an instruction's threads. -/
theorem flow_loads {M : Nat} (hM : Within 0x66fffc8c M) {z : State} {t : Thread} {n : Nat} {l : List (Nat × Nat × Nat × Nat)} {r : Loads} (hr : Flow M z r.st) :
    Flow M z (l.foldl (loadOne t n) r).st := by
  induction l generalizing r with
  | nil => exact hr
  | cons a l ih => exact ih (flow_loadOne (hM.of (by decide)) hr)

theorem flow_execLdc {M : Nat} (hM : Within 0x66fffc8e M) {z s : State} {core slot : Nat} {w : BitVec 64} (hs : Flow M z s) : FlowR M z (execLdc core slot w s) := by
  refine flow_issue (hM.of (by decide)) hs fun t s hs => ?_
  dsimp only
  split
  · exact flow_failIssue (hM.of (by decide)) hs
  · split
    · exact flow_failIssue (hM.of (by decide)) hs
    · split
      · exact flowR_next (flow_snd (by assumption) (flow_xlateLanes (hM.of (by decide)) hs))
      · have h := flow_snd (by assumption) (flow_xlateLanes (hM.of (by decide)) hs)
        have h := flow_loads (hM.of (by decide)) (t := t) (n := 2 ^ wType t.w) (r := ⟨[], [], true, _⟩) (l := ‹_›) h
        split
        · exact flowR_next h
        · exact flow_finish (hM.of (by decide)) h

theorem flow_storeOne {M : Nat} (hM : Within 0x66fffc8c M) {z : State} {t : Thread} {n k : Nat} {s : State} {x : Nat × Nat × Nat × Nat} (hs : Flow M z s) :
    Flow M z (storeOne t n k s x) := by
  unfold storeOne
  repeat' with_reducible first | exact hM.of (by decide) | assumption | apply flow_bufferStore | apply flow_memWrite | split

theorem flow_execStc {M : Nat} (hM : Within 0x66fffc8e M) {z : State} {core : Nat} {slot : Nat} {w : BitVec 64} {s : State} (hs : Flow M z s) :
    FlowR M z (execStc core slot w s) := by
  unfold execStc
  try dsimp only
  repeat' with_reducible first
    | exact hM.of (by decide) | assumption | apply flowR_next | apply flow_foldl | apply flow_failIssue | apply flow_finish
    | apply flow_issue | apply flow_stallOn | apply flow_storeOne | apply flow_xlateLanes | split | intro _
    | refine flow_snd (by assumption) ?_

theorem flow_atlOne {M : Nat} (hM : Within 0x4000000 M) {z : State} {t : Thread} {n : Nat} {r : List (Nat × Nat) × State} {l : Nat} (hr : Flow M z r.2) :
    Flow M z (atlOne t n r l).2 := flow_lsWrite (hM.of (by decide)) hr

theorem flow_execAtl {M : Nat} (hM : Within 0x66fffc8e M) {z : State} {core slot : Nat} {w : BitVec 64} {s : State} (hs : Flow M z s) :
    FlowR M z (execAtl core slot w s) := by
  unfold execAtl
  try dsimp only
  repeat' with_reducible first
    | exact hM.of (by decide) | assumption | apply flow_foldl_snd | apply flow_atlOne | apply flow_failIssue
    | apply flow_finish | apply flow_issue | apply flow_noteReplay | split | intro _

theorem flow_atcOne {M : Nat} (hM : Within 0x66fffc8c M) {z : State} {t : Thread} {n : Nat} {r : List (Nat × Nat) × State} {x : Nat × Nat × Nat × Nat} (hr :
    Flow M z r.2) :
    Flow M z (atcOne t n r x).2 := by
  unfold atcOne
  try dsimp only
  repeat' with_reducible first
    | exact hM.of (by decide) | assumption | apply flow_atticReadLine | apply flow_atticWriteLine | apply flow_dropData
    | apply flow_memRead | apply flow_memWrite | split

theorem flow_execAtc {M : Nat} (hM : Within 0x66fffc8e M) {z : State} {core : Nat} {slot : Nat} {w : BitVec 64} {s : State} (hs : Flow M z s) :
    FlowR M z (execAtc core slot w s) := by
  unfold execAtc
  try dsimp only
  repeat' with_reducible first
    | exact hM.of (by decide) | assumption | apply flowR_next | apply flow_foldl_snd | apply flow_atcOne
    | apply flow_discardData | apply flow_failIssue | apply flow_fenceFirst | apply flow_finish | apply flow_issue
    | apply flow_stallOn | apply flow_xlateLanes | split | intro _ | refine flow_snd (by assumption) ?_

theorem flow_execStoreBufferDrain {M : Nat} (hM : Within 0x66fffc8c M) {z : State} {core : Nat} {i : Nat} {s : State} (hs : Flow M z s) :
    FlowR M z (execStoreBufferDrain core i s) := by
  unfold execStoreBufferDrain
  try dsimp only
  repeat' with_reducible first
    | exact hM.of (by decide) | assumption | apply flowR_next | apply flowR_needs | apply flow_modCore | apply flow_sendStore
    | intro _

theorem flow_deliverSector {M : Nat} (hM : Within 0x4000404 M) {z : State} {s : State} {core : Nat} {f : LineFill} {d : List Byte} (hs : Flow M z s) :
    Flow M z (deliverSector s core f d) := by
  unfold deliverSector
  try dsimp only
  repeat' with_reducible first | exact hM.of (by decide) | assumption | apply flow_clearWhere | apply flow_modCore | split

theorem flow_execCacheSectorArrival {M : Nat} (hM : Within 0x4000404 M) {z : State} {core : Nat} {icache : Bool} {i : Nat} {s : State} (hs : Flow M z s) :
    FlowR M z (execCacheSectorArrival core icache i s) := by
  unfold execCacheSectorArrival
  try dsimp only
  repeat' with_reducible first
    | exact hM.of (by decide) | assumption | apply flowR_next | exact flowR_refused _ | apply flow_deliverSector
    | apply flow_setCore | split

theorem flow_dropCode {M : Nat} (hM : Within 0x4000404 M) {z s : State} {core ctx : Nat} (hs : Flow M z s) : Flow M z (dropCode s core ctx) := by
  unfold dropCode
  repeat' with_reducible first | exact hM.of (by decide) | assumption | apply flow_clearWhere | apply flow_modCore

/-! Sys2Proof/Machine/Handles.lean. -/

theorem flow_badHandle {M : Nat} (hM : Within 0x667ffc8c M) {z : State} {s : State} {q : Nat} {ctx : Nat} {gen : Bool} {hs : List Nat} (ws : Flow M z s) :
    Flow M z (badHandle s q ctx gen hs) := by
  unfold badHandle
  try dsimp only
  repeat' with_reducible first
    | exact hM.of (by decide) | assumption | apply flow_foldl | apply flow_failSubmission | apply flow_loseContext
    | apply flow_poisonHits | split | intro _

/-! Sys2Proof/Machine/Control.lean. -/

theorem flow_finishAt {M : Nat} (hM : Within 0x4000006 M) {z : State} {t : Thread} {s : State} {f : Group → Group} (hs : Flow M z s) :
    FlowR M z (finishAt t s f) := by
  unfold finishAt
  try dsimp only
  repeat' with_reducible first
    | exact hM.of (by decide) | assumption | apply flowR_next | apply flow_noted | apply flow_placeGroup | split

theorem flow_jumpTo {M : Nat} (hM : Within 0x4000006 M) {z : State} {t : Thread} {s : State} {target : Nat} (hs : Flow M z s) : FlowR M z (jumpTo t s target) := flow_finishAt (hM.of (by decide)) hs

theorem flow_divideTo {M : Nat} (hM : Within 0x601b486 M) {z : State} {t : Thread} {s : State} {run : Nat × Nat} {others : List (Nat × Nat)} {back : Nat}
    (hs : Flow M z s) :
    FlowR M z (divideTo t s run others back) := by
  unfold divideTo
  repeat' with_reducible first | exact hM.of (by decide) | assumption | apply flow_failIssue | apply flow_finishAt | split

theorem flow_branchLanes {M : Nat} (hM : Within 0x66fffc8e M) {z : State} {core slot : Nat} {w : BitVec 64} {op : Nat} {name : String} {takes : Nat → Bool}
    {s : State} (hs : Flow M z s) :
    FlowR M z (branchLanes core slot w op name takes s) := by
  unfold branchLanes
  try dsimp only
  repeat' with_reducible first
    | exact hM.of (by decide) | assumption | apply flow_divideTo | apply flow_failIssue | apply flow_finish | apply flow_issue
    | apply flow_jumpTo | split | intro _

theorem flow_execBz {M : Nat} (hM : Within 0x66fffc8e M) {z : State} {core slot : Nat} {w : BitVec 64} {s : State} (hs : Flow M z s) :
    FlowR M z (execBz core slot w s) := flow_branchLanes (hM.of (by decide)) hs

theorem flow_execBnz {M : Nat} (hM : Within 0x66fffc8e M) {z : State} {core slot : Nat} {w : BitVec 64} {s : State} (hs : Flow M z s) :
    FlowR M z (execBnz core slot w s) := flow_branchLanes (hM.of (by decide)) hs

theorem flow_branchScalar {M : Nat} (hM : Within 0x66fffc8e M) {z : State} {core slot : Nat} {w : BitVec 64} {op : Nat} {name : String} {takes : Nat → Bool}
    {s : State} (hs : Flow M z s) :
    FlowR M z (branchScalar core slot w op name takes s) := by
  unfold branchScalar
  repeat' with_reducible first
    | exact hM.of (by decide) | assumption | apply flow_finish | apply flow_issue | apply flow_jumpTo | split | intro _

theorem flow_execBsz {M : Nat} (hM : Within 0x66fffc8e M) {z : State} {core slot : Nat} {w : BitVec 64} {s : State} (hs : Flow M z s) :
    FlowR M z (execBsz core slot w s) := flow_branchScalar (hM.of (by decide)) hs

theorem flow_execBsnz {M : Nat} (hM : Within 0x66fffc8e M) {z : State} {core slot : Nat} {w : BitVec 64} {s : State} (hs : Flow M z s) :
    FlowR M z (execBsnz core slot w s) := flow_branchScalar (hM.of (by decide)) hs

theorem flow_execJmp {M : Nat} (hM : Within 0x66fffc8e M) {z : State} {core slot : Nat} {w : BitVec 64} {s : State} (hs : Flow M z s) :
    FlowR M z (execJmp core slot w s) := by
  unfold execJmp
  repeat' with_reducible first | exact hM.of (by decide) | assumption | apply flow_issue | apply flow_jumpTo | intro _

theorem flow_execCall {M : Nat} (hM : Within 0x66fffc8e M) {z : State} {core slot : Nat} {w : BitVec 64} {s : State} (hs : Flow M z s) :
    FlowR M z (execCall core slot w s) := by
  unfold execCall
  repeat' with_reducible first
    | exact hM.of (by decide) | assumption | apply flow_failIssue | apply flow_finishAt | apply flow_issue | split | intro _

theorem flow_execJr {M : Nat} (hM : Within 0x66fffc8e M) {z : State} {core slot : Nat} {w : BitVec 64} {s : State} (hs : Flow M z s) :
    FlowR M z (execJr core slot w s) := by
  unfold execJr
  repeat' with_reducible first
    | exact hM.of (by decide) | assumption | apply flow_divideTo | apply flow_failIssue | apply flow_finish | apply flow_issue
    | apply flow_jumpTo | split | intro _

theorem flow_execExit {M : Nat} (hM : Within 0x66fffc8e M) {z : State} {core slot : Nat} {w : BitVec 64} {s : State} (hs : Flow M z s) :
    FlowR M z (execExit core slot w s) := by
  unfold execExit
  try dsimp only
  repeat' with_reducible first
    | exact hM.of (by decide) | assumption | apply flowR_next | apply flow_dropGroup | apply flow_issue | apply flow_noteEnd
    | apply flow_noted | apply flow_placeGroup | split | intro _

theorem flow_execPathRotation {M : Nat} (hM : Within 0x4000004 M) {z : State} {core : Nat} {slot : Nat} {s : State} (hs : Flow M z s) :
    FlowR M z (execPathRotation core slot s) := by
  unfold execPathRotation
  try dsimp only
  repeat' with_reducible first
    | exact hM.of (by decide) | assumption | apply flowR_next | exact flowR_refused _ | apply flowR_needs
    | apply flow_coreEvent | apply flow_placeGroup | apply flow_reloadPaths | split | intro _

theorem flow_execGroupResident {M : Nat} (hM : Within 0x4000404 M) {z : State} {core : Nat} {s : State} (hs : Flow M z s) :
    FlowR M z (execGroupResident core s) := by
  unfold execGroupResident
  repeat' with_reducible first
    | exact hM.of (by decide) | assumption | apply flowR_next | apply flowR_needs | apply flow_askWake | apply flow_setCore
    | intro _

theorem flow_execGroupPromote {M : Nat} (hM : Within 0x4000000 M) {z : State} {core : Nat} {s : State} (hs : Flow M z s) : FlowR M z (execGroupPromote core s) := by
  unfold execGroupPromote
  repeat' with_reducible first
    | exact hM.of (by decide) | assumption | apply flowR_next | exact flowR_refused _ | apply flowR_needs
    | apply flow_setGroup | split | intro _

theorem flow_execCoreClockGate {M : Nat} (hM : Within 0x4000000 M) {z : State} {core : Nat} {s : State} (hs : Flow M z s) :
    FlowR M z (execCoreClockGate core s) := by
  unfold execCoreClockGate
  repeat' with_reducible first | exact hM.of (by decide) | assumption | apply flowR_enabled | apply flow_setCore | intro _

/-! Sys2Proof/Machine/Sync.lean. -/

theorem flow_touchCtr {M : Nat} (hM : Within 0x667ffc8c M) {z : State} {s : State} {ctx : Nat} {n : Nat} (hs : Flow M z s) :
    Flow M z (touchCtr s ctx n) := by
  unfold touchCtr
  try dsimp only
  repeat' with_reducible first
    | exact hM.of (by decide) | exact hM.raw (by decide) | assumption | (refine Flow.raw ?_; assumption) | apply flow_backCtrs | apply flow_devRead | apply flow_modCtx
    | apply flow_settleDue | split

theorem flow_withRemote {M : Nat} (hM : Within 0x667ffc8c M) {z : State} {t : Thread} {s : State} {n : Nat} {k : State → Res} (hs : Flow M z s) (hk : ∀ a0, Flow M z a0 → FlowR M z (k a0)) :
    FlowR M z (withRemote t s n k) := by
  unfold withRemote
  try dsimp only
  repeat' with_reducible first
    | exact hM.of (by decide) | assumption | apply flow_holdOn | apply flow_touchCtr | apply hk | split

theorem flow_execRemoteCounterFetched {M : Nat} (hM : Within 0x667ffc8c M) {z : State} {ctx n : Nat} {s : State} (hs : Flow M z s) :
    FlowR M z (execRemoteCounterFetched ctx n s) := by
  unfold execRemoteCounterFetched
  try dsimp only
  repeat' with_reducible first
    | exact hM.of (by decide) | assumption | apply flowR_next | exact flowR_refused _ | apply flow_foldl
    | apply flow_clearWhere | apply flow_touchCtr | split | intro _

theorem flow_blockPath {M : Nat} (hM : Within 0x4000006 M) {z : State} {t : Thread} {s : State} {remote : Bool} {n : Nat} {thr : Word32} (hs : Flow M z s) :
    FlowR M z (blockPath t s remote n thr) := flow_finishAt (hM.of (by decide)) hs

theorem flow_execCwait {M : Nat} (hM : Within 0x66fffc8e M) {z : State} {core slot : Nat} {w : BitVec 64} {s : State} (hs : Flow M z s) :
    FlowR M z (execCwait core slot w s) := by
  unfold execCwait
  try dsimp only
  repeat' with_reducible first
    | exact hM.of (by decide) | assumption | apply flow_blockPath | apply flow_failIssue | apply flow_finish
    | apply flow_issue | split | intro _

theorem flow_execRcwait {M : Nat} (hM : Within 0x66fffc8e M) {z : State} {core slot : Nat} {w : BitVec 64} {s : State} (hs : Flow M z s) :
    FlowR M z (execRcwait core slot w s) := by
  unfold execRcwait
  repeat' with_reducible first
    | exact hM.of (by decide) | assumption | apply flow_blockPath | apply flow_failIssue | apply flow_finish
    | apply flow_issue | apply flow_withRemote | split | intro _

theorem flow_writeCtr {M : Nat} (hM : Within 0x66fffc8e M) {z : State} {core : Nat} {slot : Nat} {w : BitVec 64} {op : Nat} {name : String} {localW : State → Thread → Nat → State} {remoteW : State → Thread → Nat → State} {s : State} (hlocalW : ∀ a0 a1 a2, Flow M z a0 → Flow M z (localW a0 a1 a2)) (hremoteW : ∀ a0 a1 a2, Flow M z a0 → Flow M z (remoteW a0 a1 a2)) (hs : Flow M z s) :
    FlowR M z (writeCtr core slot w op name localW remoteW s) := by
  unfold writeCtr
  try dsimp only
  repeat' with_reducible first
    | exact hM.of (by decide) | assumption | apply flow_failIssue | apply flow_fenceFirst | apply flow_finish
    | apply flow_issue | apply flow_withRemote | apply hlocalW | apply hremoteW | split | intro _

theorem flow_execCset {M : Nat} (hM : Within 0x66fffc8e M) {z : State} {core slot : Nat} {w : BitVec 64} {s : State} (hs : Flow M z s) :
    FlowR M z (execCset core slot w s) := by
  unfold execCset
  repeat' with_reducible first
    | exact hM.of (by decide) | assumption | apply flow_setLocalCtr | apply flow_setRemoteCtr | apply flow_writeCtr | intro _

theorem flow_execCadd {M : Nat} (hM : Within 0x66fffc8e M) {z : State} {core slot : Nat} {w : BitVec 64} {s : State} (hs : Flow M z s) :
    FlowR M z (execCadd core slot w s) := by
  unfold execCadd
  repeat' with_reducible first
    | exact hM.of (by decide) | assumption | apply flow_addLocalCtr | apply flow_addRemoteCtr | apply flow_writeCtr | intro _

theorem flow_execCread {M : Nat} (hM : Within 0x66fffc8e M) {z : State} {core slot : Nat} {w : BitVec 64} {s : State} (hs : Flow M z s) :
    FlowR M z (execCread core slot w s) := by
  unfold execCread
  repeat' with_reducible first
    | exact hM.of (by decide) | assumption | apply flow_failIssue | apply flow_finish | apply flow_issue
    | apply flow_withRemote | split | intro _

theorem flow_completeBarrier {M : Nat} (hM : Within 0x4002404 M) {z s : State} {ctx n : Nat} (hs : Flow M z s) : Flow M z (completeBarrier s ctx n) := by
  unfold completeBarrier
  repeat' with_reducible first
    | exact hM.of (by decide) | assumption | apply flow_foldl | apply flow_clearWhere | apply flow_discardData
    | apply flow_modCtx | split | intro _

theorem flow_barrierRaised {M : Nat} (hM : Within 0x4002404 M) {z s : State} {ctx n : Nat} (hs : Flow M z s) : Flow M z (barrierRaised s ctx n) := by
  unfold barrierRaised
  repeat' with_reducible first | exact hM.of (by decide) | assumption | apply flow_completeBarrier | split

theorem flow_arriveBar {M : Nat} (hM : Within 0x4002406 M) {z : State} {t : Thread} {s : State} (hs : Flow M z s) :
    FlowR M z (arriveBar t s) := by
  unfold arriveBar
  try dsimp only
  repeat' with_reducible first
    | exact hM.of (by decide) | assumption | apply flowR_next | apply flow_barrierRaised | apply flow_modCtx
    | apply flow_noted | apply flow_park | apply flow_placeGroup | split

theorem flow_execBar {M : Nat} (hM : Within 0x66fffc8e M) {z : State} {core : Nat} {slot : Nat} {w : BitVec 64} {s : State} (hs : Flow M z s) :
    FlowR M z (execBar core slot w s) := by
  unfold execBar
  try dsimp only
  repeat' with_reducible first
    | exact hM.of (by decide) | assumption | apply flow_arriveBar | apply flow_failIssue | apply flow_fenceFirst
    | apply flow_issue | split | intro _

theorem flow_execFence {M : Nat} (hM : Within 0x66fffc8e M) {z : State} {core : Nat} {slot : Nat} {w : BitVec 64} {s : State} (hs : Flow M z s) :
    FlowR M z (execFence core slot w s) := by
  unfold execFence
  try dsimp only
  repeat' with_reducible first
    | exact hM.of (by decide) | assumption | apply flow_discardData | apply flow_failIssue | apply flow_fenceFirst
    | apply flow_finish | apply flow_issue | apply flow_stallOn | split | intro _

theorem flow_execYield {M : Nat} (hM : Within 0x66fffc8e M) {z : State} {core slot : Nat} {w : BitVec 64} {s : State} (hs : Flow M z s) :
    FlowR M z (execYield core slot w s) := by
  unfold execYield
  try dsimp only
  repeat' with_reducible first
    | exact hM.of (by decide) | assumption | apply flowR_next | apply flow_clearCond | apply flow_issue | apply flow_noted
    | apply flow_park | apply flow_placeGroup | split | intro _

theorem flow_execIcinv {M : Nat} (hM : Within 0x66fffc8e M) {z : State} {core slot : Nat} {w : BitVec 64} {s : State} (hs : Flow M z s) :
    FlowR M z (execIcinv core slot w s) := by
  unfold execIcinv
  repeat' with_reducible first
    | exact hM.of (by decide) | assumption | apply flow_dropCode | apply flow_finish | apply flow_issue | intro _

theorem flow_execDcinv {M : Nat} (hM : Within 0x66fffc8e M) {z : State} {core slot : Nat} {w : BitVec 64} {s : State} (hs : Flow M z s) :
    FlowR M z (execDcinv core slot w s) := by
  unfold execDcinv
  repeat' with_reducible first
    | exact hM.of (by decide) | assumption | apply flow_discardData | apply flow_dropData | apply flow_finish
    | apply flow_issue | split | intro _

theorem flow_raiseProgress {M : Nat} (hM : Within 0x8000 M) {z s : State} {q : Nat} (hs : Flow M z s) : Flow M z (raiseProgress s q) := by
  unfold raiseProgress
  repeat' with_reducible first | exact hM.of (by decide) | assumption | apply flow_modSub | split

theorem flow_execProg {M : Nat} (hM : Within 0x66fffc8e M) {z : State} {core slot : Nat} {w : BitVec 64} {s : State} (hs : Flow M z s) :
    FlowR M z (execProg core slot w s) := by
  unfold execProg
  repeat' with_reducible first
    | exact hM.of (by decide) | assumption | apply flow_finish | apply flow_issue | apply flow_raiseProgress | intro _

/-! Sys2Proof/Machine/Copies.lean. -/

theorem flow_execAcopy {M : Nat} (hM : Within 0x66fffc8e M) {z : State} {core slot : Nat} {w : BitVec 64} {s : State} (hs : Flow M z s) :
    FlowR M z (execAcopy core slot w s) := by
  unfold execAcopy
  try dsimp only
  repeat' with_reducible first
    | exact hM.of (by decide) | assumption | apply flowR_next | apply flow_badHandle | apply flow_failIssue
    | apply flow_finish | apply flow_issue | apply flow_noted | apply flow_setCore | apply flow_stallOn | split | intro _

theorem flow_execAcopyStart {M : Nat} (hM : Within 0x4010004 M) {z : State} {core : Nat} {s : State} (hs : Flow M z s) : FlowR M z (execAcopyStart core s) := by
  unfold execAcopyStart
  try dsimp only
  repeat' with_reducible first
    | exact hM.of (by decide) | assumption | apply flowR_next | exact flowR_refused _ | apply flow_askPages
    | apply flow_setCore | split

theorem flow_copyPiece {M : Nat} (hM : Within 0x66fffc8c M) {z s : State} {core : Nat} {c : Copy} {o n : Nat} (hs : Flow M z s) :
    Flow M z (copyPiece s core c o n).st := by
  unfold copyPiece
  try dsimp only
  repeat' with_reducible first
    | exact hM.of (by decide) | assumption | apply flow_lsWrite | apply flow_virtRead | apply flow_virtWrite | split

theorem flow_copyPieces {M : Nat} (hM : Within 0x66fffc8c M) {z : State} {core : Nat} {c : Copy} {s : State} (hs : Flow M z s) :
    Flow M z (copyPieces core c s).st := by
  unfold copyPieces
  try dsimp only
  repeat' with_reducible first
    | exact hM.of (by decide) | assumption | apply flow_foldl_st | apply flow_copyPiece | apply flow_modCore | split | intro _

theorem flow_leaveCopy {M : Nat} (hM : Within 0x4008404 M) {z : State} {s : State} {core : Nat} {c : Copy} (hs : Flow M z s) :
    Flow M z (leaveCopy s core c) := by
  unfold leaveCopy
  try dsimp only
  repeat' with_reducible first
    | exact hM.of (by decide) | assumption | apply flow_clearWhere | apply flow_modCore | apply flow_noteEnd

theorem flow_execAcopyComplete {M : Nat} (hM : Within 0x66fffc8c M) {z : State} {core : Nat} {i : Nat} {s : State} (hs : Flow M z s) :
    FlowR M z (execAcopyComplete core i s) := by
  unfold execAcopyComplete
  try dsimp only
  repeat' with_reducible first
    | exact hM.of (by decide) | assumption | apply flowR_next | exact flowR_refused _ | apply flowR_needs
    | apply flow_addLocalCtr | apply flow_copyPiece | apply flow_copyPieces | apply flow_forgetReq | apply flow_leaveCopy
    | split | intro _

theorem flow_latchBell {M : Nat} (hM : Within 0x667ffc8c M) {z : State} {s : State} {q : Nat} {w : Word32} (hs : Flow M z s) :
    Flow M z (latchBell s q w) := by
  unfold latchBell
  try dsimp only
  repeat' with_reducible first
    | exact hM.of (by decide) | exact hM.raw (by decide) | assumption | (refine Flow.raw ?_; assumption) | apply flow_withFront | apply flow_modQueue | apply flow_settleDue
    | apply flow_writeQueueTable

theorem flow_execDbell {M : Nat} (hM : Within 0x66fffc8e M) {z : State} {core : Nat} {slot : Nat} {w : BitVec 64} {s : State} (hs : Flow M z s) :
    FlowR M z (execDbell core slot w s) := by
  unfold execDbell
  try dsimp only
  repeat' with_reducible first
    | exact hM.of (by decide) | assumption | apply flow_finishAt | apply flow_issue | apply flow_sendStores
    | apply flow_setCore | intro _

theorem flow_execDbellPost {M : Nat} (hM : Within 0x667ffc8c M) {z : State} {core slot : Nat} {s : State} (hs : Flow M z s) :
    FlowR M z (execDbellPost core slot s) := by
  unfold execDbellPost
  try dsimp only
  repeat' with_reducible first
    | exact hM.of (by decide) | assumption | apply flowR_next | exact flowR_refused _ | apply flow_clearCond
    | apply flow_latchBell | apply flow_modCore | apply flow_placeGroup | split

end Sys2Proof.Machine
end

