-- ==== Sys2Proof/Laws/FlowArray.lean ====
section
/-!
SUPPORT. What the operations of the matrix array and the element engine leave true: the lemmas `flow_<operation>` say that its next state can follow
(`Flow`, Sys2Proof/Laws/Flow.lean).
-/

namespace Sys2Proof.Machine

set_option Elab.async false

/-! Sys2Proof/Machine/Matrix.lean. -/

theorem flow_modArray {M : Nat} (hM : Within 0x4000000 M) {z s : State} {c : Nat} {f : ArraySt → ArraySt} (hs : Flow M z s) : Flow M z (modArray s c f) := flow_modCore (hM.of (by decide)) hs

theorem flow_doGroup {M : Nat} (hM : Within 0x4000004 M) {z s : State} {c : Nat} {k : Bank} {x : RunArgs} {gi : Nat} (hs : Flow M z s) :
    Flow M z (doGroup s c k x gi) := by
  unfold doGroup
  repeat' with_reducible first
    | exact hM.of (by decide) | assumption | apply flow_coreEvent | apply flow_modArray | apply flow_opCount | split

theorem flow_doGroups {M : Nat} (hM : Within 0x4000004 M) {z s : State} {c : Nat} {k : Bank} {x : RunArgs} {gi n : Nat} (hs : Flow M z s) :
    Flow M z (doGroups s c k x gi n) := by
  unfold doGroups
  repeat' with_reducible first | exact hM.of (by decide) | assumption | apply flow_foldl | apply flow_doGroup | intro _

theorem flow_matrixWake {M : Nat} (hM : Within 0x4000404 M) {z s : State} {c : Nat} (hs : Flow M z s) : Flow M z (matrixWake s c) := by
  unfold matrixWake
  repeat' with_reducible first
    | exact hM.of (by decide) | assumption | apply flow_foldl | apply flow_clearCond | apply flow_clearWhere | split | intro _

theorem flow_passCore {M : Nat} (hM : Within 0x4000404 M) {z s : State} {c : Nat} (hs : Flow M z s) : Flow M z (passCore s c) := by
  unfold passCore
  repeat' with_reducible first | exact hM.of (by decide) | assumption | apply flow_clearWhere | apply flow_modCore | split

theorem flow_passOwnership {M : Nat} (hM : Within 0x4000404 M) {z s : State} (hs : Flow M z s) : Flow M z (passOwnership s) := by
  unfold passOwnership
  repeat' with_reducible first | exact hM.of (by decide) | assumption | apply flow_foldl | apply flow_passCore

theorem flow_giveArray {M : Nat} (hM : Within 0x4002000 M) {z s : State} {c ctx : Nat} (hs : Flow M z s) : Flow M z (giveArray s c ctx) := by
  unfold giveArray
  repeat' with_reducible first | exact hM.of (by decide) | assumption | apply flow_modCore | apply flow_modCtx | split

theorem flow_takeArray {M : Nat} (hM : Within 0x4002000 M) {z t' s : State} {c ctx : Nat} (hs : Flow M z s) (h : takeArray s c ctx = some t') : Flow M z t' := by
  unfold takeArray at h
  try dsimp only at h
  repeat' split at h
  all_goals cases h
  all_goals repeat' with_reducible first | exact hM.of (by decide) | assumption | apply flow_giveArray

theorem flow_issueMatrix {M : Nat} (hM : Within 0x66fffc8e M) {z : State} {core slot : Nat} {w : BitVec 64} {op : Nat} {name : String} {s : State} {body :
    Thread → State → Res} (hs : Flow M z s) (hbody : ∀ a0 a1, Flow M z a1 → FlowR M z (body a0 a1)) :
    FlowR M z (issueMatrix core slot w op name s body) := by
  unfold issueMatrix
  repeat' with_reducible first
    | exact hM.of (by decide) | assumption | apply flow_coreEvent | apply flow_issue | apply flow_stallOn
    | refine flow_takeArray (hM.of (by decide)) ?_ (by assumption) | apply hbody | split | intro _

theorem flow_enqueueOp {M : Nat} (hM : Within 0x4000006 M) {z : State} {t : Thread} {s : State} {planes : Nat} {cols : Nat} {put : ArraySt → MatOp → ArraySt} (hs : Flow M z s) :
    FlowR M z (enqueueOp t s planes cols put) := by
  unfold enqueueOp
  try dsimp only
  repeat' with_reducible first
    | exact hM.of (by decide) | assumption | apply flow_finish | apply flow_modArray | apply flow_stallOn | split

theorem flow_execMload {M : Nat} (hM : Within 0x66fffc8e M) {z : State} {core slot : Nat} {w : BitVec 64} {s : State} (hs : Flow M z s) :
    FlowR M z (execMload core slot w s) := by
  unfold execMload
  try dsimp only
  repeat' with_reducible first
    | exact hM.of (by decide) | assumption | apply flow_enqueueOp | apply flow_failIssue | apply flow_issueMatrix | split
    | intro _

theorem flow_execLoadPathStart {M : Nat} (hM : Within 0x4000000 M) {z : State} {core : Nat} {s : State} (hs : Flow M z s) :
    FlowR M z (execLoadPathStart core s) := by
  unfold execLoadPathStart
  try dsimp only
  repeat' with_reducible first
    | exact hM.of (by decide) | assumption | apply flowR_next | exact flowR_refused _ | apply flow_modArray | split

theorem flow_execGroupLoadDone {M : Nat} (hM : Within 0x4000404 M) {z : State} {core : Nat} {s : State} (hs : Flow M z s) :
    FlowR M z (execGroupLoadDone core s) := by
  unfold execGroupLoadDone
  try dsimp only
  repeat' with_reducible first
    | exact hM.of (by decide) | assumption | apply flowR_next | exact flowR_refused _ | apply flow_matrixWake
    | apply flow_modArray | apply flow_opCount | split

theorem flow_execMrun {M : Nat} (hM : Within 0x66fffc8e M) {z : State} {core slot : Nat} {w : BitVec 64} {s : State} (hs : Flow M z s) :
    FlowR M z (execMrun core slot w s) := by
  unfold execMrun
  try dsimp only
  repeat' with_reducible first
    | exact hM.of (by decide) | assumption | apply flow_enqueueOp | apply flow_failIssue | apply flow_issueMatrix | split
    | intro _

theorem flow_execMdrain {M : Nat} (hM : Within 0x66fffc8e M) {z : State} {core slot : Nat} {w : BitVec 64} {s : State} (hs : Flow M z s) :
    FlowR M z (execMdrain core slot w s) := by
  unfold execMdrain
  try dsimp only
  repeat' with_reducible first
    | exact hM.of (by decide) | assumption | apply flow_enqueueOp | apply flow_failIssue | apply flow_issueMatrix | split
    | intro _

theorem flow_execMclr {M : Nat} (hM : Within 0x66fffc8e M) {z : State} {core slot : Nat} {w : BitVec 64} {s : State} (hs : Flow M z s) :
    FlowR M z (execMclr core slot w s) := by
  unfold execMclr
  try dsimp only
  repeat' with_reducible first
    | exact hM.of (by decide) | assumption | apply flow_enqueueOp | apply flow_failIssue | apply flow_issueMatrix | split
    | intro _

theorem flow_execMtf {M : Nat} (hM : Within 0x66fffc8e M) {z : State} {core slot : Nat} {w : BitVec 64} {s : State} (hs : Flow M z s) :
    FlowR M z (execMtf core slot w s) := by
  unfold execMtf
  repeat' with_reducible first | exact hM.of (by decide) | assumption | apply flow_enqueueOp | apply flow_issueMatrix | intro _

theorem flow_execMreq {M : Nat} (hM : Within 0x66fffc8e M) {z : State} {core slot : Nat} {w : BitVec 64} {s : State} (hs : Flow M z s) :
    FlowR M z (execMreq core slot w s) := by
  unfold execMreq
  try dsimp only
  repeat' with_reducible first
    | exact hM.of (by decide) | assumption | apply flow_failIssue | apply flow_finish | apply flow_issue | apply flow_modArray
    | apply flow_opCount | split | intro _

theorem flow_execMflush {M : Nat} (hM : Within 0x66fffc8e M) {z : State} {core slot : Nat} {w : BitVec 64} {s : State} (hs : Flow M z s) :
    FlowR M z (execMflush core slot w s) := by
  unfold execMflush
  repeat' with_reducible first
    | exact hM.of (by decide) | assumption | apply flow_finish | apply flow_issueMatrix | apply flow_modArray | intro _

theorem flow_execMbcfg {M : Nat} (hM : Within 0x66fffc8e M) {z : State} {core slot : Nat} {w : BitVec 64} {s : State} (hs : Flow M z s) :
    FlowR M z (execMbcfg core slot w s) := by
  unfold execMbcfg
  try dsimp only
  repeat' with_reducible first
    | exact hM.of (by decide) | assumption | apply flow_failIssue | apply flow_finish | apply flow_issueMatrix
    | apply flow_modArray | apply flow_stallOn | split | intro _

theorem flow_execMfence {M : Nat} (hM : Within 0x66fffc8e M) {z : State} {core slot : Nat} {w : BitVec 64} {s : State} (hs : Flow M z s) :
    FlowR M z (execMfence core slot w s) := by
  unfold execMfence
  repeat' with_reducible first
    | exact hM.of (by decide) | assumption | apply flow_finish | apply flow_issueMatrix | apply flow_stallOn | split | intro _

theorem flow_execMstat {M : Nat} (hM : Within 0x66fffc8e M) {z : State} {core slot : Nat} {w : BitVec 64} {s : State} (hs : Flow M z s) :
    FlowR M z (execMstat core slot w s) := by
  unfold execMstat
  repeat' with_reducible first | exact hM.of (by decide) | assumption | apply flow_finish | apply flow_issueMatrix | intro _

theorem flow_execBatchWindowExpire {M : Nat} (hM : Within 0x4000004 M) {z : State} {core i : Nat} {s : State} (hs : Flow M z s) :
    FlowR M z (execBatchWindowExpire core i s) := by
  unfold execBatchWindowExpire
  repeat' with_reducible first
    | exact hM.of (by decide) | assumption | apply flowR_next | exact flowR_refused _ | apply flowR_needs
    | apply flow_coreEvent | apply flow_modArray | split | intro _

theorem flow_startOp {M : Nat} (hM : Within 0x601b484 M) {z s : State} {core : Nat} {o : MatOp} {rest : List MatOp} (hs : Flow M z s) :
    FlowR M z (startOp s core o rest) := by
  unfold startOp
  try dsimp only
  repeat' with_reducible first
    | exact hM.of (by decide) | assumption | apply flowR_next | exact flowR_refused _ | apply flow_failSubmission
    | apply flow_matrixWake | apply flow_modArray | split

theorem flow_failBatch {M : Nat} (hM : Within 0x601b484 M) {z s : State} {b : Batch} {status : Nat} (hs : Flow M z s) : Flow M z (failBatch s b status) := by
  unfold failBatch
  repeat' with_reducible first | exact hM.of (by decide) | assumption | apply flow_foldl | apply flow_failSubmission | intro _

theorem flow_startBatch {M : Nat} (hM : Within 0x601b484 M) {z s : State} {core : Nat} {b : Batch} {rest : List Batch} (hs : Flow M z s) :
    FlowR M z (startBatch s core b rest) := by
  unfold startBatch
  try dsimp only
  repeat' with_reducible first
    | exact hM.of (by decide) | assumption | apply flowR_next | apply flow_failBatch | apply flow_modArray
    | apply flow_opCount | split

theorem flow_execRunPathStart {M : Nat} (hM : Within 0x601b484 M) {z : State} {core : Nat} {s : State} (hs : Flow M z s) : FlowR M z (execRunPathStart core s) := by
  unfold execRunPathStart
  try dsimp only
  repeat' with_reducible first
    | exact hM.of (by decide) | assumption | exact flowR_refused _ | apply flow_startBatch | apply flow_startOp | split

theorem flow_streamPasses {M : Nat} (hM : Within 0x4000004 M) {z s : State} {core : Nat} {o : MatOp} {g : Nat} (hs : Flow M z s) :
    FlowR M z (streamPasses s core o g) := by
  unfold streamPasses
  try dsimp only
  repeat' with_reducible first
    | exact hM.of (by decide) | assumption | apply flowR_next | exact flowR_refused _ | apply flow_doGroups
    | apply flow_modArray | split

theorem flow_parityError {M : Nat} (hM : Within 0x601b484 M) {z s : State} {core b queue : Nat} (hs : Flow M z s) : Flow M z (parityError s core b queue) := by
  unfold parityError
  repeat' with_reducible first
    | exact hM.of (by decide) | assumption | apply flow_failSubmission | apply flow_modArray | apply flow_opCount

theorem flow_accumulatorError {M : Nat} (hM : Within 0x601b484 M) {z s : State} {core rows queue : Nat} (hs : Flow M z s) :
    Flow M z (accumulatorError s core rows queue) := by
  unfold accumulatorError
  repeat' with_reducible first
    | exact hM.of (by decide) | assumption | apply flow_failSubmission | apply flow_modArray | apply flow_opCount

theorem flow_accumulatorCorrected {M : Nat} (hM : Within 0x4 M) {z s : State} {core : Nat} (hs : Flow M z s) : Flow M z (accumulatorCorrected s core) := by
  unfold accumulatorCorrected
  repeat' with_reducible first | exact hM.of (by decide) | assumption | apply flow_coreEvent | apply flow_opCount

theorem flow_residentPasses {M : Nat} (hM : Within 0x4000004 M) {z s : State} {core : Nat} {o : MatOp} (hs : Flow M z s) : Flow M z (residentPasses s core o) := by
  unfold residentPasses
  try dsimp only
  repeat' with_reducible first | exact hM.of (by decide) | assumption | apply flow_doGroups | split

theorem flow_execRunDone {M : Nat} (hM : Within 0x601b486 M) {z : State} {core : Nat} {err : ArrayError} {s : State} (hs : Flow M z s) :
    FlowR M z (execRunDone core err s) := by
  unfold execRunDone
  try dsimp only
  repeat' with_reducible first
    | exact hM.of (by decide) | assumption | apply flowR_next | exact flowR_refused _ | apply flow_accumulatorCorrected
    | apply flow_accumulatorError | apply flow_doGroups | apply flow_failBatch | apply flow_freshWord | apply flow_matrixWake
    | apply flow_modArray | apply flow_noteEnd | apply flow_parityError | apply flow_residentPasses | split

theorem flow_drainRows {M : Nat} (hM : Within 0x4000000 M) {z s : State} {core ctx a base n stride cols fmt : Nat} (hs : Flow M z s) :
    Flow M z (drainRows s core ctx a base n stride cols fmt) := by
  unfold drainRows
  repeat' with_reducible first | exact hM.of (by decide) | assumption | apply flow_foldl | apply flow_lsWrite | split | intro _

theorem flow_drainOp {M : Nat} (hM : Within 0x601b484 M) {z s : State} {core : Nat} {err : ArrayError} {o : MatOp} (hs : Flow M z s) :
    FlowR M z (drainOp s core err o) := by
  unfold drainOp
  try dsimp only
  repeat' with_reducible first
    | exact hM.of (by decide) | assumption | apply flowR_next | apply flow_accumulatorCorrected | apply flow_accumulatorError
    | apply flow_addLocalCtr | apply flow_drainRows | apply flow_failSubmission | apply flow_matrixWake | apply flow_modArray
    | apply flow_noteEnd | apply flow_opCount | split

theorem flow_drainReq {M : Nat} (hM : Within 0x601b484 M) {z s : State} {core : Nat} {err : ArrayError} {b : Batch} {left : Nat} (hs : Flow M z s) :
    FlowR M z (drainReq s core err b left) := by
  unfold drainReq
  try dsimp only
  repeat' with_reducible first
    | exact hM.of (by decide) | assumption | apply flowR_next | apply flow_accumulatorCorrected | apply flow_accumulatorError
    | apply flow_addLocalCtr | apply flow_drainRows | apply flow_modArray | apply flow_noteEnd | apply flow_opCount | split

theorem flow_execDrainDone {M : Nat} (hM : Within 0x601b484 M) {z : State} {core : Nat} {err : ArrayError} {s : State} (hs : Flow M z s) :
    FlowR M z (execDrainDone core err s) := by
  unfold execDrainDone
  repeat' with_reducible first
    | exact hM.of (by decide) | assumption | exact flowR_refused _ | apply flow_drainOp | apply flow_drainReq | split

/-! Sys2Proof/Machine/Vector.lean. -/

theorem flow_modVec {M : Nat} (hM : Within 0x4000000 M) {z s : State} {c : Nat} {f : VecSt → VecSt} (hs : Flow M z s) : Flow M z (modVec s c f) := flow_modCore (hM.of (by decide)) hs

theorem flow_vecIssue {M : Nat} (hM : Within 0x66fffc8e M) {z : State} {core slot : Nat} {w : BitVec 64} {op : Nat} {name : String} {s : State} (hs : Flow M z s) :
    FlowR M z (vecIssue core slot w op name s) := by
  unfold vecIssue
  try dsimp only
  repeat' with_reducible first
    | exact hM.of (by decide) | assumption | apply flowR_next | apply flow_coreEvent | apply flow_failIssue
    | apply flow_finish | apply flow_issue | apply flow_modVec | apply flow_stallOn
    | refine flow_takeArray (hM.of (by decide)) ?_ (by assumption) | split | intro _

theorem flow_execVld {M : Nat} (hM : Within 0x66fffc8e M) {z : State} {core slot : Nat} {w : BitVec 64} {s : State} (hs : Flow M z s) :
    FlowR M z (execVld core slot w s) := flow_vecIssue (hM.of (by decide)) hs

theorem flow_execVst {M : Nat} (hM : Within 0x66fffc8e M) {z : State} {core slot : Nat} {w : BitVec 64} {s : State} (hs : Flow M z s) :
    FlowR M z (execVst core slot w s) := flow_vecIssue (hM.of (by decide)) hs

theorem flow_execVadd {M : Nat} (hM : Within 0x66fffc8e M) {z : State} {core slot : Nat} {w : BitVec 64} {s : State} (hs : Flow M z s) :
    FlowR M z (execVadd core slot w s) := flow_vecIssue (hM.of (by decide)) hs

theorem flow_execVsub {M : Nat} (hM : Within 0x66fffc8e M) {z : State} {core slot : Nat} {w : BitVec 64} {s : State} (hs : Flow M z s) :
    FlowR M z (execVsub core slot w s) := flow_vecIssue (hM.of (by decide)) hs

theorem flow_execVmul {M : Nat} (hM : Within 0x66fffc8e M) {z : State} {core slot : Nat} {w : BitVec 64} {s : State} (hs : Flow M z s) :
    FlowR M z (execVmul core slot w s) := flow_vecIssue (hM.of (by decide)) hs

theorem flow_execVfma {M : Nat} (hM : Within 0x66fffc8e M) {z : State} {core slot : Nat} {w : BitVec 64} {s : State} (hs : Flow M z s) :
    FlowR M z (execVfma core slot w s) := flow_vecIssue (hM.of (by decide)) hs

theorem flow_execVmin {M : Nat} (hM : Within 0x66fffc8e M) {z : State} {core slot : Nat} {w : BitVec 64} {s : State} (hs : Flow M z s) :
    FlowR M z (execVmin core slot w s) := flow_vecIssue (hM.of (by decide)) hs

theorem flow_execVmax {M : Nat} (hM : Within 0x66fffc8e M) {z : State} {core slot : Nat} {w : BitVec 64} {s : State} (hs : Flow M z s) :
    FlowR M z (execVmax core slot w s) := flow_vecIssue (hM.of (by decide)) hs

theorem flow_execVdiv {M : Nat} (hM : Within 0x66fffc8e M) {z : State} {core slot : Nat} {w : BitVec 64} {s : State} (hs : Flow M z s) :
    FlowR M z (execVdiv core slot w s) := flow_vecIssue (hM.of (by decide)) hs

theorem flow_execVsqrt {M : Nat} (hM : Within 0x66fffc8e M) {z : State} {core slot : Nat} {w : BitVec 64} {s : State} (hs : Flow M z s) :
    FlowR M z (execVsqrt core slot w s) := flow_vecIssue (hM.of (by decide)) hs

theorem flow_execVfn {M : Nat} (hM : Within 0x66fffc8e M) {z : State} {core slot : Nat} {w : BitVec 64} {s : State} (hs : Flow M z s) :
    FlowR M z (execVfn core slot w s) := flow_vecIssue (hM.of (by decide)) hs

theorem flow_execVcmp {M : Nat} (hM : Within 0x66fffc8e M) {z : State} {core slot : Nat} {w : BitVec 64} {s : State} (hs : Flow M z s) :
    FlowR M z (execVcmp core slot w s) := flow_vecIssue (hM.of (by decide)) hs

theorem flow_execVsel {M : Nat} (hM : Within 0x66fffc8e M) {z : State} {core slot : Nat} {w : BitVec 64} {s : State} (hs : Flow M z s) :
    FlowR M z (execVsel core slot w s) := flow_vecIssue (hM.of (by decide)) hs

theorem flow_execVcvt {M : Nat} (hM : Within 0x66fffc8e M) {z : State} {core slot : Nat} {w : BitVec 64} {s : State} (hs : Flow M z s) :
    FlowR M z (execVcvt core slot w s) := flow_vecIssue (hM.of (by decide)) hs

theorem flow_execVlogic {M : Nat} (hM : Within 0x66fffc8e M) {z : State} {core slot : Nat} {w : BitVec 64} {s : State} (hs : Flow M z s) :
    FlowR M z (execVlogic core slot w s) := flow_vecIssue (hM.of (by decide)) hs

theorem flow_execVshift {M : Nat} (hM : Within 0x66fffc8e M) {z : State} {core slot : Nat} {w : BitVec 64} {s : State} (hs : Flow M z s) :
    FlowR M z (execVshift core slot w s) := flow_vecIssue (hM.of (by decide)) hs

theorem flow_execVbcst {M : Nat} (hM : Within 0x66fffc8e M) {z : State} {core slot : Nat} {w : BitVec 64} {s : State} (hs : Flow M z s) :
    FlowR M z (execVbcst core slot w s) := flow_vecIssue (hM.of (by decide)) hs

theorem flow_execVred {M : Nat} (hM : Within 0x66fffc8e M) {z : State} {core slot : Nat} {w : BitVec 64} {s : State} (hs : Flow M z s) :
    FlowR M z (execVred core slot w s) := flow_vecIssue (hM.of (by decide)) hs

theorem flow_execVperm {M : Nat} (hM : Within 0x66fffc8e M) {z : State} {core slot : Nat} {w : BitVec 64} {s : State} (hs : Flow M z s) :
    FlowR M z (execVperm core slot w s) := flow_vecIssue (hM.of (by decide)) hs

theorem flow_execVmask {M : Nat} (hM : Within 0x66fffc8e M) {z : State} {core slot : Nat} {w : BitVec 64} {s : State} (hs : Flow M z s) :
    FlowR M z (execVmask core slot w s) := flow_vecIssue (hM.of (by decide)) hs

theorem flow_execViota {M : Nat} (hM : Within 0x66fffc8e M) {z : State} {core slot : Nat} {w : BitVec 64} {s : State} (hs : Flow M z s) :
    FlowR M z (execViota core slot w s) := flow_vecIssue (hM.of (by decide)) hs

theorem flow_execVprog {M : Nat} (hM : Within 0x66fffc8e M) {z : State} {core slot : Nat} {w : BitVec 64} {s : State} (hs : Flow M z s) :
    FlowR M z (execVprog core slot w s) := flow_vecIssue (hM.of (by decide)) hs

theorem flow_execVfence {M : Nat} (hM : Within 0x66fffc8e M) {z : State} {core : Nat} {slot : Nat} {w : BitVec 64} {s : State} (hs : Flow M z s) :
    FlowR M z (execVfence core slot w s) := by
  unfold execVfence
  try dsimp only
  repeat' with_reducible first
    | exact hM.of (by decide) | assumption | apply flow_coreEvent | apply flow_failIssue | apply flow_finish
    | apply flow_holdOn | apply flow_issue | apply flow_stallOn | refine flow_takeArray (hM.of (by decide)) ?_ (by assumption)
    | split | intro _

theorem flow_storeElems {M : Nat} (hM : Within 0x4000000 M) {z s : State} {core : Nat} {op : VecOp} (hs : Flow M z s) : Flow M z (storeElems s core op) := by
  unfold storeElems
  repeat' with_reducible first | exact hM.of (by decide) | assumption | apply flow_foldl | apply flow_lsWrite | split | intro _

theorem flow_vecWrite {M : Nat} (hM : Within 0x4000004 M) {z s : State} {core : Nat} {op : VecOp} (hs : Flow M z s) : Flow M z (vecWrite s core op) := by
  unfold vecWrite
  try dsimp only
  repeat' with_reducible first
    | exact hM.of (by decide) | assumption | apply flow_modVec | apply flow_opCount | apply flow_setGroup
    | apply flow_storeElems | split

theorem flow_vectorWake {M : Nat} (hM : Within 0x4000404 M) {z s : State} {c : Nat} (hs : Flow M z s) : Flow M z (vectorWake s c) := by
  unfold vectorWake
  repeat' with_reducible first | exact hM.of (by decide) | assumption | apply flow_foldl | apply flow_clearCond | intro _

theorem flow_execVectorExecute {M : Nat} (hM : Within 0x601b486 M) {z : State} {core : Nat} {err : Ecc} {s : State} (hs : Flow M z s) :
    FlowR M z (execVectorExecute core err s) := by
  unfold execVectorExecute
  try dsimp only
  repeat' with_reducible first
    | exact hM.of (by decide) | assumption | apply flowR_next | exact flowR_refused _ | apply flow_coreEvent
    | apply flow_failSubmission | apply flow_freshWord | apply flow_modCore | apply flow_modVec | apply flow_opCount
    | apply flow_vectorWake | split

theorem flow_execVectorComplete {M : Nat} (hM : Within 0x4008404 M) {z : State} {core : Nat} {s : State} (hs : Flow M z s) :
    FlowR M z (execVectorComplete core s) := by
  unfold execVectorComplete
  repeat' with_reducible first
    | exact hM.of (by decide) | assumption | apply flowR_next | exact flowR_refused _ | apply flow_modVec | apply flow_noteEnd
    | apply flow_opCount | apply flow_vecWrite | apply flow_vectorWake | split

theorem flow_execElementProgramRead {M : Nat} (hM : Within 0x66fffc8c M) {z : State} {core ctx h : Nat} {s : State} (hs : Flow M z s) :
    FlowR M z (execElementProgramRead core ctx h s) := by
  unfold execElementProgramRead
  try dsimp only
  repeat' with_reducible first
    | exact hM.of (by decide) | assumption | apply flowR_next | exact flowR_refused _ | apply flow_badHandle
    | apply flow_failSubmission | apply flow_modCore | apply flow_virtRead | split

end Sys2Proof.Machine
end

