-- ==== Sys2Proof/Laws/FlowStations.lean ====
section
/-!
SUPPORT. What the operations of draughts, stations, cellar engines and memory controllers leave true: the lemmas `flow_<operation>` say that its next state can follow
(`Flow`, Sys2Proof/Laws/Flow.lean).
-/

namespace Sys2Proof.Machine

set_option Elab.async false

/-! Sys2Proof/Machine/Ports.lean. -/

theorem flow_setPort {M : Nat} (hM : Within 0x80 M) {z s : State} {n : Nat} {p : Port} (hs : Flow M z s) : Flow M z (setPort s n p) := by
  unfold setPort
  repeat' with_reducible first | exact hM.of (by decide) | assumption | apply flow_withPorts

theorem flow_sendNow {M : Nat} (hM : Within 0x20000080 M) {z s : State} {n : Nat} {x : Packet} (hs : Flow M z s) : Flow M z (sendNow s n x) := by
  unfold sendNow
  repeat' with_reducible first | exact hM.of (by decide) | assumption | apply flow_emit | apply flow_setPort

theorem flow_pumpPort {M : Nat} (hM : Within 0x20000080 M) {z s : State} {k n : Nat} (hs : Flow M z s) : Flow M z (pumpPort k s n) := by
  induction k generalizing s with
  | zero => exact hs
  | succ k ih =>
    unfold pumpPort
    dsimp only
    split
    · exact hs
    · exact ih (flow_sendNow (hM.of (by decide)) (flow_setPort (hM.of (by decide)) hs))

theorem flow_portSend {M : Nat} (hM : Within 0x20000080 M) {z s : State} {n : Nat} {x : Packet} (hs : Flow M z s) : Flow M z (portSend s n x) := by
  unfold portSend
  repeat' with_reducible first | exact hM.of (by decide) | assumption | apply flow_pumpPort | apply flow_setPort

theorem flow_portRequest {M : Nat} (hM : Within 0x20000080 M) {z s : State} {n : Nat} {who : Requester} {queue aux : Nat} {f : Packet → Packet} {type ctx
    addr : Nat} (hs : Flow M z s) :
    Flow M z (portRequest s n who queue aux f type ctx addr) := by
  unfold portRequest
  repeat' with_reducible first | exact hM.of (by decide) | assumption | apply flow_portSend | apply flow_setPort

/-! Sys2Proof/Machine/Draughts.lean. -/

theorem flow_noteSplit {M : Nat} (hM : Within 0x8000 M) {z : State} {s : State} {q : Nat} {split : Nat} (hs : Flow M z s) :
    Flow M z (noteSplit s q split) := by
  unfold noteSplit
  try dsimp only
  repeat' with_reducible first | exact hM.of (by decide) | assumption | apply flow_modSub

theorem flow_issueDraught {M : Nat} (hM : Within 0x4008000 M) {z : State} {s : State} {core : Nat} {ctx : Nat} {queue : Nat} {slot : Option Nat} {gen : Bool} {d : List Byte} (hs : Flow M z s) :
    Flow M z (issueDraught s core ctx queue slot gen d) := by
  unfold issueDraught
  try dsimp only
  repeat' with_reducible first | exact hM.of (by decide) | assumption | apply flow_modCore | apply flow_noteSplit

theorem flow_execDissue {M : Nat} (hM : Within 0x66fffc8e M) {z : State} {core slot : Nat} {w : BitVec 64} {s : State} (hs : Flow M z s) :
    FlowR M z (execDissue core slot w s) := by
  unfold execDissue
  try dsimp only
  repeat' with_reducible first
    | exact hM.of (by decide) | assumption | apply flow_failIssue | apply flow_finish | apply flow_issue
    | apply flow_issueDraught | apply flow_stallOn | split | intro _

/-! Sys2Proof/Machine/CellarCmds.lean. -/

theorem flow_setCellar {M : Nat} (hM : Within 0x2000000 M) {z s : State} {st : Nat} {e : CellarSt} (hs : Flow M z s) : Flow M z (setCellar s st e) := by
  unfold setCellar
  repeat' with_reducible first | exact hM.of (by decide) | assumption | apply flow_withCellars

theorem flow_modCellar {M : Nat} (hM : Within 0x2000000 M) {z s : State} {st : Nat} {f : CellarSt → CellarSt} (hs : Flow M z s) : Flow M z (modCellar s st f) := flow_setCellar (hM.of (by decide)) hs

theorem flow_modId {M : Nat} (hM : Within 0x2000000 M) {z s : State} {st id : Nat} {f : Codebook → Codebook} (hs : Flow M z s) : Flow M z (modId s st id f) := flow_modCellar (hM.of (by decide)) hs

/-! Sys2Proof/Machine/Stations.lean. -/

theorem flow_modDraught {M : Nat} (hM : Within 0x4000000 M) {z s : State} {core d : Nat} {f : Draught → Draught} (hs : Flow M z s) :
    Flow M z (modDraught s core d f) := flow_modCore (hM.of (by decide)) hs

theorem flow_modStation {M : Nat} (hM : Within 0x4000000 M) {z s : State} {core d st : Nat} {f : StationSt → StationSt} (hs : Flow M z s) :
    Flow M z (modStation s core d st f) := flow_modDraught (hM.of (by decide)) hs

theorem flow_giveUpTile {M : Nat} (hM : Within 0x4010080 M) {z : State} {s : State} {core : Nat} {x : Draught} (hs : Flow M z s) :
    Flow M z (giveUpTile s core x) := by
  unfold giveUpTile
  try dsimp only
  repeat' with_reducible first | exact hM.of (by decide) | assumption | apply flow_withPorts | apply flow_stopPrefetch

theorem flow_dropNewest {M : Nat} (hM : Within 0x4010080 M) {z : State} {s : State} {core : Nat} {x : Draught} (hs : Flow M z s) :
    Flow M z (dropNewest s core x) := by
  unfold dropNewest
  try dsimp only
  repeat' with_reducible first | exact hM.of (by decide) | assumption | apply flow_giveUpTile | apply flow_modStation | split

theorem flow_makeRoom {M : Nat} (hM : Within 0x4010080 M) {z : State} {core : Nat} {ctx : Nat} {pool : Nat} {need : Nat} {x0 : Nat} {x1 : State} (hx1 : Flow M z x1) :
    Flow M z (makeRoom core ctx pool need x0 x1) := by
  revert hx1
  fun_induction makeRoom core ctx pool need x0 x1 <;> intros
  all_goals repeat' with_reducible first | exact hM.of (by decide) | assumption | apply flow_dropNewest | apply_assumption

theorem flow_startDraught {M : Nat} (hM : Within 0x667ffc8c M) {z : State} {s : State} {core : Nat} {x : Draught} {progs : List (List Byte)} {tpl : List Byte} (hs : Flow M z s) :
    Flow M z (startDraught s core x progs tpl) := by
  unfold startDraught
  try dsimp only
  repeat' with_reducible first
    | exact hM.of (by decide) | assumption | apply flow_badHandle | apply flow_failSubmission | apply flow_makeRoom
    | apply flow_modCore | apply flow_modDraught | apply flow_noteSplit | split

theorem flow_execDraughtActivate {M : Nat} (hM : Within 0x66fffc8c M) {z : State} {core : Nat} {s : State} (hs : Flow M z s) :
    FlowR M z (execDraughtActivate core s) := by
  unfold execDraughtActivate
  try dsimp only
  repeat' with_reducible first
    | exact hM.of (by decide) | assumption | apply flowR_next | exact flowR_refused _ | apply flow_badHandle
    | apply flow_failSubmission | apply flow_startDraught | apply flow_virtRead | split

theorem flow_draughtWake {M : Nat} (hM : Within 0x4000404 M) {z s : State} {core : Nat} (hs : Flow M z s) : Flow M z (draughtWake s core) := by
  unfold draughtWake
  repeat' with_reducible first | exact hM.of (by decide) | assumption | apply flow_clearWhere | split

theorem flow_bumpCtr {M : Nat} (hM : Within 0x4000404 M) {z s : State} {core ctx ctr x0 : Nat} (hs : Flow M z s) : Flow M z (bumpCtr s core ctx ctr x0) := by
  revert hs
  fun_induction bumpCtr s core ctx ctr x0 <;> intros
  all_goals repeat' with_reducible first | exact hM.of (by decide) | assumption | apply flow_addLocalCtr | apply_assumption

theorem flow_retire {M : Nat} (hM : Within 0x4008404 M) {z s : State} {core d : Nat} (hs : Flow M z s) : Flow M z (retire s core d) := by
  unfold retire
  try dsimp only
  repeat' with_reducible first
    | exact hM.of (by decide) | assumption | apply flow_addLocalCtr | apply flow_bumpCtr | apply flow_coreEvent
    | apply flow_draughtWake | apply flow_modCore | apply flow_modDraught | apply flow_noteEnd | apply flow_raiseProgress
    | split

theorem flow_askPeer {M : Nat} (hM : Within 0x20000080 M) {z : State} {s : State} {core : Nat} {d : Nat} {st : Nat} {x : Draught} {e : HEntry} {part : Nat} {off : Nat} {n : Nat} (hs : Flow M z s) :
    Flow M z (askPeer s core d st x e part off n) := by
  unfold askPeer
  try dsimp only
  repeat' with_reducible first | exact hM.of (by decide) | assumption | apply flow_portRequest

theorem flow_tensorHeader {M : Nat} (hM : Within 0x66fffc8c M) {z : State} {s : State} {core : Nat} {d : Nat} {st : Nat} {x : Draught} {dst : Bool} (hs : Flow M z s) :
    Flow M z (tensorHeader s core d st x dst).2 := by
  unfold tensorHeader
  try dsimp only
  repeat' with_reducible first
    | exact hM.of (by decide) | assumption | apply flow_askPeer | apply flow_badHandle | apply flow_failSubmission
    | apply flow_modDraught | apply flow_modStation | apply flow_virtRead | split

theorem flow_needTensor {M : Nat} (hM : Within 0x66fffc8c M) {z s : State} {core d st : Nat} {x : Draught} {dst : Bool} {fmt : Nat} (hs : Flow M z s) :
    Flow M z (needTensor s core d st x dst fmt).2 := by
  unfold needTensor
  repeat' with_reducible first | exact hM.of (by decide) | assumption | apply flow_tensorHeader | split

theorem flow_arrayBegin {M : Nat} (hM : Within 0x4002000 M) {z t' s : State} {core : Nat} {x : Draught} {j : Nat} (hs : Flow M z s) (h : arrayBegin s core x
    j = some t') :
    Flow M z t' := by
  unfold arrayBegin at h
  try dsimp only at h
  repeat' split at h
  all_goals cases h
  all_goals repeat' with_reducible first
    | exact hM.of (by decide) | assumption | apply flow_getD | apply flow_modArray
    | refine flow_takeArray (hM.of (by decide)) ?_ (by assumption) | intro _

theorem flow_askPieces {M : Nat} (hM : Within 0x10004 M) {z : State} {s : State} {who : Requester} {x : Draught} {base : Nat} {acc : Nat} {l : List (Nat × Nat)} (hs : Flow M z s) :
    Flow M z (askPieces s who x base acc l) := by
  unfold askPieces
  try dsimp only
  repeat' with_reducible first | exact hM.of (by decide) | assumption | apply flow_askPages | split

theorem flow_beginRemote {M : Nat} (hM : Within 0x2601b484 M) {z : State} {s : State} {core : Nat} {d : Nat} {x : Draught} {j : Nat} {e : HEntry} (hs : Flow M z s) :
    Flow M z (beginRemote s core d x j e) := by
  unfold beginRemote
  try dsimp only
  repeat' with_reducible first
    | exact hM.of (by decide) | assumption | apply flow_foldl | apply flow_askPeer | apply flow_failSubmission
    | apply flow_modStation | split | intro _

theorem flow_beginSend {M : Nat} (hM : Within 0x2601b484 M) {z s : State} {core d st : Nat} {x : Draught} {t : Tile} {tOut : Nat} {e : HEntry} (hs : Flow M z s) :
    Flow M z (beginSend s core d st x t tOut e) := by
  unfold beginSend
  try dsimp only
  repeat' with_reducible first
    | exact hM.of (by decide) | assumption | apply flow_foldl | apply flow_failSubmission | apply flow_modStation
    | apply flow_portRequest | split | intro _

theorem flow_sendTile {M : Nat} (hM : Within 0x66fffc8c M) {z : State} {s : State} {core : Nat} {d : Nat} {st : Nat} {x : Draught} {t : Tile} (hs : Flow M z s) :
    Flow M z (sendTile s core d st x t) := by
  unfold sendTile
  try dsimp only
  repeat' with_reducible first
    | exact hM.of (by decide) | assumption | apply flow_badHandle | apply flow_beginSend | apply flow_needTensor | split
    | refine flow_snd (by assumption) ?_

theorem flow_beginCellar {M : Nat} (hM : Within 0x6000000 M) {z s : State} {core d st : Nat} {x : Draught} {j : Nat} {inp : Option Tile} (hs : Flow M z s) :
    Flow M z (beginCellar s core d st x j inp) := by
  unfold beginCellar
  repeat' with_reducible first | exact hM.of (by decide) | assumption | apply flow_modCellar | apply flow_modStation

theorem flow_beginTile {M : Nat} (hM : Within 0x66fffc8c M) {z : State} {s : State} {core : Nat} {d : Nat} {st : Nat} {x : Draught} {j : Nat} (hs : Flow M z s) :
    Flow M z (beginTile s core d st x j) := by
  unfold beginTile
  try dsimp only
  repeat' with_reducible first
    | exact hM.of (by decide) | assumption | refine flow_arrayBegin (hM.of (by decide)) ?_ (by assumption)
    | apply flow_askPieces | apply flow_badHandle | apply flow_beginCellar | apply flow_beginRemote
    | apply flow_failSubmission | apply flow_modStation | apply flow_sendTile | split

theorem flow_execStationTileStart {M : Nat} (hM : Within 0x66fffc8c M) {z : State} {core : Nat} {d : Nat} {st : Nat} {s : State} (hs : Flow M z s) :
    FlowR M z (execStationTileStart core d st s) := by
  unfold execStationTileStart
  try dsimp only
  repeat' with_reducible first
    | exact hM.of (by decide) | assumption | apply flowR_next | exact flowR_refused _ | apply flowR_needs
    | apply flow_beginTile | apply flow_modCore | apply flow_touchCtr | split | intro _

theorem flow_handOn {M : Nat} (hM : Within 0x4008404 M) {z s : State} {core d st : Nat} {out : Option Tile} (hs : Flow M z s) :
    Flow M z (handOn s core d st out) := by
  unfold handOn
  repeat' with_reducible first | exact hM.of (by decide) | assumption | apply flow_modStation | apply flow_retire | split

theorem flow_countDecoded {M : Nat} (hM : Within 0x4 M) {z s : State} {books : Nat → Option (Nat × Codebook8)} {raw : List (List Byte)}
    (hs : Flow M z s) : Flow M z (countDecoded s books raw) := by
  unfold countDecoded
  repeat' with_reducible first
    | exact hM.of (by decide) | assumption | apply flow_foldl | apply flow_celCount | split | intro _

theorem flow_finishLoad {M : Nat} (hM : Within 0x66fffc8c M) {z s : State} {core d st : Nat} {x : Draught} {j : Nat} {books : Nat → Option (Nat × Codebook8)} {raw :
    List (List Byte)} (hs : Flow M z s) :
    Flow M z (finishLoad s core d st x j books raw) := by
  unfold finishLoad
  try dsimp only
  repeat' with_reducible first
    | exact hM.of (by decide) | assumption | apply flow_countDecoded | apply flow_failSubmission | apply flow_handOn | apply flow_needTensor | split
    | refine flow_snd (by assumption) ?_

theorem flow_keepPart {M : Nat} (hM : Within 0x4000000 M) {z : State} {s : State} {core : Nat} {d : Nat} {st : Nat} {i : Nat} {b : List Byte} (hs : Flow M z s) :
    Flow M z (keepPart s core d st i b) := by
  unfold keepPart
  try dsimp only
  repeat' with_reducible first | exact hM.of (by decide) | assumption | apply flow_modStation

theorem flow_readTile {M : Nat} (hM : Within 0x66fffc8c M) {z : State} {s : State} {core : Nat} {d : Nat} {st : Nat} {x : Draught} {spans : List (Nat × Nat)} (hs : Flow M z s) :
    Flow M z (readTile s core d st x spans).2 := by
  unfold readTile
  try dsimp only
  repeat' with_reducible first
    | exact hM.of (by decide) | assumption | apply flow_foldl_snd | apply flow_keepPart | apply flow_virtRead | split
    | intro _

theorem flow_doneLoad {M : Nat} (hM : Within 0x66fffc8c M) {z : State} {s : State} {core : Nat} {d : Nat} {st : Nat} {x : Draught} {j : Nat} (hs : Flow M z s) :
    Flow M z (doneLoad s core d st x j) := by
  unfold doneLoad
  try dsimp only
  repeat' with_reducible first
    | exact hM.of (by decide) | assumption | apply flow_badHandle | apply flow_finishLoad | apply flow_readTile | split
    | refine flow_snd (by assumption) ?_

theorem flow_doneBank {M : Nat} (hM : Within 0x4008404 M) {z s : State} {core d st : Nat} {x : Draught} {t : Tile} (hs : Flow M z s) :
    Flow M z (doneBank s core d st x t) := by
  unfold doneBank
  repeat' with_reducible first
    | exact hM.of (by decide) | assumption | apply flow_handOn | apply flow_matrixWake | apply flow_modArray
    | apply flow_modDraught | apply flow_opCount

theorem flow_runGroups {M : Nat} (hM : Within 0x4000004 M) {z : State} {s : State} {core : Nat} {b : Nat} {x : RunArgs} (hs : Flow M z s) :
    Flow M z (runGroups s core b x) := by
  unfold runGroups
  try dsimp only
  repeat' with_reducible first | exact hM.of (by decide) | assumption | apply flow_foldl | apply flow_doGroup | split | intro _

theorem flow_runSegment {M : Nat} (hM : Within 0x4000004 M) {z : State} {s : State} {core : Nat} {x : Draught} {t : Tile} {b : Nat} {lo : Nat} {n : Nat} {c : Nat} (hs : Flow M z s) :
    Flow M z (runSegment s core x t b lo n c) := by
  unfold runSegment
  try dsimp only
  repeat' with_reducible first | exact hM.of (by decide) | assumption | apply flow_runGroups

theorem flow_setFactor {M : Nat} (hM : Within 0x4000000 M) {z s : State} {core : Nat} {x : Draught} {t : Tile} {b : Nat} (hs : Flow M z s) :
    Flow M z (setFactor s core x t b) := by
  unfold setFactor
  repeat' with_reducible first | exact hM.of (by decide) | assumption | apply flow_modArray | split

theorem flow_stationPasses {M : Nat} (hM : Within 0x4000004 M) {z s : State} {core : Nat} {x : Draught} {t : Tile} (hs : Flow M z s) :
    FlowR M z (stationPasses s core x t) := by
  unfold stationPasses
  try dsimp only
  repeat' with_reducible first
    | exact hM.of (by decide) | assumption | apply flowR_next | exact flowR_refused _ | apply flow_modArray
    | apply flow_modDraught | apply flow_runSegment | apply flow_setFactor | split

theorem flow_execGroupPassesDone {M : Nat} (hM : Within 0x4000004 M) {z : State} {core : Nat} {s : State} (hs : Flow M z s) :
    FlowR M z (execGroupPassesDone core s) := by
  unfold execGroupPassesDone
  try dsimp only
  repeat' with_reducible first
    | exact hM.of (by decide) | assumption | exact flowR_refused _ | apply flow_stationPasses | apply flow_streamPasses
    | split

theorem flow_drainTile {M : Nat} (hM : Within 0x4000004 M) {z s : State} {core : Nat} {x : Draught} {t : Tile} {tOut : Nat} (hs : Flow M z s) :
    Flow M z (drainTile s core x t tOut).2 := by
  unfold drainTile
  repeat' with_reducible first | exact hM.of (by decide) | assumption | apply flow_modArray | apply flow_opCount

theorem flow_doneCompute {M : Nat} (hM : Within 0x66fffc8c M) {z t' s : State} {core d st : Nat} {x : Draught} {t : Tile} (hs : Flow M z s) (h : doneCompute s
    core d st x t = some t') :
    Flow M z t' := by
  unfold doneCompute at h
  try dsimp only at h
  repeat' split at h
  all_goals cases h
  all_goals repeat' with_reducible first
    | exact hM.of (by decide) | assumption | apply flow_foldl_fst | apply flow_drainTile | apply flow_failSubmission
    | apply flow_handOn | apply flow_matrixWake | apply flow_modArray | apply flow_modDraught | apply flow_needTensor
    | apply flow_runSegment | apply flow_setFactor | split | intro _ | refine flow_snd (by assumption) ?_

theorem flow_doneElement {M : Nat} (hM : Within 0x4008404 M) {z s : State} {core d st : Nat} {x : Draught} {t : Tile} (hs : Flow M z s) :
    Flow M z (doneElement s core d st x t) := by
  unfold doneElement
  repeat' with_reducible first | exact hM.of (by decide) | assumption | apply flow_handOn | apply flow_opCount

theorem flow_doneMember {M : Nat} (hM : Within 0x601b484 M) {z t' s : State} {core d st : Nat} {x : Draught} {t : Tile} (hs : Flow M z s) (h : doneMember s
    core d st x t = some t') :
    Flow M z t' := by
  unfold doneMember at h
  try dsimp only at h
  repeat' split at h
  all_goals cases h
  all_goals repeat' with_reducible first
    | exact hM.of (by decide) | assumption | apply flow_failSubmission | apply flow_handOn | apply flow_modDraught

theorem flow_doneRoot {M : Nat} (hM : Within 0x4008404 M) {z s t' : State} {core d st : Nat} {x : Draught} {t : Tile} (hs : Flow M z s)
    (h : doneRoot s core d st x t = some t') : Flow M z t' := by
  unfold doneRoot at h
  dsimp only at h
  split at h
  · cases h
  · obtain ⟨o, _, e⟩ := Option.map_eq_some_iff.mp h
    cases e
    exact flow_handOn (hM.of (by decide)) (flow_opCount (hM.of (by decide)) (flow_modDraught (hM.of (by decide)) hs))

theorem flow_writeTile {M : Nat} (hM : Within 0x66fffc8c M) {z : State} {s : State} {core : Nat} {d : Nat} {st : Nat} {x : Draught} {spans : List (Piece × Nat × Nat × Nat)} (hs : Flow M z s) :
    Flow M z (writeTile s core d st x spans).2 := by
  unfold writeTile
  try dsimp only
  repeat' with_reducible first
    | exact hM.of (by decide) | assumption | apply flow_foldl_snd | apply flow_keepPart | apply flow_pageWrite
    | apply flow_xlate | split | intro _ | refine flow_snd (by assumption) ?_

theorem flow_doneStore {M : Nat} (hM : Within 0x66fffc8c M) {z : State} {s : State} {core : Nat} {d : Nat} {st : Nat} {x : Draught} {t : Tile} (hs : Flow M z s) :
    Flow M z (doneStore s core d st x t) := by
  unfold doneStore
  try dsimp only
  repeat' with_reducible first
    | exact hM.of (by decide) | assumption | apply flow_badHandle | apply flow_handOn | apply flow_needTensor
    | apply flow_writeTile | split | refine flow_snd (by assumption) ?_

theorem flow_orNext {M : Nat} {z : State} {o : Option State} {r : Refusal} :
    (∀ t, o = some t → Flow M z t) → FlowR M z (match o with | some s => .next s | none => .refused r) := by
  intro h
  cases o with
  | none => exact flowR_refused _
  | some t => exact flowR_next (h t rfl)

theorem flow_execStationTileDone {M : Nat} (hM : Within 0x66fffc8c M) {z s : State} {core d st : Nat} (hs : Flow M z s) :
    FlowR M z (execStationTileDone core d st s) := by
  refine flowR_needs fun x _ => ?_
  dsimp only
  split
  · exact flowR_refused _
  · split
    · exact flowR_next (flow_doneLoad (hM.of (by decide)) hs)
    · exact flowR_next (flow_doneLoad (hM.of (by decide)) hs)
    · refine flow_orNext fun t e => ?_
      obtain ⟨a, _, e⟩ := Option.map_eq_some_iff.mp e
      exact e ▸ flow_handOn (hM.of (by decide)) hs
    · split
      · refine flow_orNext fun t e => ?_
        obtain ⟨a, _, e⟩ := Option.bind_eq_some_iff.mp e
        cases e
        exact flow_doneBank (hM.of (by decide)) hs
      · refine flow_orNext fun t e => ?_
        obtain ⟨a, _, e⟩ := Option.bind_eq_some_iff.mp e
        exact flow_doneCompute (hM.of (by decide)) hs e
    · refine flow_orNext fun t e => ?_
      obtain ⟨a, _, e⟩ := Option.bind_eq_some_iff.mp e
      cases e
      exact flow_doneElement (hM.of (by decide)) hs
    · refine flow_orNext fun t e => ?_
      obtain ⟨a, _, e⟩ := Option.bind_eq_some_iff.mp e
      split at e
      · exact flow_doneRoot (hM.of (by decide)) hs e
      · exact flow_doneMember (hM.of (by decide)) hs e
    · refine flow_orNext fun t e => ?_
      obtain ⟨a, _, e⟩ := Option.bind_eq_some_iff.mp e
      cases e
      exact flow_doneStore (hM.of (by decide)) hs
    · refine flow_orNext fun t e => ?_
      obtain ⟨a, _, e⟩ := Option.bind_eq_some_iff.mp e
      split at e
      · cases e
        exact flow_sendTile (hM.of (by decide)) hs
      · cases e
        exact flow_handOn (hM.of (by decide)) hs
    · exact flowR_refused _

/-! Sys2Proof/Machine/Cellar.lean. -/

theorem flow_mapPages {M : Nat} (hM : Within 0x12004 M) {z s t : State} {who : Requester} {ctx q : Nat} {m m' : PageMap} {l : List (Nat × Bool)}
    {b : Bool} (hs : Flow M z s) (h : mapPages s who ctx q m l = (b, m', t)) : Flow M z t := by
  have key : ∀ (l : List (Nat × Bool)) (r : Bool × PageMap × State) (f : Bool × PageMap × State → Nat × Bool → Bool × PageMap × State),
      (∀ r a, Flow M z r.2.2 → Flow M z (f r a).2.2) → Flow M z r.2.2 → Flow M z (l.foldl f r).2.2 := by
    intro l
    induction l with
    | nil => exact fun _ _ _ h => h
    | cons a l ih => exact fun r f hf hr => ih _ f hf (hf r a hr)
  have k := key (l.drop m.done) (true, m, s) (fun r p =>
      if !r.1 then r
      else
        match xlate r.2.2 who ctx p.1 (if p.2 then 2 else 1) q with
        | (some (pa, _), s) => (true, ⟨insert r.2.1.pages (p.1 / 65536) (pa / 65536), r.2.1.done + 1⟩, s)
        | (none, s) => (false, r.2.1, s)) (fun r a hr => by
    split
    · exact hr
    · split
      · exact flow_snd (by assumption) (flow_xlate (hM.of (by decide)) hr)
      · exact flow_snd (by assumption) (flow_xlate (hM.of (by decide)) hr)) hs
  exact (congrArg (fun x => Flow M z x.2.2) h).mp k

theorem flow_execCellarCommandEnqueue {M : Nat} (hM : Within 0x601b484 M) {z s : State} {stack : Nat} (hs : Flow M z s) :
    FlowR M z (execCellarCommandEnqueue stack s) := by
  unfold execCellarCommandEnqueue
  split
  · exact flowR_refused _
  · dsimp only
    split
    · exact flowR_next (flow_failSubmission (hM.of (by decide)) (flow_modCellar (hM.of (by decide)) hs))
    · split
      · exact flowR_next (flow_modCellar (hM.of (by decide)) (flow_mapPages (hM.of (by decide)) hs (by assumption)))
      · exact flowR_next (flow_modCellar (hM.of (by decide)) (flow_modCellar (hM.of (by decide)) (flow_mapPages (hM.of (by decide)) hs (by assumption))))

theorem flow_errorIn {M : Nat} (hM : Within 0x2 M) {z s : State} {l : List (Nat × Nat)} {u : Nat × State} (hs : Flow M z s)
    (h : errorIn s l = some u) : Flow M z u.2 := by
  unfold errorIn at h
  obtain ⟨p, _, e⟩ := Option.map_eq_some_iff.mp h
  exact e ▸ flow_errorUnit (hM.of (by decide)) (flow_freshWord (hM.of (by decide)) hs)

theorem flow_errorOr {M : Nat} (hM : Within 0x2 M) {z s : State} {l : List (Nat × Nat)} (hs : Flow M z s) :
    Flow M z (((errorIn s l).map (fun u => ([u.1], u.2))).getD (([] : List Nat), s)).2 := by
  cases h : errorIn s l with
  | none => exact hs
  | some u => exact flow_errorIn (hM.of (by decide)) hs h

theorem flow_popHead {M : Nat} (hM : Within 0x2000000 M) {z s : State} {st : Nat} (hs : Flow M z s) : Flow M z (popHead s st) := flow_modCellar (hM.of (by decide)) hs

theorem flow_failCmd {M : Nat} (hM : Within 0x601b484 M) {z s : State} {st : Nat} {c : CellCmd} {status : Nat} (hs : Flow M z s) :
    Flow M z (failCmd s st c status) := by
  unfold failCmd
  repeat' with_reducible first | exact hM.of (by decide) | assumption | apply flow_celCount | apply flow_failSubmission | split

theorem flow_cmdPoison {M : Nat} (hM : Within 0x667ffc8c M) {z : State} {s : State} {st : Nat} {c : CellCmd} {units : List Nat} (hs : Flow M z s) :
    Flow M z (cmdPoison s st c units) := by
  unfold cmdPoison
  try dsimp only
  repeat' with_reducible first
    | exact hM.of (by decide) | assumption | apply flow_foldl | apply flow_failCmd | apply flow_stackUncorrectable

theorem flow_startCmd {M : Nat} (hM : Within 0x667ffc8c M) {z : State} {st : Nat} {op : Nat} {mv : Bool} {name : String} {work : State → CellCmd → CellExec × State} {s : State} (hwork : ∀ a0 a1, Flow M z a0 → Flow M z (work a0 a1).2) (hs : Flow M z s) :
    FlowR M z (startCmd st op mv name work s) := by
  unfold startCmd
  try dsimp only
  repeat' with_reducible first
    | exact hM.of (by decide) | assumption | apply flowR_next | exact flowR_refused _ | apply flow_cmdPoison
    | apply flow_failCmd | apply flow_modCellar | apply flow_popHead | apply hwork | split

theorem flow_execMatvec {M : Nat} (hM : Within 0x667ffc8c M) {z : State} {stack : Nat} {s : State} (hs : Flow M z s) : FlowR M z (execMatvec stack s) := by
  unfold execMatvec
  repeat' with_reducible first | exact hM.of (by decide) | assumption | apply flow_celCount | apply flow_startCmd | intro _

theorem flow_execDecode {M : Nat} (hM : Within 0x667ffc8c M) {z : State} {stack : Nat} {s : State} (hs : Flow M z s) : FlowR M z (execDecode stack s) := by
  unfold execDecode
  repeat' with_reducible first | exact hM.of (by decide) | assumption | apply flow_celCount | apply flow_startCmd | intro _

theorem flow_execKvpack {M : Nat} (hM : Within 0x667ffc8c M) {z : State} {stack : Nat} {s : State} (hs : Flow M z s) : FlowR M z (execKvpack stack s) := by
  unfold execKvpack
  repeat' with_reducible first | exact hM.of (by decide) | assumption | apply flow_celCount | apply flow_startCmd | intro _

theorem flow_execGather {M : Nat} (hM : Within 0x667ffc8c M) {z : State} {stack : Nat} {s : State} (hs : Flow M z s) : FlowR M z (execGather stack s) := by
  unfold execGather
  repeat' with_reducible first | exact hM.of (by decide) | assumption | apply flow_celCount | apply flow_startCmd | intro _

theorem flow_execScatter {M : Nat} (hM : Within 0x667ffc8c M) {z : State} {stack : Nat} {s : State} (hs : Flow M z s) : FlowR M z (execScatter stack s) := by
  unfold execScatter
  repeat' with_reducible first | exact hM.of (by decide) | assumption | apply flow_celCount | apply flow_startCmd | intro _

theorem flow_execCellarFill {M : Nat} (hM : Within 0x667ffc8c M) {z : State} {stack : Nat} {s : State} (hs : Flow M z s) : FlowR M z (execCellarFill stack s) := by
  unfold execCellarFill
  repeat' with_reducible first | exact hM.of (by decide) | assumption | apply flow_celCount | apply flow_startCmd | intro _

theorem flow_execCellarCopy {M : Nat} (hM : Within 0x667ffc8c M) {z : State} {stack : Nat} {s : State} (hs : Flow M z s) : FlowR M z (execCellarCopy stack s) := by
  unfold execCellarCopy
  repeat' with_reducible first | exact hM.of (by decide) | assumption | apply flow_celCount | apply flow_startCmd | intro _

theorem flow_execCellarReduce {M : Nat} (hM : Within 0x667ffc8c M) {z : State} {stack : Nat} {s : State} (hs : Flow M z s) :
    FlowR M z (execCellarReduce stack s) := by
  unfold execCellarReduce
  repeat' with_reducible first | exact hM.of (by decide) | assumption | apply flow_celCount | apply flow_startCmd | intro _

theorem flow_returnResult {M : Nat} (hM : Within 0x4001002 M) {z s : State} {e : CellExec} (hs : Flow M z s) : Flow M z (returnResult s e) := by
  unfold returnResult
  try dsimp only
  repeat' with_reducible first
    | exact hM.of (by decide) | assumption | apply flow_withFront | apply flow_freshTime | apply flow_modStation | split

theorem flow_sramWrite {M : Nat} (hM : Within 0x2000000 M) {z s : State} {st a : Nat} {b : List Byte} (hs : Flow M z s) : Flow M z (sramWrite s st a b) := flow_modCellar (hM.of (by decide)) hs

theorem flow_cellWrite {M : Nat} (hM : Within 0x667ffc8c M) {z : State} {st : Nat} {s : State} {w : Nat × List Byte} (hs : Flow M z s) :
    Flow M z (cellWrite st s w) := by
  unfold cellWrite
  try dsimp only
  repeat' with_reducible first
    | exact hM.of (by decide) | exact hM.raw (by decide) | assumption | (refine Flow.raw ?_; assumption) | apply flow_devWrite | apply flow_settleDue | apply flow_sramWrite | split

theorem flow_execCbarm {M : Nat} (hM : Within 0x601b486 M) {z : State} {stack : Nat} {s : State} (hs : Flow M z s) : FlowR M z (execCbarm stack s) := by
  unfold execCbarm
  repeat' with_reducible first
    | exact hM.of (by decide) | assumption | apply flowR_next | exact flowR_refused _ | apply flow_failCmd | apply flow_modId
    | apply flow_popHead | apply flow_returnResult | split

theorem flow_beginFill {M : Nat} (hM : Within 0x2000000 M) {z s : State} {st slot : Nat} {c : CellCmd} (hs : Flow M z s) : Flow M z (beginFill s st slot c) := by
  unfold beginFill
  repeat' with_reducible first | exact hM.of (by decide) | assumption | apply flow_modCellar | apply flow_modId

theorem flow_fillStep {M : Nat} (hM : Within 0x601b486 M) {z : State} {t' : State} {s : State} {st : Nat} (hs : Flow M z s) (h : fillStep s st = some t') :
    Flow M z t' := by
  unfold fillStep at h
  try dsimp only at h
  repeat' split at h
  all_goals cases h
  all_goals repeat' with_reducible first
    | exact hM.of (by decide) | assumption | apply flow_beginFill | apply flow_failCmd | apply flow_modCellar
    | apply flow_returnResult

theorem flow_fillSteps {M : Nat} (hM : Within 0x601b486 M) {z : State} {st : Nat} {x0 : Nat} {x1 : State} (hx1 : Flow M z x1) :
    Flow M z (fillSteps st x0 x1) := by
  revert hx1
  fun_induction fillSteps st x0 x1 <;> intros
  all_goals repeat' with_reducible first
    | assumption | refine flow_fillStep (hM.of (by decide)) ?_ (by assumption) | apply_assumption

theorem flow_fillNext {M : Nat} (hM : Within 0x601b486 M) {z : State} {s : State} {st : Nat} (hs : Flow M z s) :
    Flow M z (fillNext s st) := by
  unfold fillNext
  try dsimp only
  repeat' with_reducible first | exact hM.of (by decide) | assumption | apply flow_fillSteps

theorem flow_execCbload {M : Nat} (hM : Within 0x601b486 M) {z : State} {stack : Nat} {s : State} (hs : Flow M z s) :
    FlowR M z (execCbload stack s) := by
  unfold execCbload
  try dsimp only
  repeat' with_reducible first
    | exact hM.of (by decide) | assumption | apply flowR_next | exact flowR_refused _ | apply flow_failCmd
    | apply flow_fillNext | apply flow_modCellar | apply flow_popHead | split

theorem flow_execCodebookFillDone {M : Nat} (hM : Within 0x667ffc8e M) {z s : State} {stack : Nat} {err : Ecc} (hs : Flow M z s) :
    FlowR M z (execCodebookFillDone stack err s) := by
  unfold execCodebookFillDone
  refine flowR_needs fun e _ => ?_
  have h1 := flow_modCellar (hM.of (by decide)) (st := stack) (f := fun e => { e with fill := none }) hs
  extract_lets c id s1 r s2 s3
  have hr : Flow M z s2 := by
    simp only [s2, r]
    split
    · exact flow_errorOr (hM.of (by decide)) h1
    · exact h1
  have h3 : Flow M z s3 := by
    simp only [s3]
    split
    · exact flow_stackCorrected (hM.of (by decide)) hr
    · exact hr
  clear_value r s2 s3
  repeat' with_reducible first
    | exact hM.of (by decide) | assumption | apply flowR_next | apply flow_fillNext | apply flow_cmdPoison | apply flow_modId
    | apply flow_modCellar | apply flow_sramWrite | apply flow_returnResult | apply flow_celCount | split

theorem flow_failBound {M : Nat} (hM : Within 0x601b484 M) {z s : State} {st slot : Nat} (hs : Flow M z s) : Flow M z (failBound s st slot) := by
  unfold failBound
  repeat' with_reducible first
    | exact hM.of (by decide) | assumption | apply flow_foldl | apply flow_failSubmission | apply flow_modCellar | intro _

theorem flow_codebookFail {M : Nat} (hM : Within 0x601b484 M) {z s : State} {st slot : Nat} (hs : Flow M z s) : Flow M z (codebookFail s st slot) := by
  unfold codebookFail
  try dsimp only
  repeat' with_reducible first
    | exact hM.of (by decide) | assumption | apply flow_failBound | apply flow_modCellar | apply flow_modId | apply flow_orReg
    | split

theorem flow_sramCorrected {M : Nat} (hM : Within 0x4 M) {z s : State} {st : Nat} (hs : Flow M z s) : Flow M z (sramCorrected s st) := by
  unfold sramCorrected
  repeat' with_reducible first | exact hM.of (by decide) | assumption | apply flow_countHigh | apply flow_orReg

theorem flow_switchId {M : Nat} (hM : Within 0x2000000 M) {z : State} {st : Nat} {s : State} {id : Nat} (hs : Flow M z s) : Flow M z (switchId st s id) := by
  unfold switchId
  try dsimp only
  repeat' with_reducible first | exact hM.of (by decide) | assumption | apply flow_modCellar | apply flow_modId | split

theorem flow_switchCodebooks {M : Nat} (hM : Within 0x601b486 M) {z s : State} (hs : Flow M z s) : Flow M z (switchCodebooks s) := by
  unfold switchCodebooks
  repeat' with_reducible first
    | exact hM.of (by decide) | assumption | apply flow_foldl | apply flow_fillNext | apply flow_switchId | intro _

theorem flow_resetCodebooks {M : Nat} (hM : Within 0x2000000 M) {z s : State} {st : Nat} (hs : Flow M z s) : Flow M z (resetCodebooks s st) := flow_modCellar (hM.of (by decide)) hs

theorem flow_completeCmd {M : Nat} (hM : Within 0x667ffc8e M) {z s : State} {st : Nat} {e : CellExec} (hs : Flow M z s) : Flow M z (completeCmd s st e) := by
  unfold completeCmd
  repeat' with_reducible first
    | exact hM.of (by decide) | assumption | apply flow_foldl | apply flow_celCount | apply flow_cellWrite
    | apply flow_fillNext | apply flow_returnResult | split

theorem flow_execCellarCommandComplete {M : Nat} (hM : Within 0x667ffc8e M) {z s : State} {stack : Nat} {unit : CellarUnit} {err : CellarError}
    (hs : Flow M z s) : FlowR M z (execCellarCommandComplete stack unit err s) := by
  unfold execCellarCommandComplete
  refine flowR_needs fun e _ => ?_
  dsimp only
  split
  · exact flowR_next (flow_completeCmd (hM.of (by decide)) (flow_modCellar (hM.of (by decide)) hs))
  · exact flowR_enabled fun _ => flow_completeCmd (hM.of (by decide)) (flow_sramCorrected (hM.of (by decide)) (flow_modCellar (hM.of (by decide)) hs))
  · split
    · exact flowR_next (flow_fillNext (hM.of (by decide)) (flow_failCmd (hM.of (by decide)) (flow_codebookFail (hM.of (by decide)) hs)))
    · exact flowR_enabled fun _ => flow_fillNext (hM.of (by decide)) (flow_failCmd (hM.of (by decide)) (flow_orReg (hM.of (by decide)) (flow_modCellar (hM.of (by decide)) hs)))
  · split
    · have h := flow_errorIn (hM.of (by decide)) (flow_modCellar (hM.of (by decide)) hs) (by assumption)
      exact flowR_next (flow_fillNext (hM.of (by decide)) (flow_cmdPoison (hM.of (by decide)) h))
    · exact flowR_refused _

/-! Sys2Proof/Machine/MemorySystem.lean. -/

theorem flow_unitFails {M : Nat} (hM : Within 0x667ffc8c M) {z s : State} {r : MemReq} (hs : Flow M z s) : Flow M z (unitFails s r) := flow_poisonHit (hM.of (by decide)) hs

theorem flow_execStackAccess {M : Nat} (hM : Within 0x6e7ffc8e M) {z : State} {stack : Nat} {req : MemReq} {ecc : Ecc} {s : State} (hs : Flow M z s) :
    FlowR M z (execStackAccess stack req ecc s) := by
  unfold execStackAccess
  try dsimp only
  repeat' with_reducible first
    | exact hM.of (by decide) | assumption | exact ⟨id, id, List.prefix_refl _⟩ | apply flowR_next | exact flowR_refused _ | apply flow_faultOf
    | apply flow_histogram | apply flow_poke | apply flow_setStackKept | apply flow_stackCorrected | apply flow_unitFails | split

theorem flow_execReorderEntryAged {M : Nat} (hM : Within 0x200000 M) {z : State} {stack channel tag : Nat} {s : State} (hs : Flow M z s) :
    FlowR M z (execReorderEntryAged stack channel tag s) := by
  unfold execReorderEntryAged
  repeat' with_reducible first | exact hM.of (by decide) | assumption | exact ⟨id, id, List.prefix_refl _⟩ | apply flowR_enabled | apply flow_setStackKept | intro _

theorem flow_execScrubRead {M : Nat} (hM : Within 0x667ffc8c M) {z : State} {stack : Nat} {ecc : Ecc} {s : State} (hs : Flow M z s) :
    FlowR M z (execScrubRead stack ecc s) := by
  unfold execScrubRead
  try dsimp only
  repeat' with_reducible first
    | exact hM.of (by decide) | assumption | exact ⟨id, id, List.prefix_refl _⟩ | apply flowR_next | exact flowR_refused _ | apply flow_setStackKept
    | apply flow_stackCorrected | apply flow_stackUncorrectable | split

theorem flow_execStackTempReadout {M : Nat} (hM : Within 0x667ffc8c M) {z : State} {stack : Nat} {temp : Int} {s : State} (hs : Flow M z s) :
    FlowR M z (execStackTempReadout stack temp s) := by
  unfold execStackTempReadout
  repeat' with_reducible first
    | exact hM.of (by decide) | assumption | exact ⟨id, id, List.prefix_refl _⟩ | apply flowR_next | exact flowR_refused _ | apply flow_orReg | apply flow_setStackKept
    | apply flow_stackOffline | split

theorem flow_execStackLinkError {M : Nat} (hM : Within 0x667ffc8c M) {z : State} {stack : Nat} {cleared : Bool} {s : State} (hs : Flow M z s) :
    FlowR M z (execStackLinkError stack cleared s) := by
  unfold execStackLinkError
  repeat' with_reducible first
    | exact hM.of (by decide) | assumption | apply flowR_next | exact flowR_refused _ | apply flow_orReg
    | apply flow_stackOffline | split

theorem flow_atticError {M : Nat} (hM : Within 0x66fffc8e M) {z : State} {s : State} {slice : Nat} {pa : Nat} {qs : List Nat} {x0 : AtticError} (hs : Flow M z s) :
    Flow M z (atticError s slice pa qs x0) := by
  unfold atticError
  try dsimp only
  repeat' with_reducible first
    | exact hM.of (by decide) | assumption | apply flow_foldl | apply flow_clusterEvent | apply flow_countHigh
    | apply flow_errorUnit | apply flow_failSubmission | apply flow_orReg | apply flow_setAtticSet
    | apply flow_stackUncorrectable | split | intro _

theorem flow_deliverLine {M : Nat} (hM : Within 0x4000000 M) {z s : State} {core : Nat} {icache : Bool} {ctx va : Nat} {d : List Byte} (hs : Flow M z s) :
    Flow M z (deliverLine s core icache ctx va d) := flow_modCore (hM.of (by decide)) hs

theorem flow_serveLine {M : Nat} (hM : Within 0x66fffc8c M) {z s : State} {core : Nat} {icache : Bool} {ctx va pa : Nat} (hs : Flow M z s) :
    Flow M z (serveLine s core icache ctx va pa) := by
  unfold serveLine
  try dsimp only
  repeat' with_reducible first
    | exact hM.of (by decide) | assumption | apply flow_foldl | apply flow_atticRead | apply flow_deliverLine
    | apply flow_failSubmission | apply flow_modCore | split | intro _

theorem flow_execAtticAccess {M : Nat} (hM : Within 0x66fffc8e M) {z : State} {slice : Nat} {err : AtticError} {s : State} (hs : Flow M z s) :
    FlowR M z (execAtticAccess slice err s) := by
  unfold execAtticAccess
  try dsimp only
  repeat' with_reducible first
    | exact hM.of (by decide) | assumption | apply flowR_next | exact flowR_refused _ | apply flow_atticError
    | apply flow_clusterEvent | apply flow_endFences | apply flow_performStore | apply flow_serveLine | apply flow_setSlice
    | split

theorem flow_flushSlice {M : Nat} (hM : Within 0x9a0004 M) {z : State} {range : Option (Nat × Nat)} {s : State} {slice : Nat} (hs : Flow M z s) :
    Flow M z (flushSlice range s slice) := by
  unfold flushSlice
  repeat' with_reducible first
    | exact hM.of (by decide) | assumption | apply flow_foldl | apply flow_clusterEvent | apply flow_setSlice
    | apply flow_writeBack | split | intro _

theorem flow_markFlush {M : Nat} (hM : Within 0x800000 M) {z s : State} {p : Nat} {b : Bool} (hs : Flow M z s) : Flow M z (markFlush s p b) := by
  unfold markFlush
  repeat' with_reducible first | exact hM.of (by decide) | assumption | apply flow_foldl | apply flow_setSlice | intro _

theorem flow_execAtticFlush {M : Nat} (hM : Within 0x9a0004 M) {z : State} {slice : Nat} {s : State} (hs : Flow M z s) : FlowR M z (execAtticFlush slice s) := by
  unfold execAtticFlush
  repeat' with_reducible first
    | exact hM.of (by decide) | assumption | apply flowR_next | apply flow_foldl | apply flow_flushSlice
    | apply flow_markFlush | apply flow_pfWrite | split

theorem flow_noteFlushed {M : Nat} (hM : Within 0x20 M) {z s : State} {p : Nat} (hs : Flow M z s) : Flow M z (noteFlushed s p) := by
  unfold noteFlushed
  repeat' with_reducible first | exact hM.of (by decide) | assumption | apply flow_withDict

theorem flow_execAtticFlushDone {M : Nat} (hM : Within 0x800020 M) {z : State} {p : Nat} {s : State} (hs : Flow M z s) : FlowR M z (execAtticFlushDone p s) := by
  unfold execAtticFlushDone
  repeat' with_reducible first
    | exact hM.of (by decide) | assumption | apply flowR_enabled | apply flow_markFlush | apply flow_noteFlushed | intro _

theorem flow_trimHeaders {M : Nat} (hM : Within 0x400000 M) {z s : State} (hs : Flow M z s) : Flow M z (trimHeaders s) := by
  unfold trimHeaders
  repeat' with_reducible first | exact hM.of (by decide) | assumption | apply flow_foldl | apply flow_setPkg | intro _

theorem flow_blockAccess {M : Nat} (hM : Within 0x667ffc8c M) {z : State} {req : MemReq} {out : BlockOutcome} {r : State × List Byte} {p : Nat × Nat} (hr : Flow M z r.1) :
    Flow M z (blockAccess req out r p).1 := by
  unfold blockAccess
  try dsimp only
  repeat' with_reducible first
    | exact hM.of (by decide) | assumption | apply flow_noteBlock | apply flow_poisonHit | apply flow_poke
    | apply flow_useHeader | split

theorem flow_execStoreRoomAccess {M : Nat} (hM : Within 0x6e7ffc8e M) {z : State} {req : MemReq} {out : BlockOutcome} {s : State} (hs : Flow M z s) :
    FlowR M z (execStoreRoomAccess req out s) := by
  unfold execStoreRoomAccess
  try dsimp only
  repeat' with_reducible first
    | exact hM.of (by decide) | assumption | apply flowR_next | exact flowR_refused _ | apply flow_foldl_fst
    | apply flow_blockAccess | apply flow_countHigh | apply flow_faultOf | apply flow_histogram | apply flow_orReg | split

theorem flow_execPageMoveStart {M : Nat} (hM : Within 0x1000000 M) {z : State} {p : Nat} {s : State} (hs : Flow M z s) : FlowR M z (execPageMoveStart p s) := by
  unfold execPageMoveStart
  try dsimp only
  repeat' with_reducible first
    | exact Or.inl rfl | exact Or.inr (hM.bit (by decide)) | assumption | exact id | exact flowR_refused _
    | apply flowR_enabled | apply flow_withMem | split | intro _

theorem flow_releaseWrites {M : Nat} (hM : Within 0x4000404 M) {z : State} {s : State} (hs : Flow M z s) :
    Flow M z (releaseWrites s) := by
  unfold releaseWrites
  try dsimp only
  repeat' with_reducible first | exact hM.of (by decide) | assumption | apply flow_foldl | apply flow_clearCond | intro _

theorem flow_endMove {M : Nat} (hM : Within 0x8000 M) {z s : State} {m : PageMove} (hs : Flow M z s) : Flow M z (endMove s m) := by
  unfold endMove
  repeat' with_reducible first | exact hM.of (by decide) | assumption | apply flow_modSub | split

theorem flow_writeList {M : Nat} (hM : Within 0xc07a0004 M) {z : State} {s : State} {pl : Pool} {q : Nat} {l : List Nat} (hs : Flow M z s) :
    Flow M z (writeList s pl q l) := by
  unfold writeList
  try dsimp only
  repeat' with_reducible first | exact hM.of (by decide) | assumption | apply flow_foldl | apply flow_devWrite | intro _

theorem flow_setPool {M : Nat} (hM : Within 0x800 M) {z s : State} {p : Nat} {pl : Pool} (hs : Flow M z s) : Flow M z (setPool s p pl) := by
  unfold setPool
  repeat' with_reducible first | exact hM.of (by decide) | assumption | apply flow_withPart

theorem flow_poolRefresh {M : Nat} (hM : Within 0xc07a0804 M) {z s : State} {p : Nat} {loose : List Nat} (hs : Flow M z s) : Flow M z (poolRefresh s p loose) := by
  unfold poolRefresh
  repeat' with_reducible first
    | exact hM.of (by decide) | assumption | apply flow_foldl | apply flow_setPool | apply flow_writeList | intro _

theorem flow_poolMoved {M : Nat} (hM : Within 0x667ffc8c M) {z : State} {s : State} {m : PageMove} {loose : List Nat} (hs : Flow M z s) :
    Flow M z (poolMoved s m loose) := by
  unfold poolMoved
  try dsimp only
  repeat' with_reducible first
    | exact hM.of (by decide) | exact hM.raw (by decide) | assumption | (refine Flow.raw ?_; assumption) | apply flow_poolRefresh | apply flow_setPool | apply flow_settleDue | split

theorem flow_swapFails {M : Nat} (hM : Within 0x677ffc8c M) {z s : State} {m : PageMove} (hs : Flow M z s) : Flow M z (swapFails s m) := by
  unfold swapFails
  repeat' with_reducible first
    | exact hM.of (by decide) | exact Or.inl rfl | exact Or.inr (hM.bit (by decide)) | assumption | exact id
    | apply flow_withMem | apply flow_orReg | apply flow_poolMoved | apply flow_setPool | split

theorem flow_moveFails {M : Nat} (hM : Within 0x677ffc8c M) {z s : State} {m : PageMove} {status : Nat} (hs : Flow M z s) : Flow M z (moveFails s m status) := by
  unfold moveFails
  repeat' with_reducible first
    | exact hM.of (by decide) | assumption | apply flow_endMove | apply flow_failSubmission | apply flow_releaseWrites
    | apply flow_swapFails | split

theorem flow_finishMove {M : Nat} (hM : Within 0x667ffc8c M) {z : State} {s : State} {m : PageMove} {slot : Nat} {e : Nat} (hs : Flow M z s) :
    Flow M z (finishMove s m slot e) := by
  unfold finishMove
  try dsimp only
  repeat' with_reducible first
    | exact hM.of (by decide) | exact hM.raw (by decide) | assumption | (refine Flow.raw ?_; assumption) | apply flow_devWrite | apply flow_endMove | apply flow_invalidate
    | apply flow_poke | apply flow_poolMoved | apply flow_releaseWrites | apply flow_settleDue | apply flow_useHeaders

theorem flow_execPageMoveDone {M : Nat} (hM : Within 0x677ffc8c M) {z : State} {p : Nat} {i : Nat} {s : State} (hs : Flow M z s) :
    FlowR M z (execPageMoveDone p i s) := by
  unfold execPageMoveDone
  try dsimp only
  repeat' with_reducible first
    | exact hM.of (by decide) | assumption | exact id | exact .inl rfl | exact .inr (hM.bit (by decide)) | apply flowR_next
    | exact flowR_refused _ | apply flowR_needs | apply flow_withMem | apply flow_chainPoison | apply flow_finishMove
    | apply flow_moveFails | apply flow_poisonHits | split | intro _

end Sys2Proof.Machine
end

