-- ==== Sys2Proof/Laws/FlowFront.lean ====
section
/-!
SUPPORT. What the operations of the front end, partitions, admission and the tick leave true: the lemmas `flow_<operation>` say that its next state can follow
(`Flow`, Sys2Proof/Laws/Flow.lean).
-/

namespace Sys2Proof.Machine

set_option Elab.async false

/-! Sys2Proof/Machine/FrontEnd.lean. -/

theorem flow_vfWrite {M : Nat} (hM : Within 0x8 M) {z : State} {fn block : Nat} {s : State} {r : Res} (hs : Flow M z s) (hr : FlowR M z r) :
    FlowR M z (vfWrite fn block s r) := by
  unfold vfWrite
  repeat' with_reducible first | exact hM.of (by decide) | assumption | apply flowR_next | apply flow_orVfEvent | split

theorem flow_execFeDoorbell {M : Nat} (hM : Within 0x667ffc8c M) {z : State} {q : Nat} {w : BitVec 32} {s : State} (hs : Flow M z s) :
    FlowR M z (execFeDoorbell q w s) := by
  unfold execFeDoorbell
  repeat' with_reducible first
    | exact hM.of (by decide) | assumption | apply flowR_next | apply flow_latchBell | apply flow_orReg | apply flow_pfWrite
    | split

theorem flow_execFeVfDoorbell {M : Nat} (hM : Within 0x667ffc8c M) {z : State} {fn k : Nat} {w : BitVec 32} {s : State} (hs : Flow M z s) :
    FlowR M z (execFeVfDoorbell fn k w s) := by
  unfold execFeVfDoorbell
  repeat' with_reducible first
    | exact hM.of (by decide) | assumption | apply flowR_next | exact flowR_refused _ | apply flow_latchBell
    | apply flow_orVfEvent | apply flow_vfWrite | split

theorem flow_execFeKringDoorbell {M : Nat} (hM : Within 0x1004 M) {z : State} {w : BitVec 32} {s : State} (hs : Flow M z s) :
    FlowR M z (execFeKringDoorbell w s) := by
  unfold execFeKringDoorbell
  repeat' with_reducible first
    | exact hM.of (by decide) | assumption | apply flowR_next | apply flow_withFront | apply flow_orReg | apply flow_pfWrite
    | split

theorem flow_execQueueSlotLoad {M : Nat} (hM : Within 0x4000 M) {z s : State} (hs : Flow M z s) : FlowR M z (execQueueSlotLoad s) := by
  unfold execQueueSlotLoad
  repeat' with_reducible first
    | exact hM.of (by decide) | assumption | apply flowR_next | exact flowR_refused _ | apply flow_modQueue | split

theorem flow_settleHead {M : Nat} (hM : Within 0x667ffc8c M) {z : State} {q x0 : Nat} {x1 : State} (hx1 : Flow M z x1) : Flow M z (settleHead q x0 x1) := by
  revert hx1
  fun_induction settleHead q x0 x1 <;> intros
  all_goals repeat' with_reducible first | exact hM.of (by decide) | assumption | apply flow_completeHead | apply_assumption

theorem flow_readError {M : Nat} (hM : Within 0x667ffc8e M) {z : State} {s : State} {pa : Nat} {n : Nat} {ecc : Ecc} (hs : Flow M z s) :
    Flow M z (readError s pa n ecc) := by
  unfold readError
  try dsimp only
  repeat' with_reducible first
    | exact hM.of (by decide) | assumption | apply flow_devNote | apply flow_errorUnit | apply flow_stackCorrected
    | apply flow_stackUncorrectable | split

theorem flow_addFetched {M : Nat} (hM : Within 0x4000 M) {z s : State} {q : Nat} {i : Word32} {e : List Byte} {status : Nat} {fb : Option (Nat × Nat)}
    {bad : Bool} (hs : Flow M z s) :
    Flow M z (addFetched s q i e status fb bad) := flow_modQueue (hM.of (by decide)) hs

theorem flow_fetchEntry {M : Nat} (hM : Within 0x667ffc8e M) {z s : State} {q : Nat} {u : Queue} {ecc : Ecc} (hs : Flow M z s) :
    FlowR M z (fetchEntry s q u ecc) := by
  unfold fetchEntry
  try dsimp only
  repeat' with_reducible first
    | exact hM.of (by decide) | assumption | apply flowR_next | exact flowR_refused _ | apply flow_addFetched
    | apply flow_readError | apply flow_settleHead | split

theorem flow_fetchKernel {M : Nat} (hM : Within 0x667ffc8e M) {z s : State} {ecc : Ecc} (hs : Flow M z s) : FlowR M z (fetchKernel s ecc) := by
  unfold fetchKernel
  try dsimp only
  repeat' with_reducible first
    | exact hM.of (by decide) | exact hM.raw (by decide) | assumption | (refine Flow.raw ?_; assumption) | apply flow_settleDue | apply flowR_next | exact flowR_refused _ | apply flow_withFront
    | apply flow_completeEntry | apply flow_readError | split

theorem flow_execRingEntryFetch {M : Nat} (hM : Within 0x667ffc8e M) {z : State} {q : Nat} {ecc : Ecc} {s : State} (hs : Flow M z s) :
    FlowR M z (execRingEntryFetch q ecc s) := by
  unfold execRingEntryFetch
  repeat' with_reducible first
    | exact hM.of (by decide) | assumption | apply flowR_needs | apply flow_fetchEntry | apply flow_fetchKernel | split
    | intro _

theorem flow_fetchBuffer {M : Nat} (hM : Within 0x667ffc8e M) {z s : State} {q : Nat} {u : Queue} {fallback : Bool} {ecc : Ecc} (hs : Flow M z s) :
    FlowR M z (fetchBuffer s q u fallback ecc) := by
  unfold fetchBuffer
  try dsimp only
  repeat' with_reducible first
    | exact hM.of (by decide) | assumption | apply flowR_next | exact flowR_refused _ | apply flow_modQueue
    | apply flow_readError | apply flow_settleHead | split

theorem flow_failReserved {M : Nat} (hM : Within 0x601b484 M) {z s : State} {q : Nat} {busy : Bool} (hs : Flow M z s) : Flow M z (failReserved s q busy) := by
  unfold failReserved
  repeat' with_reducible first | exact hM.of (by decide) | assumption | apply flow_failSubmission | split

theorem flow_fetchKernelBuffer {M : Nat} (hM : Within 0x667ffc8e M) {z : State} {s : State} {ecc : Ecc} (hs : Flow M z s) :
    FlowR M z (fetchKernelBuffer s ecc) := by
  unfold fetchKernelBuffer
  try dsimp only
  repeat' with_reducible first
    | exact hM.of (by decide) | exact hM.raw (by decide) | assumption | (refine Flow.raw ?_; assumption) | apply flowR_next | exact flowR_refused _ | apply flow_withSubs
    | apply flow_completeEntry | apply flow_failReserved | apply flow_readError | apply flow_settleDue | split

theorem flow_execCommandBufferFetch {M : Nat} (hM : Within 0x667ffc8e M) {z : State} {q : Nat} {fallback : Bool} {ecc : Ecc} {s : State} (hs : Flow M z s) :
    FlowR M z (execCommandBufferFetch q fallback ecc s) := by
  unfold execCommandBufferFetch
  repeat' with_reducible first
    | exact hM.of (by decide) | assumption | exact flowR_refused _ | apply flowR_needs | apply flow_fetchBuffer
    | apply flow_fetchKernelBuffer | split | intro _

theorem flow_waitWord {M : Nat} (hM : Within 0xe0780004 M) {z : State} {s : State} {q : Nat} {master : Nat} {p : Option Nat} {a : Nat} (hs : Flow M z s) :
    Flow M z (waitWord s q master p a).2 := by
  unfold waitWord
  try dsimp only
  repeat' with_reducible first
    | exact hM.of (by decide) | assumption | apply flow_devRead | apply flow_hostRead | split

theorem flow_pollWait {M : Nat} (hM : Within 0xe0784004 M) {z : State} {q : Nat} {idx : Word32} {s : State} {i : Nat} (hs : Flow M z s) :
    Flow M z (pollWait q idx s i) := by
  unfold pollWait
  try dsimp only
  repeat' with_reducible first | exact hM.of (by decide) | assumption | apply flow_modQueue | apply flow_waitWord | split

theorem flow_execFenceWaitPoll {M : Nat} (hM : Within 0x667ffc8c M) {z : State} {s : State} (hs : Flow M z s) :
    FlowR M z (execFenceWaitPoll s) := by
  unfold execFenceWaitPoll
  try dsimp only
  repeat' with_reducible first
    | exact hM.of (by decide) | exact hM.raw (by decide) | assumption | (refine Flow.raw ?_; assumption) | apply flowR_next | apply flow_settleDue | apply flow_foldl | apply flow_pollWait | intro _

theorem flow_unhold {M : Nat} (hM : Within 0x8000 M) {z : State} {passes : Bool} {s : State} (hs : Flow M z s) : Flow M z (unhold passes s) := by
  unfold unhold
  repeat' with_reducible first | exact hM.of (by decide) | assumption | apply flow_withSubs

theorem flow_execContextSlotLoad {M : Nat} (hM : Within 0xa000 M) {z : State} {ctx : Nat} {s : State} (hs : Flow M z s) :
    FlowR M z (execContextSlotLoad ctx s) := by
  unfold execContextSlotLoad
  repeat' with_reducible first
    | exact hM.of (by decide) | assumption | apply flowR_next | exact flowR_refused _ | apply flow_modCtx | apply flow_unhold
    | split

theorem flow_advance {M : Nat} (hM : Within 0x601b484 M) {z s : State} {q op : Nat} (hs : Flow M z s) : Flow M z (advance s q op) := by
  unfold advance
  repeat' with_reducible first | exact hM.of (by decide) | assumption | apply flow_failReserved | apply flow_modSub

theorem flow_dispatchCmd {M : Nat} (hM : Within 0x601b484 M) {z s : State} {q op : Nat} {name : String} {k : Submission → List Byte → Res} (hs : Flow M z s)
    (hk : ∀ a0 a1, FlowR M z (k a0 a1)) :
    FlowR M z (dispatchCmd s q op name k) := by
  unfold dispatchCmd
  repeat' with_reducible first
    | exact hM.of (by decide) | assumption | apply flowR_next | exact flowR_refused _ | apply flow_failSubmission | apply hk
    | split

theorem flow_failCmdOf {M : Nat} (hM : Within 0x601b484 M) {z s : State} {q status : Nat} (hs : Flow M z s) : FlowR M z (failCmdOf s q status) := by
  unfold failCmdOf
  repeat' with_reducible first | exact hM.of (by decide) | assumption | apply flowR_next | apply flow_failSubmission

theorem flow_hostAccess {M : Nat} (hM : Within 0x667ffc8c M) {z s : State} {master pa : Nat} {acc : HostAccess} {err : State → State} (hs : Flow M z s) (herr
    : ∀ a0, Flow M z a0 → Flow M z (err a0)) :
    Flow M z (hostAccess s master pa acc err) := by
  unfold hostAccess
  try dsimp only
  repeat' with_reducible first
    | exact hM.of (by decide) | assumption | apply flow_emit | apply flow_memRead | apply flow_memWrite | apply herr | split

theorem flow_noAccess {M : Nat} (hM : Within 0x20000000 M) {z s : State} {acc : HostAccess} {err : State → State} (hs : Flow M z s) (herr : ∀ a0, Flow M z a0 →
    Flow M z (err a0)) :
    Flow M z (noAccess s acc err) := by
  unfold noAccess
  repeat' with_reducible first | exact hM.of (by decide) | assumption | apply flow_emit | apply herr | split

theorem flow_execBar2Access {M : Nat} (hM : Within 0x667ffc8c M) {z : State} {off : Nat} {acc : HostAccess} {s : State} (hs : Flow M z s) :
    FlowR M z (execBar2Access off acc s) := by
  unfold execBar2Access
  repeat' with_reducible first
    | exact hM.of (by decide) | assumption | apply flowR_next | exact flowR_refused _ | apply flow_hostAccess
    | apply flow_noAccess | apply flow_orReg | split | intro _

theorem flow_execContextWindowAccess {M : Nat} (hM : Within 0x667ffc8c M) {z : State} {fn off : Nat} {acc : HostAccess} {s : State} (hs : Flow M z s) :
    FlowR M z (execContextWindowAccess fn off acc s) := by
  unfold execContextWindowAccess
  repeat' with_reducible first
    | exact hM.of (by decide) | assumption | apply flowR_next | exact flowR_refused _ | apply flow_hostAccess
    | apply flow_noAccess | apply flow_orVfEvent | split | intro _

theorem flow_execD3hotEntry {M : Nat} (hM : Within 0x1000 M) {z : State} {fn : Nat} {s : State} (hs : Flow M z s) : FlowR M z (execD3hotEntry fn s) := by
  unfold execD3hotEntry
  repeat' with_reducible first
    | exact hM.of (by decide) | assumption | apply flowR_next | exact flowR_refused _ | apply flow_withFront | split

theorem flow_sendHeld {M : Nat} (hM : Within 0x20040000 M) {z : State} {fn : Nat} {s : State} {x0 : HeldOut} (hs : Flow M z s) : Flow M z (sendHeld fn s x0) := by
  unfold sendHeld
  repeat' with_reducible first | exact hM.of (by decide) | assumption | apply flow_emit | apply flow_hostWrite | split

theorem flow_execD0Return {M : Nat} (hM : Within 0x20041000 M) {z : State} {fn : Nat} {s : State} (hs : Flow M z s) : FlowR M z (execD0Return fn s) := by
  unfold execD0Return
  repeat' with_reducible first
    | exact hM.of (by decide) | assumption | apply flowR_next | exact flowR_refused _ | apply flow_foldl
    | apply flow_withFront | apply flow_sendHeld | split

theorem flow_dropMailbox {M : Nat} (hM : Within 0x20 M) {z s : State} {fn : Nat} (hs : Flow M z s) : Flow M z (dropMailbox s fn) := by
  unfold dropMailbox
  repeat' with_reducible first | exact hM.of (by decide) | assumption | apply flow_withDict

theorem flow_execVfFlr {M : Nat} (hM : Within 0x667ffcac M) {z : State} {fn : Nat} {s : State} (hs : Flow M z s) : FlowR M z (execVfFlr fn s) := by
  unfold execVfFlr
  repeat' with_reducible first
    | exact hM.of (by decide) | assumption | apply flowR_next | exact flowR_refused _ | apply flow_foldl
    | apply flow_withVfRegs | apply flow_dropMailbox | apply flow_loseContext | split | intro _

/-! Sys2Proof/Machine/QueueCmds.lean. -/

theorem flow_execNop {M : Nat} (hM : Within 0x601b484 M) {z : State} {q : Nat} {s : State} (hs : Flow M z s) : FlowR M z (execNop q s) := by
  unfold execNop
  repeat' with_reducible first
    | exact hM.of (by decide) | assumption | apply flowR_next | apply flow_advance | apply flow_dispatchCmd | intro _

theorem flow_execFenceWait {M : Nat} (hM : Within 0x667ffc8c M) {z : State} {q : Nat} {s : State} (hs : Flow M z s) :
    FlowR M z (execFenceWait q s) := by
  unfold execFenceWait
  try dsimp only
  repeat' with_reducible first
    | exact hM.of (by decide) | exact hM.raw (by decide) | assumption | (refine Flow.raw ?_; assumption) | apply flowR_next | apply flow_settleDue | apply flow_failSubmission | apply flow_advance | apply flow_dispatchCmd
    | apply flow_failCmdOf | apply flow_waitWord | split | intro _ | refine flow_snd (by assumption) ?_

theorem flow_pushLaunch {M : Nat} (hM : Within 0x4000404 M) {z : State} {core : Nat} {r : LaunchReq} {s : State} (hs : Flow M z s) :
    Flow M z (pushLaunch core r s) := by
  unfold pushLaunch
  repeat' with_reducible first | exact hM.of (by decide) | assumption | apply flow_askWake | apply flow_modCore

theorem flow_execLaunch {M : Nat} (hM : Within 0x601b484 M) {z : State} {q : Nat} {s : State} (hs : Flow M z s) : FlowR M z (execLaunch q s) := by
  unfold execLaunch
  try dsimp only
  repeat' with_reducible first
    | exact hM.of (by decide) | assumption | apply flowR_next | apply flow_foldl | apply flow_advance | apply flow_dispatchCmd
    | apply flow_failCmdOf | apply flow_pushLaunch | split | intro _

theorem flow_execDraught {M : Nat} (hM : Within 0x601b484 M) {z : State} {q : Nat} {s : State} (hs : Flow M z s) : FlowR M z (execDraught q s) := by
  unfold execDraught
  try dsimp only
  repeat' with_reducible first
    | exact hM.of (by decide) | assumption | apply flowR_next | exact flowR_refused _ | apply flow_advance
    | apply flow_askWake | apply flow_dispatchCmd | apply flow_failCmdOf | apply flow_issueDraught | split | intro _

theorem flow_addFeCopy {M : Nat} (hM : Within 0x1000 M) {z s : State} {u : Submission} {q : Nat} {c : List Byte} {src dst : Nat} {peer : Option (Nat ×
    Nat)} {stack : Option Nat} (hs : Flow M z s) :
    Flow M z (addFeCopy s u q c src dst peer stack) := by
  unfold addFeCopy
  repeat' with_reducible first | exact hM.of (by decide) | assumption | apply flow_withFront

theorem flow_sendToStack {M : Nat} (hM : Within 0x2001000 M) {z : State} {s : State} {u : Submission} {q : Nat} {c : List Byte} {cell : List Byte} {st : Nat} {src : Nat} {dst : Nat} {m : PageMap} (hs : Flow M z s) :
    Flow M z (sendToStack s u q c cell st src dst m) := by
  unfold sendToStack
  try dsimp only
  repeat' with_reducible first | exact hM.of (by decide) | assumption | apply flow_addFeCopy | apply flow_modCellar

theorem flow_beginCopy {M : Nat} (hM : Within 0x601b484 M) {z s : State} {q op n : Nat} {u : Submission} {c : List Byte} {src dst : Side}
    {cell : Option (List Byte)} (hs : Flow M z s) : FlowR M z (beginCopy s q op u c src dst n cell) := by
  unfold beginCopy
  dsimp only
  split
  · exact flow_failCmdOf (hM.of (by decide)) hs
  · split
    · exact flowR_next (flow_modSub (hM.of (by decide)) (flow_mapPages (hM.of (by decide)) hs (by assumption)))
    · have h := flow_modSub (hM.of (by decide)) (q := q) (f := fun u => { u with maps := PageMap.empty })
        (flow_mapPages (hM.of (by decide)) hs (by assumption))
      refine flowR_next (flow_advance (hM.of (by decide)) ?_)
      split
      · split
        · exact flow_sendToStack (hM.of (by decide)) h
        · exact flow_addFeCopy (hM.of (by decide)) h
      · exact flow_addFeCopy (hM.of (by decide)) h

theorem flow_execCopy {M : Nat} (hM : Within 0x667ffc8c M) {z : State} {q : Nat} {s : State} (hs : Flow M z s) : FlowR M z (execCopy q s) := by
  unfold execCopy
  try dsimp only
  repeat' with_reducible first
    | exact hM.of (by decide) | assumption | apply flowR_next | apply flow_badHandle | apply flow_beginCopy
    | apply flow_dispatchCmd | apply flow_failCmdOf | split | intro _

theorem flow_execFill {M : Nat} (hM : Within 0x667ffc8c M) {z : State} {q : Nat} {s : State} (hs : Flow M z s) : FlowR M z (execFill q s) := by
  unfold execFill
  try dsimp only
  repeat' with_reducible first
    | exact hM.of (by decide) | assumption | apply flowR_next | apply flow_badHandle | apply flow_beginCopy
    | apply flow_dispatchCmd | split | intro _

theorem flow_modFe {M : Nat} (hM : Within 0x1000 M) {z s : State} {id : Nat} {g : FeCopy → FeCopy} (hs : Flow M z s) : Flow M z (modFe s id g) := by
  unfold modFe
  repeat' with_reducible first | exact hM.of (by decide) | assumption | apply flow_withFront

theorem flow_endFe {M : Nat} (hM : Within 0x1000 M) {z s : State} {id : Nat} (hs : Flow M z s) : Flow M z (endFe s id) := by
  unfold endFe
  repeat' with_reducible first | exact hM.of (by decide) | assumption | apply flow_withFront

theorem flow_feRead {M : Nat} (hM : Within 0x66fffc8c M) {z : State} {s : State} {f : FeCopy} {n : Nat} (hs : Flow M z s) :
    Flow M z (feRead s f n).st := by
  unfold feRead
  try dsimp only
  repeat' with_reducible first | exact hM.of (by decide) | assumption | apply flow_hostRead | apply flow_virtRead | split

theorem flow_feWrite {M : Nat} (hM : Within 0x66fffc8c M) {z s : State} {f : FeCopy} {b : List Byte} (hs : Flow M z s) : Flow M z (feWrite s f b).st := by
  unfold feWrite
  repeat' with_reducible first
    | exact hM.of (by decide) | assumption | apply flow_foldl | apply flow_hostWrite | apply flow_modFe
    | apply flow_portRequest | apply flow_virtWrite | split | intro _

theorem flow_execCopyEnginePieceDone {M : Nat} (hM : Within 0x66fffc8c M) {z s : State} (hs : Flow M z s) : FlowR M z (execCopyEnginePieceDone s) := by
  unfold execCopyEnginePieceDone
  try dsimp only
  repeat' with_reducible first
    | exact hM.of (by decide) | assumption | apply flowR_next | apply flowR_needs | apply flow_withFront | apply flow_endFe
    | apply flow_feRead | apply flow_feWrite | apply flow_modFe | split | intro _

theorem flow_commandInval {M : Nat} (hM : Within 0x2018000 M) {z s : State} {q ctx : Nat} {range : Option (Nat × Nat)} (hs : Flow M z s) :
    Flow M z (commandInval s q ctx range) := by
  unfold commandInval
  repeat' with_reducible first
    | exact hM.of (by decide) | assumption | apply flow_withTrans | apply flow_invalidate | apply flow_modSub

theorem flow_execInvRange {M : Nat} (hM : Within 0x601b484 M) {z : State} {q : Nat} {s : State} (hs : Flow M z s) : FlowR M z (execInvRange q s) := by
  unfold execInvRange
  repeat' with_reducible first
    | exact hM.of (by decide) | assumption | apply flowR_next | apply flow_advance | apply flow_commandInval
    | apply flow_dispatchCmd | split | intro _

theorem flow_execHandleArm {M : Nat} (hM : Within 0x601b484 M) {z : State} {q : Nat} {s : State} (hs : Flow M z s) : FlowR M z (execHandleArm q s) := by
  unfold execHandleArm
  repeat' with_reducible first
    | exact hM.of (by decide) | assumption | apply flowR_next | apply flow_advance | apply flow_dispatchCmd
    | apply flow_modCtx | intro _

theorem flow_execCtxCreate {M : Nat} (hM : Within 0x667ffc8e M) {z : State} {q : Nat} {s : State} (hs : Flow M z s) :
    FlowR M z (execCtxCreate q s) := by
  unfold execCtxCreate
  try dsimp only
  repeat' with_reducible first
    | exact hM.of (by decide) | exact hM.raw (by decide) | assumption | (refine Flow.raw ?_; assumption) | apply flowR_next | apply flow_withCtxs | apply flow_advance
    | apply flow_dispatchCmd | apply flow_failCmdOf | apply flow_failSubmission | apply flow_readError | apply flow_settleDue
    | apply flow_writeDirectory | split | intro _

theorem flow_execCtxDestroy {M : Nat} (hM : Within 0x667ffc8c M) {z : State} {q : Nat} {s : State} (hs : Flow M z s) : FlowR M z (execCtxDestroy q s) := by
  unfold execCtxDestroy
  try dsimp only
  repeat' with_reducible first
    | exact hM.of (by decide) | assumption | apply flowR_next | apply flow_advance | apply flow_commandInval
    | apply flow_dispatchCmd | apply flow_failCmdOf | apply flow_loseContext | apply flow_modCtx | apply flow_releaseContext
    | split | intro _

theorem flow_execQueueCreate {M : Nat} (hM : Within 0x667ffc8c M) {z : State} {q : Nat} {s : State} (hs : Flow M z s) :
    FlowR M z (execQueueCreate q s) := by
  unfold execQueueCreate
  try dsimp only
  repeat' with_reducible first
    | exact hM.of (by decide) | exact hM.raw (by decide) | assumption | (refine Flow.raw ?_; assumption) | apply flowR_next | apply flow_withQueues | apply flow_advance
    | apply flow_dispatchCmd | apply flow_failCmdOf | apply flow_pfPoke | apply flow_settleDue | split | intro _

theorem flow_execQueueDestroy {M : Nat} (hM : Within 0x601f484 M) {z : State} {q : Nat} {s : State} (hs : Flow M z s) : FlowR M z (execQueueDestroy q s) := by
  unfold execQueueDestroy
  try dsimp only
  repeat' with_reducible first
    | exact hM.of (by decide) | assumption | apply flowR_next | apply flow_withQueues | apply flow_advance
    | apply flow_dispatchCmd | apply flow_failCmdOf | split | intro _

theorem flow_execMove {M : Nat} (hM : Within 0x701b484 M) {z : State} {q : Nat} {s : State} (hs : Flow M z s) :
    FlowR M z (execMove q s) := by
  unfold execMove
  try dsimp only
  repeat' with_reducible first
    | exact hM.of (by decide) | assumption | exact id | exact .inl rfl | exact .inr (hM.bit (by decide)) | apply flowR_next
    | apply flow_withMem | apply flow_advance | apply flow_dispatchCmd | apply flow_failCmdOf | apply flow_modSub
    | apply flow_xlate | split | intro _ | refine flow_snd (by assumption) ?_

theorem flow_execInvTag {M : Nat} (hM : Within 0x601b484 M) {z : State} {q : Nat} {s : State} (hs : Flow M z s) : FlowR M z (execInvTag q s) := by
  unfold execInvTag
  repeat' with_reducible first
    | exact hM.of (by decide) | assumption | apply flowR_next | apply flow_advance | apply flow_commandInval
    | apply flow_dispatchCmd | intro _

/-! Sys2Proof/Machine/Governor.lean. -/

theorem flow_setPartPower {M : Nat} (hM : Within 0x200 M) {z s : State} {p : Nat} {v : PartPower} (hs : Flow M z s) : Flow M z (setPartPower s p v) := by
  unfold setPartPower
  repeat' with_reducible first | exact hM.of (by decide) | assumption | apply flow_withPower

theorem flow_setDiePower {M : Nat} (hM : Within 0x200 M) {z s : State} {d : Nat} {v : DiePower} (hs : Flow M z s) : Flow M z (setDiePower s d v) := by
  unfold setDiePower
  repeat' with_reducible first | exact hM.of (by decide) | assumption | apply flow_withPower

theorem flow_setGovernor {M : Nat} (hM : Within 0x400 M) {z s : State} {d : Nat} {g : Governor} (hs : Flow M z s) : Flow M z (setGovernor s d g) := by
  unfold setGovernor
  repeat' with_reducible first | exact hM.of (by decide) | assumption | apply flow_withGovs

theorem flow_governPart {M : Nat} (hM : Within 0x204 M) {z : State} {t : Nat} {s : State} {p : Nat} (hs : Flow M z s) : Flow M z (governPart t s p) := by
  unfold governPart
  repeat' with_reducible first | exact hM.of (by decide) | assumption | apply flow_orReg | apply flow_setPartPower

theorem flow_issueStep {M : Nat} (hM : Within 0x704 M) {z : State} {windows : List Nat} {s : State} {c : Nat} (hs : Flow M z s) :
    Flow M z (issueStep windows s c) := by
  unfold issueStep
  try dsimp only
  repeat' with_reducible first
    | exact hM.of (by decide) | assumption | apply flow_withClock | apply flow_withPower | apply flow_dieEvent
    | apply flow_orReg | apply flow_setGovernor | split

theorem flow_issueSteps {M : Nat} (hM : Within 0x704 M) {z s : State} (hs : Flow M z s) : Flow M z (issueSteps s) := by
  unfold issueSteps
  repeat' with_reducible first
    | exact hM.of (by decide) | assumption | apply flow_foldl | apply flow_withGovs | apply flow_withPower
    | apply flow_issueStep

theorem flow_askEnter {M : Nat} (hM : Within 0x404 M) {z s : State} {c : Nat} (hs : Flow M z s) : Flow M z (askEnter s c) := by
  unfold askEnter
  try dsimp only
  repeat' with_reducible first | exact hM.of (by decide) | assumption | apply flow_dieEvent | apply flow_setGovernor | split

theorem flow_askLeave {M : Nat} (hM : Within 0x404 M) {z s : State} {c : Nat} (hs : Flow M z s) : Flow M z (askLeave s c) := by
  unfold askLeave
  try dsimp only
  repeat' with_reducible first | exact hM.of (by decide) | assumption | apply flow_dieEvent | apply flow_setGovernor | split

theorem flow_startHold {M : Nat} (hM : Within 0x604 M) {z s : State} {dies : List Nat} (hs : Flow M z s) : Flow M z (startHold s dies) := by
  unfold startHold
  repeat' with_reducible first
    | exact hM.of (by decide) | assumption | apply flow_foldl | apply flow_withPower | apply flow_askEnter | intro _

theorem flow_endHolds {M : Nat} (hM : Within 0x604 M) {z s : State} (hs : Flow M z s) : Flow M z (endHolds s) := by
  unfold endHolds
  try dsimp only
  repeat' with_reducible first
    | exact hM.of (by decide) | assumption | apply flow_foldl | apply flow_withPower | apply flow_askLeave
    | apply flow_setDiePower | split | intro _

theorem flow_updateDegraded {M : Nat} (hM : Within 0x200 M) {z s : State} (hs : Flow M z s) : Flow M z (updateDegraded s) := by
  unfold updateDegraded
  repeat' with_reducible first | exact hM.of (by decide) | assumption | apply flow_withPower

theorem flow_governorStep {M : Nat} (hM : Within 0x704 M) {z : State} {t : Nat} {s : State} (hs : Flow M z s) : Flow M z (governorStep t s) := by
  unfold governorStep
  repeat' with_reducible first
    | exact hM.of (by decide) | assumption | apply flow_foldl | apply flow_withPower | apply flow_endHolds
    | apply flow_governPart | apply flow_issueSteps | apply flow_setDiePower | apply flow_updateDegraded | intro _

theorem flow_grantCore {M : Nat} (hM : Within 0x4000000 M) {z s : State} {w : WakeReq} (hs : Flow M z s) : Flow M z (grantCore s w) := flow_modCore (hM.of (by decide)) hs

theorem flow_grantReq {M : Nat} (hM : Within 0x4000004 M) {z : State} {d now : Nat} {s : State} {w : WakeReq} (hs : Flow M z s) :
    Flow M z (grantReq d now s w) := by
  unfold grantReq
  try dsimp only
  repeat' with_reducible first
    | exact hM.of (by decide) | assumption | apply flow_addPair48 | apply flow_dieEvent | apply flow_grantCore | split

theorem flow_execWakeWindow {M : Nat} (hM : Within 0x4000404 M) {z : State} {die : Nat} {s : State} (hs : Flow M z s) : FlowR M z (execWakeWindow die s) := by
  unfold execWakeWindow
  repeat' with_reducible first
    | exact hM.of (by decide) | assumption | apply flowR_next | exact flowR_refused _ | apply flow_foldl
    | apply flow_addPair48 | apply flow_grantReq | apply flow_setGovernor | split

/-! Sys2Proof/Machine/Answers.lean. -/

theorem flow_setDone {M : Nat} (hM : Within 0xc M) {z s : State} {fn : Nat} (hs : Flow M z s) : Flow M z (setDone s fn) := by
  unfold setDone
  repeat' with_reducible first | exact hM.of (by decide) | assumption | apply flow_orReg | apply flow_setVfReg | split

theorem flow_sendAnswer {M : Nat} (hM : Within 0x2000006c M) {z s : State} {t : Transport} {rsp : List Byte} (hs : Flow M z s) : Flow M z (sendAnswer s t rsp) := by
  unfold sendAnswer
  repeat' with_reducible first
    | exact hM.of (by decide) | assumption | apply flow_withDict | apply flow_withRing | apply flow_emit | apply flow_setDone
    | split

theorem flow_answerWrite {M : Nat} (hM : Within 0x2000006c M) {z s : State} {who : Option Transport} {sq abort : Nat} (hs : Flow M z s) :
    Flow M z (answerWrite s who sq abort) := by
  unfold answerWrite
  repeat' with_reducible first | exact hM.of (by decide) | assumption | apply flow_sendAnswer | split

theorem flow_discardStage {M : Nat} (hM : Within 0x2000006c M) {z s : State} {warm keepsLink : Bool} (hs : Flow M z s) :
    Flow M z (discardStage s warm keepsLink) := by
  unfold discardStage
  repeat' with_reducible first
    | exact hM.of (by decide) | assumption | apply flow_foldl | apply flow_withDict | apply flow_answerWrite | split | intro _

/-! Sys2Proof/Machine/RingOps.lean. -/

theorem flow_setLock {M : Nat} (hM : Within 0x14 M) {z s : State} {l : Nat} (hs : Flow M z s) : Flow M z (setLock s l) := by
  unfold setLock
  repeat' with_reducible first | exact hM.of (by decide) | assumption | apply flow_withTick | apply flow_orReg | split

theorem flow_fillCell {M : Nat} (hM : Within 0x40 M) {z s : State} (hs : Flow M z s) : Flow M z (fillCell s).2 := by
  unfold fillCell
  repeat' with_reducible first | exact hM.of (by decide) | assumption | apply flow_withRing | split

theorem flow_sendFrame {M : Nat} (hM : Within 0x20000040 M) {z s : State} {type arrive aux : Nat} (hs : Flow M z s) : Flow M z (sendFrame s type arrive aux) := by
  unfold sendFrame
  repeat' with_reducible first | exact hM.of (by decide) | assumption | apply flow_emit | apply flow_fillCell

theorem flow_sendNormal {M : Nat} (hM : Within 0x20000040 M) {z s : State} (hs : Flow M z s) : Flow M z (sendNormal s) := flow_sendFrame (hM.of (by decide)) hs

theorem flow_sendCensus {M : Nat} (hM : Within 0x20000040 M) {z s : State} (hs : Flow M z s) : Flow M z (sendCensus s) := flow_sendFrame (hM.of (by decide)) hs

theorem flow_nextToken {M : Nat} (hM : Within 0x2 M) {z s : State} (hs : Flow M z s) : Flow M z (nextToken s).2 := by
  unfold nextToken
  repeat' with_reducible first | exact hM.of (by decide) | assumption | apply flow_freshWord | split

theorem flow_sendEchoes {M : Nat} (hM : Within 0x20000000 M) {z s : State} (hs : Flow M z s) : Flow M z (sendEchoes s) := by
  unfold sendEchoes
  repeat' with_reducible first | exact hM.of (by decide) | assumption | apply flow_foldl | apply flow_emit | intro _

theorem flow_startSurvey {M : Nat} (hM : Within 0x20000040 M) {z s : State} (hs : Flow M z s) : Flow M z (startSurvey s) := by
  unfold startSurvey
  repeat' with_reducible first | exact hM.of (by decide) | assumption | apply flow_withRing | apply flow_sendEchoes | split

theorem flow_finishStart {M : Nat} (hM : Within 0x10000210 M) {z s : State} (hs : Flow M z s) : Flow M z (finishStart s) := by
  unfold finishStart
  repeat' with_reducible first | exact flow_mk (by assumption)

theorem flow_ringJoined {M : Nat} (hM : Within 0x10000250 M) {z s : State} (hs : Flow M z s) : Flow M z (ringJoined s) := by
  unfold ringJoined
  repeat' with_reducible first | exact hM.of (by decide) | assumption | apply flow_withRing | apply flow_finishStart | split

theorem flow_becomeMaster {M : Nat} (hM : Within 0x10000254 M) {z s : State} (hs : Flow M z s) : Flow M z (becomeMaster s) := by
  unfold becomeMaster
  repeat' with_reducible first
    | exact hM.of (by decide) | assumption | apply flow_withRing | apply flow_ringJoined | apply flow_setLock | split

theorem flow_originate {M : Nat} (hM : Within 0x20000040 M) {z s : State} (hs : Flow M z s) : Flow M z (originate s) := by
  unfold originate
  repeat' with_reducible first | exact hM.of (by decide) | assumption | apply flow_withRing | apply flow_sendNormal | split

theorem flow_applyEligible {M : Nat} (hM : Within 0x20000054 M) {z s : State} (hs : Flow M z s) : Flow M z (applyEligible s) := by
  unfold applyEligible
  try dsimp only
  repeat' with_reducible first
    | exact hM.of (by decide) | assumption | apply flow_withRing | apply flow_originate | apply flow_setLock | split

theorem flow_masterSymbol {M : Nat} (hM : Within 0x20000040 M) {z s : State} (hs : Flow M z s) : Flow M z (masterSymbol s) := by
  unfold masterSymbol
  repeat' with_reducible first
    | exact hM.of (by decide) | assumption | apply flow_emit | apply flow_sendFrame | apply flow_startSurvey | split

/-! Sys2Proof/Machine/Pools.lean. -/

theorem flow_disablePool {M : Nat} (hM : Within 0x804 M) {z s : State} {p : Nat} (hs : Flow M z s) : Flow M z (disablePool s p) := by
  unfold disablePool
  repeat' with_reducible first | exact hM.of (by decide) | assumption | apply flow_withPart | apply flow_setRegField

theorem flow_poolCommit {M : Nat} (hM : Within 0x667ffc8c M) {z : State} {s : State} {p : Nat} {blockPa : Nat} {queue : Nat} (hs : Flow M z s) :
    Flow M z (poolCommit s p blockPa queue) := by
  unfold poolCommit
  try dsimp only
  repeat' with_reducible first
    | exact hM.of (by decide) | assumption | apply flow_devNote | apply flow_disablePool | apply flow_orReg
    | apply flow_setPool | apply flow_setRegField | split

theorem flow_setSeqState {M : Nat} (hM : Within 0xc07a0004 M) {z : State} {s : State} {pl : Pool} {q : Nat} {st : Nat} {status : Nat} (hs : Flow M z s) :
    Flow M z (setSeqState s pl q st status) := by
  unfold setSeqState
  try dsimp only
  repeat' with_reducible first | exact hM.of (by decide) | assumption | apply flow_devWrite

theorem flow_takeStripe {M : Nat} (hM : Within 0xc07a0804 M) {z s : State} {p q i : Nat} (hs : Flow M z s) : Flow M z (takeStripe s p q i) := by
  unfold takeStripe
  repeat' with_reducible first | exact hM.of (by decide) | assumption | apply flow_setPool | apply flow_writeList

theorem flow_endSeq {M : Nat} (hM : Within 0xc07a0804 M) {z : State} {s : State} {p : Nat} {q : Nat} {st : Nat} {status : Nat} (hs : Flow M z s) :
    Flow M z (endSeq s p q st status) := by
  unfold endSeq
  try dsimp only
  repeat' with_reducible first
    | exact hM.of (by decide) | assumption | apply flow_devWrite | apply flow_setPool | apply flow_setSeqState

theorem flow_countPool {M : Nat} (hM : Within 0x4800 M) {z s : State} {p n : Nat} {f : Queue → Queue} (hs : Flow M z s) : Flow M z (countPool s p n f) := by
  unfold countPool
  repeat' with_reducible first | exact hM.of (by decide) | assumption | apply flow_countPart | apply flow_modQueue

theorem flow_refuseSeq {M : Nat} (hM : Within 0xc07a4804 M) {z s : State} {p q status : Nat} (hs : Flow M z s) : Flow M z (refuseSeq s p q status) := by
  unfold refuseSeq
  repeat' with_reducible first | exact hM.of (by decide) | assumption | apply flow_countPool | apply flow_endSeq

theorem flow_spill {M : Nat} (hM : Within 0xc17a0804 M) {z s : State} {p q x y : Nat} (hs : Flow M z s) : Flow M z (spill s p q x y) := by
  unfold spill
  repeat' with_reducible first
    | exact hM.of (by decide) | exact Or.inl rfl | exact Or.inr (hM.bit (by decide)) | assumption | exact id
    | apply flow_withMem | apply flow_countHigh | apply flow_setPool | apply flow_takeStripe

theorem flow_growTo {M : Nat} (hM : Within 0xc17a4804 M) {z s : State} {p q need n : Nat} (hs : Flow M z s) : Flow M z (growTo p q need n s) := by
  induction n generalizing s with
  | zero => exact hs
  | succ n ih =>
    unfold growTo
    dsimp only
    split
    · exact hs
    · split
      · exact ih (flow_takeStripe (hM.of (by decide)) hs)
      · exact ih (flow_spill (hM.of (by decide)) hs)
      · split
        · exact ih (flow_countPool (hM.of (by decide)) (flow_endSeq (hM.of (by decide)) hs))
        · exact hs

theorem flow_badReq {M : Nat} (hM : Within 0x4 M) {z s : State} {p : Nat} (hs : Flow M z s) : Flow M z (badReq s p) := flow_orReg (hM.of (by decide)) hs

theorem flow_growSeq {M : Nat} (hM : Within 0xc17a4804 M) {z : State} {p : Nat} {reqs : List PoolReq} {s : State} {q : Nat} (hs : Flow M z s) :
    Flow M z (growSeq p reqs s q) := by
  unfold growSeq
  try dsimp only
  repeat' with_reducible first
    | exact hM.of (by decide) | assumption | apply flow_devWrite | apply flow_growTo | apply flow_refuseSeq | split

theorem flow_joinSeq {M : Nat} (hM : Within 0xc07a4804 M) {z : State} {p : Nat} {r : State × Bool} {j : Nat × Nat} (hr : Flow M z r.1) :
    Flow M z (joinSeq p r j).1 := by
  unfold joinSeq
  try dsimp only
  repeat' with_reducible first
    | exact hM.of (by decide) | assumption | apply flow_foldl | apply flow_countPool | apply flow_devWrite
    | apply flow_refuseSeq | apply flow_setPool | apply flow_setSeqState | apply flow_takeStripe | split | intro _

theorem flow_joinReq {M : Nat} (hM : Within 0xc07a4804 M) {z : State} {p : Nat} {r : State × Bool} {x : PoolReq} (hr : Flow M z r.1) :
    Flow M z (joinReq p r x).1 := by
  unfold joinReq
  try dsimp only
  repeat' with_reducible first
    | exact hM.of (by decide) | assumption | apply flow_badReq | apply flow_devWrite | apply flow_joinSeq | apply flow_setPool
    | split

theorem flow_poolWork {M : Nat} (hM : Within 0xc17a4804 M) {z : State} {s : State} {p : Nat} (hs : Flow M z s) :
    Flow M z (poolWork s p) := by
  unfold poolWork
  try dsimp only
  repeat' with_reducible first
    | exact hM.of (by decide) | assumption | apply flow_foldl | apply flow_foldl_fst | apply flow_badReq | apply flow_devWrite
    | apply flow_endSeq | apply flow_growSeq | apply flow_joinReq | apply flow_joinSeq | apply flow_setPool
    | apply flow_setReg | split | intro _

theorem flow_poolStep {M : Nat} (hM : Within 0x677ffc8c M) {z : State} {s : State} {p : Nat} (hs : Flow M z s) :
    Flow M z (poolStep s p) := by
  unfold poolStep
  try dsimp only
  repeat' with_reducible first
    | exact hM.of (by decide) | exact hM.raw (by decide) | assumption | (refine Flow.raw ?_; assumption) | apply flow_foldl | apply flow_devRead | apply flow_poolWork
    | apply flow_settleDue | intro _

theorem flow_stepPools {M : Nat} (hM : Within 0x677ffc8c M) {z s : State} {admitted : List Nat} (hs : Flow M z s) : Flow M z (stepPools s admitted) := by
  unfold stepPools
  try dsimp only
  repeat' with_reducible first | exact hM.of (by decide) | assumption | apply flow_foldl | apply flow_poolStep | split | intro _

/-! Sys2Proof/Machine/Composition.lean. -/

theorem flow_startClusters {M : Nat} (hM : Within 0x9a0024 M) {z s : State} {p v : Nat} {who : Option Transport} {sq : Nat} (hs : Flow M z s) :
    Flow M z (startClusters s p v who sq) := by
  unfold startClusters
  repeat' with_reducible first
    | exact hM.of (by decide) | assumption | apply flow_foldl | apply flow_withDict | apply flow_flushSlice
    | apply flow_markFlush

theorem flow_commitObj {M : Nat} (hM : Within 0x667ffcfc M) {z s : State} {rest : List Staged} {idx sub v : Nat} (hs : Flow M z s) :
    Flow M z (commitObj s rest idx sub v) := by
  unfold commitObj
  try dsimp only
  repeat' with_reducible first
    | exact hM.of (by decide) | assumption | apply flow_foldl | apply flow_withRing | apply flow_applyEligible
    | apply flow_poolCommit | apply flow_resetCodebooks | apply flow_setObj | split

theorem flow_applySegments {M : Nat} (hM : Within 0x400020 M) {z s : State} {all : List Staged} {p : Nat} (hs : Flow M z s) :
    Flow M z (applySegments s all p).1 := by
  unfold applySegments
  try dsimp only
  repeat' with_reducible first | exact hM.of (by decide) | assumption | apply flow_setObj | apply flow_trimHeaders | split

theorem flow_applyStep {M : Nat} (hM : Within 0x66fffcfc M) {z : State} {all : List Staged} {r : State × Assoc Nat} {e : Nat × Staged} (hr : Flow M z r.1) :
    Flow M z (applyStep all r e).1 := by
  unfold applyStep
  try dsimp only
  repeat' with_reducible first
    | exact hM.of (by decide) | assumption | apply flow_answerWrite | apply flow_applySegments | apply flow_commitObj
    | apply flow_startClusters | split

theorem flow_dropClusters {M : Nat} (hM : Within 0x2000006c M) {z s : State} (hs : Flow M z s) : Flow M z (dropClusters s) := by
  unfold dropClusters
  repeat' with_reducible first
    | exact hM.of (by decide) | assumption | apply flow_foldl | apply flow_withDict | apply flow_answerWrite | intro _

theorem flow_commitClusters {M : Nat} (hM : Within 0x2000006c M) {z s : State} (hs : Flow M z s) : Flow M z (commitClusters s) := by
  unfold commitClusters
  repeat' with_reducible first
    | exact hM.of (by decide) | assumption | apply flow_foldl | apply flow_withDict | apply flow_answerWrite
    | apply flow_setObj | intro _

theorem flow_applyPeriod {M : Nat} (hM : Within 0x10 M) {z s : State} (hs : Flow M z s) : Flow M z (applyPeriod s) := by
  unfold applyPeriod
  repeat' with_reducible first | exact hM.of (by decide) | assumption | apply flow_withTick

theorem flow_applyStaged {M : Nat} (hM : Within 0x66fffcfc M) {z s : State} (hs : Flow M z s) : Flow M z (applyStaged s) := by
  unfold applyStaged
  repeat' with_reducible first
    | exact hM.of (by decide) | assumption | apply flow_foldl_fst | apply flow_withDict | apply flow_applyPeriod
    | apply flow_applyStep | apply flow_commitClusters | apply flow_dropClusters

/-! Sys2Proof/Machine/Preempt.lean. -/

theorem flow_suffer {M : Nat} (hM : Within 0xc800 M) {z s : State} {q : Nat} (hs : Flow M z s) : Flow M z (suffer s q) := by
  unfold suffer
  try dsimp only
  repeat' with_reducible first
    | exact hM.of (by decide) | assumption | apply flow_noteStop | apply flow_countPart | apply flow_modQueue | apply flow_modSub | split

theorem flow_stopExec {M : Nat} (hM : Within 0x667ffc8e M) {z : State} {mv : Bool} {st : Nat} {s : State} {e : CellExec} (hs : Flow M z s) :
    Flow M z (stopExec mv st s e).2 := by
  unfold stopExec
  try dsimp only
  repeat' with_reducible first
    | exact hM.of (by decide) | assumption | apply flow_foldl | apply flow_cellWrite | apply flow_freshWord

theorem flow_stopEngine {M : Nat} (hM : Within 0x667ffc8e M) {z : State} {ctx : Nat} {r : List (Nat × CellCmd) × State} {e : Nat × CellarSt} (hr : Flow M z r.2) :
    Flow M z (stopEngine ctx r e).2 := by
  unfold stopEngine
  try dsimp only
  repeat' with_reducible first
    | exact hM.of (by decide) | assumption | apply flow_foldl_snd | apply flow_stopExec | split | intro _

theorem flow_withdrawCells {M : Nat} (hM : Within 0x667ffc8e M) {z : State} {s : State} {ctx : Nat} (hs : Flow M z s) :
    Flow M z (withdrawCells s ctx) := by
  unfold withdrawCells
  try dsimp only
  repeat' with_reducible first
    | exact hM.of (by decide) | assumption | apply flow_foldl | apply flow_foldl_snd | apply flow_withCellars
    | apply flow_fillNext | apply flow_modCtx | apply flow_stopEngine

theorem flow_startPreempt {M : Nat} (hM : Within 0x667ffc8e M) {z s : State} {ctx : Nat} {driver : Bool} (hs : Flow M z s) :
    Flow M z (startPreempt s ctx driver) := by
  unfold startPreempt
  repeat' with_reducible first
    | exact hM.of (by decide) | assumption | apply flow_foldl | apply flow_withPart | apply flow_askWake | apply flow_modArray
    | apply flow_modCtx | apply flow_suffer | apply flow_withdrawCells | split | intro _

theorem flow_writeRecord {M : Nat} (hM : Within 0x667ffc8e M) {z : State} {s : State} {ctx : Nat} {r : SavedCore} (hs : Flow M z s) :
    Flow M z (writeRecord s ctx r) := by
  unfold writeRecord
  try dsimp only
  repeat' with_reducible first
    | exact hM.of (by decide) | exact hM.raw (by decide) | assumption | (refine Flow.raw ?_; assumption) | apply flow_foldl | apply flow_devWrite | apply flow_freshBytes
    | apply flow_settleDue | split | intro _

theorem flow_saveCore {M : Nat} (hM : Within 0x667ffc8e M) {z : State} {ctx : Nat} {s : State} {c : Nat} (hs : Flow M z s) : Flow M z (saveCore ctx s c) := by
  unfold saveCore
  try dsimp only
  repeat' with_reducible first
    | exact hM.of (by decide) | assumption | apply flow_clearWhere | apply flow_modCore | apply flow_modCtx
    | apply flow_writeRecord | split

theorem flow_forgetMisses {M : Nat} (hM : Within 0x10000 M) {z s : State} {ctx : Nat} (hs : Flow M z s) : Flow M z (forgetMisses s ctx) := by
  unfold forgetMisses
  repeat' with_reducible first | exact hM.of (by decide) | assumption | apply flow_withTrans

theorem flow_leaveSlot {M : Nat} (hM : Within 0x667ffc8c M) {z : State} {s : State} {ctx : Nat} (hs : Flow M z s) :
    Flow M z (leaveSlot s ctx) := by
  unfold leaveSlot
  try dsimp only
  repeat' with_reducible first
    | exact hM.of (by decide) | exact hM.raw (by decide) | assumption | (refine Flow.raw ?_; assumption) | apply flow_foldl | apply flow_devWrite | apply flow_modCtx | apply flow_settleDue
    | apply flow_writeDirectory | split | intro _

theorem flow_execPreemptSaveDone {M : Nat} (hM : Within 0x667ffc8e M) {z : State} {ctx : Nat} {s : State} (hs : Flow M z s) :
    FlowR M z (execPreemptSaveDone ctx s) := by
  unfold execPreemptSaveDone
  repeat' with_reducible first
    | exact hM.of (by decide) | assumption | apply flowR_next | exact flowR_refused _ | apply flowR_needs | apply flow_foldl
    | apply flow_withPart | apply flow_withSubs | apply flow_forgetMisses | apply flow_leaveSlot | apply flow_modCtx
    | apply flow_saveCore | apply flow_unhold | split | intro _

theorem flow_execPtPreempt {M : Nat} (hM : Within 0x667ffc8e M) {z : State} {value : BitVec 32} {s : State} (hs : Flow M z s) :
    FlowR M z (execPtPreempt value s) := by
  unfold execPtPreempt
  try dsimp only
  repeat' with_reducible first
    | exact hM.of (by decide) | assumption | apply flowR_next | apply flow_orReg | apply flow_pfWrite | apply flow_setReg
    | apply flow_startPreempt | split

theorem flow_placeRestored {M : Nat} (hM : Within 0x4000404 M) {z : State} {core : Nat} {s : State} {e : Nat × Group} (hs : Flow M z s) :
    Flow M z (placeRestored core s e) := by
  unfold placeRestored
  try dsimp only
  repeat' with_reducible first | exact hM.of (by decide) | assumption | apply flow_clearCond | apply flow_setGroup | split

theorem flow_restoreCore {M : Nat} (hM : Within 0x4002404 M) {z : State} {ctx : Nat} {qs : List Nat} {s : State} {r : SavedCore} (hs : Flow M z s) :
    Flow M z (restoreCore ctx qs s r) := by
  unfold restoreCore
  repeat' with_reducible first
    | exact hM.of (by decide) | assumption | apply flow_foldl | apply flow_giveArray | apply flow_modCore
    | apply flow_placeRestored | split

theorem flow_resumeCells {M : Nat} (hM : Within 0x2002000 M) {z s : State} {ctx : Nat} {qs : List Nat} (hs : Flow M z s) : Flow M z (resumeCells s ctx qs) := by
  unfold resumeCells
  repeat' with_reducible first
    | exact hM.of (by decide) | assumption | apply flow_foldl | apply flow_modCellar | apply flow_modCtx | intro _

theorem flow_execRestoreDone {M : Nat} (hM : Within 0x600a404 M) {z : State} {ctx : Nat} {s : State} (hs : Flow M z s) : FlowR M z (execRestoreDone ctx s) := by
  unfold execRestoreDone
  try dsimp only
  repeat' with_reducible first
    | exact hM.of (by decide) | assumption | apply flowR_next | exact flowR_refused _ | apply flowR_needs | apply flow_foldl
    | apply flow_withSubs | apply flow_modCtx | apply flow_restoreCore | apply flow_resumeCells | apply flow_unhold | split
    | intro _

/-! Sys2Proof/Machine/Admission.lean. -/

theorem flow_evict {M : Nat} (hM : Within 0x667ffc8c M) {z s : State} {ctx : Nat} (hs : Flow M z s) : Flow M z (evict s ctx) := by
  unfold evict
  repeat' with_reducible first
    | exact hM.of (by decide) | assumption | apply flow_withCores | apply flow_leaveSlot | apply flow_modCtx

theorem flow_takeSlot {M : Nat} (hM : Within 0xc07a2004 M) {z s : State} {ctx : Nat} (hs : Flow M z s) : Flow M z (takeSlot s ctx) := by
  unfold takeSlot
  repeat' with_reducible first | exact hM.of (by decide) | assumption | apply flow_modCtx | apply flow_writeDirectory | split

theorem flow_takeAlloc {M : Nat} (hM : Within 0x4002002 M) {z : State} {ctx : Nat} {s : State} {core : Nat} (hs : Flow M z s) :
    Flow M z (takeAlloc ctx s core) := by
  unfold takeAlloc
  repeat' with_reducible first
    | exact hM.of (by decide) | assumption | exact Nat.le_add_right _ _ | apply flow_withFreeSeq | apply flow_modCore
    | apply flow_modCtx | split

theorem flow_renewAlloc {M : Nat} (hM : Within 0x4000002 M) {z : State} {ctx : Nat} {s : State} {core : Nat} (hs : Flow M z s) :
    Flow M z (renewAlloc ctx s core) := by
  unfold renewAlloc
  repeat' with_reducible first
    | exact hM.of (by decide) | assumption | exact Nat.le_add_right _ _ | apply flow_withFreeSeq | apply flow_modCore | split

theorem flow_readyContext {M : Nat} (hM : Within 0xe67ffc8e M) {z s : State} {ctx : Nat} {c : Context} {need : List Nat} (hs : Flow M z s) :
    Flow M z (readyContext s ctx c need) := by
  unfold readyContext
  repeat' with_reducible first
    | exact hM.of (by decide) | assumption | apply flow_foldl | apply flow_withFront | apply flow_evict | apply flow_modCtx
    | apply flow_takeAlloc | apply flow_takeSlot | split

theorem flow_noteSplits {M : Nat} (hM : Within 0x8000 M) {z : State} {s : State} {q : Nat} (hs : Flow M z s) :
    Flow M z (noteSplits s q) := by
  unfold noteSplits
  try dsimp only
  repeat' with_reducible first
    | exact hM.of (by decide) | assumption | apply flow_foldl | apply flow_noteSplit | split | intro _

theorem flow_beginFallback {M : Nat} (hM : Within 0xc800 M) {z : State} {s : State} {q : Nat} (hs : Flow M z s) :
    Flow M z (beginFallback s q) := by
  unfold beginFallback
  try dsimp only
  repeat' with_reducible first
    | exact hM.of (by decide) | assumption | apply flow_countPart | apply flow_modQueue | apply flow_modSub
    | apply flow_noteSplits | split

theorem flow_admitEntry {M : Nat} (hM : Within 0xe67ffc8e M) {z : State} {a : Admit} {q : Nat} {u : Queue} {f : Fetched} {c : Context} {place : List Nat} {need : List Nat} {fallback : Bool} (ha : Flow M z a.s) :
    Flow M z (admitEntry a q u f c place need fallback).s := by
  unfold admitEntry
  try dsimp only
  repeat' with_reducible first
    | exact hM.of (by decide) | assumption | apply flow_foldl | apply flow_withSubs | apply flow_beginFallback
    | apply flow_modQueue | apply flow_noteSplits | apply flow_readyContext | apply flow_renewAlloc | split

theorem flow_deferEntry {M : Nat} (hM : Within 0x4800 M) {z s : State} {q p : Nat} {b : Blocks} (hs : Flow M z s) : Flow M z (deferEntry s q p b) := by
  unfold deferEntry
  repeat' with_reducible first | exact hM.of (by decide) | assumption | apply flow_countPart | apply flow_modQueue

theorem flow_noteWait {M : Nat} (hM : Within 0x4800 M) {z s : State} {q : Nat} (hs : Flow M z s) : Flow M z (noteWait s q) := by
  unfold noteWait
  repeat' with_reducible first | exact hM.of (by decide) | assumption | apply flow_countPart | apply flow_modQueue | split

theorem flow_refuseEntry {M : Nat} (hM : Within 0x667ffc8c M) {z : State} {s : State} {q : Nat} {status : Nat} {f : Fetched} (hs : Flow M z s) :
    Flow M z (refuseEntry s q status f) := by
  unfold refuseEntry
  try dsimp only
  repeat' with_reducible first
    | exact hM.of (by decide) | assumption | apply flow_completeHead | apply flow_noteWait | apply flow_settleHead

theorem flow_offerEntry {M : Nat} (hM : Within 0xe67ffc8e M) {z : State} {a : Admit} {q : Nat} (ha : Flow M z a.s) : Flow M z (offerEntry a q).1.s := by
  unfold offerEntry
  try dsimp only
  repeat' with_reducible first
    | exact hM.of (by decide) | assumption | apply flow_admitEntry | apply flow_deferEntry | apply flow_loseContext
    | apply flow_modQueue | apply flow_refuseEntry | split

theorem flow_offerSaved {M : Nat} (hM : Within 0xe67ffc8e M) {z : State} {a : Admit} {q : Nat} (ha : Flow M z a.s) : Flow M z (offerSaved a q).1.s := by
  unfold offerSaved
  try dsimp only
  repeat' with_reducible first
    | exact hM.of (by decide) | assumption | apply flow_countPart | apply flow_modCtx | apply flow_modQueue
    | apply flow_modSub | apply flow_readyContext | split

theorem flow_offer {M : Nat} (hM : Within 0xe67ffc8e M) {z : State} {a : Admit} {c : Cand} (ha : Flow M z a.s) : Flow M z (offer a c).1.s := by
  unfold offer
  repeat' with_reducible first | exact hM.of (by decide) | assumption | apply flow_offerEntry | apply flow_offerSaved | split

theorem flow_offerSome {M : Nat} (hM : Within 0xe67ffc8e M) {z : State} {w : Nat} {a : Admit} {l : List Cand} (ha : Flow M z a.s) :
    Flow M z (offerSome w a l).1.s := by
  induction l generalizing w a with
  | nil => unfold offerSome; exact ha
  | cons c t ih =>
    cases w with
    | zero => exact ha
    | succ w =>
      unfold offerSome
      exact ih (flow_offer (hM.of (by decide)) ha)

theorem flow_offerRound {M : Nat} (hM : Within 0xe67ffc8e M) {z : State} {order : List Nat} {r : Admit × Assoc (List Cand) × Nat} (hr : Flow M z r.1.s) :
    Flow M z (offerRound order r).1.s := by
  unfold offerRound
  induction order generalizing r with
  | nil => exact hr
  | cons p t ih =>
    refine ih ?_
    dsimp only
    split
    · exact hr
    · exact hr
    · exact flow_offerSome (hM.of (by decide)) hr

theorem flow_offerRounds {M : Nat} (hM : Within 0xe67ffc8e M) {z : State} {order : List Nat} {n : Nat} {r : Admit × Assoc (List Cand) × Nat} (hr : Flow M z r.1.s) :
    Flow M z (offerRounds order n r).1.s := by
  induction n generalizing r with
  | zero => exact hr
  | succ n ih =>
    unfold offerRounds
    split
    · exact hr
    · exact ih (flow_offerRound (hM.of (by decide)) hr)

theorem flow_admitClass {M : Nat} (hM : Within 0xe67ffc8e M) {z : State} {elig : List Nat} {cls : Nat} {a : Admit} (ha : Flow M z a.s) :
    Flow M z (admitClass elig cls a).s := by
  unfold admitClass
  repeat' with_reducible first | exact hM.of (by decide) | assumption | apply flow_withPart | apply flow_offerRounds | split

theorem flow_admission {M : Nat} (hM : Within 0xe67ffc8e M) {z s : State} {elig waiting : List Nat} (hs : Flow M z s) : Flow M z (admission elig waiting s).s := by
  have h : ∀ (l : List Cand) (a : Admit), Flow M z a.s → Flow M z (l.foldl (fun a c => (offer a c).1) a).s := by
    intro l
    induction l with
    | nil => exact fun _ h => h
    | cons c t ih => exact fun a h => ih _ (flow_offer (hM.of (by decide)) h)
  unfold admission
  dsimp only
  refine flow_foldl (fun s q h => flow_noteWait (hM.of (by decide)) h) (flow_foldl (fun s p h => flow_countPart (hM.of (by decide)) h) ?_)
  exact flow_admitClass (hM.of (by decide)) (flow_admitClass (hM.of (by decide)) (h _ _ hs))

/-! Sys2Proof/Machine/TickRecord.lean. -/

theorem flow_writeTickRecord {M : Nat} (hM : Within 0x667ffc8c M) {z : State} {e : State} {s : State} {p : Nat} (he : Flow M z e) (hs : Flow M z s) :
    Flow M z (writeTickRecord e s p) := by
  unfold writeTickRecord
  try dsimp only
  repeat' with_reducible first
    | exact hM.of (by decide) | exact hM.raw (by decide) | assumption | (refine Flow.raw ?_; assumption) | apply flow_devWrite | apply flow_orReg | apply flow_settleDue | split

theorem flow_writeTickRecords {M : Nat} (hM : Within 0x667ffc8c M) {z e s : State} (he : Flow M z e) (hs : Flow M z s) : Flow M z (writeTickRecords e s) := by
  unfold writeTickRecords
  repeat' with_reducible first | exact hM.of (by decide) | assumption | apply flow_foldl | apply flow_writeTickRecord | intro _

/-! Sys2Proof/Machine/Dump.lean. -/

theorem flow_freezeSub {M : Nat} (hM : Within 0x8404 M) {z s : State} {q : Nat} (hs : Flow M z s) : Flow M z (freezeSub s q) := by
  unfold freezeSub
  repeat' with_reducible first
    | exact hM.of (by decide) | assumption | apply flow_foldl | apply flow_withSubs | apply flow_askWake | apply flow_modSub
    | apply flow_noteStop | split

theorem flow_dumpCore {M : Nat} (hM : Within 0xc07a0006 M) {z : State} {u : Submission} {s : State} {e : Nat × Nat} (hs : Flow M z s) :
    Flow M z (dumpCore u s e) := by
  unfold dumpCore
  try dsimp only
  repeat' with_reducible first
    | exact hM.of (by decide) | assumption | apply flow_foldl | apply flow_devWrite | apply flow_freshBytes | split | intro _

theorem flow_zeroRange {M : Nat} (hM : Within 0xa0000 M) {z s : State} {pa n : Nat} (hs : Flow M z s) : Flow M z (zeroRange s pa n) := by
  unfold zeroRange
  repeat' with_reducible first
    | exact Or.inl rfl | exact Or.inr (hM.bit (by decide)) | assumption | exact id | exact wf_filter _ | apply flow_withMem
    | split

theorem flow_writeDump {M : Nat} (hM : Within 0x667ffcae M) {z : State} {s : State} {q : Nat} {u : Submission} (hs : Flow M z s) :
    Flow M z (writeDump s q u) := by
  unfold writeDump
  try dsimp only
  repeat' with_reducible first
    | exact hM.of (by decide) | exact hM.raw (by decide) | assumption | (refine Flow.raw ?_; assumption) | apply flow_foldl | apply flow_devWrite | apply flow_dumpCore | apply flow_orReg
    | apply flow_setObj | apply flow_settleDue | apply flow_zeroRange | split | intro _

theorem flow_withdrawOf {M : Nat} (hM : Within 0x10004 M) {z s : State} {q : Nat} (hs : Flow M z s) : Flow M z (withdrawOf s q) := by
  unfold withdrawOf
  repeat' with_reducible first
    | exact hM.of (by decide) | assumption | apply flow_foldl | apply flow_withTrans | apply flow_withdrawToken

theorem flow_afterLeave {M : Nat} (hM : Within 0x667ffc8c M) {z s : State} {q : Nat} (hs : Flow M z s) : Flow M z (afterLeave s q) := by
  unfold afterLeave
  repeat' with_reducible first
    | exact hM.of (by decide) | assumption | apply flow_passOwnership | apply flow_settleHead | apply flow_unhold

theorem flow_execHangDumpDone {M : Nat} (hM : Within 0x667ffcae M) {z : State} {q : Nat} {s : State} (hs : Flow M z s) : FlowR M z (execHangDumpDone q s) := by
  unfold execHangDumpDone
  repeat' with_reducible first
    | exact hM.of (by decide) | assumption | apply flowR_next | exact flowR_refused _ | apply flowR_needs
    | apply flow_withCores | apply flow_afterLeave | apply flow_countPart | apply flow_finishSubmission | apply flow_stopWork
    | apply flow_withdrawOf | apply flow_writeDump | split | intro _

/-! Sys2Proof/Machine/Boundary.lean. -/

theorem flow_takeEdge {M : Nat} (hM : Within 0x4010 M) {z s : State} (hs : Flow M z s) : Flow M z (takeEdge s) := by
  unfold takeEdge
  repeat' with_reducible first | exact hM.of (by decide) | assumption | apply flow_withQueues | apply flow_withTick

theorem flow_crossBoundary {M : Nat} (hM : Within 0xc800 M) {z s : State} {q : Nat} {u : Submission} (hs : Flow M z s) : Flow M z (crossBoundary s q u) := by
  unfold crossBoundary
  repeat' with_reducible first
    | exact hM.of (by decide) | assumption | apply flow_countPart | apply flow_modQueue | apply flow_modSub

theorem flow_classify {M : Nat} (hM : Within 0x601fc84 M) {z s : State} {e : Nat × Submission} (hs : Flow M z s) : Flow M z (classify s e) := by
  unfold classify
  try dsimp only
  repeat' with_reducible first
    | exact hM.of (by decide) | assumption | apply flow_crossBoundary | apply flow_freezeSub | apply flow_startAbort | split

theorem flow_restCounts {M : Nat} (hM : Within 0x8000 M) {z s : State} (hs : Flow M z s) : Flow M z (restCounts s) := by
  unfold restCounts
  repeat' with_reducible first | exact hM.of (by decide) | assumption | apply flow_withSubs

theorem flow_preemptFor {M : Nat} (hM : Within 0x667ffc8e M) {z s : State} {ctx : Nat} (hs : Flow M z s) : Flow M z (preemptFor s ctx) := by
  unfold preemptFor
  try dsimp only
  repeat' with_reducible first | exact hM.of (by decide) | assumption | apply flow_startPreempt | split

theorem flow_closeTick {M : Nat} (hM : Within 0x667ffc8e M) {z : State} {elig : List Nat} {s : State} (hs : Flow M z s) :
    Flow M z (closeTick elig s) := by
  unfold closeTick
  try dsimp only
  repeat' with_reducible first
    | exact hM.of (by decide) | assumption | apply flow_foldl | apply flow_classify | apply flow_preemptFor
    | apply flow_resolveOverdue | apply flow_restCounts | intro _

theorem flow_settleHeads {M : Nat} (hM : Within 0x667ffc8c M) {z : State} {s : State} {ctx : Nat} (hs : Flow M z s) :
    Flow M z (settleHeads s ctx) := by
  unfold settleHeads
  try dsimp only
  repeat' with_reducible first | exact hM.of (by decide) | assumption | apply flow_foldl | apply flow_settleHead | intro _

theorem flow_switchHandles {M : Nat} (hM : Within 0x667ffc8c M) {z : State} {s : State} {e : Nat × Context} (hs : Flow M z s) :
    Flow M z (switchHandles s e) := by
  unfold switchHandles
  try dsimp only
  repeat' with_reducible first
    | exact hM.of (by decide) | assumption | apply flow_withQueues | apply flow_modCtx | apply flow_settleHeads | split

theorem flow_switchAccess {M : Nat} (hM : Within 0x800 M) {z s : State} (hs : Flow M z s) : Flow M z (switchAccess s) := by
  unfold switchAccess
  try dsimp only
  repeat' with_reducible first | exact hM.of (by decide) | assumption | apply flow_withPart | split

theorem flow_switchTables {M : Nat} (hM : Within 0x667ffc8e M) {z s : State} (hs : Flow M z s) : Flow M z (switchTables s) := by
  unfold switchTables
  repeat' with_reducible first
    | exact hM.of (by decide) | assumption | apply flow_foldl | apply flow_switchAccess | apply flow_switchCodebooks
    | apply flow_switchHandles

theorem flow_releaseSub {M : Nat} (hM : Within 0x601b484 M) {z s : State} {q : Nat} (hs : Flow M z s) : Flow M z (releaseSub s q) := by
  unfold releaseSub
  try dsimp only
  repeat' with_reducible first | exact hM.of (by decide) | assumption | apply flow_failReserved | apply flow_modSub | split

theorem flow_release {M : Nat} (hM : Within 0x667ffc8c M) {z : State} {admitted : List Nat} {s : State} (hs : Flow M z s) :
    Flow M z (release admitted s) := by
  unfold release
  try dsimp only
  repeat' with_reducible first
    | exact hM.of (by decide) | exact hM.raw (by decide) | assumption | (refine Flow.raw ?_; assumption) | apply flow_foldl | apply flow_drainSamples | apply flow_releaseSub
    | apply flow_settleDue | apply flow_unhold

theorem flow_boundary {M : Nat} (hM : Within 0x67fffffe M) {z s : State} (hs : Flow M z s) : Flow M z (boundary s) := by
  unfold boundary
  dsimp only
  have h := flow_closeTick (hM.of (by decide)) (elig := eligibleQueues (takeEdge s)) (flow_takeEdge (hM.of (by decide)) hs)
  have g := flow_writeTickRecords (hM.of (by decide)) h (flow_governorStep (hM.of (by decide)) (t := s.tick.period)
    (flow_switchTables (hM.of (by decide)) (flow_applyStaged (hM.of (by decide)) h)))
  exact flow_masterSymbol (hM.of (by decide)) (flow_release (hM.of (by decide)) (flow_stepPools (hM.of (by decide))
    (flow_settleDue (hM.of (by decide)) (flow_admission (hM.raw (by decide)) g.raw))))

theorem flow_execTickBoundary {M : Nat} (hM : Within 0x67fffffe M) {z s : State} (hs : Flow M z s) : FlowR M z (execTickBoundary s) := by
  unfold execTickBoundary
  repeat' with_reducible first | exact hM.of (by decide) | assumption | apply flowR_enabled | apply flow_boundary | intro _

theorem flow_execReservedWindowEnd {M : Nat} (hM : Within 0x8000 M) {z : State} {q : Nat} {s : State} (hs : Flow M z s) :
    FlowR M z (execReservedWindowEnd q s) := by
  unfold execReservedWindowEnd
  repeat' with_reducible first
    | exact hM.of (by decide) | assumption | apply flowR_enabled | apply flow_modSub | apply flow_unhold | intro _

theorem flow_execDeadlineCheckpoint {M : Nat} (hM : Within 0x601b484 M) {z : State} {q : Nat} {s : State} (hs : Flow M z s) :
    FlowR M z (execDeadlineCheckpoint q s) := by
  unfold execDeadlineCheckpoint
  repeat' with_reducible first
    | exact hM.of (by decide) | assumption | apply flowR_next | exact flowR_refused _ | apply flowR_enabled
    | apply flow_modSub | apply flow_startAbort | split | intro _

theorem flow_freeFile {M : Nat} (hM : Within 0x2 M) {z s : State} {v : VecSt} (hs : Flow M z s) : Flow M z (freeFile s v).2 := by
  unfold freeFile
  repeat' with_reducible first | exact hM.of (by decide) | assumption | exact Nat.le_add_right _ _ | apply flow_withFreeSeq

theorem flow_cutOffCore {M : Nat} (hM : Within 0x4000002 M) {z : State} {q ctx : Nat} {s : State} {c : Nat} (hs : Flow M z s) :
    Flow M z (cutOffCore q ctx s c) := by
  unfold cutOffCore
  try dsimp only
  repeat' with_reducible first
    | exact hM.of (by decide) | assumption | exact Nat.le_add_right _ _ | apply flow_withFreeSeq | apply flow_freeFile
    | apply flow_modCore | split

theorem flow_execRtAbortComplete {M : Nat} (hM : Within 0x601fc86 M) {z : State} {q : Nat} {s : State} (hs : Flow M z s) : FlowR M z (execRtAbortComplete q s) := by
  unfold execRtAbortComplete
  repeat' with_reducible first
    | exact hM.of (by decide) | assumption | apply flowR_next | exact flowR_refused _ | apply flowR_needs | apply flow_foldl
    | apply flow_beginFallback | apply flow_cutOffCore | apply flow_failReserved | apply flow_modSub | apply flow_stopWork
    | apply flow_withdrawOf | split | intro _

theorem flow_execSubmissionComplete {M : Nat} (hM : Within 0x667ffc8c M) {z : State} {q : Nat} {s : State} (hs : Flow M z s) :
    FlowR M z (execSubmissionComplete q s) := by
  unfold execSubmissionComplete
  repeat' with_reducible first
    | exact hM.of (by decide) | assumption | apply flowR_next | exact flowR_refused _ | apply flowR_needs
    | apply flow_afterLeave | apply flow_failSubmission | apply flow_finishSubmission | split | intro _

theorem flow_accFill {M : Nat} (hM : Within 0x800 M) {z s : State} (hs : Flow M z s) : Flow M z (accFill s) := by
  unfold accFill
  repeat' with_reducible first | exact hM.of (by decide) | assumption | apply flow_withPart

theorem flow_accArm {M : Nat} (hM : Within 0x800 M) {z : State} {on : Bool} {s : State} (hs : Flow M z s) : Flow M z (accArm on s) := by
  unfold accArm
  repeat' with_reducible first | exact hM.of (by decide) | assumption | apply flow_withPart

theorem flow_execPtAccFill {M : Nat} (hM : Within 0x804 M) {z s : State} (hs : Flow M z s) : FlowR M z (execPtAccFill s) := by
  unfold execPtAccFill
  repeat' with_reducible first
    | exact hM.of (by decide) | assumption | apply flowR_next | apply flow_accFill | apply flow_pfWrite

theorem flow_execPtAccArm {M : Nat} (hM : Within 0x804 M) {z s : State} (hs : Flow M z s) : FlowR M z (execPtAccArm s) := by
  unfold execPtAccArm
  repeat' with_reducible first
    | exact hM.of (by decide) | assumption | apply flowR_next | apply flow_accArm | apply flow_pfWrite

theorem flow_execPtAccDisarm {M : Nat} (hM : Within 0x804 M) {z s : State} (hs : Flow M z s) : FlowR M z (execPtAccDisarm s) := by
  unfold execPtAccDisarm
  repeat' with_reducible first
    | exact hM.of (by decide) | assumption | apply flowR_next | apply flow_accArm | apply flow_pfWrite

theorem flow_execAccessTableFillDone {M : Nat} (hM : Within 0x667ffc8e M) {z : State} {ecc : Ecc} {s : State} (hs : Flow M z s) :
    FlowR M z (execAccessTableFillDone ecc s) := by
  unfold execAccessTableFillDone
  try dsimp only
  repeat' with_reducible first
    | exact hM.of (by decide) | assumption | apply flowR_next | exact flowR_refused _ | apply flow_withPart
    | apply flow_readError | split

end Sys2Proof.Machine
end

