-- ==== Sys2Proof/Laws/FlowModule.lean ====
section
/-!
SUPPORT. What the operations of the fabric, the ring, the dictionary, registers, clocks, power and resets leave true: the lemmas `flow_<operation>` say that its next state can follow
(`Flow`, Sys2Proof/Laws/Flow.lean).
-/

namespace Sys2Proof.Machine

set_option Elab.async false

/-! Sys2Proof/Machine/Fabric.lean. -/

theorem flow_leaveUp {M : Nat} (hM : Within 0x601b484 M) {z s : State} {n : Nat} (hs : Flow M z s) : Flow M z (leaveUp s n) := by
  unfold leaveUp
  try dsimp only
  repeat' with_reducible first
    | exact hM.of (by decide) | assumption | apply flow_foldl | apply flow_failSubmission | apply flow_setPort | split
    | intro _

theorem flow_startTraining {M : Nat} (hM : Within 0x601b484 M) {z s : State} {n : Nat} (hs : Flow M z s) : Flow M z (startTraining s n) := by
  unfold startTraining
  repeat' with_reducible first | exact hM.of (by decide) | assumption | apply flow_leaveUp | apply flow_setPort

theorem flow_failPort {M : Nat} (hM : Within 0x601b484 M) {z s : State} {n : Nat} (hs : Flow M z s) : Flow M z (failPort s n) := by
  unfold failPort
  repeat' with_reducible first
    | exact hM.of (by decide) | assumption | apply flow_leaveUp | apply flow_orReg | apply flow_setPort

theorem flow_sendInit {M : Nat} (hM : Within 0x20000080 M) {z s : State} {n : Nat} (hs : Flow M z s) : Flow M z (sendInit s n) := flow_portSend (hM.of (by decide)) hs

theorem flow_tryUp {M : Nat} (hM : Within 0x20000080 M) {z s : State} {n : Nat} (hs : Flow M z s) : Flow M z (tryUp s n) := by
  unfold tryUp
  try dsimp only
  repeat' with_reducible first | exact hM.of (by decide) | assumption | apply flow_pumpPort | apply flow_setPort | split

theorem flow_relinkPorts {M : Nat} (hM : Within 0x20000080 M) {z s : State} (hs : Flow M z s) : Flow M z (relinkPorts s) := by
  unfold relinkPorts
  try dsimp only
  repeat' with_reducible first
    | exact hM.of (by decide) | assumption | apply flow_foldl | apply flow_sendInit | apply flow_tryUp | split | intro _

theorem flow_execPortEnable {M : Nat} (hM : Within 0x601b484 M) {z : State} {n : Nat} {s : State} (hs : Flow M z s) : FlowR M z (execPortEnable n s) := by
  unfold execPortEnable
  repeat' with_reducible first
    | exact hM.of (by decide) | assumption | apply flowR_next | apply flowR_enabled | apply flow_pfWrite | apply flow_setPort
    | apply flow_startTraining | split | intro _

theorem flow_execPortDisable {M : Nat} (hM : Within 0x601b484 M) {z : State} {n : Nat} {s : State} (hs : Flow M z s) : FlowR M z (execPortDisable n s) := by
  unfold execPortDisable
  repeat' with_reducible first
    | exact hM.of (by decide) | assumption | apply flowR_next | apply flowR_enabled | apply flow_leaveUp | apply flow_pfWrite
    | apply flow_setPort | split | intro _

theorem flow_execRetrain {M : Nat} (hM : Within 0x601b484 M) {z : State} {n : Nat} {s : State} (hs : Flow M z s) : FlowR M z (execRetrain n s) := by
  unfold execRetrain
  repeat' with_reducible first
    | exact hM.of (by decide) | assumption | apply flowR_next | apply flowR_enabled | apply flow_pfWrite
    | apply flow_startTraining | split | intro _

theorem flow_execPortTrainingDone {M : Nat} (hM : Within 0x2601b484 M) {z : State} {n : Nat} {ok : Bool} {s : State} (hs : Flow M z s) :
    FlowR M z (execPortTrainingDone n ok s) := by
  unfold execPortTrainingDone
  try dsimp only
  repeat' with_reducible first
    | exact hM.of (by decide) | assumption | apply flowR_next | exact flowR_refused _ | apply flow_failPort
    | apply flow_sendInit | apply flow_setPort | apply flow_tryUp | split

theorem flow_execPortAutoRetrain {M : Nat} (hM : Within 0x601b484 M) {z : State} {n : Nat} {within1s : Bool} {s : State} (hs : Flow M z s) :
    FlowR M z (execPortAutoRetrain n within1s s) := by
  unfold execPortAutoRetrain
  try dsimp only
  repeat' with_reducible first
    | exact hM.of (by decide) | assumption | apply flowR_next | exact flowR_refused _ | apply flow_failPort | apply flow_orReg
    | apply flow_setPort | apply flow_startTraining | split

theorem flow_sendRetry {M : Nat} (hM : Within 0x20000080 M) {z s : State} {n : Nat} (hs : Flow M z s) : Flow M z (sendRetry s n) := flow_portSend (hM.of (by decide)) hs

theorem flow_takePacket {M : Nat} (hM : Within 0x20000080 M) {z s : State} {n : Nat} {x : Packet} (hs : Flow M z s) : Flow M z (takePacket s n x) := by
  unfold takePacket
  repeat' with_reducible first | exact hM.of (by decide) | assumption | apply flow_portSend | apply flow_setPort | split

theorem flow_receive {M : Nat} (hM : Within 0x20000080 M) {z s : State} {n : Nat} {x : Packet} {ty : Nat} {name : String} {body : State → Res} (hs : Flow M z
    s) (hbody : ∀ a0, Flow M z a0 → FlowR M z (body a0)) :
    FlowR M z (receive s n x ty name body) := by
  unfold receive
  try dsimp only
  repeat' with_reducible first
    | exact hM.of (by decide) | assumption | apply flowR_next | exact flowR_refused _ | apply flow_sendRetry
    | apply flow_takePacket | apply hbody | split

theorem flow_execPacketDrop {M : Nat} (hM : Within 0x20000084 M) {z : State} {n : Nat} {why : DropCause} {s : State} (hs : Flow M z s) :
    FlowR M z (execPacketDrop n why s) := by
  unfold execPacketDrop
  try dsimp only
  repeat' with_reducible first
    | exact hM.of (by decide) | assumption | apply flowR_next | exact flowR_refused _ | apply flow_countHigh
    | apply flow_sendRetry | split

theorem flow_answer {M : Nat} (hM : Within 0x20000080 M) {z s : State} {n : Nat} {x : Packet} {type arg : Nat} {payload : List Byte} (hs : Flow M z s) :
    Flow M z (answer s n x type arg payload) := flow_portSend (hM.of (by decide)) hs

theorem flow_sendNack {M : Nat} (hM : Within 0x20000084 M) {z s : State} {n : Nat} {x : Packet} {reason : Nat} (hs : Flow M z s) :
    Flow M z (sendNack s n x reason) := by
  unfold sendNack
  repeat' with_reducible first | exact hM.of (by decide) | assumption | apply flow_answer | apply flow_orReg

theorem flow_ingressPieces {M : Nat} (hM : Within 0x12004 M) {z : State} {s : State} {n : Nat} {ctx : Nat} {acc : Nat} {l : List (Nat × Nat)} (hs : Flow M z s) :
    Flow M z (ingressPieces s n ctx acc l).2 := by
  unfold ingressPieces
  try dsimp only
  repeat' with_reducible first
    | exact hM.of (by decide) | assumption | apply flow_foldl_snd | apply flow_xlate | split | intro _
    | refine flow_snd (by assumption) ?_

theorem flow_ingressChecks_nack {M : Nat} (hM : Within 0x12084 M) {z s t : State} {n r : Nat} {x : Packet} (hs : Flow M z s)
    (h : ingressChecks s n x = .nack r t) : Flow M z t := by
  unfold ingressChecks at h
  dsimp only at h
  repeat' split at h
  all_goals cases h
  all_goals first
    | exact hs
    | exact flow_setPort (hM.of (by decide)) hs
    | exact flow_snd (by assumption) (flow_ingressPieces (hM.of (by decide)) hs)

theorem flow_ingressChecks_go {M : Nat} (hM : Within 0x12004 M) {z s t : State} {n : Nat} {x : Packet} {ps : List (Nat × Nat)} (hs : Flow M z s)
    (h : ingressChecks s n x = .go ps t) : Flow M z t := by
  unfold ingressChecks at h
  dsimp only at h
  repeat' split at h
  all_goals cases h
  exact flow_snd (by assumption) (flow_ingressPieces (hM.of (by decide)) hs)

theorem flow_piecesRead {M : Nat} (hM : Within 0x667ffc8c M) {z s : State} {master : Nat} {ps : List (Nat × Nat)} (hs : Flow M z s) :
    Flow M z (piecesRead s master ps).st := by
  unfold piecesRead
  repeat' with_reducible first | exact hM.of (by decide) | assumption | apply flow_foldl_st | apply flow_memRead | intro _

theorem flow_piecesWrite {M : Nat} (hM : Within 0x667ffc8c M) {z s : State} {master : Nat} {ps : List (Nat × Nat)} {b : List Byte} (hs : Flow M z s) :
    Flow M z (piecesWrite s master ps b).st := by
  unfold piecesWrite
  repeat' with_reducible first | exact hM.of (by decide) | assumption | apply flow_foldl_fst_st | apply flow_memWrite | intro _

theorem flow_raiseRemote {M : Nat} (hM : Within 0x667ffc8c M) {z : State} {s : State} {ctx : Nat} {n : Nat} {len : Nat} (hs : Flow M z s) :
    Flow M z (raiseRemote s ctx n len) := by
  unfold raiseRemote
  try dsimp only
  repeat' with_reducible first
    | exact hM.of (by decide) | exact hM.raw (by decide) | assumption | (refine Flow.raw ?_; assumption) | apply flow_addRemoteCtr | apply flow_devRead | apply flow_devWrite
    | apply flow_settleDue | apply flow_touchCtr | split

theorem flow_performRequest {M : Nat} (hM : Within 0x667ffc8c M) {z s : State} {n : Nat} {x : Packet} {ps : List (Nat × Nat)} (hs : Flow M z s) :
    Flow M z (performRequest s n x ps) := by
  unfold performRequest
  try dsimp only
  repeat' with_reducible first
    | exact hM.of (by decide) | assumption | apply flow_answer | apply flow_piecesRead | apply flow_piecesWrite
    | apply flow_raiseRemote | apply flow_sendNack | split

theorem flow_misformed {M : Nat} (hM : Within 0x667ffc8c M) {z s : State} {n : Nat} {x : Packet} {ps : List (Nat × Nat)} (hs : Flow M z s) :
    Flow M z (misformed s n x ps) := by
  unfold misformed
  try dsimp only
  repeat' with_reducible first
    | exact hM.of (by decide) | assumption | apply flow_sendNack | apply flow_piecesRead | split

theorem flow_ingress {M : Nat} (hM : Within 0x667ffc8c M) {z s : State} {ty n : Nat} {name : String} {x : Packet} (hs : Flow M z s) :
    FlowR M z (ingress ty name n x s) := by
  refine flow_receive (hM.of (by decide)) hs fun t ht => ?_
  split
  · exact flowR_next (flow_sendNack (hM.of (by decide)) (flow_ingressChecks_nack (hM.of (by decide)) ht (by assumption)))
  · exact flowR_next (flow_withTrans (hM.of (by decide)) (flow_withRegs (hM.of (by decide)) hs _) _)
  · have h := flow_ingressChecks_go (hM.of (by decide)) ht (by assumption)
    refine flowR_next ?_
    split
    · exact flow_performRequest (hM.of (by decide)) h
    · exact flow_misformed (hM.of (by decide)) h

theorem flow_execWrite {M : Nat} (hM : Within 0x667ffc8c M) {z : State} {n : Nat} {p : Packet} {s : State} (hs : Flow M z s) : FlowR M z (execWrite n p s) := flow_ingress (hM.of (by decide)) hs

theorem flow_execRead {M : Nat} (hM : Within 0x667ffc8c M) {z : State} {n : Nat} {p : Packet} {s : State} (hs : Flow M z s) : FlowR M z (execRead n p s) := flow_ingress (hM.of (by decide)) hs

theorem flow_execAtomic {M : Nat} (hM : Within 0x667ffc8c M) {z : State} {n : Nat} {p : Packet} {s : State} (hs : Flow M z s) : FlowR M z (execAtomic n p s) := flow_ingress (hM.of (by decide)) hs

theorem flow_response {M : Nat} (hM : Within 0x28000082 M) {z : State} {ty : Nat} {name : String} {n : Nat} {x : Packet} {s : State} {k : Requester → Nat →
    Nat → State → State} (hs : Flow M z s) (hk : ∀ a0 a1 a2 a3, Flow M z a3 → Flow M z (k a0 a1 a2 a3)) :
    FlowR M z (response ty name n x s k) := by
  unfold response
  try dsimp only
  repeat' with_reducible first
    | exact hM.of (by decide) | assumption | apply flow_histogram | apply flowR_next | apply flow_receive | apply flow_setPort | apply hk | split
    | intro _

theorem flow_stationAnswered {M : Nat} (hM : Within 0x4000000 M) {z s : State} {core d st : Nat} {part : Option (Nat × List Byte)} (hs : Flow M z s) :
    Flow M z (stationAnswered s core d st part) := flow_modStation (hM.of (by decide)) hs

theorem flow_execAck {M : Nat} (hM : Within 0x2c001082 M) {z : State} {n : Nat} {p : Packet} {s : State} (hs : Flow M z s) : FlowR M z (execAck n p s) := by
  unfold execAck
  repeat' with_reducible first
    | exact hM.of (by decide) | assumption | apply flow_endFe | apply flow_modFe | apply flow_response
    | apply flow_stationAnswered | split | intro _

theorem flow_execData {M : Nat} (hM : Within 0x2c000082 M) {z : State} {n : Nat} {p : Packet} {s : State} (hs : Flow M z s) : FlowR M z (execData n p s) := by
  unfold execData
  repeat' with_reducible first
    | exact hM.of (by decide) | assumption | apply flow_response | apply flow_stationAnswered | split | intro _

theorem flow_execResult {M : Nat} (hM : Within 0x2c000486 M) {z : State} {n : Nat} {p : Packet} {s : State} (hs : Flow M z s) : FlowR M z (execResult n p s) := by
  unfold execResult
  try dsimp only
  repeat' with_reducible first
    | exact hM.of (by decide) | assumption | apply flow_clearCond | apply flow_discardData | apply flow_placeGroup
    | apply flow_response | apply flow_setGroup | split | intro _

theorem flow_execNack {M : Nat} (hM : Within 0x2e01b486 M) {z : State} {n : Nat} {p : Packet} {s : State} (hs : Flow M z s) : FlowR M z (execNack n p s) := by
  unfold execNack
  repeat' with_reducible first
    | exact hM.of (by decide) | assumption | apply flow_failSubmission | apply flow_response | intro _

theorem flow_execCredit {M : Nat} (hM : Within 0x20000080 M) {z : State} {n : Nat} {p : Packet} {s : State} (hs : Flow M z s) : FlowR M z (execCredit n p s) := by
  unfold execCredit
  repeat' with_reducible first
    | exact hM.of (by decide) | assumption | apply flowR_next | apply flow_pumpPort | apply flow_receive | apply flow_setPort
    | split | intro _

theorem flow_execRetry {M : Nat} (hM : Within 0x20000084 M) {z : State} {n : Nat} {p : Packet} {s : State} (hs : Flow M z s) : FlowR M z (execRetry n p s) := by
  unfold execRetry
  repeat' with_reducible first
    | exact hM.of (by decide) | assumption | apply flowR_next | apply flow_foldl | apply flow_countHigh | apply flow_emit
    | apply flow_receive | apply flow_setPort | split | intro _

theorem flow_execInit {M : Nat} (hM : Within 0x20000080 M) {z : State} {n : Nat} {p : Packet} {s : State} (hs : Flow M z s) : FlowR M z (execInit n p s) := by
  unfold execInit
  repeat' with_reducible first
    | exact hM.of (by decide) | assumption | apply flowR_next | apply flow_receive | apply flow_setPort | apply flow_tryUp
    | split | intro _

theorem flow_atrSend {M : Nat} (hM : Within 0x20000080 M) {z : State} {t : Thread} {s : State} {x : Nat × HEntry × Nat × Nat} (hs : Flow M z s) :
    Flow M z (atrSend t s x) := by
  unfold atrSend
  repeat' with_reducible first | exact hM.of (by decide) | assumption | apply flow_portRequest

theorem flow_execAtr {M : Nat} (hM : Within 0x66fffc8e M) {z : State} {core : Nat} {slot : Nat} {w : BitVec 64} {s : State} (hs : Flow M z s) :
    FlowR M z (execAtr core slot w s) := by
  unfold execAtr
  try dsimp only
  repeat' with_reducible first
    | exact hM.of (by decide) | assumption | apply flowR_next | exact flowR_refused _ | apply flow_foldl | apply flow_atrSend
    | apply flow_badHandle | apply flow_failIssue | apply flow_fenceFirst | apply flow_issue | apply flow_noted
    | apply flow_park | apply flow_stallOn | split | intro _

/-! Sys2Proof/Machine/Resets.lean. -/

theorem flow_nmi {M : Nat} (hM : Within 0x20000004 M) {z s : State} {bitNo : Nat} (hs : Flow M z s) : Flow M z (nmi s bitNo) := by
  unfold nmi
  repeat' with_reducible first | exact hM.of (by decide) | assumption | apply flow_emit | apply flow_orReg

theorem flow_cleared {M : Nat} (hM : Within 0x15ffbfffc M) {z s : State} (hs : Flow M z s) : Flow M z (cleared s) :=
  hs.andThen ⟨Nat.le_refl _, List.prefix_refl _, fun _ => rfl, id, fun p hp => by
    cases p <;> first | rfl | exact absurd (hM.bit (by decide)) (ne_true_of_eq_false hp), fun _ _ => rfl,
    fun e => absurd (hM.bit (by decide)) (ne_true_of_eq_false e)⟩

theorem flow_coldReset {M : Nat} (hM : Within 0x15ffbfffc M) {z s : State} {cause : Nat} (hs : Flow M z s) : Flow M z (coldReset s cause) := by
  unfold coldReset
  exact flow_mk (flow_cleared (hM.of (by decide)) hs)

theorem flow_shutDown {M : Nat} (hM : Within 0x15ffbfffc M) {z s : State} {cause : Nat} (hs : Flow M z s) : Flow M z (shutDown s cause) := by
  unfold shutDown
  exact flow_mk (flow_cleared (hM.of (by decide)) hs)

theorem flow_warmKeep {M : Nat} (hM : Within 0x15fe1fffc M) {z s : State} {cause : Nat} (hs : Flow M z s) : Flow M z (warmKeep s cause) :=
  hs.andThen ⟨Nat.le_refl _, List.prefix_refl _, id, id, fun p hp => by
    cases p <;> first | rfl | exact absurd (hM.bit (by decide)) (ne_true_of_eq_false hp), fun _ _ => rfl,
    fun e => absurd (hM.bit (by decide)) (ne_true_of_eq_false e)⟩

theorem flow_warmReset {M : Nat} (hM : Within 0x17fe1fffc M) {z s : State} {cause : Nat} {keepsLink : Bool} (hs : Flow M z s) :
    Flow M z (warmReset s cause keepsLink) := by
  unfold warmReset
  repeat' with_reducible first
    | exact hM.of (by decide) | assumption | apply flow_withPower | apply flow_discardStage | apply flow_warmKeep | split

theorem flow_failover {M : Nat} (hM : Within 0x17fe1fffc M) {z s : State} (hs : Flow M z s) : Flow M z (failover s) := by
  unfold failover
  repeat' with_reducible first
    | exact hM.of (by decide) | assumption | apply flow_withClock | apply flow_setReg | apply flow_warmReset | split

theorem flow_railsDone {M : Nat} (hM : Within 0x10000240 M) {z s : State} (hs : Flow M z s) : Flow M z (railsDone s) := by
  unfold railsDone
  repeat' with_reducible first | assumption | split | exact flow_mk (by assumption)

theorem flow_beginTrain {M : Nat} (hM : Within 0x280 M) {z s : State} (hs : Flow M z s) : Flow M z (beginTrain s) := by
  unfold beginTrain
  repeat' with_reducible first
    | exact hM.of (by decide) | assumption | apply flow_foldl | apply flow_withPower | apply flow_setPort | intro _

theorem flow_trainDone {M : Nat} (hM : Within 0x200 M) {z s : State} (hs : Flow M z s) : Flow M z (trainDone s) := by
  unfold trainDone
  repeat' with_reducible first | exact hM.of (by decide) | assumption | apply flow_withPower | split

theorem flow_recovery {M : Nat} (hM : Within 0x200 M) {z s : State} {code : Nat} (hs : Flow M z s) : Flow M z (recovery s code) := by
  unfold recovery
  repeat' with_reducible first | exact hM.of (by decide) | assumption | apply flow_withPower

theorem flow_linkTrains {M : Nat} (hM : Within 0x1000 M) {z s : State} (hs : Flow M z s) : Flow M z (linkTrains s) := by
  unfold linkTrains
  repeat' with_reducible first | exact hM.of (by decide) | assumption | apply flow_withFront

/-! Sys2Proof/Machine/Clocks.lean. -/

theorem flow_execOscillatorStable {M : Nat} (hM : Within 0x10000340 M) {z s : State} (hs : Flow M z s) : FlowR M z (execOscillatorStable s) := by
  unfold execOscillatorStable
  repeat' with_reducible first
    | exact hM.of (by decide) | assumption | apply flowR_enabled | apply flow_withClock | apply flow_railsDone | intro _

theorem flow_execMonitorWindowEnd {M : Nat} (hM : Within 0x17fe1fffc M) {z : State} {count : Nat} {s : State} (hs : Flow M z s) :
    FlowR M z (execMonitorWindowEnd count s) := by
  unfold execMonitorWindowEnd
  try dsimp only
  repeat' with_reducible first
    | exact hM.of (by decide) | assumption | apply flowR_next | exact flowR_refused _ | apply flow_withClock
    | apply flow_failover | apply flow_nmi | split

theorem flow_execPllUnlock {M : Nat} (hM : Within 0x17fe1fffc M) {z s : State} (hs : Flow M z s) : FlowR M z (execPllUnlock s) := by
  unfold execPllUnlock
  try dsimp only
  repeat' with_reducible first
    | exact hM.of (by decide) | assumption | apply flowR_next | exact flowR_refused _ | apply flow_withClock
    | apply flow_failover | apply flow_nmi | split

theorem flow_execOscFail {M : Nat} (hM : Within 0x20000104 M) {z s : State} (hs : Flow M z s) : FlowR M z (execOscFail s) := by
  unfold execOscFail
  repeat' with_reducible first
    | exact hM.of (by decide) | assumption | apply flowR_next | exact flowR_refused _ | apply flow_withClock | apply flow_nmi
    | split

theorem flow_execReferenceStable {M : Nat} (hM : Within 0x100 M) {z s : State} (hs : Flow M z s) : FlowR M z (execReferenceStable s) := by
  unfold execReferenceStable
  repeat' with_reducible first | exact hM.of (by decide) | assumption | apply flowR_enabled | apply flow_withClock | intro _

theorem flow_execPllLocked {M : Nat} (hM : Within 0x110 M) {z : State} {pll : Pll} {s : State} (hs : Flow M z s) : FlowR M z (execPllLocked pll s) := by
  unfold execPllLocked
  try dsimp only
  repeat' with_reducible first
    | exact hM.of (by decide) | assumption | exact flowR_refused _ | apply flowR_enabled | apply flow_withClock | split
    | intro _ | exact flow_mk (by assumption)

theorem flow_execResume {M : Nat} (hM : Within 0x380 M) {z : State} {value : BitVec 32} {s : State} (hs : Flow M z s) : FlowR M z (execResume value s) := by
  unfold execResume
  try dsimp only
  repeat' with_reducible first
    | exact hM.of (by decide) | assumption | apply flowR_next | apply flow_withClock | apply flow_withPower
    | apply flow_beginTrain | split

theorem flow_noteRefused {M : Nat} (hM : Within 0x4 M) {z s : State} {l : List Nat} (hs : Flow M z s) : Flow M z (noteRefused s l) := by
  unfold noteRefused
  repeat' with_reducible first | exact hM.of (by decide) | assumption | apply flow_orReg | split

theorem flow_forget {M : Nat} (hM : Within 0x1a0000 M) {z s : State} {p : Nat → Bool} (hs : Flow M z s) : Flow M z (forget s p) := by
  unfold forget
  repeat' with_reducible first
    | exact Or.inl rfl | exact Or.inr (hM.bit (by decide)) | assumption | exact id | exact wf_filter _ | apply flow_withMem

theorem flow_gateStack {M : Nat} (hM : Within 0x1003a0100 M) {z s : State} {st : Nat} (hs : Flow M z s) : Flow M z (gateStack s st) := by
  unfold gateStack
  repeat' with_reducible first
    | exact hM.of (by decide) | assumption | apply flow_withClock | apply flow_forget | apply flow_setStack

theorem flow_gatePkg {M : Nat} (hM : Within 0x5a0100 M) {z s : State} {p : Nat} (hs : Flow M z s) : Flow M z (gatePkg s p) := by
  unfold gatePkg
  repeat' with_reducible first
    | exact hM.of (by decide) | assumption | apply flow_withClock | apply flow_forget | apply flow_setPkg

theorem flow_execCkGateStack {M : Nat} (hM : Within 0x1003a0104 M) {z : State} {value : BitVec 32} {s : State} (hs : Flow M z s) :
    FlowR M z (execCkGateStack value s) := by
  unfold execCkGateStack
  repeat' with_reducible first
    | exact hM.of (by decide) | assumption | apply flowR_next | apply flow_foldl | apply flow_withClock | apply flow_gateStack
    | apply flow_noteRefused | apply flow_pfWrite | apply flow_setStack | intro _

theorem flow_execCkGateSr {M : Nat} (hM : Within 0x5a0104 M) {z : State} {value : BitVec 32} {s : State} (hs : Flow M z s) : FlowR M z (execCkGateSr value s) := by
  unfold execCkGateSr
  repeat' with_reducible first
    | exact hM.of (by decide) | assumption | apply flowR_next | apply flow_foldl | apply flow_withClock | apply flow_gatePkg
    | apply flow_noteRefused | apply flow_pfWrite | apply flow_setPkg | intro _

theorem flow_execCkGatePort {M : Nat} (hM : Within 0x184 M) {z : State} {value : BitVec 32} {s : State} (hs : Flow M z s) :
    FlowR M z (execCkGatePort value s) := by
  unfold execCkGatePort
  repeat' with_reducible first
    | exact hM.of (by decide) | assumption | apply flowR_next | apply flow_foldl | apply flow_withClock
    | apply flow_noteRefused | apply flow_pfWrite | apply flow_setPort | intro _

theorem flow_execCkGateMisc {M : Nat} (hM : Within 0x104 M) {z : State} {value : BitVec 32} {s : State} (hs : Flow M z s) :
    FlowR M z (execCkGateMisc value s) := by
  unfold execCkGateMisc
  repeat' with_reducible first
    | exact hM.of (by decide) | assumption | apply flowR_next | apply flow_withClock | apply flow_pfWrite

/-! Sys2Proof/Machine/Power.lean. -/

theorem flow_execPowerApplied {M : Nat} (hM : Within 0x15ffbfffc M) {z s : State} (hs : Flow M z s) : FlowR M z (execPowerApplied s) := by
  unfold execPowerApplied
  repeat' with_reducible first
    | exact hM.of (by decide) | assumption | apply flowR_enabled | apply flow_withPower | apply flow_coldReset | intro _

theorem flow_execInputFault {M : Nat} (hM : Within 0x15ffbfffc M) {z s : State} (hs : Flow M z s) : FlowR M z (execInputFault s) := by
  unfold execInputFault
  repeat' with_reducible first
    | exact hM.of (by decide) | assumption | apply flowR_enabled | apply flow_withPower | apply flow_shutDown | intro _

theorem flow_execInputRestored {M : Nat} (hM : Within 0x15ffbfffc M) {z s : State} (hs : Flow M z s) : FlowR M z (execInputRestored s) := by
  unfold execInputRestored
  repeat' with_reducible first
    | exact hM.of (by decide) | assumption | apply flowR_enabled | apply flow_withPower | apply flow_coldReset | intro _

theorem flow_execRailPowerGood {M : Nat} (hM : Within 0x10000240 M) {z s : State} (hs : Flow M z s) : FlowR M z (execRailPowerGood s) := by
  unfold execRailPowerGood
  repeat' with_reducible first
    | exact hM.of (by decide) | assumption | apply flowR_enabled | apply flow_withPower | apply flow_railsDone | intro _

theorem flow_execRailTimeout {M : Nat} (hM : Within 0x300 M) {z s : State} (hs : Flow M z s) : FlowR M z (execRailTimeout s) := by
  unfold execRailTimeout
  repeat' with_reducible first | apply flowR_enabled | intro _ | exact flow_mk (by assumption)

theorem flow_execRailRetry {M : Nat} (hM : Within 0x200 M) {z s : State} (hs : Flow M z s) : FlowR M z (execRailRetry s) := by
  unfold execRailRetry
  repeat' with_reducible first | exact hM.of (by decide) | assumption | apply flowR_enabled | apply flow_withPower | intro _

theorem flow_execRailSample {M : Nat} (hM : Within 0x604 M) {z : State} {m : RailSample} {s : State} (hs : Flow M z s) : FlowR M z (execRailSample m s) := by
  unfold execRailSample
  try dsimp only
  repeat' with_reducible first
    | exact hM.of (by decide) | assumption | apply flowR_next | exact flowR_refused _ | apply flow_foldl
    | apply flow_withPower | apply flow_orReg | apply flow_setPartPower | apply flow_startHold | split | intro _

theorem flow_execJunctionSample {M : Nat} (hM : Within 0x15ffbfffc M) {z : State} {die : Nat} {temp : Int} {sustained : Bool} {s : State} (hs : Flow M z s) :
    FlowR M z (execJunctionSample die temp sustained s) := by
  unfold execJunctionSample
  try dsimp only
  repeat' with_reducible first
    | exact hM.of (by decide) | assumption | apply flowR_next | exact flowR_refused _ | apply flow_orReg
    | apply flow_setDiePower | apply flow_shutDown | apply flow_startHold | split

theorem flow_coldTrigger {M : Nat} (hM : Within 0x15ffbfffc M) {z s : State} {cause : Nat} (hs : Flow M z s) : Flow M z (coldTrigger s cause) := by
  unfold coldTrigger
  repeat' with_reducible first | exact hM.of (by decide) | assumption | apply flow_withPower | apply flow_coldReset | split

theorem flow_execTripRestartDelay {M : Nat} (hM : Within 0x15ffbfffc M) {z s : State} (hs : Flow M z s) : FlowR M z (execTripRestartDelay s) := by
  unfold execTripRestartDelay
  repeat' with_reducible first
    | exact hM.of (by decide) | assumption | apply flowR_next | exact flowR_refused _ | apply flow_withPower
    | apply flow_coldReset | split

theorem flow_resetPins {M : Nat} (hM : Within 0x10000000 M) {z s : State} {modReset flEn : Bool} (hs : Flow M z s) : Flow M z (resetPins s modReset flEn) := by
  unfold resetPins
  repeat' with_reducible first | exact hM.of (by decide) | assumption | apply flow_withPins

theorem flow_execModReset {M : Nat} (hM : Within 0x15ffbfffc M) {z s : State} (hs : Flow M z s) : FlowR M z (execModReset s) := by
  unfold execModReset
  repeat' with_reducible first
    | exact hM.of (by decide) | assumption | apply flowR_next | exact flowR_refused _ | apply flow_coldTrigger
    | apply flow_resetPins | split

theorem flow_execModResetRelease {M : Nat} (hM : Within 0x10000200 M) {z s : State} (hs : Flow M z s) : FlowR M z (execModResetRelease s) := by
  unfold execModResetRelease
  repeat' with_reducible first
    | exact hM.of (by decide) | assumption | apply flowR_next | exact flowR_refused _ | apply flow_withPower
    | apply flow_resetPins | split

theorem flow_execFlEn {M : Nat} (hM : Within 0x10000000 M) {z : State} {asserted : Bool} {s : State} (hs : Flow M z s) : FlowR M z (execFlEn asserted s) := by
  unfold execFlEn
  repeat' with_reducible first | exact hM.of (by decide) | assumption | apply flowR_next | apply flow_resetPins

theorem flow_execPerstAssert {M : Nat} (hM : Within 0x17fe1fffc M) {z s : State} (hs : Flow M z s) : FlowR M z (execPerstAssert s) := by
  unfold execPerstAssert
  repeat' with_reducible first
    | exact hM.of (by decide) | apply flowR_next | exact flowR_refused _ | apply flow_warmReset | split
    | exact flow_mk (by assumption)

theorem flow_execPerstDeassert {M : Nat} (hM : Within 0x10001000 M) {z s : State} (hs : Flow M z s) : FlowR M z (execPerstDeassert s) := by
  unfold execPerstDeassert
  repeat' with_reducible first
    | exact hM.of (by decide) | assumption | apply flowR_next | exact flowR_refused _ | apply flow_withPins
    | apply flow_linkTrains | split

theorem flow_execConfigRequest {M : Nat} (hM : Within 0x20000000 M) {z : State} {fn : Nat} {s : State} (hs : Flow M z s) : FlowR M z (execConfigRequest fn s) := by
  unfold execConfigRequest
  repeat' with_reducible first | exact hM.of (by decide) | assumption | apply flowR_enabled | apply flow_emit | intro _

theorem flow_execPfFlr {M : Nat} (hM : Within 0x17fe1fffc M) {z s : State} (hs : Flow M z s) : FlowR M z (execPfFlr s) := by
  unfold execPfFlr
  repeat' with_reducible first | exact hM.of (by decide) | assumption | apply flowR_next | apply flow_warmReset

theorem flow_execResetCtrlWarm {M : Nat} (hM : Within 0x17fe1fffc M) {z : State} {value : BitVec 32} {s : State} (hs : Flow M z s) :
    FlowR M z (execResetCtrlWarm value s) := by
  unfold execResetCtrlWarm
  repeat' with_reducible first
    | exact hM.of (by decide) | assumption | apply flowR_next | apply flow_pfWrite | apply flow_warmReset | split

theorem flow_execQuiesceDone {M : Nat} (hM : Within 0x280 M) {z s : State} (hs : Flow M z s) : FlowR M z (execQuiesceDone s) := by
  unfold execQuiesceDone
  repeat' with_reducible first
    | exact hM.of (by decide) | assumption | apply flowR_next | exact flowR_refused _ | apply flow_withPower
    | apply flow_beginTrain | split

theorem flow_execFuseLoadDone {M : Nat} (hM : Within 0x10001200 M) {z : State} {f : Fuses} {s : State} (hs : Flow M z s) :
    FlowR M z (execFuseLoadDone f s) := by
  unfold execFuseLoadDone
  repeat' with_reducible first
    | exact hM.of (by decide) | assumption | apply flowR_next | exact flowR_refused _ | apply flow_withPower
    | apply flow_withPins | apply flow_recovery | apply flow_linkTrains | split

theorem flow_applyImage {M : Nat} (hM : Within 0x15fe1fffc M) {z s : State} {h : ImageHeader} (hs : Flow M z s) : Flow M z (applyImage s h) := by
  unfold applyImage
  try dsimp only
  repeat' with_reducible first
    | exact hM.of (by decide) | assumption | apply flow_withPower | apply flow_beginTrain | apply flow_warmKeep | split

theorem flow_execImageVerifyDone {M : Nat} (hM : Within 0x15fe1fffc M) {z : State} {img : Option ImageHeader} {s : State} (hs : Flow M z s) :
    FlowR M z (execImageVerifyDone img s) := by
  unfold execImageVerifyDone
  repeat' with_reducible first
    | exact hM.of (by decide) | assumption | apply flowR_next | exact flowR_refused _ | apply flow_withPower
    | apply flow_applyImage | apply flow_recovery | split

theorem flow_execStackTrained {M : Nat} (hM : Within 0x100200200 M) {z : State} {stack : Nat} {ok : Bool} {s : State} (hs : Flow M z s) :
    FlowR M z (execStackTrained stack ok s) := by
  unfold execStackTrained
  try dsimp only
  repeat' with_reducible first
    | exact hM.of (by decide) | assumption | apply flowR_next | exact flowR_refused _ | apply flow_setStack
    | apply flow_trainDone | split

theorem flow_execSrPackageTrained {M : Nat} (hM : Within 0x400200 M) {z : State} {pkg : Nat} {ok : Bool} {s : State} (hs : Flow M z s) :
    FlowR M z (execSrPackageTrained pkg ok s) := by
  unfold execSrPackageTrained
  try dsimp only
  repeat' with_reducible first
    | exact hM.of (by decide) | assumption | apply flowR_next | exact flowR_refused _ | apply flow_setPkg
    | apply flow_trainDone | split

theorem flow_execInvalidateDone {M : Nat} (hM : Within 0x4010300 M) {z s : State} (hs : Flow M z s) : FlowR M z (execInvalidateDone s) := by
  unfold execInvalidateDone
  repeat' with_reducible first | apply flowR_next | exact flowR_refused _ | split | exact flow_mk (by assumption)

theorem flow_execDictionaryOnline {M : Nat} (hM : Within 0x20000260 M) {z s : State} (hs : Flow M z s) : FlowR M z (execDictionaryOnline s) := by
  unfold execDictionaryOnline
  repeat' with_reducible first
    | exact hM.of (by decide) | apply flowR_next | exact flowR_refused _ | apply flow_originate | split
    | exact flow_mk (by assumption)

theorem flow_execRingJoinTimeout {M : Nat} (hM : Within 0x10000250 M) {z s : State} (hs : Flow M z s) : FlowR M z (execRingJoinTimeout s) := by
  unfold execRingJoinTimeout
  repeat' with_reducible first
    | exact hM.of (by decide) | assumption | apply flowR_enabled | apply flow_withRing | apply flow_finishStart | intro _

theorem flow_clearCore {M : Nat} (hM : Within 0x4000000 M) {z s : State} {c : Nat} (hs : Flow M z s) : Flow M z (clearCore s c) := flow_modCore (hM.of (by decide)) hs

theorem flow_clearCellar {M : Nat} (hM : Within 0x2000000 M) {z s : State} {st : Nat} (hs : Flow M z s) : Flow M z (clearCellar s st) := by
  unfold clearCellar
  repeat' with_reducible first | exact hM.of (by decide) | assumption | apply flow_modCellar | apply flow_resetCodebooks

theorem flow_resetPartition {M : Nat} (hM : Within 0x66fffe8c M) {z s : State} {p : Nat} (hs : Flow M z s) : Flow M z (resetPartition s p) := by
  unfold resetPartition
  repeat' with_reducible first
    | exact hM.of (by decide) | assumption | apply flow_disablePool | apply flow_foldl | apply flow_clearCellar | apply flow_clearCore
    | apply flow_loseContext | apply flow_setPartPower | apply flow_setPool | apply flow_setSlice | intro _

theorem flow_execPartitionReset {M : Nat} (hM : Within 0x66fffe8c M) {z : State} {value : BitVec 32} {s : State} (hs : Flow M z s) :
    FlowR M z (execPartitionReset value s) := by
  unfold execPartitionReset
  try dsimp only
  repeat' with_reducible first
    | exact hM.of (by decide) | assumption | apply flowR_next | apply flow_withPower | apply flow_pfWrite
    | apply flow_resetPartition | apply flow_setReg | split

theorem flow_execPartitionResetDone {M : Nat} (hM : Within 0x200 M) {z s : State} (hs : Flow M z s) : FlowR M z (execPartitionResetDone s) := by
  unfold execPartitionResetDone
  repeat' with_reducible first | exact hM.of (by decide) | assumption | apply flowR_enabled | apply flow_withPower | intro _

theorem flow_execContextReset {M : Nat} (hM : Within 0x667ffc8c M) {z : State} {value : BitVec 32} {s : State} (hs : Flow M z s) :
    FlowR M z (execContextReset value s) := by
  unfold execContextReset
  repeat' with_reducible first
    | exact hM.of (by decide) | assumption | apply flowR_next | apply flow_loseContext | apply flow_pfWrite
    | apply flow_setReg | split

/-! Sys2Proof/Machine/DictCmds.lean. -/

theorem flow_refuseReq {M : Nat} (hM : Within 0x2000006c M) {z s : State} {t : Transport} {r : List Byte} {code : Nat} (hs : Flow M z s) :
    Flow M z (refuseReq s t r code) := flow_sendAnswer (hM.of (by decide)) hs

theorem flow_grantReq_ {M : Nat} (hM : Within 0x2000006c M) {z s : State} {t : Transport} {r : List Byte} {ty : Nat} {data : List Byte} (hs : Flow M z s) :
    Flow M z (grantReq_ s t r ty data) := flow_sendAnswer (hM.of (by decide)) hs

theorem flow_serveRead {M : Nat} (hM : Within 0x2000006c M) {z s : State} {t : Transport} {r : List Byte} (hs : Flow M z s) : Flow M z (serveRead s t r) := by
  unfold serveRead
  repeat' with_reducible first | exact hM.of (by decide) | assumption | apply flow_grantReq_ | apply flow_refuseReq | split

theorem flow_serveReadSet {M : Nat} (hM : Within 0x2000006c M) {z s : State} {t : Transport} {r : List Byte} (hs : Flow M z s) : Flow M z (serveReadSet s t r) := flow_grantReq_ (hM.of (by decide)) hs

theorem flow_serveDescribe {M : Nat} (hM : Within 0x2000006c M) {z s : State} {t : Transport} {r : List Byte} (hs : Flow M z s) :
    Flow M z (serveDescribe s t r) := by
  unfold serveDescribe
  repeat' with_reducible first | exact hM.of (by decide) | assumption | apply flow_grantReq_ | apply flow_refuseReq | split

theorem flow_stageWrite {M : Nat} (hM : Within 0x2000006c M) {z s : State} {t : Transport} {r : List Byte} {v : Nat} (hs : Flow M z s) :
    Flow M z (stageWrite s t r v) := by
  unfold stageWrite
  repeat' with_reducible first | exact hM.of (by decide) | assumption | apply flow_withDict | apply flow_refuseReq | split

theorem flow_immediateWrite {M : Nat} (hM : Within 0x17ffbfffc M) {z s : State} {t : Transport} {r : List Byte} {v : Nat} (hs : Flow M z s) :
    Flow M z (immediateWrite s t r v) := by
  unfold immediateWrite
  repeat' with_reducible first
    | exact hM.of (by decide) | assumption | apply flow_withDict | apply flow_coldTrigger | apply flow_grantReq_
    | apply flow_warmReset | split

theorem flow_serveWrite {M : Nat} (hM : Within 0x17ffbfffc M) {z s : State} {t : Transport} {r : List Byte} (hs : Flow M z s) : Flow M z (serveWrite s t r) := by
  unfold serveWrite
  try dsimp only
  repeat' with_reducible first
    | exact hM.of (by decide) | assumption | apply flow_immediateWrite | apply flow_refuseReq | apply flow_stageWrite | split

theorem flow_serve {M : Nat} (hM : Within 0x17ffbfffc M) {z s : State} {t : Transport} {r : List Byte} (hs : Flow M z s) : Flow M z (serve s t r) := by
  unfold serve
  repeat' with_reducible first
    | exact hM.of (by decide) | assumption | apply flow_withDict | apply flow_refuseReq | apply flow_serveDescribe
    | apply flow_serveRead | apply flow_serveReadSet | apply flow_serveWrite | split

theorem flow_throughMailbox {M : Nat} (hM : Within 0xc M) {z : State} {t : Transport} {s : State} {r : Res} (hs : Flow M z s) (hr : FlowR M z r) :
    FlowR M z (throughMailbox t s r) := by
  unfold throughMailbox
  repeat' with_reducible first
    | exact hM.of (by decide) | assumption | apply flowR_next | apply flow_pfWrite | apply flow_vfWrite | split

theorem flow_dictRow {M : Nat} (hM : Within 0x17ffbfffc M) {z : State} {op : Nat} {name : String} {t : Transport} {r : List Byte} {s : State} (hs : Flow M z s) :
    FlowR M z (dictRow op name t r s) := by
  unfold dictRow
  try dsimp only
  repeat' with_reducible first
    | exact hM.of (by decide) | assumption | apply flowR_next | exact flowR_refused _ | apply flow_serve
    | apply flow_throughMailbox | split

theorem flow_execDictRead {M : Nat} (hM : Within 0x17ffbfffc M) {z : State} {t : Transport} {req : List Byte} {s : State} (hs : Flow M z s) :
    FlowR M z (execDictRead t req s) := flow_dictRow (hM.of (by decide)) hs

theorem flow_execDictWrite {M : Nat} (hM : Within 0x17ffbfffc M) {z : State} {t : Transport} {req : List Byte} {s : State} (hs : Flow M z s) :
    FlowR M z (execDictWrite t req s) := flow_dictRow (hM.of (by decide)) hs

theorem flow_execReadSet {M : Nat} (hM : Within 0x17ffbfffc M) {z : State} {t : Transport} {req : List Byte} {s : State} (hs : Flow M z s) :
    FlowR M z (execReadSet t req s) := flow_dictRow (hM.of (by decide)) hs

theorem flow_execDescribe {M : Nat} (hM : Within 0x17ffbfffc M) {z : State} {t : Transport} {req : List Byte} {s : State} (hs : Flow M z s) :
    FlowR M z (execDescribe t req s) := flow_dictRow (hM.of (by decide)) hs

theorem flow_mailboxGo {M : Nat} (hM : Within 0x17ffbfffc M) {z s : State} {fn : Nat} (hs : Flow M z s) : Flow M z (mailboxGo s fn) := by
  unfold mailboxGo
  repeat' with_reducible first | exact hM.of (by decide) | assumption | apply flow_serve | split

theorem flow_mctpAnswer {M : Nat} (hM : Within 0x20000000 M) {z : State} {name : String} {b : Binding} {m : MctpRequest} {s : State} {k : State → List Byte
    × State} (hs : Flow M z s) (hk : ∀ a0, Flow M z a0 → Flow M z (k a0).2) :
    FlowR M z (mctpAnswer name b m s k) := by
  unfold mctpAnswer
  repeat' with_reducible first
    | exact hM.of (by decide) | assumption | apply flowR_next | exact flowR_refused _ | apply flow_emit | apply hk | split

theorem flow_setEid {M : Nat} (hM : Within 0x20 M) {z s : State} {b : Binding} {e : Nat} (hs : Flow M z s) : Flow M z (setEid s b e) := by
  unfold setEid
  repeat' with_reducible first | exact hM.of (by decide) | assumption | apply flow_withDict | split

theorem flow_execSetEndpointId {M : Nat} (hM : Within 0x20000020 M) {z : State} {b : Binding} {m : MctpRequest} {s : State} (hs : Flow M z s) :
    FlowR M z (execSetEndpointId b m s) := by
  unfold execSetEndpointId
  try dsimp only
  repeat' with_reducible first
    | exact hM.of (by decide) | assumption | apply flow_mctpAnswer | apply flow_setEid | split | intro _

theorem flow_execGetEndpointId {M : Nat} (hM : Within 0x20000000 M) {z : State} {b : Binding} {m : MctpRequest} {s : State} (hs : Flow M z s) :
    FlowR M z (execGetEndpointId b m s) := by
  unfold execGetEndpointId
  repeat' with_reducible first | exact hM.of (by decide) | assumption | apply flow_mctpAnswer | split | intro _

theorem flow_execGetMctpVersionSupport {M : Nat} (hM : Within 0x20000000 M) {z : State} {b : Binding} {m : MctpRequest} {s : State} (hs : Flow M z s) :
    FlowR M z (execGetMctpVersionSupport b m s) := by
  unfold execGetMctpVersionSupport
  try dsimp only
  repeat' with_reducible first | exact hM.of (by decide) | assumption | apply flow_mctpAnswer | split | intro _

theorem flow_execGetMessageTypeSupport {M : Nat} (hM : Within 0x20000000 M) {z : State} {b : Binding} {m : MctpRequest} {s : State} (hs : Flow M z s) :
    FlowR M z (execGetMessageTypeSupport b m s) := by
  unfold execGetMessageTypeSupport
  repeat' with_reducible first | exact hM.of (by decide) | assumption | apply flow_mctpAnswer | split | intro _

theorem flow_execGetVendorDefinedMsgSupport {M : Nat} (hM : Within 0x20000000 M) {z : State} {b : Binding} {m : MctpRequest} {s : State} (hs : Flow M z s) :
    FlowR M z (execGetVendorDefinedMsgSupport b m s) := by
  unfold execGetVendorDefinedMsgSupport
  repeat' with_reducible first | exact hM.of (by decide) | assumption | apply flow_mctpAnswer | split | intro _

theorem flow_execEntdaa {M : Nat} (hM : Within 0x20 M) {z : State} {addr : Nat} {s : State} (hs : Flow M z s) : FlowR M z (execEntdaa addr s) := by
  unfold execEntdaa
  repeat' with_reducible first | exact hM.of (by decide) | assumption | apply flowR_enabled | apply flow_withDict | intro _

/-! Sys2Proof/Machine/Interface.lean. -/

theorem flow_tapTakes {M : Nat} (hM : Within 0x10000000 M) {z : State} {n : Nat} {s : State} (hs : Flow M z s) : Flow M z (tapTakes n s) := by
  unfold tapTakes
  repeat' with_reducible first | exact hM.of (by decide) | assumption | apply flow_withPins | apply flow_resetPins | split

theorem flow_execBypass {M : Nat} (hM : Within 0x10000000 M) {z s : State} (hs : Flow M z s) : FlowR M z (execBypass s) := by
  unfold execBypass
  repeat' with_reducible first | exact hM.of (by decide) | assumption | apply flowR_next | apply flow_tapTakes

theorem flow_execIdcode {M : Nat} (hM : Within 0x10000000 M) {z s : State} (hs : Flow M z s) : FlowR M z (execIdcode s) := by
  unfold execIdcode
  repeat' with_reducible first | exact hM.of (by decide) | assumption | apply flowR_next | apply flow_tapTakes

theorem flow_execSamplePreload {M : Nat} (hM : Within 0x10000000 M) {z s : State} (hs : Flow M z s) : FlowR M z (execSamplePreload s) := by
  unfold execSamplePreload
  repeat' with_reducible first | exact hM.of (by decide) | assumption | apply flowR_next | apply flow_tapTakes

theorem flow_execExtest {M : Nat} (hM : Within 0x10000000 M) {z s : State} (hs : Flow M z s) : FlowR M z (execExtest s) := by
  unfold execExtest
  repeat' with_reducible first | exact hM.of (by decide) | assumption | apply flowR_next | apply flow_tapTakes

/-! Sys2Proof/Machine/RingRows.lean. -/

theorem flow_afterLock {M : Nat} (hM : Within 0x20000080 M) {z old s : State} (_hold : Flow M z old) (hs : Flow M z s) : Flow M z (afterLock old s) := by
  unfold afterLock
  repeat' with_reducible first | exact hM.of (by decide) | assumption | apply flow_relinkPorts | split

theorem flow_forward {M : Nat} (hM : Within 0x20000000 M) {z s : State} {type : Nat} {f : Frame} (hs : Flow M z s) : Flow M z (forward s type f) := by
  unfold forward
  repeat' with_reducible first | exact hM.of (by decide) | assumption | apply flow_emit

theorem flow_ringMessage {M : Nat} (hM : Within 0x17ffbfffc M) {z s : State} {src : Nat} {msg : List Byte} (hs : Flow M z s) : Flow M z (ringMessage s src msg) := by
  unfold ringMessage
  repeat' with_reducible first | exact hM.of (by decide) | assumption | apply flow_serve | split

theorem flow_takeCell {M : Nat} (hM : Within 0x17ffbfffc M) {z s : State} {c : List Byte} (hs : Flow M z s) : Flow M z (takeCell s c) := by
  unfold takeCell
  try dsimp only
  repeat' with_reducible first
    | exact hM.of (by decide) | assumption | apply flow_withRing | apply flow_refuseReq | apply flow_ringMessage | split

theorem flow_passCell {M : Nat} (hM : Within 0x17ffbfffc M) {z s : State} {c : List Byte} (hs : Flow M z s) : Flow M z (passCell s c).2 := by
  unfold passCell
  try dsimp only
  repeat' with_reducible first | exact hM.of (by decide) | assumption | apply flow_fillCell | apply flow_takeCell | split

theorem flow_keepCell {M : Nat} (hM : Within 0x17ffbfffc M) {z s : State} {c : List Byte} (hs : Flow M z s) : Flow M z (keepCell s c) := by
  unfold keepCell
  try dsimp only
  repeat' with_reducible first | exact hM.of (by decide) | assumption | apply flow_withRing | apply flow_takeCell | split

theorem flow_meetOrigin {M : Nat} (hM : Within 0x54 M) {z s : State} {origin : Nat} (hs : Flow M z s) : Flow M z (meetOrigin s origin).2 := by
  unfold meetOrigin
  split
  · exact hs
  · dsimp only
    split
    · exact flow_setLock (hM.of (by decide)) (flow_withRing (hM.of (by decide)) hs _)
    · exact flow_withRing (hM.of (by decide)) hs _

theorem flow_seeRelease {M : Nat} (hM : Within 0x4002444 M) {z s : State} {aux : Nat} (hs : Flow M z s) : Flow M z (seeRelease s aux) := by
  unfold seeRelease
  repeat' with_reducible first
    | exact hM.of (by decide) | assumption | apply flow_foldl | apply flow_withRing | apply flow_completeBarrier | split
    | intro _

theorem flow_masterReturn {M : Nat} (hM : Within 0x40 M) {z s : State} {f : Frame} (hs : Flow M z s) : Flow M z (masterReturn s f) := by
  unfold masterReturn
  repeat' with_reducible first | exact hM.of (by decide) | assumption | apply flow_withRing

theorem flow_execNormal {M : Nat} (hM : Within 0x17ffbfffc M) {z : State} {f : Frame} {s : State} (hs : Flow M z s) : FlowR M z (execNormal f s) := by
  unfold execNormal
  try dsimp only
  repeat' with_reducible first
    | exact hM.of (by decide) | assumption | apply flowR_next | exact flowR_refused _ | apply flow_afterLock
    | apply flow_becomeMaster | apply flow_emit | apply flow_forward | apply flow_masterReturn | apply flow_meetOrigin
    | apply flow_passCell | apply flow_seeRelease | split

theorem flow_execTickSymbol {M : Nat} (hM : Within 0x20000050 M) {z : State} {t16 : Nat} {s : State} (hs : Flow M z s) : FlowR M z (execTickSymbol t16 s) := by
  unfold execTickSymbol
  try dsimp only
  repeat' with_reducible first
    | exact hM.of (by decide) | assumption | apply flowR_next | exact flowR_refused _ | apply flow_withRing
    | apply flow_withTick | apply flow_emit | apply flow_startSurvey | split

theorem flow_readInfo {M : Nat} (hM : Within 0x10000254 M) {z s : State} {f : Frame} (hs : Flow M z s) : Flow M z (readInfo s f) := by
  unfold readInfo
  try dsimp only
  repeat' with_reducible first
    | exact hM.of (by decide) | assumption | apply flow_withRing | apply flow_withTick | apply flow_orReg
    | apply flow_ringJoined | apply flow_setLock | split

theorem flow_execTickInfo {M : Nat} (hM : Within 0x17ffbfffc M) {z : State} {f : Frame} {s : State} (hs : Flow M z s) : FlowR M z (execTickInfo f s) := by
  unfold execTickInfo
  try dsimp only
  repeat' with_reducible first
    | exact hM.of (by decide) | assumption | apply flowR_next | exact flowR_refused _ | apply flow_afterLock
    | apply flow_becomeMaster | apply flow_forward | apply flow_keepCell | apply flow_meetOrigin | apply flow_passCell
    | apply flow_readInfo | split

theorem flow_execRingEdgeMissing {M : Nat} (hM : Within 0x200000d4 M) {z s : State} (hs : Flow M z s) : FlowR M z (execRingEdgeMissing s) := by
  unfold execRingEdgeMissing
  try dsimp only
  repeat' with_reducible first
    | exact hM.of (by decide) | assumption | apply flowR_next | exact flowR_refused _ | apply flow_withRing
    | apply flow_withTick | apply flow_afterLock | apply flow_originate | apply flow_setLock | split

theorem flow_execCensus {M : Nat} (hM : Within 0x17ffbfffc M) {z : State} {f : Frame} {s : State} (hs : Flow M z s) : FlowR M z (execCensus f s) := by
  unfold execCensus
  try dsimp only
  repeat' with_reducible first
    | exact hM.of (by decide) | assumption | apply flowR_next | exact flowR_refused _ | apply flow_withRing
    | apply flow_afterLock | apply flow_forward | apply flow_keepCell | apply flow_meetOrigin | apply flow_orReg
    | apply flow_passCell | apply flow_setLock | split

theorem flow_execCensusDue {M : Nat} (hM : Within 0x20000040 M) {z s : State} (hs : Flow M z s) : FlowR M z (execCensusDue s) := by
  unfold execCensusDue
  repeat' with_reducible first | exact hM.of (by decide) | assumption | apply flowR_enabled | apply flow_sendCensus | intro _

theorem flow_endSurvey {M : Nat} (hM : Within 0x20000040 M) {z s : State} (hs : Flow M z s) : Flow M z (endSurvey s) := by
  unfold endSurvey
  repeat' with_reducible first | exact hM.of (by decide) | assumption | apply flow_withRing | apply flow_sendCensus

theorem flow_sendToken {M : Nat} (hM : Within 0x20000040 M) {z s : State} {origin next : Nat} (hs : Flow M z s) : Flow M z (sendToken s origin next) := by
  unfold sendToken
  repeat' with_reducible first | exact hM.of (by decide) | assumption | apply flow_emit | apply flow_fillCell

theorem flow_execSurvey {M : Nat} (hM : Within 0x17ffbfffc M) {z : State} {f : Frame} {s : State} (hs : Flow M z s) : FlowR M z (execSurvey f s) := by
  unfold execSurvey
  try dsimp only
  repeat' with_reducible first
    | exact hM.of (by decide) | assumption | apply flowR_next | exact flowR_refused _ | apply flow_withRing
    | apply flow_afterLock | apply flow_endSurvey | apply flow_forward | apply flow_keepCell | apply flow_meetOrigin
    | apply flow_passCell | apply flow_sendEchoes | split

theorem flow_execSurveyHopDone {M : Nat} (hM : Within 0x20000042 M) {z : State} {hop16 : Nat} {s : State} (hs : Flow M z s) :
    FlowR M z (execSurveyHopDone hop16 s) := by
  unfold execSurveyHopDone
  try dsimp only
  repeat' with_reducible first
    | exact hM.of (by decide) | assumption | apply flowR_next | exact flowR_refused _ | apply flow_withRing
    | apply flow_endSurvey | apply flow_nextToken | apply flow_sendToken | split

theorem flow_execSurveyEcho {M : Nat} (hM : Within 0x20000000 M) {z s : State} (hs : Flow M z s) : FlowR M z (execSurveyEcho s) := by
  unfold execSurveyEcho
  repeat' with_reducible first | exact hM.of (by decide) | assumption | apply flowR_enabled | apply flow_sendEchoes | intro _

theorem flow_execMgmtCellTimeout {M : Nat} (hM : Within 0x40 M) {z : State} {src seq : Nat} {s : State} (hs : Flow M z s) :
    FlowR M z (execMgmtCellTimeout src seq s) := by
  unfold execMgmtCellTimeout
  repeat' with_reducible first | exact hM.of (by decide) | assumption | apply flowR_enabled | apply flow_withRing | intro _

/-! Sys2Proof/Machine/Registers.lean. -/

theorem flow_stateOf {M : Nat} {z s : State} {r : Res} (hr : FlowR M z r) (hs : Flow M z s) : Flow M z (stateOf r s) := by
  cases r with
  | next t => exact hr t rfl
  | fault _ => exact hs
  | refused _ => exact hs

theorem flow_w1c {M : Nat} (hM : Within 0x4 M) {z s : State} {off mask v : Nat} (hs : Flow M z s) : Flow M z (w1c s off mask v) := flow_setReg (hM.of (by decide)) hs

theorem flow_rw {M : Nat} (hM : Within 0x4 M) {z s : State} {off mask v : Nat} (hs : Flow M z s) : Flow M z (rw s off mask v) := flow_setReg (hM.of (by decide)) hs

theorem flow_rwWhile {M : Nat} (hM : Within 0x4 M) {z : State} {c : Bool} {s : State} {off mask v : Nat} (hs : Flow M z s) :
    Flow M z (rwWhile c s off mask v) := by
  unfold rwWhile
  repeat' with_reducible first | exact hM.of (by decide) | assumption | apply flow_noteAccessErr | apply flow_rw | split

theorem flow_w1cValid {M : Nat} (hM : Within 0x4 M) {z s : State} {off mask v bitNo valid : Nat} (hs : Flow M z s) :
    Flow M z (w1cValid s off mask v bitNo valid) := by
  unfold w1cValid
  repeat' with_reducible first | exact hM.of (by decide) | assumption | apply flow_setRegField | apply flow_w1c | split

theorem flow_writeFe {M : Nat} (hM : Within 0x667ffc8c M) {z s : State} {off v : Nat} (hs : Flow M z s) : Flow M z (writeFe s off v) := by
  unfold writeFe
  repeat' with_reducible first
    | exact hM.of (by decide) | assumption | apply flow_execFeDoorbell | apply flow_execFeKringDoorbell | apply flow_rw
    | apply flow_rwWhile | apply flow_stateOf | apply flow_w1c | apply flow_w1cValid | split

theorem flow_writeTr {M : Nat} (hM : Within 0x601b484 M) {z s : State} {off v : Nat} (hs : Flow M z s) : Flow M z (writeTr s off v) := by
  unfold writeTr
  repeat' with_reducible first
    | exact hM.of (by decide) | assumption | apply flow_acceptInv | apply flow_execFaultResume | apply flow_execFaultTerminate
    | apply flow_rw | apply flow_setReg | apply flow_stateOf | apply flow_w1c | split

theorem flow_accCtrlWrite {M : Nat} (hM : Within 0x800 M) {z s : State} {v : Nat} (hs : Flow M z s) : Flow M z (accCtrlWrite s v) := by
  unfold accCtrlWrite
  repeat' with_reducible first | exact hM.of (by decide) | assumption | apply flow_accArm | apply flow_accFill | split

theorem flow_writePt {M : Nat} (hM : Within 0x667ffc8e M) {z s : State} {off v : Nat} (hs : Flow M z s) : Flow M z (writePt s off v) := by
  unfold writePt
  repeat' with_reducible first
    | exact hM.of (by decide) | assumption | apply flow_withPart | apply flow_accCtrlWrite | apply flow_execPtPreempt
    | apply flow_rw | apply flow_stateOf | apply flow_w1c | split

theorem flow_writeCk {M : Nat} (hM : Within 0x17ffffffc M) {z s : State} {off v : Nat} (hs : Flow M z s) : Flow M z (writeCk s off v) := by
  unfold writeCk
  repeat' with_reducible first
    | exact hM.of (by decide) | assumption | apply flow_execCkGateMisc | apply flow_execCkGatePort | apply flow_execCkGateSr
    | apply flow_execCkGateStack | apply flow_execContextReset | apply flow_execPartitionReset | apply flow_execResetCtrlWarm
    | apply flow_stateOf | apply flow_w1c | split

theorem flow_clearHists {M : Nat} (hM : Within 0x8000000 M) {z s : State} {mask : Nat} (hs : Flow M z s) : Flow M z (clearHists s mask) := by
  unfold clearHists
  repeat' with_reducible first | exact hM.of (by decide) | assumption | apply flow_withHist

theorem flow_writeOb {M : Nat} (hM : Within 0x8000004 M) {z s : State} {off v : Nat} (hs : Flow M z s) : Flow M z (writeOb s off v) := by
  unfold writeOb
  try dsimp only
  repeat' with_reducible first
    | exact hM.of (by decide) | assumption | apply flow_clearHists | apply flow_rw | apply flow_w1c | split

theorem flow_writeFb {M : Nat} (hM : Within 0x601b484 M) {z s : State} {off v : Nat} (hs : Flow M z s) : Flow M z (writeFb s off v) := by
  unfold writeFb
  repeat' with_reducible first
    | exact hM.of (by decide) | assumption | apply flow_execPortDisable | apply flow_execPortEnable | apply flow_execRetrain
    | apply flow_stateOf | apply flow_w1c | split

theorem flow_writeMcAt {M : Nat} (hM : Within 0x9a0004 M) {z s : State} {off b v : Nat} (hs : Flow M z s) : Flow M z (writeMcAt s off b v) := by
  unfold writeMcAt
  generalize b % 0x100 = c
  dsimp only
  repeat' split
  all_goals first
    | exact hs
    | exact flow_w1cValid (hM.of (by decide)) hs
    | exact flow_w1c (hM.of (by decide)) hs
    | exact flow_rw (hM.of (by decide)) hs
    | exact flow_stateOf (flow_execAtticFlush (hM.of (by decide)) (flow_rw (hM.of (by decide)) hs)) (flow_rw (hM.of (by decide)) hs)

theorem flow_writeMc {M : Nat} (hM : Within 0x9a0004 M) {z s : State} {off v : Nat} (hs : Flow M z s) : Flow M z (writeMc s off v) := flow_writeMcAt (hM.of (by decide)) hs

theorem flow_writeDm {M : Nat} (hM : Within 0x17ffbfffc M) {z s : State} {fn off v : Nat} (hs : Flow M z s) : Flow M z (writeDm s fn off v) := by
  unfold writeDm
  repeat' with_reducible first
    | exact hM.of (by decide) | assumption | apply flow_withDict | apply flow_mailboxGo | apply flow_setVfReg | apply flow_w1c
    | split

theorem flow_regWrite {M : Nat} (hM : Within 0x17ffffffe M) {z s : State} {off v : Nat} (hs : Flow M z s) : Flow M z (regWrite s off v) := by
  unfold regWrite
  repeat' with_reducible first
    | exact hM.of (by decide) | assumption | apply flowR_next | apply flow_pfWrite | apply flow_stateOf | apply flow_writeCk
    | apply flow_writeDm | apply flow_writeFb | apply flow_writeFe | apply flow_writeMc | apply flow_writeOb
    | apply flow_writePt | apply flow_writeTr | split

theorem flow_vfRegWrite {M : Nat} (hM : Within 0x17ffffffc M) {z s : State} {fn off v : Nat} (hs : Flow M z s) : Flow M z (vfRegWrite s fn off v) := by
  unfold vfRegWrite
  repeat' with_reducible first
    | exact hM.of (by decide) | assumption | apply flowR_next | apply flow_execFeVfDoorbell | apply flow_setVfReg
    | apply flow_stateOf | apply flow_vfWrite | apply flow_writeDm | split

theorem flow_badAccess {M : Nat} (hM : Within 0xc M) {z s : State} {fn off : Nat} (hs : Flow M z s) : Flow M z (badAccess s fn off) := by
  unfold badAccess
  try dsimp only
  repeat' with_reducible first | exact hM.of (by decide) | assumption | apply flow_noteAccessErr | apply flow_orVfEvent | split

theorem flow_fnWrite {M : Nat} (hM : Within 0x17ffffffe M) {z s : State} {fn off v : Nat} (hs : Flow M z s) : Flow M z (fnWrite s fn off v) := by
  unfold fnWrite
  repeat' with_reducible first | exact hM.of (by decide) | assumption | apply flow_regWrite | apply flow_vfRegWrite | split

theorem flow_writePiece {M : Nat} (hM : Within 0x17ffffffe M) {z : State} {fn off width v : Nat} {s : State} (hs : Flow M z s) :
    Flow M z (writePiece fn off width v s) := by
  unfold writePiece
  repeat' with_reducible first | exact hM.of (by decide) | assumption | apply flow_badAccess | apply flow_fnWrite | split

theorem flow_execRegisterWrite {M : Nat} (hM : Within 0x17ffffffe M) {z : State} {fn off width value : Nat} {s : State} (hs : Flow M z s) :
    FlowR M z (execRegisterWrite fn off width value s) := by
  unfold execRegisterWrite
  repeat' with_reducible first
    | exact hM.of (by decide) | assumption | apply flowR_next | exact flowR_refused _ | apply flow_foldl
    | apply flow_writePiece | split | intro _

theorem flow_clearRc {M : Nat} (hM : Within 0x4 M) {z s : State} {off lo hi : Nat} (hs : Flow M z s) : Flow M z (clearRc s off lo hi) := by
  unfold clearRc
  repeat' with_reducible first | exact hM.of (by decide) | assumption | apply flow_setRegField | split

theorem flow_readPiece {M : Nat} (hM : Within 0xc M) {z s : State} {off width : Nat} (hs : Flow M z s) : Flow M z (readPiece s off width).2 := by
  unfold readPiece
  repeat' with_reducible first
    | exact hM.of (by decide) | assumption | apply flow_badAccess | apply flow_clearRc | apply flow_noteAccessErr | split

theorem flow_readAll {M : Nat} (hM : Within 0xc M) {z : State} {x0 : List (Nat × Nat × Nat)} {x1 : State} (hx1 : Flow M z x1) :
    Flow M z (readAll x0 x1).2 := by
  revert hx1
  fun_induction readAll x0 x1 <;> intros
  all_goals repeat' with_reducible first
    | exact hM.of (by decide) | assumption | apply flow_readPiece | dsimp only | apply_assumption

theorem flow_readRow {M : Nat} (hM : Within 0x2000000c M) {z : State} {name : String} {ok : Bool} {off : Nat} {r : RegRead} {s : State} (hs : Flow M z s) :
    FlowR M z (readRow name ok off r s) := by
  unfold readRow
  repeat' with_reducible first
    | exact hM.of (by decide) | assumption | apply flowR_next | exact flowR_refused _ | apply flow_emit | apply flow_readAll
    | split

theorem flow_execMcCelErrRead {M : Nat} (hM : Within 0x2000000c M) {z : State} {stack : Nat} {r : RegRead} {s : State} (hs : Flow M z s) :
    FlowR M z (execMcCelErrRead stack r s) := flow_readRow (hM.of (by decide)) hs

theorem flow_execMcStkErrRead {M : Nat} (hM : Within 0x2000000c M) {z : State} {stack : Nat} {r : RegRead} {s : State} (hs : Flow M z s) :
    FlowR M z (execMcStkErrRead stack r s) := flow_readRow (hM.of (by decide)) hs

theorem flow_execMcSrStatusRead {M : Nat} (hM : Within 0x2000000c M) {z : State} {pkg : Nat} {r : RegRead} {s : State} (hs : Flow M z s) :
    FlowR M z (execMcSrStatusRead pkg r s) := flow_readRow (hM.of (by decide)) hs

theorem flow_execMcSrErrRead {M : Nat} (hM : Within 0x2000000c M) {z : State} {pkg : Nat} {r : RegRead} {s : State} (hs : Flow M z s) :
    FlowR M z (execMcSrErrRead pkg r s) := flow_readRow (hM.of (by decide)) hs

theorem flow_execMcAtcErrRead {M : Nat} (hM : Within 0x2000000c M) {z : State} {slice : Nat} {r : RegRead} {s : State} (hs : Flow M z s) :
    FlowR M z (execMcAtcErrRead slice r s) := flow_readRow (hM.of (by decide)) hs

theorem flow_execFbPortErrRead {M : Nat} (hM : Within 0x2000000c M) {z : State} {n : Nat} {r : RegRead} {s : State} (hs : Flow M z s) :
    FlowR M z (execFbPortErrRead n r s) := flow_readRow (hM.of (by decide)) hs

theorem flow_execPtPoolEventRead {M : Nat} (hM : Within 0x2000000c M) {z : State} {p : Nat} {r : RegRead} {s : State} (hs : Flow M z s) :
    FlowR M z (execPtPoolEventRead p r s) := flow_readRow (hM.of (by decide)) hs

theorem flow_execObGustsRead {M : Nat} (hM : Within 0x2000000c M) {z : State} {die : Nat} {r : RegRead} {s : State} (hs : Flow M z s) :
    FlowR M z (execObGustsRead die r s) := flow_readRow (hM.of (by decide)) hs

theorem flow_execObHeldRead {M : Nat} (hM : Within 0x2000000c M) {z : State} {die : Nat} {r : RegRead} {s : State} (hs : Flow M z s) :
    FlowR M z (execObHeldRead die r s) := flow_readRow (hM.of (by decide)) hs

theorem flow_execObWaitNsRead {M : Nat} (hM : Within 0x2000000c M) {z : State} {die : Nat} {r : RegRead} {s : State} (hs : Flow M z s) :
    FlowR M z (execObWaitNsRead die r s) := flow_readRow (hM.of (by decide)) hs

/-! Sys2Proof/Machine/Observe.lean. -/

theorem flow_execSampleBufferDrain {M : Nat} (hM : Within 0x667ffc8c M) {z : State} {core : Nat} {s : State} (hs : Flow M z s) :
    FlowR M z (execSampleBufferDrain core s) := by
  unfold execSampleBufferDrain
  try dsimp only
  repeat' with_reducible first
    | exact hM.of (by decide) | exact hM.raw (by decide) | assumption | (refine Flow.raw ?_; assumption) | apply flowR_enabled | apply flow_drainSamples | apply flow_settleDue | intro _

theorem flow_execHistogramClear {M : Nat} (hM : Within 0x8000004 M) {z s : State} (hs : Flow M z s) : FlowR M z (execHistogramClear s) := by
  unfold execHistogramClear
  repeat' with_reducible first
    | exact hM.of (by decide) | assumption | apply flowR_next | apply flow_clearHists | apply flow_pfWrite | split

end Sys2Proof.Machine
end

