-- ==== Sys2Proof/Laws/State.lean ====
section
/-!
SUPPORT. What an update of one field of the state leaves in each field: one lemma per field per update.
-/

namespace Sys2Proof.Machine

variable (s : State)

/-! `withPending`. -/

@[simp] theorem withPending_pending (v : List Instr) : (s.withPending v).pending = v := rfl
@[simp] theorem withPending_freeSeq (v : List Instr) : (s.withPending v).freeSeq = s.freeSeq := rfl
@[simp] theorem withPending_regs (v : List Instr) : (s.withPending v).regs = s.regs := rfl
@[simp] theorem withPending_vfRegs (v : List Instr) : (s.withPending v).vfRegs = s.vfRegs := rfl
@[simp] theorem withPending_tick (v : List Instr) : (s.withPending v).tick = s.tick := rfl
@[simp] theorem withPending_dict (v : List Instr) : (s.withPending v).dict = s.dict := rfl
@[simp] theorem withPending_ring (v : List Instr) : (s.withPending v).ring = s.ring := rfl
@[simp] theorem withPending_ports (v : List Instr) : (s.withPending v).ports = s.ports := rfl
@[simp] theorem withPending_clock (v : List Instr) : (s.withPending v).clock = s.clock := rfl
@[simp] theorem withPending_power (v : List Instr) : (s.withPending v).power = s.power := rfl
@[simp] theorem withPending_govs (v : List Instr) : (s.withPending v).govs = s.govs := rfl
@[simp] theorem withPending_part (v : List Instr) : (s.withPending v).part = s.part := rfl
@[simp] theorem withPending_front (v : List Instr) : (s.withPending v).front = s.front := rfl
@[simp] theorem withPending_ctxs (v : List Instr) : (s.withPending v).ctxs = s.ctxs := rfl
@[simp] theorem withPending_queues (v : List Instr) : (s.withPending v).queues = s.queues := rfl
@[simp] theorem withPending_subs (v : List Instr) : (s.withPending v).subs = s.subs := rfl
@[simp] theorem withPending_trans (v : List Instr) : (s.withPending v).trans = s.trans := rfl
@[simp] theorem withPending_mem (v : List Instr) : (s.withPending v).mem = s.mem := rfl
@[simp] theorem withPending_cellars (v : List Instr) : (s.withPending v).cellars = s.cellars := rfl
@[simp] theorem withPending_cores (v : List Instr) : (s.withPending v).cores = s.cores := rfl
@[simp] theorem withPending_hist (v : List Instr) : (s.withPending v).hist = s.hist := rfl
@[simp] theorem withPending_pins (v : List Instr) : (s.withPending v).pins = s.pins := rfl
@[simp] theorem withPending_sent (v : List Instr) : (s.withPending v).sent = s.sent := rfl
@[simp] theorem withPending_withPending (v v' : List Instr) : (s.withPending v).withPending v' = s.withPending v' := rfl

/-! `withFreeSeq`. -/

@[simp] theorem withFreeSeq_pending (v : Nat) : (s.withFreeSeq v).pending = s.pending := rfl
@[simp] theorem withFreeSeq_freeSeq (v : Nat) : (s.withFreeSeq v).freeSeq = v := rfl
@[simp] theorem withFreeSeq_regs (v : Nat) : (s.withFreeSeq v).regs = s.regs := rfl
@[simp] theorem withFreeSeq_vfRegs (v : Nat) : (s.withFreeSeq v).vfRegs = s.vfRegs := rfl
@[simp] theorem withFreeSeq_tick (v : Nat) : (s.withFreeSeq v).tick = s.tick := rfl
@[simp] theorem withFreeSeq_dict (v : Nat) : (s.withFreeSeq v).dict = s.dict := rfl
@[simp] theorem withFreeSeq_ring (v : Nat) : (s.withFreeSeq v).ring = s.ring := rfl
@[simp] theorem withFreeSeq_ports (v : Nat) : (s.withFreeSeq v).ports = s.ports := rfl
@[simp] theorem withFreeSeq_clock (v : Nat) : (s.withFreeSeq v).clock = s.clock := rfl
@[simp] theorem withFreeSeq_power (v : Nat) : (s.withFreeSeq v).power = s.power := rfl
@[simp] theorem withFreeSeq_govs (v : Nat) : (s.withFreeSeq v).govs = s.govs := rfl
@[simp] theorem withFreeSeq_part (v : Nat) : (s.withFreeSeq v).part = s.part := rfl
@[simp] theorem withFreeSeq_front (v : Nat) : (s.withFreeSeq v).front = s.front := rfl
@[simp] theorem withFreeSeq_ctxs (v : Nat) : (s.withFreeSeq v).ctxs = s.ctxs := rfl
@[simp] theorem withFreeSeq_queues (v : Nat) : (s.withFreeSeq v).queues = s.queues := rfl
@[simp] theorem withFreeSeq_subs (v : Nat) : (s.withFreeSeq v).subs = s.subs := rfl
@[simp] theorem withFreeSeq_trans (v : Nat) : (s.withFreeSeq v).trans = s.trans := rfl
@[simp] theorem withFreeSeq_mem (v : Nat) : (s.withFreeSeq v).mem = s.mem := rfl
@[simp] theorem withFreeSeq_cellars (v : Nat) : (s.withFreeSeq v).cellars = s.cellars := rfl
@[simp] theorem withFreeSeq_cores (v : Nat) : (s.withFreeSeq v).cores = s.cores := rfl
@[simp] theorem withFreeSeq_hist (v : Nat) : (s.withFreeSeq v).hist = s.hist := rfl
@[simp] theorem withFreeSeq_pins (v : Nat) : (s.withFreeSeq v).pins = s.pins := rfl
@[simp] theorem withFreeSeq_sent (v : Nat) : (s.withFreeSeq v).sent = s.sent := rfl
@[simp] theorem withFreeSeq_withFreeSeq (v v' : Nat) : (s.withFreeSeq v).withFreeSeq v' = s.withFreeSeq v' := rfl

/-! `withRegs`. -/

@[simp] theorem withRegs_pending (v : Assoc Word32) : (s.withRegs v).pending = s.pending := rfl
@[simp] theorem withRegs_freeSeq (v : Assoc Word32) : (s.withRegs v).freeSeq = s.freeSeq := rfl
@[simp] theorem withRegs_regs (v : Assoc Word32) : (s.withRegs v).regs = v := rfl
@[simp] theorem withRegs_vfRegs (v : Assoc Word32) : (s.withRegs v).vfRegs = s.vfRegs := rfl
@[simp] theorem withRegs_tick (v : Assoc Word32) : (s.withRegs v).tick = s.tick := rfl
@[simp] theorem withRegs_dict (v : Assoc Word32) : (s.withRegs v).dict = s.dict := rfl
@[simp] theorem withRegs_ring (v : Assoc Word32) : (s.withRegs v).ring = s.ring := rfl
@[simp] theorem withRegs_ports (v : Assoc Word32) : (s.withRegs v).ports = s.ports := rfl
@[simp] theorem withRegs_clock (v : Assoc Word32) : (s.withRegs v).clock = s.clock := rfl
@[simp] theorem withRegs_power (v : Assoc Word32) : (s.withRegs v).power = s.power := rfl
@[simp] theorem withRegs_govs (v : Assoc Word32) : (s.withRegs v).govs = s.govs := rfl
@[simp] theorem withRegs_part (v : Assoc Word32) : (s.withRegs v).part = s.part := rfl
@[simp] theorem withRegs_front (v : Assoc Word32) : (s.withRegs v).front = s.front := rfl
@[simp] theorem withRegs_ctxs (v : Assoc Word32) : (s.withRegs v).ctxs = s.ctxs := rfl
@[simp] theorem withRegs_queues (v : Assoc Word32) : (s.withRegs v).queues = s.queues := rfl
@[simp] theorem withRegs_subs (v : Assoc Word32) : (s.withRegs v).subs = s.subs := rfl
@[simp] theorem withRegs_trans (v : Assoc Word32) : (s.withRegs v).trans = s.trans := rfl
@[simp] theorem withRegs_mem (v : Assoc Word32) : (s.withRegs v).mem = s.mem := rfl
@[simp] theorem withRegs_cellars (v : Assoc Word32) : (s.withRegs v).cellars = s.cellars := rfl
@[simp] theorem withRegs_cores (v : Assoc Word32) : (s.withRegs v).cores = s.cores := rfl
@[simp] theorem withRegs_hist (v : Assoc Word32) : (s.withRegs v).hist = s.hist := rfl
@[simp] theorem withRegs_pins (v : Assoc Word32) : (s.withRegs v).pins = s.pins := rfl
@[simp] theorem withRegs_sent (v : Assoc Word32) : (s.withRegs v).sent = s.sent := rfl
@[simp] theorem withRegs_withRegs (v v' : Assoc Word32) : (s.withRegs v).withRegs v' = s.withRegs v' := rfl

/-! `withVfRegs`. -/

@[simp] theorem withVfRegs_pending (v : Assoc Word32) : (s.withVfRegs v).pending = s.pending := rfl
@[simp] theorem withVfRegs_freeSeq (v : Assoc Word32) : (s.withVfRegs v).freeSeq = s.freeSeq := rfl
@[simp] theorem withVfRegs_regs (v : Assoc Word32) : (s.withVfRegs v).regs = s.regs := rfl
@[simp] theorem withVfRegs_vfRegs (v : Assoc Word32) : (s.withVfRegs v).vfRegs = v := rfl
@[simp] theorem withVfRegs_tick (v : Assoc Word32) : (s.withVfRegs v).tick = s.tick := rfl
@[simp] theorem withVfRegs_dict (v : Assoc Word32) : (s.withVfRegs v).dict = s.dict := rfl
@[simp] theorem withVfRegs_ring (v : Assoc Word32) : (s.withVfRegs v).ring = s.ring := rfl
@[simp] theorem withVfRegs_ports (v : Assoc Word32) : (s.withVfRegs v).ports = s.ports := rfl
@[simp] theorem withVfRegs_clock (v : Assoc Word32) : (s.withVfRegs v).clock = s.clock := rfl
@[simp] theorem withVfRegs_power (v : Assoc Word32) : (s.withVfRegs v).power = s.power := rfl
@[simp] theorem withVfRegs_govs (v : Assoc Word32) : (s.withVfRegs v).govs = s.govs := rfl
@[simp] theorem withVfRegs_part (v : Assoc Word32) : (s.withVfRegs v).part = s.part := rfl
@[simp] theorem withVfRegs_front (v : Assoc Word32) : (s.withVfRegs v).front = s.front := rfl
@[simp] theorem withVfRegs_ctxs (v : Assoc Word32) : (s.withVfRegs v).ctxs = s.ctxs := rfl
@[simp] theorem withVfRegs_queues (v : Assoc Word32) : (s.withVfRegs v).queues = s.queues := rfl
@[simp] theorem withVfRegs_subs (v : Assoc Word32) : (s.withVfRegs v).subs = s.subs := rfl
@[simp] theorem withVfRegs_trans (v : Assoc Word32) : (s.withVfRegs v).trans = s.trans := rfl
@[simp] theorem withVfRegs_mem (v : Assoc Word32) : (s.withVfRegs v).mem = s.mem := rfl
@[simp] theorem withVfRegs_cellars (v : Assoc Word32) : (s.withVfRegs v).cellars = s.cellars := rfl
@[simp] theorem withVfRegs_cores (v : Assoc Word32) : (s.withVfRegs v).cores = s.cores := rfl
@[simp] theorem withVfRegs_hist (v : Assoc Word32) : (s.withVfRegs v).hist = s.hist := rfl
@[simp] theorem withVfRegs_pins (v : Assoc Word32) : (s.withVfRegs v).pins = s.pins := rfl
@[simp] theorem withVfRegs_sent (v : Assoc Word32) : (s.withVfRegs v).sent = s.sent := rfl
@[simp] theorem withVfRegs_withVfRegs (v v' : Assoc Word32) : (s.withVfRegs v).withVfRegs v' = s.withVfRegs v' := rfl

/-! `withTick`. -/

@[simp] theorem withTick_pending (v : TickSt) : (s.withTick v).pending = s.pending := rfl
@[simp] theorem withTick_freeSeq (v : TickSt) : (s.withTick v).freeSeq = s.freeSeq := rfl
@[simp] theorem withTick_regs (v : TickSt) : (s.withTick v).regs = s.regs := rfl
@[simp] theorem withTick_vfRegs (v : TickSt) : (s.withTick v).vfRegs = s.vfRegs := rfl
@[simp] theorem withTick_tick (v : TickSt) : (s.withTick v).tick = v := rfl
@[simp] theorem withTick_dict (v : TickSt) : (s.withTick v).dict = s.dict := rfl
@[simp] theorem withTick_ring (v : TickSt) : (s.withTick v).ring = s.ring := rfl
@[simp] theorem withTick_ports (v : TickSt) : (s.withTick v).ports = s.ports := rfl
@[simp] theorem withTick_clock (v : TickSt) : (s.withTick v).clock = s.clock := rfl
@[simp] theorem withTick_power (v : TickSt) : (s.withTick v).power = s.power := rfl
@[simp] theorem withTick_govs (v : TickSt) : (s.withTick v).govs = s.govs := rfl
@[simp] theorem withTick_part (v : TickSt) : (s.withTick v).part = s.part := rfl
@[simp] theorem withTick_front (v : TickSt) : (s.withTick v).front = s.front := rfl
@[simp] theorem withTick_ctxs (v : TickSt) : (s.withTick v).ctxs = s.ctxs := rfl
@[simp] theorem withTick_queues (v : TickSt) : (s.withTick v).queues = s.queues := rfl
@[simp] theorem withTick_subs (v : TickSt) : (s.withTick v).subs = s.subs := rfl
@[simp] theorem withTick_trans (v : TickSt) : (s.withTick v).trans = s.trans := rfl
@[simp] theorem withTick_mem (v : TickSt) : (s.withTick v).mem = s.mem := rfl
@[simp] theorem withTick_cellars (v : TickSt) : (s.withTick v).cellars = s.cellars := rfl
@[simp] theorem withTick_cores (v : TickSt) : (s.withTick v).cores = s.cores := rfl
@[simp] theorem withTick_hist (v : TickSt) : (s.withTick v).hist = s.hist := rfl
@[simp] theorem withTick_pins (v : TickSt) : (s.withTick v).pins = s.pins := rfl
@[simp] theorem withTick_sent (v : TickSt) : (s.withTick v).sent = s.sent := rfl
@[simp] theorem withTick_withTick (v v' : TickSt) : (s.withTick v).withTick v' = s.withTick v' := rfl

/-! `withDict`. -/

@[simp] theorem withDict_pending (v : DictSt) : (s.withDict v).pending = s.pending := rfl
@[simp] theorem withDict_freeSeq (v : DictSt) : (s.withDict v).freeSeq = s.freeSeq := rfl
@[simp] theorem withDict_regs (v : DictSt) : (s.withDict v).regs = s.regs := rfl
@[simp] theorem withDict_vfRegs (v : DictSt) : (s.withDict v).vfRegs = s.vfRegs := rfl
@[simp] theorem withDict_tick (v : DictSt) : (s.withDict v).tick = s.tick := rfl
@[simp] theorem withDict_dict (v : DictSt) : (s.withDict v).dict = v := rfl
@[simp] theorem withDict_ring (v : DictSt) : (s.withDict v).ring = s.ring := rfl
@[simp] theorem withDict_ports (v : DictSt) : (s.withDict v).ports = s.ports := rfl
@[simp] theorem withDict_clock (v : DictSt) : (s.withDict v).clock = s.clock := rfl
@[simp] theorem withDict_power (v : DictSt) : (s.withDict v).power = s.power := rfl
@[simp] theorem withDict_govs (v : DictSt) : (s.withDict v).govs = s.govs := rfl
@[simp] theorem withDict_part (v : DictSt) : (s.withDict v).part = s.part := rfl
@[simp] theorem withDict_front (v : DictSt) : (s.withDict v).front = s.front := rfl
@[simp] theorem withDict_ctxs (v : DictSt) : (s.withDict v).ctxs = s.ctxs := rfl
@[simp] theorem withDict_queues (v : DictSt) : (s.withDict v).queues = s.queues := rfl
@[simp] theorem withDict_subs (v : DictSt) : (s.withDict v).subs = s.subs := rfl
@[simp] theorem withDict_trans (v : DictSt) : (s.withDict v).trans = s.trans := rfl
@[simp] theorem withDict_mem (v : DictSt) : (s.withDict v).mem = s.mem := rfl
@[simp] theorem withDict_cellars (v : DictSt) : (s.withDict v).cellars = s.cellars := rfl
@[simp] theorem withDict_cores (v : DictSt) : (s.withDict v).cores = s.cores := rfl
@[simp] theorem withDict_hist (v : DictSt) : (s.withDict v).hist = s.hist := rfl
@[simp] theorem withDict_pins (v : DictSt) : (s.withDict v).pins = s.pins := rfl
@[simp] theorem withDict_sent (v : DictSt) : (s.withDict v).sent = s.sent := rfl
@[simp] theorem withDict_withDict (v v' : DictSt) : (s.withDict v).withDict v' = s.withDict v' := rfl

/-! `withRing`. -/

@[simp] theorem withRing_pending (v : RingSt) : (s.withRing v).pending = s.pending := rfl
@[simp] theorem withRing_freeSeq (v : RingSt) : (s.withRing v).freeSeq = s.freeSeq := rfl
@[simp] theorem withRing_regs (v : RingSt) : (s.withRing v).regs = s.regs := rfl
@[simp] theorem withRing_vfRegs (v : RingSt) : (s.withRing v).vfRegs = s.vfRegs := rfl
@[simp] theorem withRing_tick (v : RingSt) : (s.withRing v).tick = s.tick := rfl
@[simp] theorem withRing_dict (v : RingSt) : (s.withRing v).dict = s.dict := rfl
@[simp] theorem withRing_ring (v : RingSt) : (s.withRing v).ring = v := rfl
@[simp] theorem withRing_ports (v : RingSt) : (s.withRing v).ports = s.ports := rfl
@[simp] theorem withRing_clock (v : RingSt) : (s.withRing v).clock = s.clock := rfl
@[simp] theorem withRing_power (v : RingSt) : (s.withRing v).power = s.power := rfl
@[simp] theorem withRing_govs (v : RingSt) : (s.withRing v).govs = s.govs := rfl
@[simp] theorem withRing_part (v : RingSt) : (s.withRing v).part = s.part := rfl
@[simp] theorem withRing_front (v : RingSt) : (s.withRing v).front = s.front := rfl
@[simp] theorem withRing_ctxs (v : RingSt) : (s.withRing v).ctxs = s.ctxs := rfl
@[simp] theorem withRing_queues (v : RingSt) : (s.withRing v).queues = s.queues := rfl
@[simp] theorem withRing_subs (v : RingSt) : (s.withRing v).subs = s.subs := rfl
@[simp] theorem withRing_trans (v : RingSt) : (s.withRing v).trans = s.trans := rfl
@[simp] theorem withRing_mem (v : RingSt) : (s.withRing v).mem = s.mem := rfl
@[simp] theorem withRing_cellars (v : RingSt) : (s.withRing v).cellars = s.cellars := rfl
@[simp] theorem withRing_cores (v : RingSt) : (s.withRing v).cores = s.cores := rfl
@[simp] theorem withRing_hist (v : RingSt) : (s.withRing v).hist = s.hist := rfl
@[simp] theorem withRing_pins (v : RingSt) : (s.withRing v).pins = s.pins := rfl
@[simp] theorem withRing_sent (v : RingSt) : (s.withRing v).sent = s.sent := rfl
@[simp] theorem withRing_withRing (v v' : RingSt) : (s.withRing v).withRing v' = s.withRing v' := rfl

/-! `withPorts`. -/

@[simp] theorem withPorts_pending (v : Assoc Port) : (s.withPorts v).pending = s.pending := rfl
@[simp] theorem withPorts_freeSeq (v : Assoc Port) : (s.withPorts v).freeSeq = s.freeSeq := rfl
@[simp] theorem withPorts_regs (v : Assoc Port) : (s.withPorts v).regs = s.regs := rfl
@[simp] theorem withPorts_vfRegs (v : Assoc Port) : (s.withPorts v).vfRegs = s.vfRegs := rfl
@[simp] theorem withPorts_tick (v : Assoc Port) : (s.withPorts v).tick = s.tick := rfl
@[simp] theorem withPorts_dict (v : Assoc Port) : (s.withPorts v).dict = s.dict := rfl
@[simp] theorem withPorts_ring (v : Assoc Port) : (s.withPorts v).ring = s.ring := rfl
@[simp] theorem withPorts_ports (v : Assoc Port) : (s.withPorts v).ports = v := rfl
@[simp] theorem withPorts_clock (v : Assoc Port) : (s.withPorts v).clock = s.clock := rfl
@[simp] theorem withPorts_power (v : Assoc Port) : (s.withPorts v).power = s.power := rfl
@[simp] theorem withPorts_govs (v : Assoc Port) : (s.withPorts v).govs = s.govs := rfl
@[simp] theorem withPorts_part (v : Assoc Port) : (s.withPorts v).part = s.part := rfl
@[simp] theorem withPorts_front (v : Assoc Port) : (s.withPorts v).front = s.front := rfl
@[simp] theorem withPorts_ctxs (v : Assoc Port) : (s.withPorts v).ctxs = s.ctxs := rfl
@[simp] theorem withPorts_queues (v : Assoc Port) : (s.withPorts v).queues = s.queues := rfl
@[simp] theorem withPorts_subs (v : Assoc Port) : (s.withPorts v).subs = s.subs := rfl
@[simp] theorem withPorts_trans (v : Assoc Port) : (s.withPorts v).trans = s.trans := rfl
@[simp] theorem withPorts_mem (v : Assoc Port) : (s.withPorts v).mem = s.mem := rfl
@[simp] theorem withPorts_cellars (v : Assoc Port) : (s.withPorts v).cellars = s.cellars := rfl
@[simp] theorem withPorts_cores (v : Assoc Port) : (s.withPorts v).cores = s.cores := rfl
@[simp] theorem withPorts_hist (v : Assoc Port) : (s.withPorts v).hist = s.hist := rfl
@[simp] theorem withPorts_pins (v : Assoc Port) : (s.withPorts v).pins = s.pins := rfl
@[simp] theorem withPorts_sent (v : Assoc Port) : (s.withPorts v).sent = s.sent := rfl
@[simp] theorem withPorts_withPorts (v v' : Assoc Port) : (s.withPorts v).withPorts v' = s.withPorts v' := rfl

/-! `withClock`. -/

@[simp] theorem withClock_pending (v : ClockSt) : (s.withClock v).pending = s.pending := rfl
@[simp] theorem withClock_freeSeq (v : ClockSt) : (s.withClock v).freeSeq = s.freeSeq := rfl
@[simp] theorem withClock_regs (v : ClockSt) : (s.withClock v).regs = s.regs := rfl
@[simp] theorem withClock_vfRegs (v : ClockSt) : (s.withClock v).vfRegs = s.vfRegs := rfl
@[simp] theorem withClock_tick (v : ClockSt) : (s.withClock v).tick = s.tick := rfl
@[simp] theorem withClock_dict (v : ClockSt) : (s.withClock v).dict = s.dict := rfl
@[simp] theorem withClock_ring (v : ClockSt) : (s.withClock v).ring = s.ring := rfl
@[simp] theorem withClock_ports (v : ClockSt) : (s.withClock v).ports = s.ports := rfl
@[simp] theorem withClock_clock (v : ClockSt) : (s.withClock v).clock = v := rfl
@[simp] theorem withClock_power (v : ClockSt) : (s.withClock v).power = s.power := rfl
@[simp] theorem withClock_govs (v : ClockSt) : (s.withClock v).govs = s.govs := rfl
@[simp] theorem withClock_part (v : ClockSt) : (s.withClock v).part = s.part := rfl
@[simp] theorem withClock_front (v : ClockSt) : (s.withClock v).front = s.front := rfl
@[simp] theorem withClock_ctxs (v : ClockSt) : (s.withClock v).ctxs = s.ctxs := rfl
@[simp] theorem withClock_queues (v : ClockSt) : (s.withClock v).queues = s.queues := rfl
@[simp] theorem withClock_subs (v : ClockSt) : (s.withClock v).subs = s.subs := rfl
@[simp] theorem withClock_trans (v : ClockSt) : (s.withClock v).trans = s.trans := rfl
@[simp] theorem withClock_mem (v : ClockSt) : (s.withClock v).mem = s.mem := rfl
@[simp] theorem withClock_cellars (v : ClockSt) : (s.withClock v).cellars = s.cellars := rfl
@[simp] theorem withClock_cores (v : ClockSt) : (s.withClock v).cores = s.cores := rfl
@[simp] theorem withClock_hist (v : ClockSt) : (s.withClock v).hist = s.hist := rfl
@[simp] theorem withClock_pins (v : ClockSt) : (s.withClock v).pins = s.pins := rfl
@[simp] theorem withClock_sent (v : ClockSt) : (s.withClock v).sent = s.sent := rfl
@[simp] theorem withClock_withClock (v v' : ClockSt) : (s.withClock v).withClock v' = s.withClock v' := rfl

/-! `withPower`. -/

@[simp] theorem withPower_pending (v : PowerSt) : (s.withPower v).pending = s.pending := rfl
@[simp] theorem withPower_freeSeq (v : PowerSt) : (s.withPower v).freeSeq = s.freeSeq := rfl
@[simp] theorem withPower_regs (v : PowerSt) : (s.withPower v).regs = s.regs := rfl
@[simp] theorem withPower_vfRegs (v : PowerSt) : (s.withPower v).vfRegs = s.vfRegs := rfl
@[simp] theorem withPower_tick (v : PowerSt) : (s.withPower v).tick = s.tick := rfl
@[simp] theorem withPower_dict (v : PowerSt) : (s.withPower v).dict = s.dict := rfl
@[simp] theorem withPower_ring (v : PowerSt) : (s.withPower v).ring = s.ring := rfl
@[simp] theorem withPower_ports (v : PowerSt) : (s.withPower v).ports = s.ports := rfl
@[simp] theorem withPower_clock (v : PowerSt) : (s.withPower v).clock = s.clock := rfl
@[simp] theorem withPower_power (v : PowerSt) : (s.withPower v).power = v := rfl
@[simp] theorem withPower_govs (v : PowerSt) : (s.withPower v).govs = s.govs := rfl
@[simp] theorem withPower_part (v : PowerSt) : (s.withPower v).part = s.part := rfl
@[simp] theorem withPower_front (v : PowerSt) : (s.withPower v).front = s.front := rfl
@[simp] theorem withPower_ctxs (v : PowerSt) : (s.withPower v).ctxs = s.ctxs := rfl
@[simp] theorem withPower_queues (v : PowerSt) : (s.withPower v).queues = s.queues := rfl
@[simp] theorem withPower_subs (v : PowerSt) : (s.withPower v).subs = s.subs := rfl
@[simp] theorem withPower_trans (v : PowerSt) : (s.withPower v).trans = s.trans := rfl
@[simp] theorem withPower_mem (v : PowerSt) : (s.withPower v).mem = s.mem := rfl
@[simp] theorem withPower_cellars (v : PowerSt) : (s.withPower v).cellars = s.cellars := rfl
@[simp] theorem withPower_cores (v : PowerSt) : (s.withPower v).cores = s.cores := rfl
@[simp] theorem withPower_hist (v : PowerSt) : (s.withPower v).hist = s.hist := rfl
@[simp] theorem withPower_pins (v : PowerSt) : (s.withPower v).pins = s.pins := rfl
@[simp] theorem withPower_sent (v : PowerSt) : (s.withPower v).sent = s.sent := rfl
@[simp] theorem withPower_withPower (v v' : PowerSt) : (s.withPower v).withPower v' = s.withPower v' := rfl

/-! `withGovs`. -/

@[simp] theorem withGovs_pending (v : Assoc Governor) : (s.withGovs v).pending = s.pending := rfl
@[simp] theorem withGovs_freeSeq (v : Assoc Governor) : (s.withGovs v).freeSeq = s.freeSeq := rfl
@[simp] theorem withGovs_regs (v : Assoc Governor) : (s.withGovs v).regs = s.regs := rfl
@[simp] theorem withGovs_vfRegs (v : Assoc Governor) : (s.withGovs v).vfRegs = s.vfRegs := rfl
@[simp] theorem withGovs_tick (v : Assoc Governor) : (s.withGovs v).tick = s.tick := rfl
@[simp] theorem withGovs_dict (v : Assoc Governor) : (s.withGovs v).dict = s.dict := rfl
@[simp] theorem withGovs_ring (v : Assoc Governor) : (s.withGovs v).ring = s.ring := rfl
@[simp] theorem withGovs_ports (v : Assoc Governor) : (s.withGovs v).ports = s.ports := rfl
@[simp] theorem withGovs_clock (v : Assoc Governor) : (s.withGovs v).clock = s.clock := rfl
@[simp] theorem withGovs_power (v : Assoc Governor) : (s.withGovs v).power = s.power := rfl
@[simp] theorem withGovs_govs (v : Assoc Governor) : (s.withGovs v).govs = v := rfl
@[simp] theorem withGovs_part (v : Assoc Governor) : (s.withGovs v).part = s.part := rfl
@[simp] theorem withGovs_front (v : Assoc Governor) : (s.withGovs v).front = s.front := rfl
@[simp] theorem withGovs_ctxs (v : Assoc Governor) : (s.withGovs v).ctxs = s.ctxs := rfl
@[simp] theorem withGovs_queues (v : Assoc Governor) : (s.withGovs v).queues = s.queues := rfl
@[simp] theorem withGovs_subs (v : Assoc Governor) : (s.withGovs v).subs = s.subs := rfl
@[simp] theorem withGovs_trans (v : Assoc Governor) : (s.withGovs v).trans = s.trans := rfl
@[simp] theorem withGovs_mem (v : Assoc Governor) : (s.withGovs v).mem = s.mem := rfl
@[simp] theorem withGovs_cellars (v : Assoc Governor) : (s.withGovs v).cellars = s.cellars := rfl
@[simp] theorem withGovs_cores (v : Assoc Governor) : (s.withGovs v).cores = s.cores := rfl
@[simp] theorem withGovs_hist (v : Assoc Governor) : (s.withGovs v).hist = s.hist := rfl
@[simp] theorem withGovs_pins (v : Assoc Governor) : (s.withGovs v).pins = s.pins := rfl
@[simp] theorem withGovs_sent (v : Assoc Governor) : (s.withGovs v).sent = s.sent := rfl
@[simp] theorem withGovs_withGovs (v v' : Assoc Governor) : (s.withGovs v).withGovs v' = s.withGovs v' := rfl

/-! `withPart`. -/

@[simp] theorem withPart_pending (v : PartSt) : (s.withPart v).pending = s.pending := rfl
@[simp] theorem withPart_freeSeq (v : PartSt) : (s.withPart v).freeSeq = s.freeSeq := rfl
@[simp] theorem withPart_regs (v : PartSt) : (s.withPart v).regs = s.regs := rfl
@[simp] theorem withPart_vfRegs (v : PartSt) : (s.withPart v).vfRegs = s.vfRegs := rfl
@[simp] theorem withPart_tick (v : PartSt) : (s.withPart v).tick = s.tick := rfl
@[simp] theorem withPart_dict (v : PartSt) : (s.withPart v).dict = s.dict := rfl
@[simp] theorem withPart_ring (v : PartSt) : (s.withPart v).ring = s.ring := rfl
@[simp] theorem withPart_ports (v : PartSt) : (s.withPart v).ports = s.ports := rfl
@[simp] theorem withPart_clock (v : PartSt) : (s.withPart v).clock = s.clock := rfl
@[simp] theorem withPart_power (v : PartSt) : (s.withPart v).power = s.power := rfl
@[simp] theorem withPart_govs (v : PartSt) : (s.withPart v).govs = s.govs := rfl
@[simp] theorem withPart_part (v : PartSt) : (s.withPart v).part = v := rfl
@[simp] theorem withPart_front (v : PartSt) : (s.withPart v).front = s.front := rfl
@[simp] theorem withPart_ctxs (v : PartSt) : (s.withPart v).ctxs = s.ctxs := rfl
@[simp] theorem withPart_queues (v : PartSt) : (s.withPart v).queues = s.queues := rfl
@[simp] theorem withPart_subs (v : PartSt) : (s.withPart v).subs = s.subs := rfl
@[simp] theorem withPart_trans (v : PartSt) : (s.withPart v).trans = s.trans := rfl
@[simp] theorem withPart_mem (v : PartSt) : (s.withPart v).mem = s.mem := rfl
@[simp] theorem withPart_cellars (v : PartSt) : (s.withPart v).cellars = s.cellars := rfl
@[simp] theorem withPart_cores (v : PartSt) : (s.withPart v).cores = s.cores := rfl
@[simp] theorem withPart_hist (v : PartSt) : (s.withPart v).hist = s.hist := rfl
@[simp] theorem withPart_pins (v : PartSt) : (s.withPart v).pins = s.pins := rfl
@[simp] theorem withPart_sent (v : PartSt) : (s.withPart v).sent = s.sent := rfl
@[simp] theorem withPart_withPart (v v' : PartSt) : (s.withPart v).withPart v' = s.withPart v' := rfl

/-! `withFront`. -/

@[simp] theorem withFront_pending (v : FrontSt) : (s.withFront v).pending = s.pending := rfl
@[simp] theorem withFront_freeSeq (v : FrontSt) : (s.withFront v).freeSeq = s.freeSeq := rfl
@[simp] theorem withFront_regs (v : FrontSt) : (s.withFront v).regs = s.regs := rfl
@[simp] theorem withFront_vfRegs (v : FrontSt) : (s.withFront v).vfRegs = s.vfRegs := rfl
@[simp] theorem withFront_tick (v : FrontSt) : (s.withFront v).tick = s.tick := rfl
@[simp] theorem withFront_dict (v : FrontSt) : (s.withFront v).dict = s.dict := rfl
@[simp] theorem withFront_ring (v : FrontSt) : (s.withFront v).ring = s.ring := rfl
@[simp] theorem withFront_ports (v : FrontSt) : (s.withFront v).ports = s.ports := rfl
@[simp] theorem withFront_clock (v : FrontSt) : (s.withFront v).clock = s.clock := rfl
@[simp] theorem withFront_power (v : FrontSt) : (s.withFront v).power = s.power := rfl
@[simp] theorem withFront_govs (v : FrontSt) : (s.withFront v).govs = s.govs := rfl
@[simp] theorem withFront_part (v : FrontSt) : (s.withFront v).part = s.part := rfl
@[simp] theorem withFront_front (v : FrontSt) : (s.withFront v).front = v := rfl
@[simp] theorem withFront_ctxs (v : FrontSt) : (s.withFront v).ctxs = s.ctxs := rfl
@[simp] theorem withFront_queues (v : FrontSt) : (s.withFront v).queues = s.queues := rfl
@[simp] theorem withFront_subs (v : FrontSt) : (s.withFront v).subs = s.subs := rfl
@[simp] theorem withFront_trans (v : FrontSt) : (s.withFront v).trans = s.trans := rfl
@[simp] theorem withFront_mem (v : FrontSt) : (s.withFront v).mem = s.mem := rfl
@[simp] theorem withFront_cellars (v : FrontSt) : (s.withFront v).cellars = s.cellars := rfl
@[simp] theorem withFront_cores (v : FrontSt) : (s.withFront v).cores = s.cores := rfl
@[simp] theorem withFront_hist (v : FrontSt) : (s.withFront v).hist = s.hist := rfl
@[simp] theorem withFront_pins (v : FrontSt) : (s.withFront v).pins = s.pins := rfl
@[simp] theorem withFront_sent (v : FrontSt) : (s.withFront v).sent = s.sent := rfl
@[simp] theorem withFront_withFront (v v' : FrontSt) : (s.withFront v).withFront v' = s.withFront v' := rfl

/-! `withCtxs`. -/

@[simp] theorem withCtxs_pending (v : Assoc Context) : (s.withCtxs v).pending = s.pending := rfl
@[simp] theorem withCtxs_freeSeq (v : Assoc Context) : (s.withCtxs v).freeSeq = s.freeSeq := rfl
@[simp] theorem withCtxs_regs (v : Assoc Context) : (s.withCtxs v).regs = s.regs := rfl
@[simp] theorem withCtxs_vfRegs (v : Assoc Context) : (s.withCtxs v).vfRegs = s.vfRegs := rfl
@[simp] theorem withCtxs_tick (v : Assoc Context) : (s.withCtxs v).tick = s.tick := rfl
@[simp] theorem withCtxs_dict (v : Assoc Context) : (s.withCtxs v).dict = s.dict := rfl
@[simp] theorem withCtxs_ring (v : Assoc Context) : (s.withCtxs v).ring = s.ring := rfl
@[simp] theorem withCtxs_ports (v : Assoc Context) : (s.withCtxs v).ports = s.ports := rfl
@[simp] theorem withCtxs_clock (v : Assoc Context) : (s.withCtxs v).clock = s.clock := rfl
@[simp] theorem withCtxs_power (v : Assoc Context) : (s.withCtxs v).power = s.power := rfl
@[simp] theorem withCtxs_govs (v : Assoc Context) : (s.withCtxs v).govs = s.govs := rfl
@[simp] theorem withCtxs_part (v : Assoc Context) : (s.withCtxs v).part = s.part := rfl
@[simp] theorem withCtxs_front (v : Assoc Context) : (s.withCtxs v).front = s.front := rfl
@[simp] theorem withCtxs_ctxs (v : Assoc Context) : (s.withCtxs v).ctxs = v := rfl
@[simp] theorem withCtxs_queues (v : Assoc Context) : (s.withCtxs v).queues = s.queues := rfl
@[simp] theorem withCtxs_subs (v : Assoc Context) : (s.withCtxs v).subs = s.subs := rfl
@[simp] theorem withCtxs_trans (v : Assoc Context) : (s.withCtxs v).trans = s.trans := rfl
@[simp] theorem withCtxs_mem (v : Assoc Context) : (s.withCtxs v).mem = s.mem := rfl
@[simp] theorem withCtxs_cellars (v : Assoc Context) : (s.withCtxs v).cellars = s.cellars := rfl
@[simp] theorem withCtxs_cores (v : Assoc Context) : (s.withCtxs v).cores = s.cores := rfl
@[simp] theorem withCtxs_hist (v : Assoc Context) : (s.withCtxs v).hist = s.hist := rfl
@[simp] theorem withCtxs_pins (v : Assoc Context) : (s.withCtxs v).pins = s.pins := rfl
@[simp] theorem withCtxs_sent (v : Assoc Context) : (s.withCtxs v).sent = s.sent := rfl
@[simp] theorem withCtxs_withCtxs (v v' : Assoc Context) : (s.withCtxs v).withCtxs v' = s.withCtxs v' := rfl

/-! `withQueues`. -/

@[simp] theorem withQueues_pending (v : Assoc Queue) : (s.withQueues v).pending = s.pending := rfl
@[simp] theorem withQueues_freeSeq (v : Assoc Queue) : (s.withQueues v).freeSeq = s.freeSeq := rfl
@[simp] theorem withQueues_regs (v : Assoc Queue) : (s.withQueues v).regs = s.regs := rfl
@[simp] theorem withQueues_vfRegs (v : Assoc Queue) : (s.withQueues v).vfRegs = s.vfRegs := rfl
@[simp] theorem withQueues_tick (v : Assoc Queue) : (s.withQueues v).tick = s.tick := rfl
@[simp] theorem withQueues_dict (v : Assoc Queue) : (s.withQueues v).dict = s.dict := rfl
@[simp] theorem withQueues_ring (v : Assoc Queue) : (s.withQueues v).ring = s.ring := rfl
@[simp] theorem withQueues_ports (v : Assoc Queue) : (s.withQueues v).ports = s.ports := rfl
@[simp] theorem withQueues_clock (v : Assoc Queue) : (s.withQueues v).clock = s.clock := rfl
@[simp] theorem withQueues_power (v : Assoc Queue) : (s.withQueues v).power = s.power := rfl
@[simp] theorem withQueues_govs (v : Assoc Queue) : (s.withQueues v).govs = s.govs := rfl
@[simp] theorem withQueues_part (v : Assoc Queue) : (s.withQueues v).part = s.part := rfl
@[simp] theorem withQueues_front (v : Assoc Queue) : (s.withQueues v).front = s.front := rfl
@[simp] theorem withQueues_ctxs (v : Assoc Queue) : (s.withQueues v).ctxs = s.ctxs := rfl
@[simp] theorem withQueues_queues (v : Assoc Queue) : (s.withQueues v).queues = v := rfl
@[simp] theorem withQueues_subs (v : Assoc Queue) : (s.withQueues v).subs = s.subs := rfl
@[simp] theorem withQueues_trans (v : Assoc Queue) : (s.withQueues v).trans = s.trans := rfl
@[simp] theorem withQueues_mem (v : Assoc Queue) : (s.withQueues v).mem = s.mem := rfl
@[simp] theorem withQueues_cellars (v : Assoc Queue) : (s.withQueues v).cellars = s.cellars := rfl
@[simp] theorem withQueues_cores (v : Assoc Queue) : (s.withQueues v).cores = s.cores := rfl
@[simp] theorem withQueues_hist (v : Assoc Queue) : (s.withQueues v).hist = s.hist := rfl
@[simp] theorem withQueues_pins (v : Assoc Queue) : (s.withQueues v).pins = s.pins := rfl
@[simp] theorem withQueues_sent (v : Assoc Queue) : (s.withQueues v).sent = s.sent := rfl
@[simp] theorem withQueues_withQueues (v v' : Assoc Queue) : (s.withQueues v).withQueues v' = s.withQueues v' := rfl

/-! `withSubs`. -/

@[simp] theorem withSubs_pending (v : Assoc Submission) : (s.withSubs v).pending = s.pending := rfl
@[simp] theorem withSubs_freeSeq (v : Assoc Submission) : (s.withSubs v).freeSeq = s.freeSeq := rfl
@[simp] theorem withSubs_regs (v : Assoc Submission) : (s.withSubs v).regs = s.regs := rfl
@[simp] theorem withSubs_vfRegs (v : Assoc Submission) : (s.withSubs v).vfRegs = s.vfRegs := rfl
@[simp] theorem withSubs_tick (v : Assoc Submission) : (s.withSubs v).tick = s.tick := rfl
@[simp] theorem withSubs_dict (v : Assoc Submission) : (s.withSubs v).dict = s.dict := rfl
@[simp] theorem withSubs_ring (v : Assoc Submission) : (s.withSubs v).ring = s.ring := rfl
@[simp] theorem withSubs_ports (v : Assoc Submission) : (s.withSubs v).ports = s.ports := rfl
@[simp] theorem withSubs_clock (v : Assoc Submission) : (s.withSubs v).clock = s.clock := rfl
@[simp] theorem withSubs_power (v : Assoc Submission) : (s.withSubs v).power = s.power := rfl
@[simp] theorem withSubs_govs (v : Assoc Submission) : (s.withSubs v).govs = s.govs := rfl
@[simp] theorem withSubs_part (v : Assoc Submission) : (s.withSubs v).part = s.part := rfl
@[simp] theorem withSubs_front (v : Assoc Submission) : (s.withSubs v).front = s.front := rfl
@[simp] theorem withSubs_ctxs (v : Assoc Submission) : (s.withSubs v).ctxs = s.ctxs := rfl
@[simp] theorem withSubs_queues (v : Assoc Submission) : (s.withSubs v).queues = s.queues := rfl
@[simp] theorem withSubs_subs (v : Assoc Submission) : (s.withSubs v).subs = v := rfl
@[simp] theorem withSubs_trans (v : Assoc Submission) : (s.withSubs v).trans = s.trans := rfl
@[simp] theorem withSubs_mem (v : Assoc Submission) : (s.withSubs v).mem = s.mem := rfl
@[simp] theorem withSubs_cellars (v : Assoc Submission) : (s.withSubs v).cellars = s.cellars := rfl
@[simp] theorem withSubs_cores (v : Assoc Submission) : (s.withSubs v).cores = s.cores := rfl
@[simp] theorem withSubs_hist (v : Assoc Submission) : (s.withSubs v).hist = s.hist := rfl
@[simp] theorem withSubs_pins (v : Assoc Submission) : (s.withSubs v).pins = s.pins := rfl
@[simp] theorem withSubs_sent (v : Assoc Submission) : (s.withSubs v).sent = s.sent := rfl
@[simp] theorem withSubs_withSubs (v v' : Assoc Submission) : (s.withSubs v).withSubs v' = s.withSubs v' := rfl

/-! `withTrans`. -/

@[simp] theorem withTrans_pending (v : TransSt) : (s.withTrans v).pending = s.pending := rfl
@[simp] theorem withTrans_freeSeq (v : TransSt) : (s.withTrans v).freeSeq = s.freeSeq := rfl
@[simp] theorem withTrans_regs (v : TransSt) : (s.withTrans v).regs = s.regs := rfl
@[simp] theorem withTrans_vfRegs (v : TransSt) : (s.withTrans v).vfRegs = s.vfRegs := rfl
@[simp] theorem withTrans_tick (v : TransSt) : (s.withTrans v).tick = s.tick := rfl
@[simp] theorem withTrans_dict (v : TransSt) : (s.withTrans v).dict = s.dict := rfl
@[simp] theorem withTrans_ring (v : TransSt) : (s.withTrans v).ring = s.ring := rfl
@[simp] theorem withTrans_ports (v : TransSt) : (s.withTrans v).ports = s.ports := rfl
@[simp] theorem withTrans_clock (v : TransSt) : (s.withTrans v).clock = s.clock := rfl
@[simp] theorem withTrans_power (v : TransSt) : (s.withTrans v).power = s.power := rfl
@[simp] theorem withTrans_govs (v : TransSt) : (s.withTrans v).govs = s.govs := rfl
@[simp] theorem withTrans_part (v : TransSt) : (s.withTrans v).part = s.part := rfl
@[simp] theorem withTrans_front (v : TransSt) : (s.withTrans v).front = s.front := rfl
@[simp] theorem withTrans_ctxs (v : TransSt) : (s.withTrans v).ctxs = s.ctxs := rfl
@[simp] theorem withTrans_queues (v : TransSt) : (s.withTrans v).queues = s.queues := rfl
@[simp] theorem withTrans_subs (v : TransSt) : (s.withTrans v).subs = s.subs := rfl
@[simp] theorem withTrans_trans (v : TransSt) : (s.withTrans v).trans = v := rfl
@[simp] theorem withTrans_mem (v : TransSt) : (s.withTrans v).mem = s.mem := rfl
@[simp] theorem withTrans_cellars (v : TransSt) : (s.withTrans v).cellars = s.cellars := rfl
@[simp] theorem withTrans_cores (v : TransSt) : (s.withTrans v).cores = s.cores := rfl
@[simp] theorem withTrans_hist (v : TransSt) : (s.withTrans v).hist = s.hist := rfl
@[simp] theorem withTrans_pins (v : TransSt) : (s.withTrans v).pins = s.pins := rfl
@[simp] theorem withTrans_sent (v : TransSt) : (s.withTrans v).sent = s.sent := rfl
@[simp] theorem withTrans_withTrans (v v' : TransSt) : (s.withTrans v).withTrans v' = s.withTrans v' := rfl

/-! `withMem`. -/

@[simp] theorem withMem_pending (v : MemSys) : (s.withMem v).pending = s.pending := rfl
@[simp] theorem withMem_freeSeq (v : MemSys) : (s.withMem v).freeSeq = s.freeSeq := rfl
@[simp] theorem withMem_regs (v : MemSys) : (s.withMem v).regs = s.regs := rfl
@[simp] theorem withMem_vfRegs (v : MemSys) : (s.withMem v).vfRegs = s.vfRegs := rfl
@[simp] theorem withMem_tick (v : MemSys) : (s.withMem v).tick = s.tick := rfl
@[simp] theorem withMem_dict (v : MemSys) : (s.withMem v).dict = s.dict := rfl
@[simp] theorem withMem_ring (v : MemSys) : (s.withMem v).ring = s.ring := rfl
@[simp] theorem withMem_ports (v : MemSys) : (s.withMem v).ports = s.ports := rfl
@[simp] theorem withMem_clock (v : MemSys) : (s.withMem v).clock = s.clock := rfl
@[simp] theorem withMem_power (v : MemSys) : (s.withMem v).power = s.power := rfl
@[simp] theorem withMem_govs (v : MemSys) : (s.withMem v).govs = s.govs := rfl
@[simp] theorem withMem_part (v : MemSys) : (s.withMem v).part = s.part := rfl
@[simp] theorem withMem_front (v : MemSys) : (s.withMem v).front = s.front := rfl
@[simp] theorem withMem_ctxs (v : MemSys) : (s.withMem v).ctxs = s.ctxs := rfl
@[simp] theorem withMem_queues (v : MemSys) : (s.withMem v).queues = s.queues := rfl
@[simp] theorem withMem_subs (v : MemSys) : (s.withMem v).subs = s.subs := rfl
@[simp] theorem withMem_trans (v : MemSys) : (s.withMem v).trans = s.trans := rfl
@[simp] theorem withMem_mem (v : MemSys) : (s.withMem v).mem = v := rfl
@[simp] theorem withMem_cellars (v : MemSys) : (s.withMem v).cellars = s.cellars := rfl
@[simp] theorem withMem_cores (v : MemSys) : (s.withMem v).cores = s.cores := rfl
@[simp] theorem withMem_hist (v : MemSys) : (s.withMem v).hist = s.hist := rfl
@[simp] theorem withMem_pins (v : MemSys) : (s.withMem v).pins = s.pins := rfl
@[simp] theorem withMem_sent (v : MemSys) : (s.withMem v).sent = s.sent := rfl
@[simp] theorem withMem_withMem (v v' : MemSys) : (s.withMem v).withMem v' = s.withMem v' := rfl

/-! `withCellars`. -/

@[simp] theorem withCellars_pending (v : Assoc CellarSt) : (s.withCellars v).pending = s.pending := rfl
@[simp] theorem withCellars_freeSeq (v : Assoc CellarSt) : (s.withCellars v).freeSeq = s.freeSeq := rfl
@[simp] theorem withCellars_regs (v : Assoc CellarSt) : (s.withCellars v).regs = s.regs := rfl
@[simp] theorem withCellars_vfRegs (v : Assoc CellarSt) : (s.withCellars v).vfRegs = s.vfRegs := rfl
@[simp] theorem withCellars_tick (v : Assoc CellarSt) : (s.withCellars v).tick = s.tick := rfl
@[simp] theorem withCellars_dict (v : Assoc CellarSt) : (s.withCellars v).dict = s.dict := rfl
@[simp] theorem withCellars_ring (v : Assoc CellarSt) : (s.withCellars v).ring = s.ring := rfl
@[simp] theorem withCellars_ports (v : Assoc CellarSt) : (s.withCellars v).ports = s.ports := rfl
@[simp] theorem withCellars_clock (v : Assoc CellarSt) : (s.withCellars v).clock = s.clock := rfl
@[simp] theorem withCellars_power (v : Assoc CellarSt) : (s.withCellars v).power = s.power := rfl
@[simp] theorem withCellars_govs (v : Assoc CellarSt) : (s.withCellars v).govs = s.govs := rfl
@[simp] theorem withCellars_part (v : Assoc CellarSt) : (s.withCellars v).part = s.part := rfl
@[simp] theorem withCellars_front (v : Assoc CellarSt) : (s.withCellars v).front = s.front := rfl
@[simp] theorem withCellars_ctxs (v : Assoc CellarSt) : (s.withCellars v).ctxs = s.ctxs := rfl
@[simp] theorem withCellars_queues (v : Assoc CellarSt) : (s.withCellars v).queues = s.queues := rfl
@[simp] theorem withCellars_subs (v : Assoc CellarSt) : (s.withCellars v).subs = s.subs := rfl
@[simp] theorem withCellars_trans (v : Assoc CellarSt) : (s.withCellars v).trans = s.trans := rfl
@[simp] theorem withCellars_mem (v : Assoc CellarSt) : (s.withCellars v).mem = s.mem := rfl
@[simp] theorem withCellars_cellars (v : Assoc CellarSt) : (s.withCellars v).cellars = v := rfl
@[simp] theorem withCellars_cores (v : Assoc CellarSt) : (s.withCellars v).cores = s.cores := rfl
@[simp] theorem withCellars_hist (v : Assoc CellarSt) : (s.withCellars v).hist = s.hist := rfl
@[simp] theorem withCellars_pins (v : Assoc CellarSt) : (s.withCellars v).pins = s.pins := rfl
@[simp] theorem withCellars_sent (v : Assoc CellarSt) : (s.withCellars v).sent = s.sent := rfl
@[simp] theorem withCellars_withCellars (v v' : Assoc CellarSt) : (s.withCellars v).withCellars v' = s.withCellars v' := rfl

/-! `withCores`. -/

@[simp] theorem withCores_pending (v : Assoc Core) : (s.withCores v).pending = s.pending := rfl
@[simp] theorem withCores_freeSeq (v : Assoc Core) : (s.withCores v).freeSeq = s.freeSeq := rfl
@[simp] theorem withCores_regs (v : Assoc Core) : (s.withCores v).regs = s.regs := rfl
@[simp] theorem withCores_vfRegs (v : Assoc Core) : (s.withCores v).vfRegs = s.vfRegs := rfl
@[simp] theorem withCores_tick (v : Assoc Core) : (s.withCores v).tick = s.tick := rfl
@[simp] theorem withCores_dict (v : Assoc Core) : (s.withCores v).dict = s.dict := rfl
@[simp] theorem withCores_ring (v : Assoc Core) : (s.withCores v).ring = s.ring := rfl
@[simp] theorem withCores_ports (v : Assoc Core) : (s.withCores v).ports = s.ports := rfl
@[simp] theorem withCores_clock (v : Assoc Core) : (s.withCores v).clock = s.clock := rfl
@[simp] theorem withCores_power (v : Assoc Core) : (s.withCores v).power = s.power := rfl
@[simp] theorem withCores_govs (v : Assoc Core) : (s.withCores v).govs = s.govs := rfl
@[simp] theorem withCores_part (v : Assoc Core) : (s.withCores v).part = s.part := rfl
@[simp] theorem withCores_front (v : Assoc Core) : (s.withCores v).front = s.front := rfl
@[simp] theorem withCores_ctxs (v : Assoc Core) : (s.withCores v).ctxs = s.ctxs := rfl
@[simp] theorem withCores_queues (v : Assoc Core) : (s.withCores v).queues = s.queues := rfl
@[simp] theorem withCores_subs (v : Assoc Core) : (s.withCores v).subs = s.subs := rfl
@[simp] theorem withCores_trans (v : Assoc Core) : (s.withCores v).trans = s.trans := rfl
@[simp] theorem withCores_mem (v : Assoc Core) : (s.withCores v).mem = s.mem := rfl
@[simp] theorem withCores_cellars (v : Assoc Core) : (s.withCores v).cellars = s.cellars := rfl
@[simp] theorem withCores_cores (v : Assoc Core) : (s.withCores v).cores = v := rfl
@[simp] theorem withCores_hist (v : Assoc Core) : (s.withCores v).hist = s.hist := rfl
@[simp] theorem withCores_pins (v : Assoc Core) : (s.withCores v).pins = s.pins := rfl
@[simp] theorem withCores_sent (v : Assoc Core) : (s.withCores v).sent = s.sent := rfl
@[simp] theorem withCores_withCores (v v' : Assoc Core) : (s.withCores v).withCores v' = s.withCores v' := rfl

/-! `withHist`. -/

@[simp] theorem withHist_pending (v : Assoc Word32) : (s.withHist v).pending = s.pending := rfl
@[simp] theorem withHist_freeSeq (v : Assoc Word32) : (s.withHist v).freeSeq = s.freeSeq := rfl
@[simp] theorem withHist_regs (v : Assoc Word32) : (s.withHist v).regs = s.regs := rfl
@[simp] theorem withHist_vfRegs (v : Assoc Word32) : (s.withHist v).vfRegs = s.vfRegs := rfl
@[simp] theorem withHist_tick (v : Assoc Word32) : (s.withHist v).tick = s.tick := rfl
@[simp] theorem withHist_dict (v : Assoc Word32) : (s.withHist v).dict = s.dict := rfl
@[simp] theorem withHist_ring (v : Assoc Word32) : (s.withHist v).ring = s.ring := rfl
@[simp] theorem withHist_ports (v : Assoc Word32) : (s.withHist v).ports = s.ports := rfl
@[simp] theorem withHist_clock (v : Assoc Word32) : (s.withHist v).clock = s.clock := rfl
@[simp] theorem withHist_power (v : Assoc Word32) : (s.withHist v).power = s.power := rfl
@[simp] theorem withHist_govs (v : Assoc Word32) : (s.withHist v).govs = s.govs := rfl
@[simp] theorem withHist_part (v : Assoc Word32) : (s.withHist v).part = s.part := rfl
@[simp] theorem withHist_front (v : Assoc Word32) : (s.withHist v).front = s.front := rfl
@[simp] theorem withHist_ctxs (v : Assoc Word32) : (s.withHist v).ctxs = s.ctxs := rfl
@[simp] theorem withHist_queues (v : Assoc Word32) : (s.withHist v).queues = s.queues := rfl
@[simp] theorem withHist_subs (v : Assoc Word32) : (s.withHist v).subs = s.subs := rfl
@[simp] theorem withHist_trans (v : Assoc Word32) : (s.withHist v).trans = s.trans := rfl
@[simp] theorem withHist_mem (v : Assoc Word32) : (s.withHist v).mem = s.mem := rfl
@[simp] theorem withHist_cellars (v : Assoc Word32) : (s.withHist v).cellars = s.cellars := rfl
@[simp] theorem withHist_cores (v : Assoc Word32) : (s.withHist v).cores = s.cores := rfl
@[simp] theorem withHist_hist (v : Assoc Word32) : (s.withHist v).hist = v := rfl
@[simp] theorem withHist_pins (v : Assoc Word32) : (s.withHist v).pins = s.pins := rfl
@[simp] theorem withHist_sent (v : Assoc Word32) : (s.withHist v).sent = s.sent := rfl
@[simp] theorem withHist_withHist (v v' : Assoc Word32) : (s.withHist v).withHist v' = s.withHist v' := rfl

/-! `withPins`. -/

@[simp] theorem withPins_pending (v : PinSt) : (s.withPins v).pending = s.pending := rfl
@[simp] theorem withPins_freeSeq (v : PinSt) : (s.withPins v).freeSeq = s.freeSeq := rfl
@[simp] theorem withPins_regs (v : PinSt) : (s.withPins v).regs = s.regs := rfl
@[simp] theorem withPins_vfRegs (v : PinSt) : (s.withPins v).vfRegs = s.vfRegs := rfl
@[simp] theorem withPins_tick (v : PinSt) : (s.withPins v).tick = s.tick := rfl
@[simp] theorem withPins_dict (v : PinSt) : (s.withPins v).dict = s.dict := rfl
@[simp] theorem withPins_ring (v : PinSt) : (s.withPins v).ring = s.ring := rfl
@[simp] theorem withPins_ports (v : PinSt) : (s.withPins v).ports = s.ports := rfl
@[simp] theorem withPins_clock (v : PinSt) : (s.withPins v).clock = s.clock := rfl
@[simp] theorem withPins_power (v : PinSt) : (s.withPins v).power = s.power := rfl
@[simp] theorem withPins_govs (v : PinSt) : (s.withPins v).govs = s.govs := rfl
@[simp] theorem withPins_part (v : PinSt) : (s.withPins v).part = s.part := rfl
@[simp] theorem withPins_front (v : PinSt) : (s.withPins v).front = s.front := rfl
@[simp] theorem withPins_ctxs (v : PinSt) : (s.withPins v).ctxs = s.ctxs := rfl
@[simp] theorem withPins_queues (v : PinSt) : (s.withPins v).queues = s.queues := rfl
@[simp] theorem withPins_subs (v : PinSt) : (s.withPins v).subs = s.subs := rfl
@[simp] theorem withPins_trans (v : PinSt) : (s.withPins v).trans = s.trans := rfl
@[simp] theorem withPins_mem (v : PinSt) : (s.withPins v).mem = s.mem := rfl
@[simp] theorem withPins_cellars (v : PinSt) : (s.withPins v).cellars = s.cellars := rfl
@[simp] theorem withPins_cores (v : PinSt) : (s.withPins v).cores = s.cores := rfl
@[simp] theorem withPins_hist (v : PinSt) : (s.withPins v).hist = s.hist := rfl
@[simp] theorem withPins_pins (v : PinSt) : (s.withPins v).pins = v := rfl
@[simp] theorem withPins_sent (v : PinSt) : (s.withPins v).sent = s.sent := rfl
@[simp] theorem withPins_withPins (v v' : PinSt) : (s.withPins v).withPins v' = s.withPins v' := rfl

/-! `withSent`. -/

@[simp] theorem withSent_pending (v : List Sent) : (s.withSent v).pending = s.pending := rfl
@[simp] theorem withSent_freeSeq (v : List Sent) : (s.withSent v).freeSeq = s.freeSeq := rfl
@[simp] theorem withSent_regs (v : List Sent) : (s.withSent v).regs = s.regs := rfl
@[simp] theorem withSent_vfRegs (v : List Sent) : (s.withSent v).vfRegs = s.vfRegs := rfl
@[simp] theorem withSent_tick (v : List Sent) : (s.withSent v).tick = s.tick := rfl
@[simp] theorem withSent_dict (v : List Sent) : (s.withSent v).dict = s.dict := rfl
@[simp] theorem withSent_ring (v : List Sent) : (s.withSent v).ring = s.ring := rfl
@[simp] theorem withSent_ports (v : List Sent) : (s.withSent v).ports = s.ports := rfl
@[simp] theorem withSent_clock (v : List Sent) : (s.withSent v).clock = s.clock := rfl
@[simp] theorem withSent_power (v : List Sent) : (s.withSent v).power = s.power := rfl
@[simp] theorem withSent_govs (v : List Sent) : (s.withSent v).govs = s.govs := rfl
@[simp] theorem withSent_part (v : List Sent) : (s.withSent v).part = s.part := rfl
@[simp] theorem withSent_front (v : List Sent) : (s.withSent v).front = s.front := rfl
@[simp] theorem withSent_ctxs (v : List Sent) : (s.withSent v).ctxs = s.ctxs := rfl
@[simp] theorem withSent_queues (v : List Sent) : (s.withSent v).queues = s.queues := rfl
@[simp] theorem withSent_subs (v : List Sent) : (s.withSent v).subs = s.subs := rfl
@[simp] theorem withSent_trans (v : List Sent) : (s.withSent v).trans = s.trans := rfl
@[simp] theorem withSent_mem (v : List Sent) : (s.withSent v).mem = s.mem := rfl
@[simp] theorem withSent_cellars (v : List Sent) : (s.withSent v).cellars = s.cellars := rfl
@[simp] theorem withSent_cores (v : List Sent) : (s.withSent v).cores = s.cores := rfl
@[simp] theorem withSent_hist (v : List Sent) : (s.withSent v).hist = s.hist := rfl
@[simp] theorem withSent_pins (v : List Sent) : (s.withSent v).pins = s.pins := rfl
@[simp] theorem withSent_sent (v : List Sent) : (s.withSent v).sent = v := rfl
@[simp] theorem withSent_withSent (v v' : List Sent) : (s.withSent v).withSent v' = s.withSent v' := rfl

end Sys2Proof.Machine
end

