-- ==== Sys2Proof/Laws/Threads.lean ====
section
/-!
SUPPORT. What the issue, the fetch and the completion of a thread instruction do (R126, R131, R138), once, for every instruction
that acts on its group.
-/

namespace Sys2Proof.Machine

/-! Frames compose. -/

theorem OnlyCore.refl (c : Nat) (s : State) : OnlyCore c s s := by constructor <;> intros <;> rfl

theorem OnlyCore.andThen {c : Nat} {s t u : State} (a : OnlyCore c s t) (b : OnlyCore c t u) : OnlyCore c s u :=
  ⟨b.pending.trans a.pending, fun o h => (b.regs o h).trans (a.regs o h), b.vfRegs.trans a.vfRegs, b.tick.trans a.tick,
    b.dict.trans a.dict, b.ring.trans a.ring, b.ports.trans a.ports, b.clock.trans a.clock, b.power.trans a.power,
    b.govs.trans a.govs, b.part.trans a.part, b.front.trans a.front, b.ctxs.trans a.ctxs, b.queues.trans a.queues,
    b.subs.trans a.subs, b.trans.trans a.trans, b.mem.trans a.mem, b.cellars.trans a.cellars, b.pins.trans a.pins,
    b.sent.trans a.sent, fun k h => (b.cores k h).trans (a.cores k h)⟩

theorem OnlyGroup.refl (c n : Nat) (s : State) : OnlyGroup c n s s :=
  { OnlyCore.refl c s with
    others := fun _ _ => rfl, launchQ := rfl, gated := rfl, held := rfl, stores := rfl, copies := rfl, dbells := rfl,
    array := rfl, vec := rfl, draughts := rfl }

theorem OnlyGroup.andThen {c n : Nat} {s t u : State} (a : OnlyGroup c n s t) (b : OnlyGroup c n t u) : OnlyGroup c n s u :=
  { a.toOnlyCore.andThen b.toOnlyCore with
    others := fun m h => (b.others m h).trans (a.others m h), launchQ := b.launchQ.trans a.launchQ,
    gated := b.gated.trans a.gated, held := b.held.trans a.held, stores := b.stores.trans a.stores,
    copies := b.copies.trans a.copies, dbells := b.dbells.trans a.dbells, array := b.array.trans a.array,
    vec := b.vec.trans a.vec, draughts := b.draughts.trans a.draughts }

/-! A core's state is set. -/

@[simp] theorem coreSt_setCore (s : State) (c : Nat) (k : Core) : coreSt (setCore s c k) c = k := by
  simp [coreSt, setCore, State.withCores]

@[simp] theorem coreSt_setCore_ne (s : State) {c d : Nat} (k : Core) (h : d ≠ c) : coreSt (setCore s c k) d = coreSt s d := by
  simp [coreSt, setCore, State.withCores, h]

theorem onlyCore_setCore (s : State) (c : Nat) (k : Core) : OnlyCore c s (setCore s c k) := by
  constructor <;> intros <;> first | rfl | exact find_insert_ne _ _ ‹_›

/-- A change of a core that leaves all but the slot, the caches, the sampling state and the allocations. -/
theorem onlyGroup_setCore {s : State} {c n : Nat} {k : Core} (hg : ∀ m, m ≠ n → find k.groups m = find (coreSt s c).groups m)
    (h : k.launchQ = (coreSt s c).launchQ ∧ k.gated = (coreSt s c).gated ∧ k.held = (coreSt s c).held ∧
      k.stores = (coreSt s c).stores ∧ k.copies = (coreSt s c).copies ∧ k.dbells = (coreSt s c).dbells ∧
      k.array = (coreSt s c).array ∧ k.vec = (coreSt s c).vec ∧ k.draughts = (coreSt s c).draughts) :
    OnlyGroup c n s (setCore s c k) :=
  { onlyCore_setCore s c k with
    others := fun m hm => by simp [groupAt, hg m hm]
    launchQ := by simp [h], gated := by simp [h], held := by simp [h], stores := by simp [h], copies := by simp [h]
    dbells := by simp [h], array := by simp [h], vec := by simp [h], draughts := by simp [h] }

@[simp] theorem groupAt_setGroup (s : State) (c n : Nat) (g : Group) : groupAt (setGroup s c n g) c n = some g := by
  simp [groupAt, setGroup, modCore]

theorem onlyGroup_setGroup (s : State) (c n : Nat) (g : Group) : OnlyGroup c n s (setGroup s c n g) :=
  onlyGroup_setCore (fun m hm => by simp [hm]) ⟨rfl, rfl, rfl, rfl, rfl, rfl, rfl, rfl, rfl⟩

/-! Counters and samples. -/

/-- What an update of registers of the observability block leaves. -/
theorem onlyGroup_regs {s : State} (c n : Nat) {v : Assoc Word32}
    (h : ∀ off, off < 0x400000 ∨ 0x500000 ≤ off → reg (s.withRegs v) off = reg s off) : OnlyGroup c n s (s.withRegs v) := by
  constructor
  · constructor <;> intros <;> first | exact h _ ‹_› | rfl
  all_goals intros; rfl

theorem reg_setReg_ne (s : State) {off o : Nat} (v : Nat) (h : o ≠ off) : reg (setReg s off v) o = reg s o := by
  simp only [reg, setReg, withRegs_regs, putD]
  split <;> simp [h]

/-- An offset of the observability block. -/
def InOb (off : Nat) : Prop := 0x400000 ≤ off ∧ off < 0x500000

theorem onlyGroup_setReg {s : State} (c n : Nat) {off : Nat} (v : Nat) (h : InOb off) : OnlyGroup c n s (setReg s off v) :=
  onlyGroup_regs c n fun o ho => reg_setReg_ne s v (by rintro rfl; rcases h with ⟨a, b⟩; omega)

theorem onlyGroup_foldl {α : Type} {c n : Nat} {f : State → α → State} (l : List α)
    (hf : ∀ a ∈ l, ∀ s, OnlyGroup c n s (f s a)) (s : State) : OnlyGroup c n s (l.foldl f s) := by
  induction l generalizing s with
  | nil => exact OnlyGroup.refl c n s
  | cons a t ih =>
    exact (hf a List.mem_cons_self s).andThen (ih (fun b hb => hf b (List.mem_cons_of_mem _ hb)) _)

theorem onlyGroup_addPair48 {s : State} (c n : Nat) {off m : Nat} (h : 0x400000 ≤ off ∧ off + 4 < 0x500000) :
    OnlyGroup c n s (addPair48 s off m) :=
  (onlyGroup_setReg c n _ ⟨h.1, by omega⟩).andThen (onlyGroup_setReg c n _ ⟨by omega, h.2⟩)

theorem onlyGroup_coreEvent (s : State) {c k n : Nat} (code : Nat) (ctx : Option Nat) (m : Nat) (hk : k < 144) :
    OnlyGroup c n s (coreEvent s k code ctx m) := by
  unfold coreEvent
  split
  · refine onlyGroup_foldl _ (fun a ha s => ?_) s
    have ha : a < 8 := List.mem_range.mp ha
    unfold countOne
    split
    · refine OnlyGroup.andThen ?_ (onlyGroup_addPair48 c n (by unfold obCore; omega))
      split
      · exact onlyGroup_setReg c n _ (by unfold InOb obCore; omega)
      · exact OnlyGroup.refl c n s
    · exact OnlyGroup.refl c n s
  · exact OnlyGroup.refl c n s

theorem onlyGroup_freeSeq (c n : Nat) (s : State) (v : Nat) : OnlyGroup c n s (s.withFreeSeq v) := by
  constructor
  · constructor <;> intros <;> rfl
  all_goals intros; rfl

/-- A change of a core's sampling state. -/
theorem onlyGroup_sampling (c n : Nat) (s : State) (f : Core → Core) (hf : ∀ k, (f k).groups = k.groups ∧
    (f k).launchQ = k.launchQ ∧ (f k).gated = k.gated ∧ (f k).held = k.held ∧ (f k).stores = k.stores ∧
    (f k).copies = k.copies ∧ (f k).dbells = k.dbells ∧ (f k).array = k.array ∧ (f k).vec = k.vec ∧
    (f k).draughts = k.draughts) : OnlyGroup c n s (modCore s c f) :=
  onlyGroup_setCore (fun m _ => by rw [(hf _).1]) (hf (coreSt s c)).2

theorem groupAt_sampling (c n : Nat) (s : State) (f : Core → Core) (hf : ∀ k, (f k).groups = k.groups) :
    groupAt (modCore s c f) c n = groupAt s c n := by
  simp [groupAt, modCore, hf]

/-- Events change no group. -/
theorem groupAt_of_cores {s u : State} (h : u.cores = s.cores) (c n : Nat) : groupAt u c n = groupAt s c n := by
  simp [groupAt, coreSt, h]

theorem cores_setReg (s : State) (off v : Nat) : (setReg s off v).cores = s.cores := rfl

theorem cores_foldl {α : Type} {f : State → α → State} (hf : ∀ s a, (f s a).cores = s.cores) (l : List α) (s : State) :
    (l.foldl f s).cores = s.cores := by
  induction l generalizing s with
  | nil => rfl
  | cons a t ih => exact (ih _).trans (hf s a)

theorem cores_countOne (sels cnts ovf code : Nat) (ctx : Option Nat) (n : Nat) (s : State) (k : Nat) :
    (countOne sels cnts ovf code ctx n s k).cores = s.cores := by
  unfold countOne
  split
  · dsimp only
    split <;> rfl
  · rfl

theorem cores_coreEvent (s : State) (c code : Nat) (ctx : Option Nat) (n : Nat) : (coreEvent s c code ctx n).cores = s.cores := by
  unfold coreEvent
  split
  · exact cores_foldl (fun s k => cores_countOne _ _ _ _ _ _ s k) _ s
  · rfl

theorem groupAt_lastSlot (s : State) (c k n : Nat) :
    groupAt (modCore s c (fun x => { x with lastSlot := k })) c n = groupAt s c n :=
  groupAt_sampling _ _ _ _ fun _ => rfl

/-- The instruction is counted: its group and what `OnlyGroup` keeps stay (R463, R469). -/
theorem noted_frame (t : Thread) (s : State) (f : Bool) (hk : t.core < 144) :
    OnlyGroup t.core t.slot s (noted t s f) ∧ ∀ n, groupAt (noted t s f) t.core n = groupAt s t.core n := by
  have h1 := onlyGroup_coreEvent s (c := t.core) (n := t.slot) 0x01 (some t.g.ctx) 1 hk
  have g1 : ∀ n, groupAt (modCore (coreEvent s t.core 0x01 (some t.g.ctx) 1) t.core
      (fun x => { x with lastSlot := t.slot })) t.core n = groupAt s t.core n := fun n =>
    (groupAt_lastSlot _ _ _ _).trans (groupAt_of_cores (cores_coreEvent _ _ _ _ _) t.core n)
  have h2 : ∀ s, OnlyGroup t.core t.slot s (modCore s t.core (fun k => { k with lastSlot := t.slot })) := fun s =>
    onlyGroup_sampling _ _ s _ fun _ => ⟨rfl, rfl, rfl, rfl, rfl, rfl, rfl, rfl, rfl, rfl⟩
  unfold noted noteIssue
  dsimp only
  split
  · exact ⟨h1.andThen (h2 _), g1⟩
  · split
    · exact ⟨h1.andThen (h2 _), g1⟩
    · split
      · refine ⟨(h1.andThen (h2 _)).andThen (onlyGroup_setCore (fun _ _ => rfl) ⟨rfl, rfl, rfl, rfl, rfl, rfl, rfl, rfl, rfl⟩), fun n => ?_⟩
        simp only [groupAt, coreSt_setCore]
        exact g1 n
      · refine ⟨((((h1.andThen (h2 _)).andThen (onlyGroup_freeSeq _ _ _ _)).andThen (onlyGroup_freeSeq _ _ _ _)).andThen
          (onlyGroup_sampling _ _ _ _ fun _ => ⟨rfl, rfl, rfl, rfl, rfl, rfl, rfl, rfl, rfl, rfl⟩)), fun n => ?_⟩
        exact Eq.trans (groupAt_sampling _ _ _ _ fun _ => rfl) (Eq.trans (groupAt_of_cores rfl _ _) (g1 n))

/-- Counting an instruction leaves the local store. -/
theorem allocs_noted (t : Thread) (s : State) (f : Bool) :
    (coreSt (noted t s f) t.core).allocs = (coreSt s t.core).allocs := by
  have h1 : ∀ c, coreSt (coreEvent s t.core 0x01 (some t.g.ctx) 1) c = coreSt s c := fun c => by
    simp [coreSt, cores_coreEvent]
  have h2 : ∀ s c (f : Core → Core), (∀ k, (f k).allocs = k.allocs) → (coreSt (modCore s c f) c).allocs = (coreSt s c).allocs := by
    intro s c f hf
    simp [modCore, hf]
  have h3 := (h2 (coreEvent s t.core 0x01 (some t.g.ctx) 1) t.core (fun x => { x with lastSlot := t.slot }) fun _ => rfl).trans
    (congrArg Core.allocs (h1 _))
  unfold noted noteIssue
  dsimp only
  split
  · exact h3
  · split
    · exact h3
    · split
      · simp only [coreSt_setCore]
        exact h3
      · exact Eq.trans (h2 _ _ _ fun _ => rfl) h3

/-! Fetch and issue. -/

/-- The groups and the local store of a core are those of another state. -/
def SameWork (c : Nat) (s u : State) : Prop :=
  (coreSt u c).groups = (coreSt s c).groups ∧ (coreSt u c).allocs = (coreSt s c).allocs

theorem SameWork.refl (c : Nat) (s : State) : SameWork c s s := ⟨rfl, rfl⟩

theorem SameWork.andThen {c : Nat} {s t u : State} (a : SameWork c s t) (b : SameWork c t u) : SameWork c s u :=
  ⟨b.1.trans a.1, b.2.trans a.2⟩

theorem sameWork_of_cores {c : Nat} {s u : State} (h : u.cores = s.cores) : SameWork c s u := by
  constructor <;> simp [coreSt, h]

theorem sameWork_setCore {c : Nat} {s : State} {k : Core} (h : k.groups = (coreSt s c).groups ∧ k.allocs = (coreSt s c).allocs) :
    SameWork c s (setCore s c k) := by
  constructor <;> simp [h]

theorem cores_clusterEvent (s : State) (c code : Nat) (ctx : Option Nat) (n : Nat) : (clusterEvent s c code ctx n).cores = s.cores := by
  unfold clusterEvent
  split
  · exact cores_foldl (fun s k => cores_countOne _ _ _ _ _ _ s k) _ s
  · rfl

theorem cores_tlbLookup {s t : State} {core : Option Nat} {ctx va : Nat} {e : TlbEntry} (h : tlbLookup s core ctx va = some (e, t)) :
    t.cores = s.cores := by
  unfold tlbLookup at h
  split at h
  · obtain ⟨r, _, h⟩ := Option.map_eq_some_iff.mp h
    cases h
    rfl
  · split at h
    · cases h
      rfl
    · obtain ⟨r, _, h⟩ := Option.map_eq_some_iff.mp h
      cases h
      rfl

/-- The line after the one that is fetched from changes no group and no local store. -/
theorem sameWork_prefetchNext (s : State) (c n : Nat) (g : Group) (pc : Nat) : SameWork c s (prefetchNext s c n g pc) := by
  unfold prefetchNext
  dsimp only
  split
  · exact SameWork.refl c s
  · split
    · exact SameWork.refl c s
    · rename_i e t ht
      split
      · rename_i leaf block _
        split
        · exact SameWork.refl c s
        · rename_i hn
          simp only [Bool.or_eq_true, not_or, Bool.not_eq_true, Option.isNone_eq_false_iff] at hn
          obtain ⟨sl, hs⟩ := Option.isSome_iff_exists.mp hn.2
          refine (sameWork_of_cores (cores_tlbLookup ht)).andThen ?_
          unfold askLine
          simp only [hs, hn.1]
          refine SameWork.andThen (t := if sl / 8 ≠ dieOf t c then clusterEvent t (clusterOf t c) 0x45 (some g.ctx) 1 else t) ?_ ?_
          · split
            · exact sameWork_of_cores (cores_clusterEvent _ _ _ _ _)
            · exact SameWork.refl c t
          · refine SameWork.andThen ?_ (sameWork_of_cores rfl)
            exact sameWork_setCore ⟨rfl, rfl⟩
      · exact SameWork.refl c s

/-- A fetch that answers a word changes no group and no local store of its core. -/
theorem fetch_frame {s s' : State} {c n pc w : Nat} {g : Group} (h : fetch s c n g pc = .word w s') : SameWork c s s' := by
  unfold fetch at h
  dsimp only at h
  split at h
  · rename_i l k e
    cases h
    refine SameWork.andThen (sameWork_setCore ?_) (sameWork_prefetchNext _ _ _ _ _)
    unfold cacheLine at e
    dsimp only at e
    split at e
    · cases e
    · split at e
      · cases e
      · obtain ⟨a, _, e⟩ := Option.map_eq_some_iff.mp e
        cases e
        exact ⟨rfl, rfl⟩
  · split at h
    · split at h
      · cases h
        exact sameWork_prefetchNext _ _ _ _ _
      · cases h
    · split at h
      · cases h
      · split at h <;> cases h

/-- Reading back a path stack leaves the local store. -/
theorem allocs_reloadPaths (s : State) (c n : Nat) : (coreSt (reloadPaths s c n) c).allocs = (coreSt s c).allocs := by
  unfold reloadPaths
  split
  · rfl
  · split
    · rfl
    · simp [setGroup, modCore]

/-- An instruction that issues does what its meaning says from the state once it is fetched. -/
theorem issue_of_issues {s s' : State} {w : BitVec 64} {major op : Nat} {t : Thread} (h : Issues s w major op t s')
    (name : String) (body : Thread → State → Res) : issue t.core t.slot w major op name s body = body t s' := by
  have ht : (⟨t.core, t.slot, t.g, t.p, t.w⟩ : Thread) = t := rfl
  unfold issue
  simp only [h.group, h.path, h.ready, h.place, h.word]
  simp [← h.asked, h.free, h.legal, h.zeros, h.cls, h.oper, h.data]

/-- The running path of an instruction that issues can run. -/
theorem Issues.canRun {s s' : State} {w : BitVec 64} {major op : Nat} {t : Thread} (h : Issues s w major op t s') :
    t.p.canRun = true := by
  have := h.ready
  simp only [canIssue, Bool.and_eq_true] at this
  exact this.1.1.1.1.2

/-- The state once the instruction is fetched. -/
theorem Issues.fetched_eq {s s' : State} {w : BitVec 64} {major op : Nat} {t : Thread} (h : Issues s w major op t s') :
    Machine.fetched s t = s' := by
  unfold Machine.fetched
  rw [h.word]

/-- From issue to completion. -/
theorem Issues.fetched {s s' : State} {w : BitVec 64} {major op : Nat} {t : Thread} (h : Issues s w major op t s') :
    OnlyGroup t.core t.slot (Machine.fetched s t) s' ∧ groupAt s' t.core t.slot = some t.g ∧
      (coreSt s' t.core).allocs = (coreSt s t.core).allocs := by
  have f := fetch_frame h.word
  refine ⟨h.fetched_eq ▸ OnlyGroup.refl _ _ _, ?_, f.2.trans (allocs_reloadPaths s t.core t.slot)⟩
  have e := h.group
  unfold groupAt at e ⊢
  rw [f.1]
  exact e

/-! The end of an instruction. -/

/-- The running path, once its PC moves and it is not at its reconvergence PC, runs on. -/
theorem settle_run {g : Group} {p : Path} (hr : g.run = some p) (hw : p.waiting = false)
    (ha : p.blocked.isNone = true → p.rpc ≠ some p.pc) : (settle g).run = some p := by
  have : p.arrive.waiting = false := by
    unfold Path.arrive Path.atRpc
    split
    · rename_i hc
      simp only [Bool.and_eq_true, beq_iff_eq] at hc
      exact absurd hc.2 (ha hc.1)
    · exact hw
  simp only [settle, hr, this]
  rfl

/-- `settle` moves paths only. -/
theorem settle_keeps (g : Group) : ∃ r st, settle g = { g with run := r, stack := st } := by
  unfold settle
  dsimp only
  split
  · exact ⟨_, _, rfl⟩
  · split <;> exact ⟨_, _, rfl⟩

theorem movePc_keeps (g : Group) (pc : Nat) (b : Bool) : ∃ r st, movePc g pc b = { g with run := r, stack := st } := by
  unfold movePc
  split
  · obtain ⟨r, st, h⟩ := settle_keeps { g with run := some { ‹Path› with pc := pc % 2 ^ 48, back := if b && decide (pc ≤ (‹Path›).pc) then (‹Path›).back + 1 else (‹Path›).back } }
    exact ⟨r, st, h⟩
  · exact ⟨g.run, g.stack, rfl⟩

/-! Path stacks grow by the path that parks, at most. -/

theorem length_mergePaths (d : Nat) (st : List Path) : (mergePaths d st).length ≤ st.length := by
  unfold mergePaths
  split
  · exact Nat.le_refl _
  · rename_i q t e
    have h : ∀ l : List Path, (l.filter (waitsAt d)).length + (l.filter fun x => !waitsAt d x).length = l.length := by
      intro l
      induction l with
      | nil => rfl
      | cons a l ih => cases hw : waitsAt d a <;> simp [hw] <;> omega
    have h := h st
    rw [e] at h
    simp only [List.length_cons] at *
    omega

theorem length_mergeAll (n : Nat) (run : Option Path) (st : List Path) : (mergeAll n run st).length ≤ st.length := by
  induction n generalizing st with
  | zero => exact Nat.le_refl _
  | succ n ih =>
    unfold mergeAll
    split
    · exact Nat.le_trans (ih _) (length_mergePaths _ _)
    · exact Nat.le_refl _

theorem length_takeTop {st rest : List Path} {p : Path} (h : takeTop st = some (p, rest)) : rest.length ≤ st.length := by
  induction st generalizing p rest with
  | nil => cases h
  | cons a t ih =>
    unfold takeTop at h
    split at h
    · cases h
      simp
    · obtain ⟨⟨q, r⟩, hq, e⟩ := Option.map_eq_some_iff.mp h
      cases e
      simpa using ih hq

theorem length_settle (g : Group) : (settle g).stack.length ≤ g.stack.length + 1 := by
  unfold settle
  dsimp only
  split
  · refine Nat.le_trans (length_mergeAll _ _ _) ?_
    split
    · split <;> simp
    · simp
  · have h : ∀ a : Option Path × List Path, a.2.length ≤ g.stack.length + 1 →
        (mergeAll (nestTotal a.2) a.1 a.2).length ≤ g.stack.length + 1 := fun a ha => Nat.le_trans (length_mergeAll _ _ _) ha
    have h' := h (match g.run with
      | some p => if p.arrive.waiting then (none, g.stack.map Path.arrive ++ [p.arrive]) else (some p, g.stack.map Path.arrive)
      | none => (none, g.stack.map Path.arrive)) (by
        split
        · split <;> simp
        · simp)
    split
    · rename_i e
      exact Nat.le_trans (length_takeTop e) h'
    · exact h'

theorem length_movePc (g : Group) (pc : Nat) (b : Bool) : (movePc g pc b).stack.length ≤ g.stack.length + 1 := by
  unfold movePc
  split
  · exact length_settle _
  · simp

/-! A group put back. -/

theorem onlyGroup_lsWrite (c n : Nat) (s : State) (ctx a : Nat) (b : List Byte) : OnlyGroup c n s (lsWrite s c ctx a b) :=
  onlyGroup_setCore (fun _ _ => rfl) ⟨rfl, rfl, rfl, rfl, rfl, rfl, rfl, rfl, rfl⟩

theorem onlyGroup_spillPaths (c n : Nat) (s : State) (g : Group) : OnlyGroup c n s (spillPaths s c g) :=
  onlyGroup_foldl _ (fun _ _ s => onlyGroup_lsWrite c n s _ _ _) s

/-- What putting a group back after its instruction does: the group, in the active set or waiting, and a spill. -/
theorem placeGroup_frame (s : State) (c n : Nat) (g : Group) :
    OnlyGroup c n s (placeGroup s c n g) ∧
    (∃ a cd, groupAt (placeGroup s c n g) c n = some { g with fenced := false, active := a, cond := cd }) ∧
    (g.stack.length ≤ 8 → (coreSt (placeGroup s c n g) c).allocs = (coreSt s c).allocs) := by
  have hs : OnlyGroup c n s (if 8 < g.stack.length then spillPaths s c { g with fenced := false } else s) := by
    split
    · exact onlyGroup_spillPaths c n s _
    · exact OnlyGroup.refl c n s
  have ha : ∀ x, g.stack.length ≤ 8 →
      (coreSt (setGroup (if 8 < g.stack.length then spillPaths s c { g with fenced := false } else s) c n x) c).allocs =
        (coreSt s c).allocs := by
    intro x hl
    rw [if_neg (by omega)]
    simp [setGroup, modCore]
  unfold placeGroup
  dsimp only
  split
  · exact ⟨hs.andThen (onlyGroup_setGroup _ _ _ _), ⟨g.active, .clear, groupAt_setGroup _ _ _ _⟩, ha _⟩
  · exact ⟨hs.andThen (onlyGroup_setGroup _ _ _ _), ⟨_, .counters, groupAt_setGroup _ _ _ _⟩, ha _⟩

/-- What changes only the registers of a group leaves its launch and its paths. -/
def RegsOnly (g h : Group) : Prop := ∃ a b, h = { g with lanes := a, scalars := b }

/-- The running path after the PC has moved. -/
theorem pathAt_movePc {t : Thread} {g : Group} (hr : g.run = some t.p) (hc : t.p.canRun = true) (pc : Nat) (b : Bool) :
    PathAt t (movePc g pc b) (pc % 2 ^ 48) := by
  intro hn
  have hc : t.p.waiting = false := by
    simp only [Path.canRun, Bool.and_eq_true, Bool.not_eq_true'] at hc
    exact hc.1
  unfold movePc
  rw [hr]
  exact ⟨_, settle_run rfl hc fun _ => hn, rfl, rfl, rfl⟩

/-- An instruction that completes: what is left but its registers (R126, R131, R138). -/
theorem finish_ran {t : Thread} {s s' : State} {f : Group → Group} (hk : t.core < 144)
    (hs : OnlyGroup t.core t.slot (fetched s t) s' ∧ groupAt s' t.core t.slot = some t.g ∧ (coreSt s' t.core).allocs = (coreSt s t.core).allocs)
    (hr : t.g.run = some t.p) (hc : t.p.canRun = true) (hf : RegsOnly t.g (f t.g)) :
    ∃ u h, finish t s' f = .next u ∧ Ran t s u h ∧ h.lanes = (f t.g).lanes ∧ h.scalars = (f t.g).scalars := by
  have hn := noted_frame t s' false hk
  have hg : groupAt (noted t s' false) t.core t.slot = some t.g := (hn.2 _).trans hs.2.1
  obtain ⟨a, b, hf⟩ := hf
  obtain ⟨r, st, hm⟩ := movePc_keeps (f t.g) (t.p.pc + 8) false
  have hp := placeGroup_frame (noted t s' false) t.core t.slot (movePc (f t.g) (t.p.pc + 8) false)
  obtain ⟨hp1, ⟨x, y, hp2⟩, hp3⟩ := hp
  refine ⟨_, _, by simp only [finish, hg], { (hs.1.andThen hn.1).andThen hp1 with group := hp2, launch := ?_, path := ?_, local_ := ?_ }, ?_, ?_⟩
  · rw [hm, hf]
    constructor <;> rfl
  · intro hne
    exact pathAt_movePc (g := f t.g) (by rw [hf]; exact hr) hc (t.p.pc + 8) false hne
  · intro hl
    refine (hp3 ?_).trans ((allocs_noted t s' false).trans hs.2.2)
    refine Nat.le_trans (length_movePc _ _ _) ?_
    rw [hf]
    exact hl
  · rw [hm]
  · rw [hm]

end Sys2Proof.Machine
end

