-- ==== Sys2Proof/Laws/Lanes.lean ====
section
/-!
SUPPORT. Lane registers: what a write of them changes (R129), and the elements of packed operands.
-/

namespace Sys2Proof.Machine

theorem lane_setLane (g : Group) (r l v r' l' : Nat) (hl : l < 32) (hl' : l' < 32) :
    lane (setLane g r l v) r' l' = if r' = r ∧ l' = l then v % 2 ^ 32 else lane g r' l' := by
  unfold lane setLane
  split
  · rename_i h
    rw [h.1, h.2, getD_putD_self]
    exact BitVec.toNat_ofNat _ _
  · rename_i h
    rw [getD_putD_ne]
    intro e
    exact h ⟨by omega, by omega⟩

/-- The two halves of a number of registers. -/
theorem shift_words (v k : Nat) : v / 2 ^ 32 / 2 ^ (32 * k) = v / 2 ^ (32 * (k + 1)) := by
  rw [Nat.div_div_eq_div_mul, ← Nat.pow_add]
  congr 2
  omega

theorem lane_setLaneWide (n : Nat) : ∀ (g : Group) (r l v r' l' : Nat), l < 32 → l' < 32 →
    lane (setLaneWide n g r l v) r' l' =
      if l' = l ∧ r ≤ r' ∧ r' < r + n then v / 2 ^ (32 * (r' - r)) % 2 ^ 32 else lane g r' l' := by
  induction n with
  | zero =>
    intro g r l v r' l' _ _
    rw [if_neg (by omega)]
    rfl
  | succ n ih =>
    intro g r l v r' l' hl hl'
    unfold setLaneWide
    rw [ih _ _ _ _ _ _ hl hl', lane_setLane _ _ _ _ _ _ hl hl']
    by_cases h1 : l' = l ∧ r + 1 ≤ r' ∧ r' < r + 1 + n
    · rw [if_pos h1, if_pos (by omega), shift_words]
      congr 3
      omega
    · rw [if_neg h1]
      by_cases h2 : r' = r ∧ l' = l
      · rw [if_pos h2, if_pos (by omega), h2.1]
        simp
      · rw [if_neg h2, if_neg (by omega)]

/-- The operand of n registers that was just written. -/
theorem laneWide_of_words (n : Nat) : ∀ (g : Group) (r l v : Nat),
    (∀ k, k < n → lane g (r + k) l = v / 2 ^ (32 * k) % 2 ^ 32) → laneWide n g r l = v % 2 ^ (32 * n) := by
  induction n with
  | zero =>
    intro g r l v _
    simp [laneWide, Nat.mod_one]
  | succ n ih =>
    intro g r l v h
    unfold laneWide
    rw [ih g (r + 1) l (v / 2 ^ 32) (fun k hk => by rw [shift_words, ← h (k + 1) (by omega)]; congr 1; omega)]
    have h0 := h 0 (by omega)
    simp only [Nat.mul_zero, Nat.pow_zero, Nat.div_one, Nat.add_zero] at h0
    rw [h0, show 32 * (n + 1) = 32 + 32 * n by omega, Nat.pow_add, Nat.mod_mul]

theorem laneWide_lt (n : Nat) : ∀ (g : Group) (r l : Nat), laneWide n g r l < 2 ^ (32 * n) := by
  induction n with
  | zero => intro g r l; simp [laneWide]
  | succ n ih =>
    intro g r l
    unfold laneWide
    have h1 : lane g r l < 2 ^ 32 := (getD 0 g.lanes (32 * r + l)).isLt
    have h2 := ih g (r + 1) l
    rw [show 32 * (n + 1) = 32 + 32 * n by omega, Nat.pow_add]
    calc _ < 2 ^ 32 + 2 ^ 32 * laneWide n g (r + 1) l := by omega
      _ = 2 ^ 32 * (laneWide n g (r + 1) l + 1) := by rw [Nat.mul_add]; omega
      _ ≤ 2 ^ 32 * 2 ^ (32 * n) := Nat.mul_le_mul_left _ h2

/-- Writing lanes changes lane registers only. -/
theorem regsOnly_setLaneWide (n : Nat) : ∀ (g : Group) (r l v : Nat), ∃ a, setLaneWide n g r l v = { g with lanes := a } := by
  induction n with
  | zero => intro g r l v; exact ⟨g.lanes, rfl⟩
  | succ n ih =>
    intro g r l v
    obtain ⟨a, h⟩ := ih (setLane g r l v) (r + 1) l (v / 2 ^ 32)
    exact ⟨a, h⟩

theorem active_lt {t : Thread} {l : Nat} : l ∈ t.active ↔ l < 32 ∧ bit t.p.mask l = true := by
  simp [Thread.active, bitsSet]

theorem regsOnly_foldLanes (n xd : Nat) (v : Nat → Nat) (ls : List Nat) : ∀ g : Group,
    ∃ a, ls.foldl (fun g l => setLaneWide n g xd l (v l)) g = { g with lanes := a } := by
  induction ls with
  | nil => intro g; exact ⟨g.lanes, rfl⟩
  | cons l t ih =>
    intro g
    obtain ⟨a, h⟩ := regsOnly_setLaneWide n g xd l (v l)
    obtain ⟨b, h'⟩ := ih (setLaneWide n g xd l (v l))
    exact ⟨b, by rw [List.foldl_cons, h', h]⟩

theorem regsOnly_writeLanes (t : Thread) (n xd : Nat) (v : Nat → Nat) (g : Group) :
    ∃ a, writeLanes t n xd v g = { g with lanes := a } := regsOnly_foldLanes n xd v t.active g

theorem lane_foldLanes (n xd : Nat) (v : Nat → Nat) (r' l' : Nat) (hl' : l' < 32) (ls : List Nat) : ∀ g : Group,
    (∀ l ∈ ls, l < 32) →
    lane (ls.foldl (fun g l => setLaneWide n g xd l (v l)) g) r' l' =
      if l' ∈ ls ∧ xd ≤ r' ∧ r' < xd + n then v l' / 2 ^ (32 * (r' - xd)) % 2 ^ 32 else lane g r' l' := by
  induction ls with
  | nil => intro g _; simp
  | cons l t ih =>
    intro g h
    rw [List.foldl_cons, ih _ (fun a ha => h a (List.mem_cons_of_mem _ ha)),
      lane_setLaneWide _ _ _ _ _ _ _ (h l List.mem_cons_self) hl']
    by_cases h1 : l' ∈ t
    · simp only [h1, true_and, List.mem_cons, or_true]
      split
      · rfl
      · rename_i hr
        rw [if_neg (by omega)]
    · simp only [h1, false_and, if_false, List.mem_cons, or_false]
      by_cases h2 : l' = l
      · subst h2
        simp
      · simp [h2]

/-- Every lane register after a write of n registers from xd on in the active threads (R129). -/
theorem lane_writeLanes (t : Thread) (n xd : Nat) (v : Nat → Nat) (g : Group) (r l : Nat) (hl : l < 32) :
    lane (writeLanes t n xd v g) r l =
      if bit t.p.mask l = true ∧ xd ≤ r ∧ r < xd + n then v l / 2 ^ (32 * (r - xd)) % 2 ^ 32 else lane g r l := by
  have h := lane_foldLanes n xd v r l hl t.active g (fun a ha => (active_lt.mp ha).1)
  simp only [active_lt, hl, true_and] at h
  exact h

/-- The operand that an active thread has written. -/
theorem laneWide_writeLanes (t : Thread) (n xd : Nat) (v : Nat → Nat) (g : Group) (l : Nat) (hl : l < 32)
    (ha : bit t.p.mask l = true) : laneWide n (writeLanes t n xd v g) xd l = v l % 2 ^ (32 * n) := by
  refine laneWide_of_words n _ _ _ _ fun k hk => ?_
  rw [lane_writeLanes _ _ _ _ _ _ _ hl, if_pos ⟨ha, by omega, by omega⟩]
  congr 3
  omega

theorem lane_congr {g h : Group} (e : h.lanes = g.lanes) (r l : Nat) : lane h r l = lane g r l := by
  unfold lane
  rw [e]

theorem laneWide_congr {g h : Group} (e : h.lanes = g.lanes) (n : Nat) : ∀ r l, laneWide n h r l = laneWide n g r l := by
  induction n with
  | zero => intro r l; rfl
  | succ n ih =>
    intro r l
    unfold laneWide
    rw [ih, lane_congr e]

/-! Packed elements. -/

/-- The sum of n packed elements lies below 2^(width·n), and element i of it is f i. -/
theorem pack_spec (width : Nat) (f : Nat → Nat) (n : Nat) :
    (List.range n).foldl (fun acc i => acc + (f i % 2 ^ width) * 2 ^ (width * i)) 0 < 2 ^ (width * n) ∧
    ∀ i, i < n → (List.range n).foldl (fun acc i => acc + (f i % 2 ^ width) * 2 ^ (width * i)) 0 / 2 ^ (width * i) % 2 ^ width
      = f i % 2 ^ width := by
  induction n with
  | zero => exact ⟨by simp, fun i hi => absurd hi (by omega)⟩
  | succ n ih =>
    rw [List.range_succ, List.foldl_append]
    simp only [List.foldl_cons, List.foldl_nil]
    obtain ⟨hb, he⟩ := ih
    generalize hA : (List.range n).foldl (fun acc i => acc + (f i % 2 ^ width) * 2 ^ (width * i)) 0 = A at *
    have hf : f n % 2 ^ width < 2 ^ width := Nat.mod_lt _ (Nat.two_pow_pos _)
    refine ⟨?_, fun i hi => ?_⟩
    · rw [Nat.mul_succ, Nat.pow_add]
      calc A + f n % 2 ^ width * 2 ^ (width * n) < 2 ^ (width * n) + f n % 2 ^ width * 2 ^ (width * n) := by omega
        _ = (f n % 2 ^ width + 1) * 2 ^ (width * n) := by rw [Nat.add_mul]; omega
        _ ≤ 2 ^ width * 2 ^ (width * n) := Nat.mul_le_mul_right _ hf
        _ = _ := by rw [Nat.mul_comm]
    · by_cases h : i = n
      · subst h
        rw [Nat.add_mul_div_right _ _ (Nat.two_pow_pos _), Nat.div_eq_of_lt hb, Nat.zero_add, Nat.mod_mod]
      · have hin : i < n := by omega
        rw [show width * n = width * (n - 1 - i) + width + width * i by
          rw [← Nat.mul_succ, ← Nat.mul_add]; congr 1; omega]
        rw [Nat.pow_add, ← Nat.mul_assoc, Nat.add_mul_div_right _ _ (Nat.two_pow_pos _), Nat.pow_add, ← Nat.mul_assoc,
          Nat.add_mul_mod_self_right, he i hin]

theorem mapElems_eq (width n : Nat) (f : Nat → Nat → Nat → Nat) (a b c : Nat) :
    mapElems width n f a b c = (List.range n).foldl (fun acc i => acc +
      ((fun i => f ((a >>> (width * i)) % 2 ^ width) ((b >>> (width * i)) % 2 ^ width) ((c >>> (width * i)) % 2 ^ width)) i
        % 2 ^ width) * 2 ^ (width * i)) 0 := rfl

/-- Element i of a function applied element by element. -/
theorem mapElems_elem (width n : Nat) (f : Nat → Nat → Nat → Nat) (a b c i : Nat) (hi : i < n) :
    BitVec.ofNat width (mapElems width n f a b c >>> (width * i)) =
      BitVec.ofNat width (f ((a >>> (width * i)) % 2 ^ width) ((b >>> (width * i)) % 2 ^ width) ((c >>> (width * i)) % 2 ^ width)) := by
  apply BitVec.eq_of_toNat_eq
  rw [BitVec.toNat_ofNat, BitVec.toNat_ofNat, Nat.shiftRight_eq_div_pow, mapElems_eq]
  exact (pack_spec width _ n).2 i hi

theorem mapElems_lt (width n : Nat) (f : Nat → Nat → Nat → Nat) (a b c : Nat) : mapElems width n f a b c < 2 ^ (width * n) := by
  rw [mapElems_eq]
  exact (pack_spec width _ n).1

theorem lintShape_words (ty : Nat) : (lintShape ty).1 * (lintShape ty).2 = 32 * lintWords ty := by
  unfold lintShape lintWords
  split <;> simp_all
  
/-- An element-wise LINT instruction does what the bit-vector function f says, when its function agrees with f. -/
theorem lintElems_does {mk : Nat → Nat → BitVec 64 → Instr} {op sources : Nat} {name : String}
    {F : Nat → Bool → Nat → Nat → Nat → Nat → Nat}
    {f : BitVec 64 → Bool → (wd : Nat) → BitVec wd → BitVec wd → BitVec wd → BitVec wd}
    (he : ∀ c n w s, exec (mk c n w) s = lintElems c n w op name sources F s)
    (hF : ∀ (w : BitVec 64) sg wd, wd = 8 ∨ wd = 16 ∨ wd = 32 ∨ wd = 64 → ∀ a b c : BitVec wd, BitVec.ofNat wd (F w.toNat sg wd a.toNat (if 2 ≤ sources then b.toNat else 0) (if 3 ≤ sources then c.toNat else 0)) = f w sg wd a b c) :
    LintDoes mk op sources f := by
  intro s s' w t hi hty hr
  rw [he]
  unfold lintElems
  rw [issue_of_issues hi]
  obtain ⟨r1, r2, r3, r4⟩ := hr
  have hok : (bit (wType t.w) 2 || !(regOk t.g (lintWords (wType t.w)) (wXD t.w) && regOk t.g (lintWords (wType t.w)) (wXA t.w) &&
        (decide (sources < 2) || regOk t.g (lintWords (wType t.w)) (wXB t.w)) && (decide (sources < 3) || regOk t.g (lintWords (wType t.w)) (wXC t.w)))) = false := by
    have h3 : (decide (sources < 2) || regOk t.g (lintWords (wType t.w)) (wXB t.w)) = true := by
      by_cases h : sources < 2
      · simp [h]
      · rw [r3 (by omega)]; simp
    have h4 : (decide (sources < 3) || regOk t.g (lintWords (wType t.w)) (wXC t.w)) = true := by
      by_cases h : sources < 3
      · simp [h]
      · rw [r4 (by omega)]; simp
    rw [hty, r1, r2, h3, h4]; rfl
  dsimp only
  rw [hok]
  simp only [Bool.false_eq_true, if_false]
  obtain ⟨a, ha⟩ := regsOnly_writeLanes t (lintWords (wType t.w)) (wXD t.w) (fun l =>
        mapElems (lintShape (wType t.w)).1 (lintShape (wType t.w)).2 (F t.w (lintSigned (wType t.w)) (lintShape (wType t.w)).1) (laneWide (lintWords (wType t.w)) t.g (wXA t.w) l)
          (if 2 ≤ sources then laneWide (lintWords (wType t.w)) t.g (wXB t.w) l else 0) (if 3 ≤ sources then laneWide (lintWords (wType t.w)) t.g (wXC t.w) l else 0)) t.g
  obtain ⟨u, h, e1, e2, e3, e4⟩ := finish_ran (s := s) (s' := s') hi.real hi.fetched hi.path hi.canRun
    (f := writeLanes t (lintWords (wType t.w)) (wXD t.w) (fun l =>
        mapElems (lintShape (wType t.w)).1 (lintShape (wType t.w)).2 (F t.w (lintSigned (wType t.w)) (lintShape (wType t.w)).1) (laneWide (lintWords (wType t.w)) t.g (wXA t.w) l)
          (if 2 ≤ sources then laneWide (lintWords (wType t.w)) t.g (wXB t.w) l else 0) (if 3 ≤ sources then laneWide (lintWords (wType t.w)) t.g (wXC t.w) l else 0)))
    ⟨a, t.g.scalars, ha⟩
  refine ⟨u, e1, h, e2, ?_, ?_, ?_⟩
  · intro r
    rw [ha] at e4
    simp [scalar, e4]
  · intro r l hl
    rw [lane_congr e3, lane_writeLanes _ _ _ _ _ _ _ hl]
    split
    · left; simp_all
    · right; rfl
  · intro l i hl hact hin
    unfold laneElem
    rw [laneWide_congr e3, laneWide_writeLanes _ _ _ _ _ _ hl hact, Nat.mod_eq_of_lt (by rw [← lintShape_words]; exact mapElems_lt _ _ _ _ _ _), mapElems_elem _ _ _ _ _ _ _ hin]
    have hw : (lintShape (wType t.w)).1 = 8 ∨ (lintShape (wType t.w)).1 = 16 ∨ (lintShape (wType t.w)).1 = 32 ∨ (lintShape (wType t.w)).1 = 64 := by
      unfold lintShape; split <;> simp
    have := hF w (lintSigned (wType t.w)) _ hw (BitVec.ofNat _ (laneWide (lintWords (wType t.w)) t.g (wXA t.w) l >>> ((lintShape (wType t.w)).1 * i)))
      (BitVec.ofNat _ (laneWide (lintWords (wType t.w)) t.g (wXB t.w) l >>> ((lintShape (wType t.w)).1 * i)))
      (BitVec.ofNat _ (laneWide (lintWords (wType t.w)) t.g (wXC t.w) l >>> ((lintShape (wType t.w)).1 * i)))
    rw [← this, hi.asked]
    simp only [BitVec.toNat_ofNat]
    split <;> split <;> simp_all

theorem scalar_setScalar (g : Group) (r v r' : Nat) :
    getD 0 (setScalar g r v).scalars r' = if r' = r then BitVec.ofNat 64 v else getD 0 g.scalars r' := by
  unfold setScalar
  split
  · rename_i h
    rw [h, getD_putD_self]
  · rename_i h
    exact getD_putD_ne _ _ _ _ h

/-- An instruction that completes with a value in SD. -/
theorem scalarGets_finish {mk : Nat → Nat → BitVec 64 → Instr} {s s' : State} {w : BitVec 64} {major op : Nat} {t : Thread} {v : Nat}
    (hi : Issues s w major op t s') (he : exec (mk t.core t.slot w) s = finish t s' (fun g => setScalar g (wSD t.w) v)) :
    ScalarGets mk s w t (BitVec.ofNat 64 v) := by
  obtain ⟨u, h, e1, e2, e3, e4⟩ := finish_ran (s := s) (s' := s') hi.real hi.fetched hi.path hi.canRun
    (f := fun g => setScalar g (wSD t.w) v) ⟨t.g.lanes, _, rfl⟩
  refine ⟨u, he.trans e1, h, e2, fun r l _ => lane_congr e3 r l, fun r hr => ?_, ?_⟩
  · unfold scalar
    rw [e4, scalar_setScalar, if_neg hr]
  · rw [e4, scalar_setScalar, if_pos rfl]

/-- An instruction that completes with a value in the lane registers from XD on. -/
theorem lanesGet_finish {mk : Nat → Nat → BitVec 64 → Instr} {s s' : State} {w : BitVec 64} {major op : Nat} {t : Thread} {n : Nat}
    {v : Nat → Nat} (hi : Issues s w major op t s')
    (he : exec (mk t.core t.slot w) s = finish t s' (writeLanes t n (wXD t.w) v)) : LanesGet mk s w t n v := by
  obtain ⟨a, ha⟩ := regsOnly_writeLanes t n (wXD t.w) v t.g
  obtain ⟨u, h, e1, e2, e3, e4⟩ := finish_ran (s := s) (s' := s') hi.real hi.fetched hi.path hi.canRun
    (f := writeLanes t n (wXD t.w) v) ⟨a, t.g.scalars, ha⟩
  refine ⟨u, he.trans e1, h, e2, fun r => ?_, fun r l hl => ?_, fun l hl hact => ?_⟩
  · rw [ha] at e4
    unfold scalar
    rw [e4]
  · rw [lane_congr e3, lane_writeLanes _ _ _ _ _ _ _ hl]
    split
    · rename_i h
      exact .inl ⟨h.2.1, h.2.2, h.1⟩
    · exact .inr rfl
  · rw [laneWide_congr e3, laneWide_writeLanes _ _ _ _ _ _ hl hact]

end Sys2Proof.Machine
end

