-- ==== Sys2Proof/Tests/Slice0.lean ====
section
/-!
SUPPORT. The package's own tests: the checks of well-formedness refuse ill-formed commands, and for each statement with hypotheses a
concrete state and operands that meet them together. Expected values are read from the manual's tables or counted by hand from them.
-/

namespace Sys2Proof.Tests

set_option Elab.async false

open Sys2Proof Sys2Proof.Machine

/-- An instruction word of format L (R131). -/
def wordL (major op ty xd xa xb xc imm : Nat) : BitVec 64 :=
  BitVec.ofNat 64 (major + 2 ^ 7 * op + 2 ^ 12 * ty + 2 ^ 16 * xd + 2 ^ 24 * xa + 2 ^ 32 * xb + 2 ^ 40 * xc + 2 ^ 48 * imm)

/-- An instruction word of format S (R131). -/
def wordS (major op flags sa sb sd sc imm : Nat) : BitVec 64 :=
  BitVec.ofNat 64 (major + 2 ^ 7 * op + 2 ^ 12 * flags + 2 ^ 18 * sa + 2 ^ 24 * sb + 2 ^ 30 * sd + 2 ^ 42 * sc + 2 ^ 48 * imm)

/-- A control instruction (R131): the register, RPC and OFFSET. -/
def wordB (op x rpc off : Nat) : BitVec 64 :=
  BitVec.ofNat 64 (mCTRL + 2 ^ 7 * op + 2 ^ 16 * x + 2 ^ 24 * rpc + 2 ^ 40 * off)

/-- An atomic (R132): scope and operation above the lane registers. -/
def wordA (op ty xd xa xb scope aop : Nat) : BitVec 64 := wordL mATOM op ty xd xa xb (32 * scope + aop) 0

/-- A context of partition 0 with two units of local store. -/
def ctx1 : Context :=
  ⟨.resident, 0, 0, 0, 0, 2, 0, 0, 0, 0, 0, 0, 0, 0, 0, [], false, false, [], [], [], 0, false, false, false, false, [], []⟩

/-- A standard queue of context 1 with eight entries and rings in stack 0. -/
def queue0 : Queue :=
  ⟨1, 1, 0, 3, 0, 0, 0x10000, 2 ^ 63 + 0x20000, 0, 0, 0, 0, 0, true, none, 0, [], 0, 0, 0, 0, 0, 0, 0, 0, 0, 0, 0, 0⟩

/-- A submission of it that runs a command buffer. -/
def sub0 (code : List Byte) : Submission :=
  ⟨1, 0, 0, zeroBytes 64, code, [], 0, .running, false, false, false, false, 0, 0, false, 0, 0, 0, 0, 0, 0, 0, 0, [], [0], false, 0,
    false, false, false, 0, 0, 0, false, 0, [], ⟨[], 0⟩⟩

/-- Fuses that enable nine cores of each cluster (R3, R10). -/
def fuses1 : Fuses := ⟨144, (List.range 16).foldl (fun m c => m + 0x1FF * 2 ^ (10 * c)) 0, [], true⟩

/-- Power after start-up. -/
def power1 : PowerSt :=
  { PowerSt.reset with phase := .done, stage := 8, ready := true, configReady := true, input := true, rails := 7, image := some ⟨0x51454D31, 1, 1048576, true, 0xFFFF⟩, fuses := some fuses1 }

/-- The clocks of a module that runs. -/
def clock1 : ClockSt :=
  { ClockSt.reset with oscOk := true, refStable := true, inRange := true, rootLock := true, pcieLock := true, stackLock := 0xFFF, srLock := 0xFFFF, fabricLock := 0xF }

/-- All stacks and packages up. -/
def mem1 : MemSys :=
  { MemSys.reset with stackSts := (List.range 12).map (fun n => (n, ⟨.online, [], 0, false, 0, true, [], 0⟩)), pkgs := (List.range 16).map (fun n => (n, ⟨true, false, [], 0, 0⟩)) }

/-- Access rows: contexts 1 and 2, the physical function, virtual function 1, the management controller, ring position 2. -/
def rows1 : Assoc Nat := [1, 2, 4096, 4097, 4160, 4163].map (fun m => (m, fullRow))

/-- A module that runs, with all stacks and packages up: contexts 1 and 2, queue 0 and its submission. -/
def base : State :=
  { State.reset with power := power1, clock := clock1, tick := { TickSt.reset with running := true, counting := true }, dict := { DictSt.reset with online := true }, ring := { RingSt.reset 0 with bypass := false }, part := { PartSt.reset with rows := rows1 }, ctxs := [(1, ctx1), (2, ctx1)], queues := [(0, queue0)], subs := [(0, sub0 [])], mem := mem1 }

/-- A path at PC 0 with all its threads. -/
def path0 : Path := ⟨0, 0xFFFFFFFF, [], false, none, 0⟩

/-- A group of context 1 in its slot: 32 lane registers, path depth 8. -/
def group0 : Group :=
  ⟨1, 0, 32, 8, 0, 0, 0, [], [], 0xFFFFFFFF, some path0, [], 0, true, .clear, 0, [], false⟩

/-- A core whose slot 0 holds the group g, about to issue w from its instruction cache, with local store for context 1. -/
def core0 (g : Group) (w : BitVec 64) : Core :=
  { Core.fresh with
    groups := [(0, g)]
    allocs := [(1, ⟨2, 0, 0, [], []⟩)]
    icache := [(0, ⟨0, [some ⟨1, 0, 0, toLE 8 w.toNat ++ zeroBytes 120⟩, none, none, none]⟩)] }

/-- The module with core 0 as given. -/
def with0 (k : Core) (s : State) : State := { s with cores := [(0, k)] }

/-- The instruction w about to issue in group g on core 0 of the module s; k changes what else the core holds. -/
def about (w : BitVec 64) (g : Group := group0) (k : Core → Core := id) (s : State := base) : State := with0 (k (core0 g w)) s

/-- The instruction as it issues there. -/
def thread (w : BitVec 64) (g : Group := group0) : Thread := ⟨0, 0, g, g.run.getD path0, w.toNat⟩

/-- The state once it is fetched. -/
def fetched (s : State) (g : Group := group0) : State :=
  match fetch (reloadPaths s 0 0) 0 0 g (g.run.getD path0).pc with
  | .word _ u => u
  | .stall u => u

/-- The instruction issues: what `Issues` asks, as a check. -/
def issues (s : State) (w : BitVec 64) (g : Group := group0) : Bool :=
  let p := g.run.getD path0
  let r := reloadPaths s 0 0
  groupAt r 0 0 == some g && g.run == some p && canIssue r 0 g p && !(decide (p.pc % 8 ≠ 0) || !cachedVa p.pc) &&
    (match fetch r 0 0 g p.pc with
      | .word v _ => v == w.toNat
      | .stall _ => false) &&
    !scoreboardHolds (coreSt (fetched s g) 0) 0 g.queue w.toNat && !reservedOp w.toNat && zerosOk w.toNat &&
    awaitedLine g w.toNat == none

/-- What passes the check issues. -/
theorem issues_of (s : State) (w : BitVec 64) (g : Group) (h : issues s w g = true) :
    Issues s w (wMajor w.toNat) (wOp w.toNat) (thread w g) (fetched s g) := by
  simp only [issues, Bool.and_eq_true, beq_iff_eq, Bool.not_eq_true'] at h
  obtain ⟨⟨⟨⟨⟨⟨⟨⟨a, b⟩, c⟩, d⟩, e⟩, f⟩, i⟩, j⟩, k⟩ := h
  refine ⟨rfl, show 0 < 144 by decide, a, b, c, d, ?_, f, rfl, rfl, i, j, k⟩
  show fetch (reloadPaths s 0 0) 0 0 g (g.run.getD path0).pc = .word w.toNat (fetched s g)
  unfold fetched
  revert e
  cases fetch (reloadPaths s 0 0) 0 0 g (g.run.getD path0).pc with
  | word v u => intro e; simp only [beq_iff_eq] at e; rw [e]
  | stall u => intro e; cases e

/-- An instruction issues, and P holds of it: the hypotheses of a statement about it, met together. -/
def Meets (s : State) (w : BitVec 64) (g : Group) (major op : Nat) (P : Thread → Bool) : Prop :=
  Issues s w major op (thread w g) (fetched s g) ∧ P (thread w g) = true

/-- The check of `Meets`. -/
def meets (s : State) (w : BitVec 64) (g : Group) (major op : Nat) (P : Thread → Bool) : Bool :=
  issues s w g && wMajor w.toNat == major && wOp w.toNat == op && P (thread w g)

theorem meets_of {s : State} {w : BitVec 64} {g : Group} {major op : Nat} {P : Thread → Bool} (h : meets s w g major op P = true) :
    Meets s w g major op P := by
  simp only [meets, Bool.and_eq_true, beq_iff_eq] at h
  obtain ⟨⟨⟨a, b⟩, c⟩, d⟩ := h
  subst b c
  exact ⟨issues_of s w g a, d⟩

theorem meets_all {α : Type} {l : List α} {s : α → State} {w : α → BitVec 64} {g : α → Group} {major op : α → Nat}
    {P : α → Thread → Bool} (h : l.all (fun x => meets (s x) (w x) (g x) (major x) (op x) (P x)) = true) :
    ∀ x ∈ l, Meets (s x) (w x) (g x) (major x) (op x) (P x) :=
  fun x hx => meets_of (List.all_eq_true.mp h x hx)

/-! Lane and scalar instructions. -/

/-- The registers of `LaneRegs`, as a check. -/
def laneOk (n k : Nat) (t : Thread) : Bool := decide (regOk t.g n (wXD t.w) = true ∧ regOk t.g n (wXA t.w) = true ∧
  (2 ≤ k → regOk t.g n (wXB t.w) = true) ∧ (3 ≤ k → regOk t.g n (wXC t.w) = true))

theorem laneOk_is {n k : Nat} {t : Thread} (h : laneOk n k t = true) : LaneRegs t n k := by
  unfold LaneRegs
  exact of_decide_eq_true h

/-- An LINT word on the registers at the top of the file, and one on x0, of each TYPE. -/
def lintWord (x : Nat × Nat) : BitVec 64 := wordL mLINT x.1 x.2 28 30 28 30 0xFFFF

/-- LintElementwise, LintSigned, LintWhole: each operation, with each TYPE, on the highest registers. -/
theorem witness_lint : ∀ x ∈ (List.range 0x17).flatMap (fun op => [0, 1, 2, 3, 8, 9, 10, 11].map (fun ty => (op, ty))),
    Meets (about (lintWord x)) (lintWord x) group0 mLINT x.1
      (fun t => !bit (wType t.w) 2 && laneOk (lintWords (wType t.w)) 3 t && (x.1 != 0x16 || bits (wImm t.w) 1 0 == 3)) :=
  meets_all (by decide +kernel)

/-- LintWhole: VOTE in each of its modes. -/
theorem witness_vote : ∀ m ∈ [0, 1, 2], let w := wordL mLINT 0x16 2 0 0 0 0 m
    Meets (about w) w group0 mLINT 0x16
      (fun t => !bit (wType t.w) 2 && laneOk (lintWords (wType t.w)) 1 t && decide (bits (wImm t.w) 1 0 ≤ 2)) :=
  meets_all (by decide +kernel)

/-- LfpElementwise: each operation, with each TYPE; FCMP with the highest condition that LFP has. -/
theorem witness_lfp : ∀ x ∈ (List.range 0x11).flatMap (fun op => [0, 1, 2, 3].map (fun ty => (op, ty))),
    let w := wordL mLFP x.1 x.2 28 30 28 30 5
    Meets (about w) w group0 mLFP x.1
      (fun t => decide (wType t.w ≤ 3) && laneOk (lfpWords (wType t.w)) 3 t && (x.1 != 8 || decide (bits (wImm t.w) 2 0 ≤ 5))) :=
  meets_all (by decide +kernel)

/-- LaneConversions: FCVT from each TYPE to the formats of R82 that are no block formats. -/
theorem witness_fcvt : ∀ x ∈ ([0, 1, 2, 3].flatMap (fun ty => [0x00, 0x01, 0x04, 0x09, 0x0C].map (fun c => (ty, c))) : List (Nat × Nat)),
    let w := wordL mLFP 0x11 x.1 0 2 0 0 x.2
    Meets (about w) w group0 mLFP 0x11 (fun t =>
      let sh := lfpShape (wType t.w)
      let code := bits (wImm t.w) 7 0
      let nd := wordsFor (sh.2.2 * elemBits (elemOf code))
      decide (wType t.w ≤ 3) && isTarget code && modeOf code == 0 && !isRaw (elemOf code) && decide (0 < nd) &&
        regOk t.g (wordsFor (sh.2.2 * sh.2.1)) (wXA t.w) && regOk t.g nd (wXD t.w)) :=
  meets_all (by decide +kernel)

/-- LaneConversions: ICVT to and from integers. -/
theorem witness_icvt : ∀ x ∈ (([0, 1, 2, 3].flatMap (fun ty => [0, 3, 8, 0x100, 0x103, 0x10B].map (fun c => (ty, c)))).filter (fun x => !(x.1 == 1 && x.2 == 3)) : List (Nat × Nat)),
    let w := wordL mLFP 0x12 x.1 0 4 0 0 x.2
    Meets (about w) w group0 mLFP 0x12 (fun t =>
      let fs := lfpShape (wType t.w)
      let it := bits (wImm t.w) 3 0
      let is := lintShape it
      decide (wType t.w ≤ 3) && !bit it 2 && (if bit (wImm t.w) 8 then
          regOk t.g (wordsFor (fs.2.2 * fs.2.1)) (wXA t.w) && regOk t.g (wordsFor (fs.2.2 * is.1)) (wXD t.w)
        else decide (0 < wordsFor (is.2 * fs.2.1)) && regOk t.g (wordsFor (is.2 * is.1)) (wXA t.w) &&
          regOk t.g (wordsFor (is.2 * fs.2.1)) (wXD t.w))) :=
  meets_all (by decide +kernel)

/-- SaluOperations: each operation on s63; XTOS of the highest register; SREAD of the highest selector. -/
theorem witness_salu : ∀ op ∈ List.range 0x12, let w := wordS mSALU op 0 63 63 63 0 (if op = 0x11 then 31 else 10)
    Meets (about w) w group0 mSALU op (fun t => if op = 0x11 then regOk t.g 1 (bits (wImm t.w) 7 0) && t.active.head? == some 0
      else op != 0x10 || wImm t.w == 10) :=
  meets_all (by decide +kernel)

/-! Local store and the cached space. -/

/-- Group 0 with an address in x4, x5 of every lane, and data in x6, x7. -/
def groupAt_ (lo hi data : Nat) : Group :=
  { group0 with lanes := ((List.range 32).map (fun l => (32 * 4 + l, BitVec.ofNat 32 lo))) ++
      ((List.range 32).map (fun l => (32 * 5 + l, BitVec.ofNat 32 hi))) ++
      ((List.range 32).map (fun l => (32 * 6 + l, BitVec.ofNat 32 data))) }

/-- The last 16-byte place of the 128 KiB that context 1 has on core 0. -/
def lastPlace : Nat := 2 * 65536 - 16

/-- LocalAccesses: every size, at the last place of the context's local store. -/
theorem witness_local : ∀ x ∈ ([0, 1].flatMap (fun op => (List.range 5).map (fun sz => (op, sz))) : List (Nat × Nat)),
    let w := wordL mLMEM x.1 x.2 8 4 8 0 0
    Meets (about w (groupAt_ lastPlace 0 7)) w (groupAt_ lastPlace 0 7) mLMEM x.1 (fun t =>
      decide (wType t.w ≤ 4) && regOk t.g (sizeWords (wType t.w)) (if x.1 = 0 then wXD t.w else wXB t.w) && regOk t.g 1 (wXA t.w) &&
        t.active.all (fun l => lsGood (about w (groupAt_ lastPlace 0 7)) t (2 ^ wType t.w) (lsAddr t l))) :=
  meets_all (by decide +kernel)

/-- LocalAtomics: each operation, with the sizes it has. -/
theorem witness_atl : ∀ x ∈ ([2, 3].flatMap (fun sz => (List.range 10).map (fun a => (sz, a))) : List (Nat × Nat)),
    let w := wordA 0x00 x.1 8 4 12 0 x.2
    Meets (about w (groupAt_ lastPlace 0 7)) w (groupAt_ lastPlace 0 7) mATOM 0x00 (fun t =>
      atomOk t false 1 && t.active.all (fun l => lsGood (about w (groupAt_ lastPlace 0 7)) t (2 ^ wType t.w) (lsAddr t l))) :=
  meets_all (by decide +kernel)

/-- A leaf of a page at 0x50000 of stack 0, readable, writable and executable; attr 1 makes it strict (R244). -/
def leaf (attr : Nat) : Nat := 0x5001F + 0x40 * attr

/-- The module with page 0 of context 1 in the TLB of core 0. -/
def mapped (attr : Nat) : State := { base with trans := { TransSt.reset with coreTlb := [(0, [⟨1, 0, false, leaf attr⟩])] } }

/-- Group 0 with one thread, lane 0, whose address pair x4, x5 holds va and x6 holds data. -/
def single (va data : Nat) : Group :=
  { group0 with live := 1, run := some { path0 with mask := 1 }, lanes := [(32 * 4, BitVec.ofNat 32 va), (32 * 6, BitVec.ofNat 32 data)] }

/-- A data cache that holds line 0xFF80 of context 1. -/
def warmed (k : Core) : Core :=
  { k with dcache := [(127, ⟨0, [some ⟨1, 0xFF80, 0x5FF80, List.replicate 128 7#8⟩, none, none, none, none, none, none, none]⟩)] }

/-- What CachedLoad asks of the loads. -/
def loads (t : Thread) (u : State) : Bool :=
  decide (wType t.w ≤ 4) && regOk t.g (sizeWords (wType t.w)) (wXD t.w) && regOk t.g 2 (wXA t.w) &&
    t.active.all (fun l => vaGood (2 ^ wType t.w) (laneVa t l)) &&
    match xlateLanes t 1 u with
    | (some xs, s1) =>
      let r := xs.foldl (loadOne t (2 ^ wType t.w)) ⟨[], [], true, s1⟩
      r.ok && (r.rest == [] || !leafStrict (xs.head?.map (fun x => x.2.2.2) |>.getD 0))
    | (none, _) => false

/-- CachedLoad: every size at the last place of a page, from a line the cache holds, from a line on its way, and from a strict page. -/
theorem witness_ldc : ∀ x ∈ ([0, 1, 2].flatMap (fun a => (List.range 5).map (fun sz => (a, sz))) : List (Nat × Nat)),
    let w := wordL mCMEM 0 x.2 8 4 0 0 0
    let g := single 0xFFF0 0
    let s := about w g (if x.1 = 2 then id else warmed) (mapped (x.1 % 2))
    Meets s w g mCMEM 0 (fun t => loads t (fetched s g)) :=
  meets_all (by decide +kernel)

/-- What CachedStore asks. -/
def stores (s : State) (t : Thread) (u : State) : Bool :=
  decide (wType t.w ≤ 4) && regOk t.g (sizeWords (wType t.w)) (wXB t.w) && regOk t.g 2 (wXA t.w) && t.active == [0] &&
    vaGood (2 ^ wType t.w) (laneVa t 0) &&
    match (xlateLanes t 2 u).1 with
    | some [(_, _, pa, leaf)] =>
      lineAhead t.g [(0, laneVa t 0, pa, leaf)] == none &&
      if leafStrict leaf then accessOk s t.g.ctx pa (2 ^ wType t.w) true && rangeUp s pa (2 ^ wType t.w) && partlyPoisoned s pa (2 ^ wType t.w) == []
      else decide ((coreSt s t.core).stores.length < 16)
    | _ => false

/-- CachedStores: STC of every size at the last place of a page; with fifteen entries in the store buffer; and to a strict page. -/
theorem witness_stc : ∀ x ∈ ([0, 1].flatMap (fun a => (List.range 5).map (fun sz => (a, sz))) : List (Nat × Nat)),
    let w := wordL mCMEM 1 x.2 0 4 8 0 0
    let g := single 0xFFF0 0
    let s := about w g (fun k => { k with stores := List.replicate 15 ⟨1, 0, 0x60000, [0], [(0, 1#8)]⟩ }) (mapped x.1)
    Meets s w g mCMEM 1 (fun t => stores s t (fetched s g)) :=
  meets_all (by decide +kernel)

/-- CachedStores: one entry of the store buffer, whose bytes rise within the line, over a line of 128 bytes. -/
theorem witness_ownStores :
    let s := about 0 group0 (fun k => { k with stores := [⟨1, 0, 0x50000, [0], [(0, 1#8), (127, 2#8)]⟩] })
    (∀ e ∈ pendingStores s 0 0x50000, ∀ p ∈ e, p.1 < 128) ∧ (∀ e ∈ pendingStores s 0 0x50000, keysRise e = true) ∧
      pendingStores s 0 0x50000 ≠ [] := by
  decide +kernel

/-- CachedStores: an entry leaves the store buffer for its home slice. -/
theorem witness_drainToSlice :
    let s := about 0 group0 (fun k => { k with stores := [⟨1, 0, 0x50000, [0], [(0, 1#8)]⟩] })
    (coreSt s 0).stores[0]? = some ⟨1, 0, 0x50000, [0], [(0, 1#8)]⟩ ∧ (homeSlice s 0x50000).isSome = true := by
  decide +kernel

/-- CachedStores: an entry leaves the store buffer where its partition owns no cluster. -/
theorem witness_drainToStack :
    let s := setObj (about 0 group0 (fun k => { k with stores := [⟨1, 0, 0x50000, [0], [(0, 1#8), (127, 2#8)]⟩] })) 0x3000 1 0
    let e : SbEntry := ⟨1, 0, 0x50000, [0], [(0, 1#8), (127, 2#8)]⟩
    (coreSt s 0).stores[0]? = some e ∧ homeSlice s e.pa = none ∧ (∀ p ∈ e.data, p.1 < 128) ∧ keysRise e.data = true ∧
      e.pa % 128 = 0 ∧ rangeUp s e.pa 128 = true ∧ poisonedIn s e.pa 128 = [] ∧
      (∀ p ∈ e.data, accessOk s e.ctx (e.pa + p.1) 1 true = true) ∧ accessOk s e.ctx e.pa 128 false = true := by
  decide +kernel

/-- CachedStores: an entry reaches a home slice where a store to its line from a higher core came in the same cycle. -/
theorem witness_drainInOrder :
    let e : SbEntry := ⟨1, 0, 0x50000, [0], [(0, 1#8)]⟩
    let s0 := about 0 group0 (fun k => { k with stores := [e] })
    let c := (homeSlice s0 0x50000).getD 0
    let s := setSlice s0 c { sliceSt s0 c with reqs := [.store 9 s0.tick.time.toNat 0 e] }
    (coreSt s 0).stores[0]? = some e ∧ homeSlice s e.pa = some c ∧ (sliceSt s c).reqs = [.store 9 s.tick.time.toNat 0 e] := by
  decide +kernel

/-- A line of context 1 on its way, n sectors of it here. -/
def fill0 (icache : Bool) (n : Nat) : LineFill := ⟨icache, 1, 0xFF80, 0x5FF80, 0, n, some (zeroBytes 128), false⟩

/-- CachedStores: the first and the last sector of a line arrive, for a load that waits for the sector and for one that waits for
another. -/
theorem witness_sector : ∀ n ∈ [0, 3], let f := fill0 false n
    let ld : LaneLoad := ⟨8, 1, 4, [(0, 0xFF80, 0x5FF80), (5, 0xFFFC, 0x5FFFC)]⟩
    let g := { group0 with loads := [ld] }
    let s := about 0 g (fun k => { warmed k with fills := [f], dcache := [(127, ⟨0, List.replicate 8 none⟩)] })
    (coreSt s 0).fills[0]? = some f ∧ f.va % 128 = 0 ∧ ((find ((coreSt s 0).cache false) (lineSet false f.va)).all (fun c =>
        c.ways.length == 8 && c.items.all (fun l => !(l.ctx == f.ctx && l.va == f.va)))) = true ∧
      groupAt s 0 0 = some g ∧ (ld.lanes.map Prod.fst).Nodup ∧ (∀ e ∈ ld.lanes, e.1 < 32) := by
  decide +kernel

/-- CachedStores: the sector that a group waits for with its next instruction. -/
theorem witness_fetchedSector : let f := fill0 true 0
    let p := { path0 with pc := 0xFF80 }
    let g := { group0 with run := some p, active := false, cond := .lineMiss true 0xFF80 }
    let s := about 0 g (fun k => { k with fills := [f] })
    (coreSt s 0).fills[0]? = some f ∧ groupAt s 0 0 = some g ∧ sectorHere { f with arrived := 1 } p.pc = true := by
  decide +kernel

/-- What CachedAtomics ask of one thread on a page. -/
def atomics (s : State) (t : Thread) (u : State) (attr : Nat) : Bool :=
  atomOk t true 2 && t.active == [0] && vaGood (2 ^ wType t.w) (laneVa t 0) && (coreSt s t.core).stores == [] &&
    s.mem.slices.all (fun k => k.2.reqs == []) && t.g.firstLoad == none &&
    match (xlateLanes t 11 u).1 with
    | some [(_, _, pa, leaf)] =>
      accessOk s t.g.ctx pa (2 ^ wType t.w) true && leafStrict leaf == (attr == 1) &&
        if attr = 1 then accessOk s t.g.ctx pa (2 ^ wType t.w) false && rangeUp s pa (2 ^ wType t.w) && poisonedIn s pa (2 ^ wType t.w) == []
        else accessOk s t.g.ctx (pa / 128 * 128) 128 false && (match homeSlice s (pa / 128 * 128) with
          | some c => (match atticFind s c (pa / 128 * 128) with
            | some (_, line) => line.data.length == 128
            | none => false)
          | none => false)
    | _ => false

/-- The line of PA 0x5FF80 in its home slice. -/
def inSlice (s : State) : State :=
  setSlice s ((homeSlice s 0x5FF80).getD 0) ⟨[(atticSet 0x5FF80, ⟨0, some ⟨0x5FF80, false, zeroBytes 128⟩ :: List.replicate 15 none⟩)], [], false⟩

/-- CachedAtomics: each operation and size, at the last place of a page, strict or with its line in its home slice. -/
theorem witness_atc : ∀ x ∈ ([0, 1].flatMap (fun a => [2, 3].flatMap (fun sz => (List.range 10).map (fun op => (a, sz, op)))) : List (Nat × Nat × Nat)),
    let w := wordA 1 x.2.1 8 4 12 2 x.2.2
    let g := single 0xFFF8 0
    let s := about w g id (inSlice (mapped x.1))
    Meets s w g mATOM 1 (fun t => atomics s t (fetched s g) x.1) :=
  meets_all (by decide +kernel)

/-! Control. -/

/-- Group 0 with x4 of lane l holding f l. -/
def lanes4 (f : Nat → Nat) : Group :=
  { group0 with lanes := ((List.range 32).map (fun l => (32 * 4 + l, BitVec.ofNat 32 (f l)))).filter (fun e => e.2 != 0) }

/-- Branches: BZ and BNZ that no thread, all threads and some threads take, with room for one more path and with an RPC. -/
theorem witness_laneBranches : ∀ x ∈ ([0, 1].flatMap (fun op => [(op, 0, 0), (op, 1, 0), (op, 2, 0), (op, 2, 4)]) : List (Nat × Nat × Nat)),
    let w := wordB x.1 4 x.2.2 2
    let g := { lanes4 (fun l => if x.2.1 = 0 then 0 else if x.2.1 = 1 then 1 else l) with
      stack := List.replicate 7 { path0 with mask := 0, pc := 64 } }
    Meets (about w g) w g mCTRL x.1 (fun t =>
      let takes (v : Nat) : Bool := if x.1 = 0 then v == 0 else v != 0
      let some_ := t.active.any (fun l => takes (lane t.g (wBrX t.w) l))
      let all_ := t.active.all (fun l => takes (lane t.g (wBrX t.w) l))
      regOk t.g 1 (wBrX t.w) && t.active != [] && (if x.2.1 = 2 then some_ && !all_ && decide (t.g.stack.length < t.g.depth) &&
        (DividedNest t).head?.all (fun d => d.2 != (t.p.pc + 8) % 2 ^ 48 && d.2 != (Target w t).toNat)
      else if x.2.1 = x.1 then all_ else !some_)) :=
  meets_all (by decide +kernel)

/-- Branches: JMP, and BSZ and BSNZ on s63, zero and not. -/
theorem witness_scalarBranches : ∀ x ∈ ([(4, 0), (2, 0), (2, 1), (3, 0), (3, 1)] : List (Nat × Nat)),
    let w := wordB x.1 (if x.1 = 4 then 0 else 63) 0 (2 ^ 24 - 1)
    let g := { group0 with scalars := if x.2 = 0 then [] else [(63, 1)] }
    Meets (about w g) w g mCTRL x.1 (fun t => (getD 0 t.g.scalars 63 == 0) == (x.2 == 0)) :=
  meets_all (by decide +kernel)

/-- CallsAndJumps: CALL on the highest pair. -/
theorem witness_call : let w := wordB 5 30 0 2
    Meets (about w) w group0 mCTRL 5 (fun t => regOk t.g 2 (wBrX t.w)) :=
  meets_of (by decide +kernel)

/-- CallsAndJumps: JR with one address, and with as many as the path stack takes. -/
theorem witness_jr : ∀ n ∈ [1, 9], let w := wordB 6 4 0 0
    let g := lanes4 (fun l => 8 * (l % n))
    Meets (about w g) w g mCTRL 6 (fun t =>
      let goes (l : Nat) : Nat := laneWide 2 t.g (wBrX t.w) l % 2 ^ 48
      let l := (List.range n).map (fun i => 8 * i)
      regOk t.g 2 (wBrX t.w) && t.active != [] && decide (l.Pairwise (· < ·)) && t.active.all (fun k => l.contains (goes k)) &&
        l.all (fun b => t.active.any (fun k => goes k == b)) && decide (t.g.stack.length + (n - 1) ≤ t.g.depth) &&
        (DividedNest t).head?.all (fun d => !l.contains d.2)) :=
  meets_all (by decide +kernel)

/-- PathEnds: EXIT of the only path, and of one of two. -/
theorem witness_exit : ∀ n ∈ [0, 1], let w := wordB 7 0 0 0
    let g := { group0 with stack := List.replicate n { path0 with pc := 64 } }
    Meets (about w g) w g mCTRL 7 (fun t => t.g.stack.length == n) :=
  meets_all (by decide +kernel)

/-- PathEnds: the 64th backward transfer, with another path and with eight, the top one going on and waiting at its reconvergence PC. -/
theorem witness_rotation : ∀ n ∈ [0, 7], ∀ b ∈ [true, false], let p := { path0 with back := 64, mask := 1 }
    let q := { path0 with pc := 64, mask := 2, waiting := b, nest := if b then [(5, 64)] else [] }
    let g := { group0 with run := some p, stack := q :: List.replicate n q }
    let s := about 0 g
    groupAt s 0 0 = some g ∧ g.run = some p ∧ g.active = true ∧ g.cond = .clear ∧ p.canRun = true ∧ 64 ≤ p.back ∧ p.atRpc = false ∧
      q.blocked = none ∧ (if q.waiting then { q with waiting := false, nest := q.nest.tail, back := 0 } else { q with back := 0 } : Path).atRpc = false ∧
      g.stack.length ≤ 8 := by
  decide +kernel

/-! Synchronisation. -/

/-- Group 0 with v in s1. -/
def holding (v : Nat) : Group := { group0 with scalars := [(1, BitVec.ofNat 64 v)] }

/-- CounterWaits: CWAIT on the last counter of the context, met at its threshold, below it alone, and below it with another path. -/
theorem witness_cwait : ∀ x ∈ ([(0, 0), (1, 0), (1, 1)] : List (Nat × Nat)), let w := wordS mSYNC 0 0 1 0 0 0 3
    let g := { holding x.1 with stack := List.replicate x.2 { path0 with pc := 64 } }
    Meets (about w g) w g mSYNC 0 (fun t =>
      let n := bits (wImm t.w) 5 0
      let d := (localCtr (about w g) t.core t.g.ctx n - (getD 0 t.g.scalars (wSA t.w)).setWidth 32).toInt
      bits (wImm t.w) 15 6 == 0 && decide (n < localCtrs (about w g) t.core t.g.ctx) && n == 3 &&
        (if x.1 = 0 then decide (0 ≤ d) else decide (d < 0)) && t.g.stack.all (fun q => q.canRun && !q.atRpc)) :=
  meets_all (by decide +kernel)

/-- Context 1 with remote counter n held. -/
def heldCtr (n : Nat) : State := { base with ctxs := [(1, { ctx1 with heldCtrs := [n] })] }

/-- CounterWaits: RCWAIT on the highest remote counter: held and met, held and not met, not held. -/
theorem witness_rcwait : ∀ x ∈ ([(0, 1023), (1, 1023), (0, 0)] : List (Nat × Nat)), let w := wordS mSYNC 1 0 1 0 0 0 1023
    let g := holding x.1
    let s := about w g id (heldCtr x.2)
    Meets s w g mSYNC 1 (fun t =>
      let n := bits (wImm t.w) 9 0
      let d := (remoteCtr s t.g.ctx n - (getD 0 t.g.scalars (wSA t.w)).setWidth 32).toInt
      s.mem.due == [] && bits (wImm t.w) 15 10 == 0 && t.g.stack == [] && (find s.ctxs t.g.ctx).all (fun c => c.heldCtrs.contains n == (x.2 == 1023) &&
        decide (c.heldCtrs.length ≤ 256)) && (if x.1 = 0 then decide (0 ≤ d) else decide (d < 0))) :=
  meets_all (by decide +kernel)

/-- Counters: CSET, CADD and CREAD of the last local counter, with another group that waits for it. -/
theorem witness_localCounters : ∀ op ∈ [2, 3, 4], let w := wordS mSYNC op 0 1 0 2 0 3
    let g := holding 5
    let h := { group0 with active := false, cond := .counters, run := some { path0 with blocked := some (.counter false 3 5) } }
    let s := about w g (fun k => { k with groups := [(0, g), (1, h)] })
    Meets s w g mSYNC op (fun t =>
      let n := bits (wImm t.w) 5 0
      !t.p.atRpc && decide (t.g.stack.length < 8) && bits (wImm t.w) 15 6 == 0 && decide (n < localCtrs s t.core t.g.ctx) &&
        groupAt s t.core 1 == some h && h.ctx == t.g.ctx) :=
  meets_all (by decide +kernel)

/-- Counters: CSET, CADD and CREAD of the highest remote counter, held, at system scope. -/
theorem witness_remoteCounters : ∀ op ∈ [2, 3, 4], let w := wordS mSYNC op (if op = 4 then 0 else 20) 1 0 2 0 0x83FF
    let g := holding 5
    let s := about w g id (heldCtr 1023)
    Meets s w g mSYNC op (fun t => s.mem.due == [] && !t.p.atRpc && (coreSt s t.core).stores == [] && s.mem.slices == [] &&
      (op == 4 || bits (wFlags t.w) 4 2 == 5) && bits (wImm t.w) 15 10 == 0b100000 &&
      (find s.ctxs t.g.ctx).any (fun c => c.heldCtrs.contains (bits (wImm t.w) 9 0))) :=
  meets_all (by decide +kernel)

/-- Counters: a group waits for the fetch of a remote counter, with none held and with as many as hardware holds. -/
theorem witness_counterFetched : ∀ n ∈ [0, 256], let c := { ctx1 with saveBase := 0x100000, heldCtrs := List.range n }
    let g := { group0 with cond := .counterFetch 1023 }
    let s := about 0 g id { base with ctxs := [(1, c)] }
    groupAt s 0 0 = some g ∧ g.ctx = 1 ∧ g.cond = .counterFetch 1023 ∧ find s.ctxs 1 = some c ∧ s.mem.due = [] ∧ c.heldCtrs.length ≤ 256 ∧
      c.heldCtrs.Nodup ∧ (∀ m ∈ 1023 :: c.heldCtrs, rangeUp s (backingPa c m) 4 = true ∧ poisonedIn s (backingPa c m) 4 = []) := by
  decide +kernel

/-- Context 1 with barrier 15 over the first n cores. -/
def withBar (n : Nat) : State := { base with ctxs := [(1, { ctx1 with bars := [(15, ⟨0, 2 ^ n - 1, none, 0, []⟩)] })] }

/-- Barriers: the arrival that completes a barrier of one core, and one that another core's is still missing for. -/
theorem witness_bar : ∀ n ∈ [1, 2], let w := wordS mSYNC 5 0 1 0 0 0 15
    let g := holding 1
    let s := about w g id (withBar n)
    let b : BarrierSt := ⟨0, 2 ^ n - 1, none, 0, []⟩
    Meets s w g mSYNC 5 (fun t => !barBad s t && decide (t.core < numCores s) && (coreSt s t.core).stores == [] && s.mem.slices == [] &&
      ((find s.ctxs t.g.ctx).bind (fun c => find c.bars (bits (wImm t.w) 3 0))) == some b &&
      (allArrived s { b with counts := insert b.counts t.core (1, 1, 0) } == (n == 1)) &&
      (getD 0 t.g.scalars (wSA t.w)).toNat == 1 && bits (wFlags t.w) 4 2 == 0 && barrierCount b t.core == (0, 0, 0)) :=
  meets_all (by decide +kernel)

/-- FencesAndInvalidations: a fence of each kind and scope, with no store of the core waiting, and after its wait. -/
theorem witness_fence : ∀ x ∈ ((List.range 4).flatMap (fun k => (List.range 6).flatMap (fun c => [(k + 4 * c, false), (k + 4 * c, true)])) : List (Nat × Bool)),
    let w := wordS mSYNC 6 x.1 0 0 0 0 0
    let g := { group0 with fenced := x.2 }
    let s := about w g (fun k => { k with stores := if x.2 then [⟨1, 0, 0x50000, [0], [(0, 1#8)]⟩] else [] })
    Meets s w g mSYNC 6 (fun t => !bit (wFlags t.w) 5 && decide (bits (wFlags t.w) 4 2 ≤ 5) && t.g.firstLoad == none &&
      (t.g.fenced || ((coreSt s t.core).stores == [] && s.mem.slices == []))) :=
  meets_all (by decide +kernel)

/-- FencesAndInvalidations: a load fence with a load whose data is on its way; a store fence of each scope with a store in the buffer. -/
theorem witness_fenceWaits :
    (let w := wordS mSYNC 6 1 0 0 0 0 0
     let g := { group0 with loads := [⟨8, 1, 4, [(0, 0xFF80, 0x5FF80)]⟩] }
     Meets (about w g) w g mSYNC 6 (fun t => !bit (wFlags t.w) 5 && t.g.firstLoad == some 0xFF80)) ∧
    ∀ c ∈ [2, 5], let w := wordS mSYNC 6 (2 + 4 * c) 0 0 0 0 0
      let s := about w group0 (fun k => { k with stores := [⟨1, 0, 0x50000, [0], [(0, 1#8)]⟩] })
      Meets s w group0 mSYNC 6 (fun t => !bit (wFlags t.w) 5 && !t.g.fenced && (coreSt s t.core).stores != [] &&
        (coreSt s t.core).stores.all (fun e => (homeSlice s e.pa).isSome)) :=
  ⟨meets_of (by decide +kernel), meets_all (by decide +kernel)⟩

/-- InstructionFetch: a word of a line on its way; and of a group whose ninth path and more are in its spill area (R141). -/
theorem witness_fetch :
    (let w := wordB 4 0 0 2
     let p := { path0 with pc := 0xFF80 }
     let g := { group0 with run := some p }
     let s := about w g (fun k => { k with icache := [], fills := [{ fill0 true 1 with data := some (toLE 8 w.toNat ++ zeroBytes 120) }] }) (mapped 0)
     Meets s w g mCTRL 4 (fun t => (cacheLine (coreSt s t.core) true t.g.ctx t.p.pc).isNone && (fillOf (coreSt s t.core) true t.g.ctx t.p.pc).any (fun f => sectorHere f t.p.pc))) ∧
    (let w := wordB 4 0 0 2
     let q := { path0 with pc := 64 }
     let g := { group0 with depth := 16, stack := List.replicate 9 q }
     let s := reloadPaths (about w g (fun k => { k with allocs := [(1, ⟨2, 0, 0, (List.range 16).map (fun i => (i, 8#8)), []⟩)] })) 0 0
     (groupAt s 0 0).any (fun h => h.stack.length == 9 && h.stack != g.stack && issues s w h) = true) :=
  ⟨meets_of (by decide +kernel), by decide +kernel⟩

/-- FencesAndInvalidations: YIELD, ICINV, DCINV of a range, PROG. -/
theorem witness_yield : ∀ op ∈ [7, 8, 9, 10], let w := wordS mSYNC op 0 1 (if op = 9 then 2 else 0) 0 0 0
    Meets (about w) w group0 mSYNC op (fun t => t.p.rpc != some ((t.p.pc + 8) % 2 ^ 48) &&
      (find (about w).subs t.g.queue).isSome && (find (about w).queues t.g.queue).isSome) :=
  meets_all (by decide +kernel)

/-! Copies, doorbells, groups. -/

/-- A copy descriptor within local store: n bytes from 0x100 to 0x80, counter 3 (R151). -/
def copyDesc (n : Nat) : List Byte :=
  [0#8, 0#8, 0x83#8, 0#8] ++ toLE 4 n ++ zeroBytes 8 ++ toLE 8 0x100 ++ toLE 8 0x80

/-- Bytes in their places, as a keyed list. -/
def placed (a : Nat) (b : List Byte) : Assoc Byte := List.zip ((List.range b.length).map (fun i => a + i)) b

/-- Local store of context 1 on core 0 that holds b at a. -/
def filled (a : Nat) (b : List Byte) (k : Core) : Core := { k with allocs := [(1, ⟨2, 0, 0, placed a b, []⟩)] }

/-- A copy of core 0. -/
def copy0 (id : Nat) (running : Bool) : Copy := ⟨id, 1, 0, 0, copyDesc 4, false, running, 0, none⟩

/-- CopiesAndDoorbells: ACOPY of the least and the greatest length that local store takes, with 31 copies queued, and with 32. -/
theorem witness_acopy : ∀ x ∈ ([(4, 31), (0x1FF00, 31), (4, 32)] : List (Nat × Nat)), let w := wordS mCOPY 0 0 1 0 0 0 0
    let g := holding 0x20
    let s := about w g (fun k => { filled 0x20 (copyDesc x.1) k with copies := (List.range x.2).map (fun i => copy0 i false) })
    Meets s w g mCOPY 0 (fun t =>
      let a := (getD 0 t.g.scalars (wSA t.w)).toNat
      let d := lsRead s t.core t.g.ctx a 32
      a % 32 == 0 && lsRange s t.core t.g.ctx a 32 && d == copyDesc x.1 && (coreSt s t.core).copies.length == x.2 &&
        cdOk s t.core t.g.ctx d && copySide s t.g.ctx false (cdSrcSpace d) (cdSrcHandle d) (cdSrc d) (cdLength d) false == some 0x100 &&
        copySide s t.g.ctx false (cdDstSpace d) (cdDstHandle d) (cdDst d) (cdLength d) true == some 0x80 &&
        !outsideSpace (cdSrcSpace d) 0x100 (cdLength d) && !outsideSpace (cdDstSpace d) 0x80 (cdLength d)) :=
  meets_all (by decide +kernel)

/-- CopiesAndDoorbells: three copies run, and a fourth starts. -/
theorem witness_acopyStart : let front := (List.range 3).map (fun i => copy0 i true)
    let s := about 0 group0 (fun k => { k with copies := front ++ copy0 3 false :: [copy0 4 false] })
    (coreSt s 0).copies = front ++ copy0 3 false :: [copy0 4 false] ∧ (∀ x ∈ front, x.running = true ∧ x.id ≠ 3) ∧ (copy0 4 false).id ≠ 3 ∧
      (coreSt s 0).copies.countP Copy.running < 4 ∧ mayRun s 0 = true ∧ (coreSt s 0).held = false := by
  decide +kernel

/-- CopiesAndDoorbells: copies of the least length, and of one whole piece, complete. -/
theorem witness_acopyComplete : ∀ n ∈ [4, 65536], let c := { copy0 0 true with desc := copyDesc n }
    let s := about 0 group0 (fun k => { k with copies := [c] })
    (coreSt s 0).copies[0]? = some c ∧ c.running = true ∧ c.stall = none ∧ c.done = 0 ∧ missing s (.copy 0 0) = false ∧
      mayRun s 0 = true ∧ (coreSt s 0).held = false ∧ cdSrcSpace c.desc = 0 ∧ cdDstSpace c.desc = 0 ∧ 0 < cdLength c.desc ∧
      cdLength c.desc ≤ 65536 ∧ (lsAlloc s 0 1).isSome = true := by
  decide +kernel

/-- CopiesAndDoorbells: DBELL of queue 8,191, with a store in the buffer. -/
theorem witness_dbell : let w := wordS mISSUE 1 0 1 2 3 0 0
    let s := about w (holding 8191) (fun k => { k with stores := [⟨1, 0, 0x50000, [0], [(0, 1#8)]⟩] })
    Meets s w (holding 8191) mISSUE 1 (fun t => (coreSt s t.core).stores != [] &&
      (coreSt s t.core).stores.all (fun e => (homeSlice s e.pa).isSome)) :=
  meets_of (by decide +kernel)

/-- CopiesAndDoorbells: a bell that waits for a queue with device doorbells, with its last index and one past it, for one without
them and for no queue. -/
theorem witness_dbellPost : ∀ x ∈ ([(0, 8, 1), (0, 9, 1), (0, 8, 0), (7, 1, 1)] : List (Nat × Nat × Nat)),
    let b : Bell := ⟨4, 0, 0, x.1, BitVec.ofNat 32 x.2.1, 3, 0⟩
    let p := { path0 with blocked := some (.bell 4) }
    let g := { group0 with active := false, cond := .counters, run := some p }
    let s := about 0 g (fun k => { k with dbells := [b] }) { base with queues := [(0, { queue0 with flags := x.2.2 })] }
    (coreSt s 0).dbells.find? (fun x => x.slot == 0) = some b ∧ groupAt s 0 0 = some g ∧ s.mem.due = [] ∧ g.run = some p ∧
      p.blocked = some (.bell b.id) ∧ p.waiting = false ∧ p.atRpc = false ∧ mayRun s g.queue = true ∧ storesAwaited s 0 b.upto = false ∧
      (coreSt s 0).copies.any (fun c => c.slot == 0 && c.queue == g.queue) = false ∧
      (coreSt s 0).draughts.any (fun d => d.slot == some 0 && d.queue == g.queue && writesBulk d) = false ∧
      partlyPoisoned s (regPair s offQueueTable + 64 * b.rings + 0x18) 8 = [] := by
  decide +kernel

/-- A group of 32 threads and one of a single thread that wait for a slot. -/
def launch0 (threads : Nat) : LaunchReq := ⟨1, 0, 0x1000, 32, threads, 8, 0, (List.range 16).map (BitVec.ofNat 64), 5⟩

/-- GroupsAndClocks, LaunchState: a launch takes the lowest free slot. -/
theorem witness_resident : ∀ n ∈ [1, 32], let s := about 0 group0 (fun k => { k with launchQ := [launch0 n] })
    (nextResident s (coreSt s 0)).map (fun r => (r.1, r.2.1, r.2.2.1)) = some (0, launch0 n, 1) ∧
      (launch0 n).args.length = 16 := by
  decide +kernel

/-- GroupsAndClocks: a pending group, with seven active ones. -/
theorem witness_promote : let g := { group0 with active := false }
    let s := about 0 group0 (fun k => { k with groups := ((List.range 7).map (fun i => (i, group0))) ++ [(7, g)] })
    promotable (coreSt s 0) = some (7, g) ∧ (coreSt s 0).groups.countP (fun x => x.2.active) < 8 ∧ (coreSt s 0).gated = false ∧
      keysRise (coreSt s 0).groups = true := by
  decide +kernel

/-- GroupsAndClocks: a core whose only group waits on a counter, or on a barrier. -/
theorem witness_gate : ∀ c ∈ [Cond.counters, Cond.barrier 15],
    let g := { group0 with active := false, cond := c, run := some { path0 with blocked := if c = .counters then some (.counter false 3 5) else none } }
    let s := about 0 g
    (coreSt s 0).gated = false ∧ (coreSt s 0).groups = [(0, g)] ∧ g.active = false ∧ (c = .counters → waitsCounter g = true) ∧ coreQuiet s 0 = true := by
  decide +kernel

/-- GroupsAndClocks: seventeen requests of each kind wait in one window. -/
theorem witness_wakes : ∀ k ∈ [GrantKind.wake, .enter, .leave], let ws : List WakeReq := (List.range 17).map (fun c => ⟨c, 0, k⟩)
    let s := { base with govs := [(0, { Governor.reset with waiting := ws })] }
    (governor s 0).waiting = ws ∧ (ws.take 16).countP (fun x => x.core == 15) = 1 := by
  decide +kernel

/-! The matrix array. -/

/-- LCFG, RCFG, DCFG, QCFG (R108): one column of one INT8 block at 8 planes, one row of one slice, FP32 out. -/
def lcfg : Nat := 0x0B + 2 ^ 8 * 8 + 2 ^ 16 + 2 ^ 24
def rcfg : Nat := 0x0B + 2 ^ 8 + 2 ^ 20 + 2 ^ 34 + 2 ^ 48
def dcfg : Nat := 0x01 + 2 ^ 14 + 2 ^ 24 + 2 ^ 48
def qcfg : Nat := 0x0B + 2 ^ 8 + 2 ^ 16 * 0x01

/-- A bank that holds one column of one block at 8 planes, in one group, under tag 7. -/
def bank0 (s : BankState) : Bank :=
  { Bank.none with state := s, tag := 7, fmt := 0x0B, planes := 8, cols := 1, kblocks := 1, held := 1, groups := 1, twosC := true, cells := [[⟨0, List.replicate 32 1, List.replicate 32 0⟩]] }

/-- A queued matrix operation of slot 0. -/
def matOp (seq : Nat) (w : BitVec 64) (a b : Nat) : MatOp := ⟨seq, w, BitVec.ofNat 64 a, BitVec.ofNat 64 b, 0, 0, 1, 8, 1⟩

/-- The array of context 1 with a RESIDENT bank 0 and n clears queued. -/
def array0 (n : Nat) : ArraySt :=
  { ArraySt.fresh (some 1) with bank0 := bank0 .resident, seq := n, queue := (List.range n).map (fun i => matOp i (wordS mMATRIX 3 0 0 0 0 0 128) 0 0) }

/-- A core with the array a. -/
def withArray (a : ArraySt) (k : Core) : Core := { k with array := a }

/-- Group 0 with b in s2. -/
def configured (b : Nat) : Group := { group0 with scalars := [(2, BitVec.ofNat 64 b)] }

/-- The array of core 0 as an instruction of context 1 finds it. -/
def ownedBy1 (s : State) (a : ArraySt) : Bool := (coreSt s 0).array == a && a.owner == some 1

/-- MatrixRequests: MLOAD, MRUN, MDRAIN, MCLR and MTF, with fifteen entries in use and with sixteen. -/
theorem witness_matrixQueue : ∀ x ∈ ([15, 16].flatMap (fun n => [(0, lcfg, n), (1, rcfg, n), (2, dcfg, n), (3, 0, n), (4, 0, n)]) : List (Nat × Nat × Nat)),
    let w := wordS mMATRIX x.1 (if x.1 = 2 then 2 else 0) 1 2 0 0 (if x.1 = 3 then 63 + 128 else if x.1 = 2 then 3 else 0)
    let g := configured x.2.1
    let s := about w g (withArray (array0 x.2.2))
    Meets s w g mMATRIX x.1 (fun t =>
      let a := array0 x.2.2
      let y := scalar t.g (wSB t.w)
      ownedBy1 s a && a.inUse == x.2.2 && scalar t.g (wSA t.w) == 0 && y == x.2.1 && match x.1 with
        | 0 => lcfgOk y && lsRange s 0 1 0 (planeTileBytes (lcFormat y) (32 * lcKb y))
        | 1 => (match tileOfBank a (bnat (bit (wFlags t.w) 1)) with
          | some tile => rcfgOk a y tile.2.1 (needsWide tile.1 (rcSlices y)) &&
              lsRange s 0 1 0 ((rcRows y - 1) * (32 * rcStride y) + actRowBytes (rcFormat y) (32 * rcKlen y))
          | none => false)
        | 2 => dcfgOk a y (modeAhead a) && decide (bits (wImm t.w) 5 0 < localCtrs s 0 1) &&
            lsRange s 0 1 (drainHead (dcFormat y)) ((dcRows y - 1) * (32 * dcStride y) + drainRowBytes (dcFormat y) (dcCols y))
        | 3 => decide (1 ≤ bits (wImm t.w) 13 7) && decide (bits (wImm t.w) 6 0 + bits (wImm t.w) 13 7 ≤ 64)
        | _ => true) :=
  meets_all (by decide +kernel)

/-- An array with r rows reserved and n batches open. -/
def batching (owner r n tag : Nat) : ArraySt :=
  { array0 0 with owner := some owner, batchRows := r, opened := (List.range n).map (fun i => ⟨i, false, tag, 0, 0x0B, 1, 1, 1, [⟨0, 0, 0, 0⟩]⟩), seq := n }

/-- MatrixRequests: MREQ of a context that does not own the array, with no rows reserved, with a tag of no bank, with two batches open
on other tags, with one of its own open, with none open, and with no window. -/
theorem witness_mreq : ∀ x ∈ ([(2, 64, 0, 7, 2000), (1, 0, 0, 7, 2000), (1, 64, 0, 8, 2000), (1, 64, 2, 7, 2000), (1, 64, 1, 7, 2000), (1, 64, 0, 7, 2000),
      (1, 64, 0, 7, 0)] : List (Nat × Nat × Nat × Nat × Nat)),
    let w := wordS mMATRIX 5 0 1 2 3 0 x.2.2.2.1
    let g := configured qcfg
    let a := batching x.1 x.2.1 x.2.2.1 (if x.2.2.1 = 2 then 9 else 7)
    let s := setObj (about w g (withArray a)) 0x7020 1 x.2.2.2.2
    Meets s w g mMATRIX 5 (fun t =>
      let y := scalar t.g (wSB t.w)
      qcfgOk s t y && (coreSt s 0).array == a && (a.owner == some 1) == (x.1 == 1) && a.batchRows == x.2.1 &&
        (taggedBank a (wImm t.w) == if x.2.2.2.1 = 7 then some 0 else none) && a.opened.length == x.2.2.1 && batchWindow s 0 == x.2.2.2.2 &&
        lsRange s 0 1 0 (actRowBytes (qcFormat y) (32 * (a.bank 0).kblocks)) &&
        lsRange s 0 1 (qcDest y) (drainRowBytes (qcOut y) (a.bank 0).cols) &&
        (x.2.1 != 64 || decide (2 < batchFull a ⟨0, false, 7, 0, 0x0B, 1, 1, 1, []⟩))) :=
  meets_all (by decide +kernel)

/-- MatrixServices: MFLUSH, MBCFG of 64 rows with an empty queue and with one entry, MFENCE with earlier work and without, MSTAT. -/
theorem witness_matrixServices : ∀ x ∈ ([(6, 0), (7, 0), (7, 1), (8, 0), (8, 1), (9, 0)] : List (Nat × Nat)),
    let w := wordS mMATRIX x.1 0 0 0 (if x.1 = 9 then 3 else 0) 0 (if x.1 = 7 then 64 else 7)
    let s := about w group0 (withArray (array0 x.2))
    Meets s w group0 mMATRIX x.1 (fun t =>
      let a := array0 x.2
      ownedBy1 s a && a.inUse == x.2 && a.dirty == 0 && matrixBusy a t.slot t.g.queue == (x.2 == 1) &&
        (x.1 != 7 || bits (wImm t.w) 6 0 == 64)) :=
  meets_all (by decide +kernel)

/-- MatrixServices: the window of an open batch expires, with no batch closed, and with two. -/
theorem witness_window : ∀ n ∈ [0, 2], let a := { batching 1 64 1 7 with closed := List.replicate n ⟨0, false, 7, 0, 0x0B, 1, 1, 1, []⟩ }
    let s := about 0 group0 (withArray a)
    ((coreSt s 0).array.opened[0]?).map Batch.due = some false ∧ arrayFrozen s 0 = false ∧ (coreSt s 0).array.closed.length = n := by
  decide +kernel

/-- MatrixServices: a matrix instruction and one of the element engine while context 2 owns the array. -/
theorem witness_foreign : ∀ x ∈ ((([0, 1, 2, 3, 4, 6, 7, 8, 9]).map (fun op => (mMATRIX, op))) ++ ((List.range 23).map (fun op => (mELEM, op))) : List (Nat × Nat)),
    let w := wordS x.1 x.2 0 0 0 0 0 0
    let s := about w group0 (withArray { array0 0 with owner := some 2 })
    Meets s w group0 x.1 x.2 (fun t => (coreSt s t.core).array.owner == some 2 && t.g.ctx != 2) :=
  meets_all (by decide +kernel)

/-- A load of bank b, started or not. -/
def load0 (b : Nat) (started : Bool) : LoadJob := ⟨matOp 0 (wordS mMATRIX 0 b 1 2 0 0 7) 0 lcfg, 0, started⟩

/-- ArrayWork: a load starts on bank 1; one finds a batch gathering on its bank; a load of one group completes. -/
theorem witness_load : ∀ x ∈ ([(1, false), (0, false), (1, true)] : List (Nat × Bool)),
    let a := { (if x.1 = 0 then batching 1 64 1 7 else array0 0) with loads := [load0 x.1 x.2] }
    let s := about 0 group0 (withArray a)
    let j := load0 x.1 x.2
    (coreSt s 0).array.loads = [j] ∧ j.started = x.2 ∧ arrayFrozen s 0 = false ∧ loadGoesOn s 0 j = true ∧ loadBank j = x.1 ∧
      (a.opened.any (fun y => y.bank == loadBank j && !y.due) = (x.1 == 0)) ∧ (a.bank 1).state = .empty ∧
      (x.1 = 1 → readsBefore a 1 0 = false ∧ residentInUse (coreSt s 0) 1 = false) ∧ opLives s j.op.queue = true := by
  decide +kernel

/-- ArrayWork: each operation of the run path at its head. -/
theorem witness_runPath : ∀ op ∈ [1, 2, 3, 4], let o := matOp 5 (wordS mMATRIX op 1 1 2 0 0 (if op = 3 then 128 else 0)) 0 (if op = 1 then rcfg else dcfg)
    let a := { array0 0 with queue := [o] }
    let s := about 0 group0 (withArray a)
    (coreSt s 0).array.queue = [o] ∧ a.closed = [] ∧ a.run = none ∧ mayStart s 0 o.queue = true ∧ a.holder = none ∧ wOp o.w.toNat = op ∧
      loadAhead a (opBank o) o.seq = false ∧ (op = 1 → (a.bank (opBank o)).state = .resident) ∧ (a.bank (opBank o)).group = 0 ∧
      a.wide = needsWide o.planes (rcSlices o.b.toNat) ∧ opRows o < 2 ^ 64 := by
  decide +kernel

/-- ArrayWork: a closed batch starts. -/
theorem witness_batchRun : let b : Batch := ⟨0, false, 7, 0, 0x0B, 1, 1, 1, [⟨0, 0, 0, 0⟩]⟩
    let a := { batching 1 64 1 7 with closed := [b] }
    let s := about 0 group0 (withArray a)
    a.queue = [] ∧ (coreSt s 0).array.closed = [b] ∧ a.run = none ∧ (coreSt s 0).held = false ∧ arrayFrozen s 0 = false ∧
      (∀ x ∈ a.opened, x.due = false) ∧ (a.bank b.bank).state = .resident ∧ a.wide = batchWide a b := by
  decide +kernel

/-- ArrayWork: a run whose only group streams, one that is over, and a drain. -/
theorem witness_runs : let o := matOp 5 (wordS mMATRIX 1 0 1 2 0 0 0) 0 rcfg
    let s := about 0 group0 (withArray { array0 0 with run := some (.run o 0), bank0 := bank0 .stream })
    let u := about 0 group0 (withArray { array0 0 with run := some (.run o 1), bank0 := bank0 .stream })
    let d := matOp 5 (wordS mMATRIX 2 2 1 2 0 0 3) 0 dcfg
    let v := about 0 group0 (withArray { array0 0 with run := some (.drain d) })
    let row (r : Nat) : List Byte := drainRow (coreSt v 0).array (dcBase dcfg + r) (dcCols dcfg) (dcFormat dcfg) (coreSt v 0).array.factor (coreSt v 0).array.tOut
    ((coreSt s 0).array.run = some (.run o 0) ∧ arrayFrozen s 0 = false ∧ (bank0 .stream).group = 0 ∧ (bank0 .stream).held = 1 ∧ (bank0 .stream).cols ≤ 256) ∧
    ((coreSt u 0).array.run = some (.run o 1) ∧ runOver (coreSt u 0).array o 1 = true ∧ ((coreSt u 0).array.bank (opBank o)).state ≠ .resident) ∧
    ((coreSt v 0).array.run = some (.drain d) ∧ (lsAlloc v 0 d.ctx).isSome = true ∧ drainFormatOk (dcFormat dcfg) false = true ∧
      (∀ r ∈ List.range (dcRows dcfg), (row r).length ≤ 32 * dcStride dcfg) ∧ dcRows dcfg = 1 ∧ wOp d.w.toNat = 2 ∧
      isRaw (elemOf (dcFormat dcfg)) = false) := by
  decide +kernel

/-- ArrayWork: a run of a RESIDENT tile of one group; a run that begins in the other mode, with no row dirty. -/
theorem witness_residentRun : let o := matOp 5 (wordS mMATRIX 1 0 1 2 0 0 0) 0 rcfg
    let s := about 0 group0 (withArray { array0 0 with run := some (.run o 0) })
    let a := { array0 0 with queue := [o], wide := true }
    ((coreSt s 0).array.run = some (.run o 0) ∧ arrayFrozen s 0 = false ∧ runOver (coreSt s 0).array o 0 = true ∧
      (bank0 .resident).groups = 1 ∧ (bank0 .resident).held = 1 ∧ (bank0 .resident).cols ≤ 256) ∧
    (a.wide ≠ needsWide o.planes (rcSlices o.b.toNat) ∧ a.dirty = 0 ∧ a.run = none ∧ mayStart (about 0 group0 (withArray a)) 0 o.queue = true) := by
  decide +kernel

/-- PassesAreExact: the least and the greatest weights at 16 planes against activations of 8 slices. -/
theorem witness_passes : let ws : Block := ⟨0, [-32768, 32767], [5, 0]⟩
    let xs : Block := ⟨0, [-9223372036854775808, 9223372036854775807], [5, 0]⟩
    ws.step + xs.step = 0 ∧ xs.ints.length = ws.ints.length ∧ (∀ w ∈ ws.ints, -(2 ^ (16 - 1) : Int) ≤ w ∧ w < 2 ^ (16 - 1)) ∧
      (∀ x ∈ xs.ints, -(2 ^ (8 * 8 - 1) : Int) ≤ x ∧ x < 2 ^ (8 * 8 - 1)) ∧ (∀ k ∈ ws.kind ++ xs.kind, k = 0 ∨ k = 1 ∨ k = 5) ∧
      16 + 8 * 8 + 5 < 96 := by
  decide

/-! The element engine. -/

/-- An instruction word of format V (R162). -/
def wordV (op sub fmt vd va vb vc men msk imm : Nat) : BitVec 64 :=
  BitVec.ofNat 64 (mELEM + 2 ^ 7 * op + 2 ^ 12 * sub + 2 ^ 16 * fmt + 2 ^ 24 * vd + 2 ^ 29 * va + 2 ^ 34 * vb + 2 ^ 39 * vc + 2 ^ 44 * men +
    2 ^ 45 * msk + 2 ^ 48 * imm)

/-- A queued vector instruction of slot 0. -/
def vecOp (w : BitVec 64) (a : Nat) : VecOp := ⟨w, BitVec.ofNat 64 a, 0, 0, 0, 1⟩

/-- The vector file and the array of context 1, n instructions queued. -/
def withVector (n : Nat) (k : Core) : Core :=
  { k with array := array0 0, vec := { VecSt.fresh with queue := List.replicate n (vecOp (wordV 2 0 0 0 0 0 0 0 0 0) 0) } }

/-- VectorQueueing: every ELEM instruction, with fifteen queued and with sixteen; VLD and VST at the last aligned place of local store. -/
theorem witness_vector : ∀ x ∈ ((List.range 22).flatMap (fun op => [(op, 15), (op, 16)]) : List (Nat × Nat)),
    let w := wordV x.1 0 (if x.1 = 0x0E ∨ x.1 = 0x0F then 9 else 0) 31 31 31 31 1 7 1
    let g := holding (2 * 65536 - 2048)
    let s := about w g (withVector x.2)
    Meets s w g mELEM x.1 (fun t => ownedBy1 s (array0 0) && vecOk t.w && (coreSt s 0).vec.queue.length == x.2 &&
      (scalar t.g (vSa t.w) % 64 == 0) && lsRange s 0 1 (scalar t.g (vSa t.w) % 2 ^ 21) 2048) :=
  meets_all (by decide +kernel)

/-- VectorQueueing: VFENCE with nothing before it and with an instruction queued. -/
theorem witness_vfence : ∀ n ∈ [0, 1], let w := wordV 0x16 0 0 0 0 0 0 0 0 0
    let s := about w group0 (withVector n)
    Meets s w group0 mELEM 0x16 (fun t => ownedBy1 s (array0 0) && vecOk t.w && vectorBusy (coreSt s 0).vec t.slot t.g.queue == (n == 1)) :=
  meets_all (by decide +kernel)

/-- An element program that adds its input to itself: one instruction, INT8 throughout (R166, R167). -/
def program0 : List Byte :=
  [1#8, 1#8, 0x0B#8, 0x0B#8, 0x0B#8, 0#8] ++ zeroBytes 250 ++ toLE 8 (2 ^ 18 * 0x20 + 2 ^ 24 * 0x20 + 2 ^ 30 * 0x28) ++ zeroBytes 248

/-- VectorQueueing: a VADD and a VPROG with its program begin to execute. -/
theorem witness_vectorStart : ∀ op ∈ [0x02, 0x15], let o := vecOp (wordV op 0 0x0B 1 2 3 0 0 0 0) 1
    let s := about 0 group0 (fun k => { k with array := array0 0, vec := { VecSt.fresh with queue := [o] }, progs := [⟨1, 1, 0, program0⟩] })
    (coreSt s 0).vec.exec = none ∧ (coreSt s 0).vec.queue = [o] ∧ mayStart s 0 o.queue = true ∧ wOp o.w.toNat = op ∧
      heldProg (coreSt s 0) o.ctx (o.a.toNat % 2 ^ 32) o.queue = some program0 ∧ programOk (lsSize s 0 o.ctx) program0 = true ∧
      computeFmt (pgIn program0) = true ∧ vecReads o.w.toNat ≠ [] := by
  decide +kernel

/-- VectorElements: each operation, in each format it takes and each SUB, executes. -/
theorem witness_vectorElements : ∀ x ∈ (([0x02, 0x03, 0x04, 0x05, 0x06, 0x07, 0x08].flatMap (fun op => [0, 1, 2, 3, 9, 10, 11].map (fun f => (op, 0, f)))) ++
      ([9, 10, 11].map (fun f => (0x08, 1, f))) ++ ([0, 1, 2, 3].map (fun f => (0x09, 0, f))) ++ ([0, 1, 2, 3].map (fun f => (0x0A, 12, f))) ++
      ([0, 3].flatMap (fun sub => [9, 10, 11].map (fun f => (0x0E, sub, f)))) ++ ([0, 2].flatMap (fun sub => [9, 10, 11].map (fun f => (0x0F, sub, f)))) :
      List (Nat × Nat × Nat)),
    let o := vecOp (wordV x.1 x.2.1 x.2.2 31 30 29 28 1 7 0) 0
    let s := about 0 group0 (fun k => { k with vec := { VecSt.fresh with exec := some o } })
    (coreSt s 0).vec.exec = some o ∧ arrayFrozen s 0 = false ∧ wOp o.w.toNat = x.1 ∧ vSub o.w.toNat = x.2.1 ∧ vFmt o.w.toNat = x.2.2 ∧
      computeFmt (vFmt o.w.toNat) = true := by
  decide +kernel

/-- VectorMemoryAndMasks: VLD, VST, VCMP, VMASK and VSEL execute, unmasked and masked. -/
theorem witness_vectorMoves : ∀ x ∈ ([0x00, 0x01, 0x0B, 0x13, 0x0C].flatMap (fun op => [(op, 0), (op, 1)]) : List (Nat × Nat)),
    let o := vecOp (wordV x.1 0 0x0B 31 30 29 28 x.2 7 7) 0x1F800
    let s := about 0 group0 (fun k => { k with vec := { VecSt.fresh with exec := some o } })
    (coreSt s 0).vec.exec = some o ∧ arrayFrozen s 0 = false ∧ wOp o.w.toNat = x.1 ∧ vMen o.w.toNat = (x.2 == 1) ∧
      computeFmt (vFmt o.w.toNat) = true ∧ (lsAlloc s 0 o.ctx).isSome = true := by
  decide +kernel

/-- An entry of a handle table: kind, R and W, size and base (R313). -/
def handle (kind size base : Nat) : List Byte := toLE 16 (base + 2 ^ 64 * size + 2 ^ 104 * kind + 2 ^ 110 * 3)

/-- Context 1 with a handle table of eight entries at 0x1000, entry 1 being e, and page 0 in the TLB of core 0. -/
def handled (e : List Byte) : State := { poke (mapped 0) 0x1010 e with ctxs := [(1, { ctx1 with htable0 := 0x1000, handles := 8 })] }

/-- VectorMemoryAndMasks: a program object of 512 bytes is read for the VPROG at the head of the queue. -/
theorem witness_programRead : let o := vecOp (wordV 0x15 0 0x0B 1 2 3 0 0 0 0) 1
    let s := about 0 group0 (fun k => { k with vec := { VecSt.fresh with queue := [o] } }) (handled (handle 1 512 0x200))
    progWaits (coreSt s 0) 1 1 = some (.lane 0 0, 0, none) ∧ heldProg (coreSt s 0) 1 1 0 = none ∧ mayRun s 0 = true ∧
      attached s (onCore 0 (.lane 0 0)) = false ∧
      ((goodUse s 1 (genOf s 0 1) 1 [1] 0 512 true false).map heBase) = some 0x200 ∧
      (virtRead s (onCore 0 (.lane 0 0)) 1 0 0x200 512).ok = true := by
  decide +kernel

/-! Draughts. -/

/-- A descriptor (R45): chain, FLAGS, MODE, programs at handle 1; 32 × 32 tiles of INT8, `count` of them, from handle 2 to handle 3;
counters 2 and 3; the plane layout where the source is loaded into a bank. -/
def desc0 (flags : Nat) (chain : List Nat) (count mode lay : Nat) : List Byte :=
  toLE 1 1 ++ toLE 1 flags ++ toLE 1 chain.length ++ [0#8] ++ toLE 4 (chain.foldr (fun c n => c + 16 * n) 0) ++ toLE 2 32 ++ toLE 2 32 ++ zeroBytes 4 ++
    toLE 4 count ++ toLE 1 0x0B ++ toLE 1 0x0B ++ toLE 1 0x0B ++ toLE 1 lay ++ toLE 4 2 ++ toLE 4 3 ++ zeroBytes 16 ++ zeroBytes 8 ++
    toLE 1 0x82 ++ toLE 1 3 ++ toLE 2 0 ++ zeroBytes 4 ++ toLE 4 1 ++ toLE 4 0 ++ toLE 1 0 ++ toLE 1 mode ++ toLE 1 8 ++ toLE 1 1 ++ zeroBytes 52

/-- The draught of a descriptor as it is issued on core 0. -/
def queued0 (d : List Byte) (n : Nat) : Draught :=
  { newDraught (about 0 group0 (fun k => { k with progs := [⟨1, 1, 0, program0⟩] })) 0 1 0 (some 0) false d with order := n }

/-- DraughtIssue: DISSUE with fifteen draughts queued and with sixteen, at the last place of local store. -/
theorem witness_dissue : ∀ n ∈ [15, 16], let w := wordS mISSUE 0 0 1 0 0 0 0
    let g := holding (2 * 65536 - 128)
    let s := about w g (fun k => { k with draughts := (List.range n).map (queued0 (desc0 0 [1, 6] 1 0 0)) })
    Meets s w g mISSUE 0 (fun t => let a := scalar t.g (wSA t.w)
      a % 128 == 0 && lsRange s t.core t.g.ctx a 128 && (coreSt s t.core).draughts.length == n) :=
  meets_all (by decide +kernel)

/-- DraughtIssue: a draught of LOAD, ELEMENT and STORE becomes active, alone and beside another. -/
theorem witness_draughtActivate : ∀ n ∈ [0, 3], let x := queued0 (desc0 4 [1, 4, 6] 2 0 0) 7
    let s := about 0 group0 (fun k => { k with
      draughts := (List.range n).map (fun i => { queued0 (desc0 0 [1, 6] 1 0 0) i with active := true, need := 0 }) ++ [x], progs := [⟨1, 1, 0, program0⟩] })
    (coreSt s 0).draughts.find? (fun x => !x.active) = some x ∧ (∀ y ∈ (coreSt s 0).draughts, y.order = x.order → y = x) ∧
      (coreSt s 0).draughts.countP Draught.active < 4 ∧ mayRun s x.queue = true ∧ (coreSt s 0).held = false ∧
      attached s (.station 0 x.order (8 + stCELLAR)) = false ∧
      poolUsed (coreSt s 0) x.ctx + x.need + poolPrefetch (coreSt s 0) x.ctx ≤ poolBytes s 0 x.ctx ∧ heldProgs s 0 x = some [program0] ∧
      splitDraught s 0 x ([program0].map pgOut) = x ∧ x.need ≠ 0 ∧ draughtLegal s 0 x.ctx x.gen x.desc x.rows [program0] = true ∧ elemOf (dsSrcFmt x.desc) ≠ fmtCB2 ∧
      descHas x.desc stCELLAR = false := by
  decide +kernel

/-- A tile of 32 × 32 INT8 elements. -/
def tile0 (j : Nat) : Tile := ⟨j, 0x0B, 0, 32, 32, one32, List.replicate 1024 1#8⟩

/-- Context 1 with a bulk object of 4 KiB as handles 2 and 3. -/
def bulk2 : State := { poke base 0x1020 (handle 1 4096 (2 ^ 47) ++ handle 1 4096 (2 ^ 47)) with ctxs := [(1, { ctx1 with htable0 := 0x1000, handles := 8 })] }

/-- StationTiles: LOAD, RECEIVE, ELEMENT and REDUCE at its root begin a tile, where another draught was served last. -/
theorem witness_stationStart : ∀ x ∈ ([(0, [1, 6]), (0, [8, 6]), (1, [1, 4, 6]), (1, [1, 5, 6])] : List (Nat × List Nat)),
    let d := desc0 0 x.2 2 0 0
    let y0 := (queued0 d 5)
    let y := { y0 with active := true, progs := [program0], stations := y0.stations.modify 0 (fun z => if x.1 = 1 then { z with next := 1, outs := [tile0 0] } else z) }
    let seq := sequencerOf y.desc (descStation y.desc x.1)
    let s := about 0 group0 (fun k => { k with draughts := [y], turns := [(seq, 4)] }) { bulk2 with ctxs := [(1, { ctx1 with htable0 := 0x1000, handles := 8, heldCtrs := [0], rctrs := [(0, 0x400)] })] }
    draughtAt s 0 5 = some y ∧ x.1 < descLen y.desc ∧ startable s 0 y x.1 = some 0 ∧ (y.stations[x.1]?).isSome = true ∧
      nextServed s 0 seq = some 5 ∧ ((handleEntry s y.ctx y.gen (dsSrcHandle y.desc)).map heKind) = some 1 ∧ s.mem.due = [] ∧
      bits (dsRemote y.desc) 9 0 = 0 := by
  decide +kernel

/-- StationTiles: ELEMENT and SEND finish a tile, with one more to come and as the last. -/
theorem witness_stationDone : ∀ x ∈ ([(4, 1), (4, 2), (7, 1), (7, 2)] : List (Nat × Nat)),
    let d := desc0 4 (if x.1 = 4 then [1, 4, 6] else [1, 7]) x.2 0 0
    let y0 := queued0 d 0
    let y := { y0 with active := true, progs := [program0], stations := (y0.stations.modify 0 (fun z => { z with next := 1, outs := [tile0 0] })).modify 1 (fun z => { z with busy := true }) }
    let s := about 0 group0 (fun k => { k with draughts := [y] })
    draughtAt s 0 0 = some y ∧ (y.stations[1]?).map (fun z => (z.busy, z.waits, z.stall)) = some (true, false, none) ∧ modeOf (dsDstFmt y.desc) ≠ 2 ∧
      (stationOf y 0).outs.head? = some (tile0 0) ∧ missing s (.station 0 0 1) = false ∧ mayFinish s y.queue = true ∧
      (lsAlloc s 0 y.ctx).isSome = true ∧ descStation y.desc 1 = x.1 := by
  decide +kernel

/-! Cellar engines. -/

/-- A cellar command (R185) that takes A from scratch at 0, B from scratch at 0x4000 and gives D to scratch at 0x8000, or, by handle 2,
from or to an object at offset 64. -/
def cellWords (op count af bf df n k stride : Nat) (objA objD : Bool) : List Byte :=
  toLE 1 op ++ toLE 1 ((if objA || !usesA op then 0 else 8) + (if usesB op then 0x10 else 0) + (if objD || !usesD op then 0 else 0x20)) ++ toLE 1 count ++ zeroBytes 2 ++
    toLE 1 af ++ toLE 1 bf ++ toLE 1 df ++ toLE 4 (if objA then 2 else 0) ++ toLE 4 0 ++ toLE 8 (if objA then 64 else 0) ++
    toLE 8 (if op = 6 then 0x0102030405060708 else 0x4000) ++ toLE 4 (if objD then 2 else 0) ++ toLE 4 n ++ toLE 8 (if objD then 64 else 0x8000) ++
    toLE 4 k ++ toLE 4 stride ++ zeroBytes 8

/-- A front-end command of queue 0, its object of 1 MiB at the start of bulk space on page 5 of stack 0. -/
def cell0 (c : List Byte) : CellCmd :=
  { cmd := c, ctx := 1, queue := 0, core := none, draught := 9, tileIdx := 0, tile := none, aBase := 2 ^ 47, bBase := 0, dBase := 2 ^ 47, aSize := 2 ^ 20, bSize := 0, dSize := 2 ^ 20,
    cbA := 0xFF, slotA := none, gen := 0, maps := ⟨(List.range 16).map (fun i => (2 ^ 31 + i, 5 + i)), 16⟩ }

/-- The cellar engine of stack 0 as given. -/
def withCellar (e : CellarSt) : State := { base with cellars := [(0, e)] }

/-- CellarOperations: a command that may enter does. -/
theorem witness_cellarEnqueue : let c := cell0 (cellWords 7 0 0 0 0 64 0 0 true false)
    let s := withCellar { CellarSt.reset with waiting := [c], queue := List.replicate 15 c }
    (cellar s 0).waiting.find? (canEnter s 0) = some c ∧ 1 ≤ ccOp c.cmd ∧ ccOp c.cmd ≤ 10 ∧ (∀ r ∈ objRanges c, rangeInside r = true) ∧ c.core = none := by
  decide +kernel

/-- A command that starts, as a check. -/
def starts (s : State) (op : Nat) (mv : Bool) (c : CellCmd) : Bool :=
  (cellar s 0).queue == [c] && ccOp c.cmd == op && !cmdHeld s c && !ccFence c.cmd && (if mv then (cellar s 0).mv else (cellar s 0).move) == none &&
    cmdFault s 0 c == none && (readSpans s 0 c).all (fun r => operandPoison s c r.1 r.2.1 r.2.2 == []) &&
    (tableScratch s 0 c).all (fun r => scratchOk s 0 r.1 r.2)

theorem starts_of {s : State} {op : Nat} {mv : Bool} {c : CellCmd} (h : starts s op mv c = true) : Starts s 0 op mv c [] := by
  simp only [starts, Bool.and_eq_true, beq_iff_eq, Bool.not_eq_true', List.all_eq_true] at h
  obtain ⟨⟨⟨⟨⟨⟨⟨a, b⟩, d⟩, e⟩, f⟩, g⟩, i⟩, j⟩ := h
  exact ⟨a, b, d, e, f, g, i, List.all_eq_true.mpr j⟩

/-- CellarOperations: each operation starts, from an object or to one, and from scratch to scratch. -/
theorem witness_cellarStarts : ∀ x ∈ ([(6, false, cellWords 6 0 0 0 0 8 0 0 false false), (6, false, cellWords 6 0 0 0 0 64 0 0 false true),
      (7, false, cellWords 7 0 0 0 0 64 0 0 true false), (4, false, cellWords 4 0 0 0 0 2 4 4 true false), (2, false, cellWords 2 0 0x0B 0 fmtFP32 1 32 0 false false),
      (3, false, cellWords 3 0 fmtBF16 0 0x6C 2 32 64 true false), (1, true, cellWords 1 1 0x0B 0x0B fmtFP32 2 32 32 true false),
      (8, false, cellWords 8 2 fmtFP32 0 fmtFP32 0 1 64 false true), (5, false, cellWords 5 0 0 0 0 2 4 4 false true)] : List (Nat × Bool × List Byte)),
    let c := cell0 x.2.2
    Starts (withCellar { CellarSt.reset with queue := [c] }) 0 x.1 x.2.1 c [] ∧ placeD c ≠ .tile :=
  fun x hx => ⟨starts_of (List.all_eq_true.mp (by decide +kernel : List.all _ (fun x : Nat × Bool × List Byte =>
    starts (withCellar { CellarSt.reset with queue := [cell0 x.2.2] }) x.1 x.2.1 (cell0 x.2.2)) = true) x hx), by revert x; decide +kernel⟩

/-- CellarCompletion: results for scratch and for memory, on either unit. -/
theorem witness_cellarComplete : ∀ x ∈ ([(true, 2 ^ 48 + 0x8000), (false, 2 ^ 48 + 0x3FFFFC), (true, 0x50000), (false, 0x50000)] : List (Bool × Nat)),
    let e : CellExec := ⟨cell0 (cellWords 6 0 0 0 0 8 0 0 false false), [], [(x.2, [1#8, 2#8, 3#8, 4#8])], one32, 0, []⟩
    let s := withCellar (if x.1 then { CellarSt.reset with mv := some e } else { CellarSt.reset with move := some e })
    (if x.1 then (cellar s 0).mv else (cellar s 0).move) = some e ∧ (cellar s 0).fillWaits = [] ∧ e.cmd.core = none ∧
      s.mem.due = [] ∧ (x.2 < 2 ^ 48 → rangeUp s x.2 4 = true ∧ poisonedIn s x.2 4 = []) := by
  decide +kernel

/-- CellarCompletion: a result for a station. -/
theorem witness_cellarTile : let d := desc0 0 [2, 6] 2 0 0
    let e : CellExec := ⟨{ cell0 (toLE 1 6 ++ zeroBytes 35 ++ toLE 4 1024 ++ zeroBytes 24) with core := some 0, draught := 0 }, List.replicate 1024 1#8, [], one32, 0, []⟩
    let y0 := queued0 d 0
    let y := { y0 with active := true, stations := y0.stations.modify 0 (fun z => { z with busy := true, waits := true }) }
    let s := { about 0 group0 (fun k => { k with draughts := [y] }) with cellars := [(0, { CellarSt.reset with move := some e })] }
    (cellar s 0).move = some e ∧ (cellar s 0).fillWaits = [] ∧ e.writes = [] ∧ draughtAt s 0 0 = some y ∧ dTile e.cmd.cmd = true ∧
      (y.stations[descPos y.desc stCELLAR]?).map (fun z => (z.waits, z.next)) = some (true, e.cmd.tileIdx) := by
  decide +kernel

/-- CellarCompletion: CBARM and CBLOAD of identifier 7 at the head of the queue, and a fill of it that is done. -/
theorem witness_codebook : let arm := cell0 (toLE 1 10 ++ toLE 1 4 ++ toLE 1 7 ++ zeroBytes 61)
    let load := { cell0 (toLE 1 9 ++ toLE 1 0 ++ toLE 1 7 ++ zeroBytes 5 ++ toLE 4 2 ++ zeroBytes 52) with slotA := none }
    let s := withCellar { CellarSt.reset with queue := [arm] }
    let u := withCellar { CellarSt.reset with queue := [load] }
    let v := withCellar { CellarSt.reset with fill := some ⟨load, [], [], one32, 0, []⟩, ids := CellarSt.reset.ids.modify 7 (fun i => { i with shadow := some 7 }) }
    ((cellar s 0).queue = [arm] ∧ ccOp arm.cmd = 10 ∧ cmdHeld s arm = false ∧ ccFence arm.cmd = false ∧ cmdFault s 0 arm = none ∧
      ccCount arm.cmd < (cellar s 0).ids.length) ∧
    ((cellar u 0).queue = [load] ∧ ccOp load.cmd = 9 ∧ cmdHeld u load = false ∧ ccFence load.cmd = false ∧ cmdFault u 0 load = none ∧
      (cellar u 0).fill = none ∧ (cellar u 0).fillWaits = [] ∧ (codebook u 0 7).shadow = none ∧ (cellar u 0).slots.length = 8 ∧ slotUse u 0 7 = .scratch ∧
      scratchInUse u 0 7 = false) ∧
    ((cellar v 0).fill.map CellExec.cmd = some load ∧ (cellar v 0).fillWaits = [] ∧ (codebook v 0 7).shadow = some 7 ∧
      operandPoison v load (placeA load) 0 524288 = []) := by
  decide +kernel

/-! Stacks, slices, the store room and page moves. -/

/-- A request of n bytes by the physical function's master. -/
def req0 (pa n : Nat) (write : Bool) : MemReq := ⟨4096, none, pa, write, if write then 0 else n, if write then List.replicate n 5#8 else [], 0⟩

/-- StackControllers: the least and the greatest read and write of a unit, on a stack with an aged entry of that request; the scrubber;
temperatures about each threshold; link errors. -/
theorem witness_stacks : (∀ x ∈ ([(0, 1), (31, 1), (0, 32)] : List (Nat × Nat)), ∀ w ∈ [true, false], let r := req0 (0x1000 + x.1) x.2 w
      let s := setStack base 0 { stackSt base 0 with aged := [(channelOf r.pa, 0), (63, 1)], scrubbing := true, scrubPos := 2 ^ 31 - 1 }
      unitReq 0 r = true ∧ agedFirst (stackSt s 0) (channelOf r.pa) r.tag = true ∧ stackUp s 0 = true ∧ s.mem.poison.contains (r.pa / 32) = false ∧
        accessOk s r.master r.pa x.2 w = true ∧ (63, 2) ∉ (stackSt s 0).aged ∧ (stackSt s 0).aged.countP (fun e => e.1 == 63) < 48 ∧
        (stackSt s 0).scrubbing = true ∧ s.mem.poison.contains ((stackSt s 0).scrubPos) = false) ∧
    (∀ t ∈ ([719, 720, 760, 839, 840] : List Int), (stackSt base 11).state ≠ .absent ∧ stackUp base 11 = true ∧ (t < 840 ∨ 840 ≤ t)) := by
  decide +kernel

/-- A line of an attic slice for the module with line 0x5FF80 in its home slice. -/
def slice0 : Nat := (homeSlice base 0x5FF80).getD 0

/-- AtticSlices: a line asked for by the instruction cache and by the data cache; a flush; its end. -/
theorem witness_attic : (∀ i ∈ [true, false], let s0 := inSlice base
      let s := setSlice s0 slice0 { sliceSt s0 slice0 with reqs := [.line 0 i 1 0xFF80 0x5FF80] }
      (sliceSt s slice0).reqs = [.line 0 i 1 0xFF80 0x5FF80] ∧ homeSlice s 0x5FF80 = some slice0 ∧
        (atticFind s slice0 0x5FF80).map (fun x => x.2.data.length) = some 128 ∧ accessOk s 1 0x5FF80 128 false = true ∧ pendingStores s 0 0x5FF80 = []) ∧
    (let s := inSlice base
     blockDrops s (offAtc slice0 + 4) = false ∧ s.front.d3hot.contains 0 = false ∧ regsGranted s 0 (blockOf (offAtc slice0 + 4)) true = true ∧ slice0 < 16 ∧
        partOfCluster s slice0 = some 0 ∧ (sliceSt s slice0).busy = false) ∧
    (let s := setSlice (inSlice base) slice0 { sliceSt (inSlice base) slice0 with busy := true }
     slice0 ∈ partSlices s 0 ∧ (sliceSt s slice0).busy = true) := by
  decide +kernel

/-- AtticSlices: the store of a core to a line that its slice holds, the last that a FENCE of its group waits for. -/
theorem witness_atticStore : let e : SbEntry := ⟨1, 0, 0x5FF80, [0], [(0, 1#8), (127, 2#8)]⟩
    let g := { group0 with active := false, cond := .fence 1 }
    let s0 := inSlice (about 0 g (fun k => { k with nextStore := 1 }))
    let s := setSlice s0 slice0 { sliceSt s0 slice0 with reqs := [.store 0 0 0 e] }
    (sliceSt s slice0).reqs = [.store 0 0 0 e] ∧ e.pa % 128 = 0 ∧ homeSlice s e.pa = some slice0 ∧
      (atticFind s slice0 e.pa).map (fun x => x.2.data.length) = some 128 ∧ accessOk s e.ctx e.pa 128 false = true ∧ e.data ≠ [] ∧
      (∀ b ∈ e.data, b.1 < 128 ∧ accessOk s e.ctx (e.pa + b.1) 1 true = true) ∧ groupAt s 0 0 = some g ∧
      storesAwaited (setSlice s slice0 { sliceSt s slice0 with reqs := [] }) 0 1 = false := by
  decide +kernel

/-- StoreRoomAndMoves: the first and the last byte of the store room and a whole block. -/
theorem witness_storeRoom : ∀ x ∈ ([(srBase, 1), (srEnd - 1, 1), (srEnd - 4096, 4096)] : List (Nat × Nat)), ∀ w ∈ [true, false], let r := req0 x.1 x.2 w
    1 ≤ (if r.write then r.data.length else r.len) ∧ r.pa / 4096 = (r.pa + x.2 - 1) / 4096 ∧ inStoreRoom r.pa = true ∧ inStoreRoom (r.pa + x.2 - 1) = true ∧
      accessOk base r.master r.pa x.2 r.write = true ∧ rangeUp base r.pa x.2 = true ∧ poisonedIn base r.pa x.2 = [] ∧ r.master = 4096 ∧ r.queue = none ∧ base.mem.due = [] := by
  decide +kernel

/-- Tables of context 1 in stack 0 whose last entry, of a page of cached space or of bulk space, is e. -/
def tables (bulk : Bool) (e : Nat) (s : State) : State :=
  { poke (poke (poke s (0x200000 + 8 * (if bulk then 32 else 0)) (toLE 8 0x210001)) 0x210000 (toLE 8 0x220001)) 0x220000 (toLE 8 e) with
    ctxs := [(1, { ctx1 with l1 := 0x200000 })] }

/-- The page of a move, as the drain before it asks. -/
def movePage (m : PageMove) : Inval := ⟨m.ctx, some (m.va / 65536 * 65536, m.va / 65536 * 65536 + 65536), false, none⟩

/-- StoreRoomAndMoves: the second queued move starts, the first waiting for one that runs; a move from stack to store room ends, of a page
that may move and of one that is pinned. -/
theorem witness_moves :
    (let run : PageMove := ⟨0, 1, 2 ^ 47, 0x50000, srBase, some 0, true⟩
     let m1 : PageMove := ⟨0, 1, 2 ^ 47 + 65536, srBase, 0x60000, some 0, false⟩
     let m2 : PageMove := ⟨0, 1, 2 ^ 47 + 131072, 0x70000, srBase + 65536, some 0, false⟩
     let s : State := { base with mem := { mem1 with moves := [run, m1, m2] } }
     s.mem.moves[2]? = some m2 ∧ m2.running = false ∧ moveFree s.mem.moves 2 m2 = true ∧ moveFree s.mem.moves 1 m1 = false ∧
        moveFree s.mem.moves 0 run = true ∧ s.mem.moves.countP (fun m => m.partition == 0 && m.running) < 16) ∧
    (∀ e ∈ [0x5002F, 0x5012F], let m : PageMove := ⟨0, 1, 2 ^ 47, 0x50000, srBase, some 0, true⟩
     let s : State := tables true e { base with mem := { mem1 with moves := [m] } }
     (s.mem.moves.filter (fun m => m.partition == 0 && m.running))[0]? = some m ∧ s.mem.due = [] ∧ inFlightOf s (movePage m) = false ∧
        leafOf s m.ctx m.va = some (0x220000, e) ∧ leafPin e = (e == 0x5012F) ∧ leafBulk e = true ∧ leafAddr e = m.src ∧
        rangeUp s m.src 65536 = true ∧ rangeUp s m.dst 65536 = true ∧ rangeUp s 0x220000 8 = true ∧
        poisonedIn s m.src 65536 = [] ∧ poisonedIn s m.dst 65536 = [] ∧ poisonedIn s 0x220000 8 = [] ∧ 0x220000 + 8 ≤ m.dst) := by
  decide +kernel

/-! Translation. -/

/-- A miss of the group in slot 0 of core 0. -/
def miss0 (va : Nat) : Miss := ⟨1, va, [⟨.lane 0 0, va, 1, 0, 0⟩], false⟩

/-- A token of context 1 with what waits on it. -/
def token0 (who : List (Requester × Nat)) : Token := ⟨7, 1, 0, false, 0, 0, 1, 0, 0, who⟩

/-- Walks: the oldest miss with fifteen walks of other pages, and with a walk of its page; a walk that ends at a leaf, one that an
invalidation met, and one at no valid entry, with no token of its page and with one. -/
theorem witness_walks :
    (let others := (List.range 15).map (fun i => miss0 (65536 * (i + 1)))
     let s : State := { base with trans := { TransSt.reset with missA := [miss0 8], walksA := others } }
     missesOf (enterMisses s 0) 0 = [miss0 8] ∧ (∀ w ∈ walksOf s 0, ¬ (w.ctx = 1 ∧ w.va / 65536 = 8 / 65536)) ∧ (walksOf s 0).length < 16) ∧
    (let s : State := { base with trans := { TransSt.reset with missA := [miss0 8], walksA := [miss0 0xFFF8] } }
     missesOf (enterMisses s 0) 0 = [miss0 8] ∧ (walksOf s 0)[0]? = some (miss0 0xFFF8) ∧ 0xFFF8 / 65536 = 8 / 65536) ∧
    ∀ x ∈ ([(0x5001F, false, []), (0x5001F, true, []), (0, false, []), (0, false, [token0 []])] : List (Nat × Bool × List Token)),
      let m := { miss0 0xFFF8 with nocache := x.2.1 }
      let g := { group0 with active := false, cond := .walk 0xFFF8 }
      let s := about 0 g id (tables false x.1 { base with trans := { TransSt.reset with walksA := [m], tokens := x.2.2 } })
      (walksOf s 0)[0]? = some m ∧ (walk s 0 1 0xFFF8).1 = (if x.1 = 0 then .bad 1 3 0 else .leaf x.1 3) ∧
        (x.1 ≠ 0 → judgeLeaf s (.lane 0 0) 0xFFF8 1 0 3 x.1 false = .ok x.1 false) ∧ groupAt s 0 0 = some g ∧
        (s.trans.tokens.find? (fun t => t.ctx == 1 && t.page == faultPage 0xFFF8 false && t.cls == faultClass 1)) = x.2.2.head? ∧
        tokenFor s (((find s.ctxs 1).map Context.partition).getD 0) false = some false := by
  decide +kernel

/-- FaultResponses: a record of a lane and one of fabric ingress go to the ring; a response to no token, and to one with a group and
another group that waits for a token; a token past its limit. -/
theorem witness_faults :
    (∀ x ∈ [0, 5], let b := zeroBytes 0x0B ++ [BitVec.ofNat 8 x] ++ zeroBytes 0x24 ++ toLE 4 7 ++ zeroBytes 12
     let s : State := setReg { base with trans := { TransSt.reset with records := [b], tokens := [token0 []] } } offFaultCfg (2 ^ 31 + 6)
     s.trans.records = [b] ∧ b.length = 64 ∧ fieldLE b 0x08 1 = 0 ∧ fieldLE b 0x0B 1 = x ∧ fieldLE b 0x30 4 = 7 ∧
       bit (reg s offFaultCfg) 31 = true ∧ faultRingFull s = false ∧ s.front.d3hot.contains 0 = false) ∧
    (blockDrops base 0x10001C = false ∧ base.front.d3hot.contains 0 = false ∧ regsGranted base 0 (blockOf 0x10001C) true = true ∧ respToken base = none) ∧
    (let g := { group0 with active := false, cond := .fault 7 }
     let h := { group0 with active := false, cond := .walk 8 }
     let s := about 0 g (fun k => { k with groups := [(0, g), (1, h)] })
       (setReg { base with trans := { TransSt.reset with tokens := [token0 [(.lane 0 0, 0)]], noToken := [⟨1, .lane 0 1, 0⟩] } } offRespToken 7)
     blockDrops s 0x10001C = false ∧ s.front.d3hot.contains 0 = false ∧ regsGranted s 0 (blockOf 0x10001C) true = true ∧
        respToken s = some (token0 [(.lane 0 0, 0)]) ∧ groupAt s 0 0 = some g ∧ groupAt s 0 1 = some h ∧ s.trans.noToken.map FaultWait.who = [.lane 0 1]) ∧
    (let s : State := { setObj base 0x4010 1 10 with trans := { TransSt.reset with tokens := [token0 []] }, tick := { base.tick with count := 10 } }
     token0 [] ∈ s.trans.tokens ∧ (∀ k ∈ s.trans.tokens, k.token = (token0 []).token → k = token0 []) ∧
        (token0 []).tick.toNat + obj s 0x4010 1 ≤ s.tick.count.toNat) := by
  decide +kernel

/-- Invalidations: by tag and by range with fifteen outstanding and with sixteen; the oldest that ends, of a context in use and of one
that is free. -/
theorem witness_invalidations : (∀ x ∈ [1, 0x1001], ∀ n ∈ [15, 16], let v : Inval := ⟨1, none, true, none⟩
      let s := setReg { base with trans := { TransSt.reset with invals := List.replicate n v } } offInvCtx x
      blockDrops s 0x100034 = false ∧ s.front.d3hot.contains 0 = false ∧ regsGranted s 0 (blockOf 0x100034) true = true ∧ s.trans.invals.countP Inval.reg = n ∧
        bit (reg s offInvCtx) 12 = (x == 0x1001)) ∧
    (∀ v ∈ ([⟨1, none, true, none⟩, ⟨1, some (0, 65536), false, some 0⟩] : List Inval), ∀ st ∈ [CtxState.resident, .free],
      let s : State := { base with ctxs := [(1, { ctx1 with state := st })], trans := { TransSt.reset with invals := [v] } }
      s.trans.invals = [v] ∧ inFlightOf s v = false ∧ ((find s.ctxs v.ctx).map Context.state) = some st ∧ s.mem.due = [] ∧
        ∀ q, v.queue = some q → (find s.subs q).isSome = true) := by
  decide +kernel

/-! The front end. -/

/-- A host write of a register of the physical function takes effect, as a check. -/
def mayWrite (s : State) (off : Nat) : Bool := !blockDrops s off && !s.front.d3hot.contains 0 && regsGranted s 0 (blockOf off) true

theorem mayWrite_of {s : State} {off : Nat} (h : mayWrite s off = true) : HostMayWrite s off := by
  simp only [mayWrite, Bool.and_eq_true, Bool.not_eq_true'] at h
  exact ⟨h.1.1, h.1.2, h.2⟩

/-- Doorbells: the least and the greatest write index that queue 0 takes, the ones past them, and no queue; of a virtual function and of the kernel ring. -/
theorem witness_doorbells : HostMayWrite base 0x10000 ∧ HostMayWrite base 0x034 ∧ find base.queues 0 = some queue0 ∧ find base.queues 1 = none ∧
    ((0#32 - queue0.write).toNat ≤ 2 ^ queue0.log2 ∧ (8#32 - queue0.write).toNat ≤ 2 ^ queue0.log2 ∧ (8#32 - queue0.read).toNat ≤ 2 ^ queue0.log2) ∧
    2 ^ queue0.log2 < (9#32 - queue0.write).toNat ∧ 2 ^ queue0.log2 < (-1#32 - queue0.write).toNat ∧
    base.mem.due = [] ∧ poisonedIn base (regPair base offQueueTable + 0x18) 8 = [] ∧
    (let s : State := { base with ctxs := [(1, { ctx1 with fn := 1 })], queues := [(0, { queue0 with fnIndex := 63 })] }
     feDrops s = false ∧ s.front.d3hot.contains 1 = false ∧ regsGranted s 1 0 true = true ∧ vfQueue s 1 63 = some 0 ∧ vfQueue s 1 0 = none) ∧
    (16#32 - base.front.kWrite).toNat ≤ 2 ^ kringLog2 base ∧ (16#32 - base.front.kRead).toNat ≤ 2 ^ kringLog2 base ∧
    2 ^ kringLog2 base < (-1#32 - base.front.kRead).toNat :=
  ⟨mayWrite_of (by decide +kernel), mayWrite_of (by decide +kernel), by decide +kernel⟩

/-- Doorbells: a request takes a free slot; and, with every slot in use, the slot of a queue with nothing to do. -/
theorem witness_slot : (let u := { queue0 with resident := false, request := some 3 }
     let s : State := { base with queues := [(0, u)] }
     (slotRequests s).find? (fun e => (slotFor s e.2).isSome) = some (0, u) ∧ slotFor s u = some none ∧ find s.queues 0 = some u) ∧
    (let u := { queue0 with resident := false, request := some 3 }
     let s : State := { base with queues := (0, u) :: (List.range 256).map (fun i => (i + 1, queue0)), subs := [] }
     (slotRequests s).find? (fun e => (slotFor s e.2).isSome) = some (0, u) ∧ (slotFor s u).any (fun how => how.any (fun v => v != 0)) = true) := by
  decide +kernel

/-- A ring entry (R317): a command buffer of n bytes at 0x30000. -/
def entry0 (n : Nat) : List Byte := toLE 4 1 ++ toLE 4 n ++ toLE 8 0x30000 ++ zeroBytes 48

/-- A real-time entry with a deadline and a checkpoint, and no fallback. -/
def realTime0 : List Byte := (entry0 16).take 0x28 ++ [1#8, 1#8] ++ zeroBytes 22

/-- A fetched entry. -/
def fetched0 (buffer : Option (List Byte)) : Fetched := ⟨0, entry0 32, buffer, none, 0, 0, false, 0, 0⟩

/-- A command (R323) of OP, FLAGS and ARG, with what follows them. -/
def cmd0 (op flags arg : Nat) (rest : List Byte) : List Byte := toLE 1 op ++ toLE 1 flags ++ toLE 2 (opUnits op) ++ toLE 4 arg ++ rest

/-- Prefetch: a second entry and, with a free buffer, a third; a real-time one with no fallback handle; one that breaks its form behind a
submission that runs; and, behind one, an entry of a lost context and of a context without a row. -/
theorem witness_prefetch : ∀ x ∈ ([(1, 1, entry0 65536, 0), (1, 2, entry0 16, 0), (0, 0, realTime0, 0), (1, 0, entry0 20, 0x44)] : List (Nat × Nat × List Byte × Nat)),
    let u := { queue0 with cls := x.1, read := 7, write := 10, fetched := (List.range x.2.1).map (fun i => { fetched0 none with idx := BitVec.ofNat 32 (7 + i) }) }
    let i := u.read + BitVec.ofNat 32 u.fetched.length
    let pa := u.ringBase + i.toNat % 2 ^ u.log2 * 64
    let s : State := poke { base with queues := [(0, u)] } pa x.2.2.1
    (0 : Nat) ≠ kring ∧ find s.queues 0 = some u ∧ u.resident = true ∧ (∀ f ∈ u.fetched, f.status = 0) ∧ (u.fetched.length < 2 ∨ thirdOk s 0 = true) ∧
      i ≠ u.write ∧ s.mem.due = [] ∧ ctxLost s u.ctx = false ∧ accessOk s u.ctx pa 64 false = true ∧ rangeUp s pa 64 = true ∧
      poisonedIn s pa 64 = [] ∧ peek s pa 64 = x.2.2.1 ∧ entryStatus s 0 u (peek s pa 64) = x.2.2.2 ∧ (find s.subs 0).isSome = true := by
  decide +kernel

/-- Prefetch: an entry of a lost context and one of a context without a row, behind a submission. -/
theorem witness_prefetchRefused : let u := { queue0 with read := 7, write := 9, cls := 1 }
    let s : State := { base with ctxs := [(1, { ctx1 with state := .lost })], queues := [(0, u)] }
    let v := { u with ctx := 3 }
    let t : State := { base with ctxs := [(3, ctx1)], queues := [(0, v)] }
    (find s.subs 0).isSome = true ∧ ctxLost s u.ctx = true ∧ u.read ≠ u.write ∧
      ctxLost t v.ctx = false ∧ accessOk t v.ctx (v.ringBase + 7 * 64) 64 false = false := by
  decide +kernel

/-- Prefetch: a command buffer, of a context with a row and of one without; a fallback buffer; one of the kernel ring; the waits of an
entry, on a word of the host and on one of a stack; a context's load. -/
theorem witness_bufferFetch :
    (let u := { queue0 with fetched := [fetched0 none] }
     let s : State := { base with queues := [(0, u)] }
     s.mem.due = [] ∧ find s.queues 0 = some u ∧ (fetched0 none).status = 0 ∧ rangeUp s (reCbAddr (entry0 32)) 32 = true ∧
       accessOk s u.ctx (reCbAddr (entry0 32)) 32 false = true ∧ poisonedIn s (reCbAddr (entry0 32)) (reCbLen (entry0 32)) = [] ∧
       accessOk s 3 (reCbAddr (entry0 32)) (reCbLen (entry0 32)) false = false ∧ (find s.subs 0).isSome = true) ∧
    (let f := { fetched0 (some []) with fbBase := 0x40000, fbSize := 16 }
     let s : State := { base with queues := [(0, { queue0 with fetched := [f] })] }
     f.fallback = none ∧ f.badHandle = false ∧ f.fbSize ≠ 0 ∧ accessOk s 1 f.fbBase f.fbSize false = true ∧ rangeUp s f.fbBase f.fbSize = true ∧
       poisonedIn s f.fbBase f.fbSize = []) ∧
    (let s : State := poke { base with front := { base.front with kFetched := some (entry0 16) } } 0x30000 (cmd0 0x41 0 5 (zeroBytes 8))
     s.mem.due = [] ∧ s.front.kFetched = some (entry0 16) ∧ find s.subs kring = none ∧ s.front.d3hot.contains 0 = false ∧
       accessOk s 4096 0x30000 16 false = true ∧ rangeUp s 0x30000 16 = true ∧ poisonedIn s 0x30000 16 = [] ∧
       opUnits (cmOp (peek s (reCbAddr (entry0 16)) (reCbLen (entry0 16)))) ≠ 0) ∧
    (let w (a : Nat) : List Byte := cmd0 0x01 0 0 (toLE 8 a ++ toLE 8 5 ++ zeroBytes 8)
     let f := fetched0 (some (w (2 ^ 63) ++ w 0x60000))
     let s : State := { base with queues := [(0, { queue0 with fetched := [f] })] }
     s.mem.due = [] ∧ waitsOf f = [(2 ^ 63, 5), (0x60000, 5)] ∧ poisonedIn s 0x60000 8 = []) ∧
    (let s : State := { base with ctxs := [(1, { ctx1 with loading := true })], subs := [(0, { sub0 [] with held := true })] }
     find s.ctxs 1 = some { ctx1 with loading := true }) := by
  decide +kernel

/-- What `Dispatches` asks, as a check. -/
def dispatches (s : State) (q op : Nat) (u : Submission) (c : List Byte) : Bool :=
  find s.subs q == some u && c == u.code.drop u.pos && mayRun s q && decide (u.pos < u.code.length) && cmOp c == op && !attached s (.frontEnd q) &&
    !((q == kring || cmOrder c) && workLeft s q) && formOk s (q == kring) u c &&
    !(decide (u.pos + 16 * opUnits op < u.code.length) && opUnits (cmOp (u.code.drop (u.pos + 16 * opUnits op))) == 0)

theorem dispatches_of {s : State} {q op : Nat} {u : Submission} {c : List Byte} (h : dispatches s q op u c = true) : Dispatches s q op u c := by
  simp only [dispatches, Bool.and_eq_true, Bool.not_eq_true', beq_iff_eq, decide_eq_true_eq] at h
  obtain ⟨⟨⟨⟨⟨⟨⟨⟨a, b⟩, d⟩, e⟩, f⟩, g⟩, i⟩, j⟩, k⟩ := h
  refine ⟨a, b, d, e, f, g, fun hq => ?_, j, fun hl => ?_⟩
  · simp only [Bool.and_eq_false_iff, Bool.or_eq_false_iff, beq_eq_false_iff_ne, ne_eq] at i
    rcases i with i | i
    · rcases hq with hq | hq
      · exact absurd hq i.1
      · simp [hq] at i
    · exact i
  · simp only [hl, decide_true, Bool.true_and, beq_eq_false_iff_ne, ne_eq] at k
    exact k

/-- The module with a submission of queue q, or of the kernel ring, at the command c, and another after it. -/
def atCmd (q : Nat) (c : List Byte) (s : State := base) : State :=
  { s with subs := [(q, { sub0 (c ++ cmd0 0x00 0 0 (zeroBytes 8)) with place := [0, 3] })] }

/-- A command is dispatched in a state and P holds of its submission. -/
def dispatched (s : State) (q : Nat) (P : Submission → List Byte → Bool) : Bool :=
  match find s.subs q with
  | some u => let c := u.code.drop u.pos; dispatches s q (cmOp c) u c && P u c
  | none => false

/-- LAUNCH of n groups with 16 registers, one thread, path depth 8, on the cores of the submission. -/
def launchCmd (n : Nat) : List Byte := cmd0 0x02 0 n (toLE 8 0x1000 ++ toLE 2 16 ++ toLE 1 1 ++ toLE 1 8 ++ toLE 4 0 ++ zeroBytes 24 ++ zeroBytes 128)

/-- QueueCommands: FENCE_WAIT of a queue and of the kernel ring, met and not; of a word in a stack that the context may not read. -/
theorem witness_fenceWait : (∀ x ∈ ([(0, 0, 0x63), (kring, 0, 0x63), (kring, 1, 0x63)] : List (Nat × Nat × Nat)),
      let s := atCmd x.1 (cmd0 0x01 0 0 (toLE 8 (2 ^ 63) ++ toLE 8 x.2.1 ++ zeroBytes 8))
      dispatched s x.1 (fun u c => cmOp c == 0x01 && s.mem.due == [] &&
        (waitWord s x.1 u.ctx (if x.1 = kring then none else some u.partition) (fieldLE c 0x08 8)).1 == .inl 0) = true) ∧
    (let s := { atCmd 0 (cmd0 0x01 0 0 (toLE 8 0x60000 ++ toLE 8 5 ++ zeroBytes 8)) with subs := [(0, { sub0 (cmd0 0x01 0 0 (toLE 8 0x60000 ++ toLE 8 5 ++ zeroBytes 8)) with ctx := 3 })] }
     dispatched s 0 (fun u c => s.mem.due == [] && (waitWord s 0 u.ctx (some u.partition) (fieldLE c 0x08 8)).1 == .inr stFaultAccess) = true) := by
  decide +kernel

/-- QueueCommands: LAUNCH of the least and the greatest number of groups, with a register count that is not allowed, and on no core. -/
theorem witness_launch : (∀ n ∈ [1, 65536], dispatched (atCmd 0 (launchCmd n)) 0 (fun u c => cmOp c == 0x02 && launchOk c && launchCores u (fieldLE c 0x18 24) == [0, 3] &&
      decide (staticNeed (fieldLE c 0x13 1) (fieldLE c 0x14 4) ≤ staticBytes base u.ctx)) = true) ∧
    dispatched (atCmd 0 (cmd0 0x02 0 1 (toLE 8 0x1000 ++ toLE 2 17 ++ toLE 1 1 ++ toLE 1 8 ++ zeroBytes 156))) 0 (fun _ c => cmOp c == 0x02 && !launchOk c) = true ∧
    (let c := launchCmd 1
     dispatched { base with subs := [(0, { sub0 c with place := [] })] } 0 (fun u c => launchCores u (fieldLE c 0x18 24) == []) = true) := by
  decide +kernel

/-- QueueCommands: NOP; DRAUGHT on the highest core and past it; INV_RANGE of a queue and of the kernel ring; HANDLE_ARM. -/
theorem witness_queueCommands :
    dispatched (atCmd 0 (cmd0 0x00 0x80 0 (zeroBytes 8))) 0 (fun _ c => cmOp c == 0x00) = true ∧
    (∀ n ∈ [143, 144], dispatched (atCmd 0 (cmd0 0x03 0 n (zeroBytes 8 ++ desc0 0 [1, 6] 1 0 0))) 0 (fun _ c => cmOp c == 0x03 && cmArg c == n &&
      numCores base == 144 && (n == 144 || decide ((coreSt base n).draughts.length < 16))) = true) ∧
    dispatched (atCmd 0 (cmd0 0x06 0 0 (toLE 8 0x10000 ++ toLE 8 1 ++ zeroBytes 8))) 0 (fun _ c => cmOp c == 0x06) = true ∧
    dispatched (atCmd kring (cmd0 0x06 0 4095 (toLE 8 0 ++ toLE 8 (2 ^ 32) ++ zeroBytes 8))) kring (fun _ c => cmOp c == 0x06) = true ∧
    (∀ a ∈ [0, 1], dispatched (atCmd 0 (cmd0 0x07 0 a (zeroBytes 8))) 0 (fun u c => cmOp c == 0x07 && find base.ctxs u.ctx == some ctx1)) = true := by
  decide +kernel

/-- Context 1 with handle 2, an object of 64 KiB at va, and handle 3, one of 64 KiB in bulk space or a window of ring position 2; the page at va,
in bulk space or in cached space, mapped by the leaf e and held by the front end's TLB. -/
def objects (va e : Nat) (h3 : List Byte) : State :=
  let s := tables (decide (2 ^ 47 ≤ va)) e (withPortUp base)
  { poke (poke s 0x1020 (handle 1 65536 va)) 0x1030 h3 with
    ctxs := [(1, { ctx1 with l1 := 0x200000, htable0 := 0x1000, handles := 8 })]
    trans := { TransSt.reset with frontTlb := if e = 0 then [] else [(0, ⟨0, [some ⟨1, va, false, e⟩]⟩)] } }
where
  /-- Port 3 is up with a peer at ring position 2. -/
  withPortUp (s : State) : State := setPort s 3 { Port.reset with state := 2, peer := some 2, trained := true, enabled := true }

/-- COPY of n bytes between handles or host addresses. -/
def copyCmd (flags hs hd src dst n : Nat) : List Byte := cmd0 0x04 flags 0 (toLE 4 hs ++ toLE 4 hd ++ toLE 8 src ++ toLE 8 dst ++ toLE 8 n ++ zeroBytes 8)

/-- The sides of a COPY and the pages of its objects, as the statement computes them. -/
def copySides (s : State) (u : Submission) (c : List Byte) : Side × Side × Bool × Option Nat × Bool :=
  let n := coLen c
  let src := if coSrcHost c then Side.host (fieldLE c 0x10 8) else objectSide s u (fieldLE c 0x08 4) (fieldLE c 0x10 8) n false
  let dst := if coDstHost c then Side.host (fieldLE c 0x18 8) else objectSide s u (fieldLE c 0x0C 4) (fieldLE c 0x18 8) n true
  let ranges := sideRange src n false ++ sideRange dst n true
  let r := mapPages s (.frontEnd 0) u.ctx 0 u.maps (pagesOf ranges)
  (src, dst, !sideOutside src n && !sideOutside dst n && r.1, oneStack r.2.1.pages ranges,
    match src, dst with
    | .object va, .object vb => spansMeet (mappedSpans r.2.1.pages va n) (mappedSpans r.2.1.pages vb n)
    | _, _ => false)

/-- QueueCommands: COPY from the host to the host, of the least and the greatest length, and to an object; from an object to the host, to
a window of a peer, to an object of its stack, apart from it and over it. -/
theorem witness_copy :
    let o := objects (2 ^ 47) 0x5002F (handle 1 65536 (2 ^ 47))
    let p := objects (2 ^ 47) 0x5002F (toLE 16 (2 ^ 47 + 2 ^ 48 * 1 + 2 ^ 64 * 65536 + 2 ^ 104 * 2 + 2 ^ 110 * 3 + 2 ^ 112 * 2))
    let put (c : List Byte) (s : State) := atCmd 0 c s
    (∀ x ∈ ([(o, copyCmd 3 0 0 0x100 0x200 4), (o, copyCmd 3 0 0 0x100 0x200 (2 ^ 40)), (o, copyCmd 1 0 2 0x100 0 4)] : List (State × List Byte)),
      dispatched (put x.2 x.1) 0 (fun u c => let k := copySides (put x.2 x.1) u c
        k.2.2.1 && k.1 == .host 0x100 && (match k.2.1 with
          | .host _ => true
          | .object _ => true
          | _ => false)) = true) ∧
    dispatched (put (copyCmd 2 2 0 0 0x200 4) o) 0 (fun u c => let k := copySides (put (copyCmd 2 2 0 0 0x200 4) o) u c
      k.2.2.1 && k.1 == .object (2 ^ 47) && k.2.1 == .host 0x200) = true ∧
    dispatched (put (copyCmd 0 2 3 0 8 4) p) 0 (fun u c => let k := copySides (put (copyCmd 0 2 3 0 8 4) p) u c
      k.2.2.1 && k.1 == .object (2 ^ 47) && k.2.1 == .peer 3 1 (2 ^ 47 + 8) && !cachedVa (2 ^ 47)) = true ∧
    (∀ d ∈ [32768, 8], dispatched (put (copyCmd 0 2 3 0 d 16) o) 0 (fun u c => let k := copySides (put (copyCmd 0 2 3 0 d 16) o) u c
      k.2.2.1 && k.1 == .object (2 ^ 47) && k.2.1 == .object (2 ^ 47 + d) && k.2.2.2.1 == some 0 && k.2.2.2.2 == (d == 8)) = true) := by
  decide +kernel

/-- QueueCommands: FILL of the object of handle 2, in bulk space on page 5 of stack 0 or in cached space, and with the page's walk
still to come. -/
theorem witness_fill : ∀ x ∈ ([(2 ^ 47, 0x5002F, true), (0, 0x5001F, true), (2 ^ 47, 0, false)] : List (Nat × Nat × Bool)),
    let c := cmd0 0x05 0 8192 (toLE 4 2 ++ zeroBytes 4 ++ toLE 8 0 ++ toLE 8 7)
    let s0 := objects x.1 x.2.1 []
    let s := atCmd 0 c s0
    dispatched s 0 (fun u c => cmOp c == 0x05 && ((goodUse s u.ctx u.gen (fieldLE c 0x08 4) [1] (fieldLE c 0x10 8) (cmArg c * 8) false true).map heBase) == some x.1 &&
      !sideOutside (.object x.1) 65536 &&
      let r := mapPages s (.frontEnd 0) u.ctx 0 u.maps (pagesOf [(x.1, 65536, true)])
      r.1 == x.2.2 && (!x.2.2 || oneStack r.2.1.pages [(x.1, 65536, true)] == (if x.1 = 0 then none else some 0))) = true := by
  decide +kernel

/-- QueueCommands: a copy within host memory goes on: its only piece, and its first. -/
theorem witness_feCopy : ∀ n ∈ [4, 65540], let f : FeCopy := ⟨0, 0, 1, 0, copyCmd 3 0 0 0x100 0x20000 n, 0x100, 0x20000, none, 0, none, none, 0⟩
    let s : State := { base with front := { base.front with feCopies := [f] } }
    nextFeCopy s = some f ∧ (∀ g ∈ s.front.feCopies, g.id = f.id → g = f) ∧ cmOp f.cmd = 0x04 ∧ coSrcHost f.cmd = true ∧ coDstHost f.cmd = true ∧
      f.peer = none := by
  decide +kernel

/-- A context descriptor (R310) of partition 0 with four units of local store. -/
def ctxDesc : List Byte :=
  toLE 1 1 ++ zeroBytes 3 ++ toLE 1 4 ++ zeroBytes 3 ++ toLE 8 0x200000 ++ toLE 8 0x300000 ++ toLE 8 0x400000 ++ toLE 4 2 ++ zeroBytes 4 ++ toLE 8 0x10000000 ++
    toLE 8 0x10000000 ++ zeroBytes 968

/-- A queue descriptor (R316) of context 1, batch class, with its rings in stack 0 and in the host. -/
def queueDesc : List Byte := toLE 1 1 ++ toLE 1 1 ++ toLE 2 1 ++ toLE 1 0 ++ toLE 1 4 ++ toLE 1 3 ++ toLE 1 0 ++ toLE 8 0x10000 ++ toLE 8 (2 ^ 63 + 0x20000) ++ zeroBytes 40

/-- KernelCommands: CTX_CREATE of a context and of one that exists; CTX_DESTROY with and without FORCE, and of a context with a queue. -/
theorem witness_contexts :
    (let s := poke (atCmd kring (cmd0 0x40 0 4095 (toLE 8 0x50000)) { base with ctxs := [(1, { ctx1 with fnIndex := 1 })] }) 0x50000 ctxDesc
     dispatched s kring (fun _ c => cmOp c == 0x40 && (find s.ctxs (cmArg c)).isNone && accessOk s 4096 0x50000 1024 false && rangeUp s 0x50000 1024 &&
       poisonedIn s 0x50000 1024 == [] && ctxDescOk s 0x50000 (peek s 0x50000 1024) && s.mem.due == [] &&
       poisonedIn s (regPair s offCtxTable + 16 * cmArg c) 16 == []) = true) ∧
    dispatched (atCmd kring (cmd0 0x40 0 1 (toLE 8 0x50000))) kring (fun _ c => (find base.ctxs (cmArg c)).isSome) = true ∧
    (∀ x ∈ [(0, 2), (1, 2), (0, 1)], let s := atCmd kring (cmd0 0x41 x.1 x.2 (zeroBytes 8))
      dispatched s kring (fun _ c => cmOp c == 0x41 && find s.ctxs (cmArg c) == some ctx1 && (queuesOf s (cmArg c) == []) == (x.2 == 2) &&
        bit (cmFlags c) 0 == (x.1 == 1)) = true) := by
  decide +kernel

/-- KernelCommands: QUEUE_CREATE of a descriptor that keeps to its form and of one that does not; QUEUE_DESTROY of an empty queue and of one
with an entry; INV_TAG. -/
theorem witness_kernelQueues :
    (∀ d ∈ [queueDesc, zeroBytes 64], let s := atCmd kring (cmd0 0x42 0 8191 (zeroBytes 8 ++ d))
     dispatched s kring (fun _ c => cmOp c == 0x42 && (find s.queues (cmArg c)).isNone && queueDescOk s ((c.drop 0x10).take 64) == (d == queueDesc) &&
       s.mem.due == [] && poisonedIn s (regPair s offQueueTable + 64 * cmArg c) 64 == []) = true) ∧
    (∀ n ∈ [0, 1], let u := { queue0 with write := BitVec.ofNat 32 n }
     let s := atCmd kring (cmd0 0x43 0 0 (zeroBytes 8)) { base with queues := [(0, u)] }
     dispatched s kring (fun _ c => cmOp c == 0x43 && find s.queues (cmArg c) == some u && (u.read == u.write) == (n == 0) && (find s.subs (cmArg c)).isNone) = true) ∧
    dispatched (atCmd kring (cmd0 0x45 0 4095 (zeroBytes 8))) kring (fun _ c => cmOp c == 0x45) = true := by
  decide +kernel

/-- KernelCommands: MOVE of a page of bulk space, in the front end's TLB, that may move and of one that is pinned. -/
theorem witness_move : ∀ e ∈ [0x5002F, 0x5012F],
    let c := cmd0 0x44 0 1 (toLE 8 (2 ^ 47 + 5) ++ toLE 8 0x60000 ++ zeroBytes 8)
    let t := atCmd kring c (objects (2 ^ 47) e [])
    dispatched t kring (fun _ c => cmOp c == 0x44 && match xlate t (.frontEnd kring) (cmArg c) (2 ^ 47 + 5) 1 kring with
      | (some (pa, l), s1) => pa == 0x50005 && l == e && leafBulk l && leafPin l == (e == 0x5012F) && (leafOf s1 1 (2 ^ 47 + 5)).isSome &&
          pageInPart s1 0 0x50000 && pageInPart s1 0 0x60000 && !inStoreRoom 0x50000
      | _ => false) = true := by
  decide +kernel

/-! The tick, the host, partitions. -/

/-- Boundaries: with an access table armed and ready, and without. -/
theorem witness_boundaries : ∀ b ∈ [true, false], let s : State := { base with part := { base.part with armed := b, ready := b } }
    s.tick.running = true ∧ s.clock.hold = false ∧ (∃ q v, find s.queues q = some v) ∧ s.part.armed = b ∧ s.part.ready = b ∧
      bit (reg s offFeCtrl) 0 = false ∧ find s.subs 1 = none := by
  intro b hb
  refine ⟨rfl, rfl, ⟨0, queue0, rfl⟩, rfl, rfl, by cases b <;> decide +kernel, rfl⟩

/-- RealTimeWithinTheTick: a real-time submission with its progress at the checkpoint's count and one below it; an abort that is over. -/
theorem witness_realTime : (∀ n ∈ [4, 5], let e := zeroBytes 0x24 ++ toLE 4 5 ++ zeroBytes 24
      let b := { sub0 [] with entry := e, progress := BitVec.ofNat 32 n }
      let s : State := { base with queues := [(0, { queue0 with cls := 0 })], subs := [(0, b)] }
      isRt s 0 = true ∧ find s.subs 0 = some b ∧ b.phase = .running ∧ b.isFallback = false ∧ b.stopped = false ∧ b.checked = false ∧ reProgress b.entry = 5) ∧
    (let b := { sub0 [] with phase := .aborting, fallback := cmd0 0x00 0 0 (zeroBytes 8) }
     let s : State := { base with queues := [(0, { queue0 with cls := 0 })], subs := [(0, b)] }
     find s.subs 0 = some b ∧ (find s.queues 0).isSome = true ∧ b.phase = .aborting ∧ abortBusy s 0 = false ∧ b.fault = 0 ∧ opUnits (cmOp b.fallback) ≠ 0) := by
  decide +kernel

/-- SubmissionsEnd: a submission whose command buffer is at its end, and a frozen one. -/
theorem witness_ends : (let b := { sub0 (cmd0 0x00 0 0 (zeroBytes 8)) with pos := 16 }
     let s : State := { base with subs := [(0, b)] }
     find s.subs 0 = some b ∧ find s.queues 0 = some queue0 ∧ b.phase = .running ∧ b.stopped = false ∧ b.held = false ∧ workLeft s 0 = false ∧ b.code.length ≤ b.pos ∧
       (∀ f ∈ queue0.fetched, f.idx = queue0.read ∨ f.status = 0) ∧ fenceEn b.entry = false ∧ bit queue0.compBase 63 = true ∧
       queue0.compBase % 2 ^ 63 + b.idx.toNat % 2 ^ queue0.log2 * 32 < 2 ^ 63 ∧ queue0.compBase < 2 ^ 64 ∧ s.front.d3hot.contains (fnOfQueue s 0) = false ∧
       (0 : Nat) ≠ kring ∧ s.mem.due = [] ∧ poisonedIn s (regPair s offQueueTable + 0x18) 8 = []) ∧
    (let s : State := { base with subs := [(0, { sub0 [] with phase := .frozen })] }
     ((find s.subs 0).map Submission.phase) = some .frozen ∧ queueStill s 0 = true) := by
  decide +kernel

/-- Apertures: a read and a write of one byte at the end of BAR2 and of 64 at its start, by a window that is valid and by one that is not. -/
theorem witness_apertures : ∀ w ∈ [true, false], ∀ x ∈ ([(2 ^ 36 - 1, 1), (0, 64)] : List (Nat × Nat)), let acc : HostAccess := ⟨w, x.2, zeroBytes x.2⟩
    let s := setReg base (0x080 + 4 * (x.1 / 2 ^ 32)) (2 ^ 31)
    let pa := x.1 % 2 ^ 32
    x.1 < 2 ^ 36 ∧ acc.len ≠ 0 ∧ asleep s 0 = false ∧ bit (reg s (0x080 + 4 * (x.1 / 2 ^ 32))) 31 = true ∧ bits (reg s (0x080 + 4 * (x.1 / 2 ^ 32))) 11 0 = 0 ∧
      reservedPa pa = false ∧ accessOk s 4096 pa acc.len w = true ∧ rangeUp s pa acc.len = true ∧ poisonedIn s pa acc.len = [] ∧
      bit (reg base (0x080 + 4 * (x.1 / 2 ^ 32))) 31 = false := by
  decide +kernel

/-- Apertures: the same through the windows of a virtual function. -/
theorem witness_contextWindow : ∀ w ∈ [true, false], ∀ x ∈ ([(0x10000, 64), (0xFFFFF, 1)] : List (Nat × Nat)),
    let n := (x.1 - 0x10000) / 0x10000
    let s := setVfReg base 1 (0x1400 + 4 * n) (2 ^ 31 + 5)
    let pa := 0x50000 + x.1 % 65536
    0x10000 ≤ x.1 ∧ x.1 < 0x100000 ∧ x.2 ≠ 0 ∧ asleep s 1 = false ∧ bit (vfReg s 1 (0x1400 + 4 * n)) 31 = true ∧ bits (vfReg s 1 (0x1400 + 4 * n)) 27 0 = 5 ∧
      reservedPa pa = false ∧ accessOk s 4097 pa x.2 w = true ∧ rangeUp s pa x.2 = true ∧ poisonedIn s pa x.2 = [] ∧ bit (vfReg base 1 (0x1400 + 4 * n)) 31 = false := by
  decide +kernel

/-- FunctionStates: a function awake and one asleep with nothing held, a write, and an interrupt; a module in operation; a context of a virtual function. -/
theorem witness_functions : (asleep base 63 = false ∧ base.power.phase = .done ∧ base.clock.hold = false ∧ base.power.phase ≠ .failed) ∧
    ({ base with front := { base.front with linkUp := true } } : State).front.linkUp = true ∧
    (∀ h ∈ ([[], [.hostWrite 0x100 [1#8]], [.msix 3]] : List (List HeldOut)),
      let s : State := { base with front := { base.front with d3hot := [1], heldOut := if h = [] then [] else [(1, h)] } }
      asleep s 1 = true ∧ (find s.front.heldOut 1).getD [] = h) ∧
    (let s : State := { base with ctxs := [(1, { ctx1 with fn := 1 })] }
     ((find s.ctxs 1).map Context.fn) = some 1 ∧ ctxsOfFn s 1 = [1]) ∧
    (let s : State := { base with power := { power1 with phase := .cold, stage := 3 } }
     s.power.phase = .cold ∧ s.power.stage ≤ 3) ∧
    HostMayWrite base 0x308008 ∧ (1#32).getLsbD 0 = true ∧ HostMayWrite base 0x308010 ∧ (0x80000001#32).getLsbD 31 = true ∧ (0x80000001#32).toNat % 4096 = 1 :=
  ⟨by decide +kernel, rfl, by decide +kernel, by decide +kernel, by decide +kernel, mayWrite_of (by decide +kernel), by decide, mayWrite_of (by decide +kernel), by decide, by decide⟩

/-- AccessTableFills: a fill that runs, of an image of zeros, and of one whose row breaks the form. -/
theorem witness_fills : HostMayWrite base 0x200008 ∧ (∀ x ∈ [0, 1], let s : State := { poke base 0 (List.replicate 16 (BitVec.ofNat 8 (255 * x))) with
      part := { base.part with filling := true } }
    s.part.filling = true ∧ bits (regPair s offAccImage) 43 12 = 0 ∧ rangeUp s 0 67600 = true ∧ s.mem.due = [] ∧ poisonedIn s 0 67600 = [] ∧ rowMalformed (ofLE (peek s 0 16)) = (x == 1) ∧
      rowMalformed 0 = false) :=
  ⟨mayWrite_of (by decide +kernel), by decide +kernel⟩

/-- PreemptionOfContexts: a context that runs and one that does not; one whose work stands; one that is restored. -/
theorem witness_preempt : HostMayWrite base offPreempt ∧ (let v := 0x80000001#32
     v.getLsbD 31 = true ∧ v.toNat % 4096 = 1 ∧ base.part.preBusy = false ∧ find base.ctxs 1 = some ctx1 ∧ runningOf base 1 = [0] ∧ ctx1.saving = false ∧
       savable base 1 = true ∧ runningOf base 2 = []) ∧
    (let s := about 0 group0 id { base with ctxs := [(1, { ctx1 with saving := true })], subs := [(0, { sub0 [] with phase := .preempting })] }
     ((find s.ctxs 1).map Context.saving) = some true ∧ noneEnding s 1 = true ∧ (ctxCores s 1).all (coreStill s 1) = true ∧ 0 ∈ ctxCores s 1 ∧
       (find (coreSt s 0).allocs 1).isSome = true ∧ groupAt s 0 0 = some group0) ∧
    (let r : SavedCore := ⟨5, [(3, group0)], [], [], [], [], none, none, none⟩
     let x := { ctx1 with restoring := true, saved := [r] }
     let s : State := { base with ctxs := [(1, x)], subs := [(0, { sub0 [] with phase := .restoring })] }
     find s.ctxs 1 = some x ∧ x.restoring = true ∧ x.loading = false ∧ x.saved.all (coreHasRoom s (restoringOf s 1)) = true ∧ x.saved = [r] ∧ (3, group0) ∈ r.groups ∧
       group0.queue ∈ restoringOf s 1) :=
  ⟨mayWrite_of (by decide +kernel), by decide +kernel, by decide +kernel, by decide +kernel⟩

/-! The fabric. -/

/-- A port that is UP with a peer at ring position 2. -/
def upPort : Port := { Port.reset with state := 2, peer := some 2, trained := true, enabled := true }

/-- The module with port 3 as given. -/
def withPort (p : Port) (s : State := base) : State := setPort s 3 p

/-- A packet of a type at SEQ 0 with a payload. -/
def pkt (ty arg aop counter addr : Nat) (b : List Byte) : Packet := ⟨ty, pkVc ty, b.length, 0, 2, aop, 1, counter, 9, addr, arg, b⟩

/-- PortLinks: ports in each state, with a submission that awaits an answer; training that ends; INIT of another position and of the
module's own; a packet resent sixteen times. -/
theorem witness_ports : portClocked (withPort upPort) 3 = true ∧ HostMayWrite (withPort upPort) 0x500064 ∧
    (∀ st ∈ [0, 1, 2, 3], let s := withPort { upPort with state := st, waits := [(9, .copy 0 0, 0, 0)] }
      (port s 3).state = st ∧ portClocked s 3 = true ∧ (port s 3).waits ≠ [] ∧ (∀ w ∈ (port s 3).waits, w.2.2.1 = 0)) ∧
    (let s := withPort { Port.reset with state := 1 }
     bit s.clock.fabricLock 0 = true ∧ (port s 3).trained = false ∧ (port s 3).outq = [] ∧ (port s 3).peerInit = none) ∧
    (∀ x ∈ [(2, 0), (0, 0), (2, 3)], let s := withPort { Port.reset with state := 1, trained := true } { base with tick := { base.tick with lock := 0 } }
      let p := pkt 10 0 0 0 0 ([BitVec.ofNat 8 x.1, BitVec.ofNat 8 x.2] ++ zeroBytes 6)
      packetForm p = true ∧ p.seq = (port s 3).recvSeq ∧
        decide (s.tick.lock ≠ 3 ∧ fieldLE p.payload 1 1 ≠ 3 ∧ fieldLE p.payload 0 1 ≠ s.ring.position) = (x == (2, 0))) ∧
    (∀ a ∈ [true, false], let s := withPort { upPort with resent := [(7, 16)], auto := a }
      (port s 3).state = 2 ∧ find (port s 3).resent 7 = some 16 ∧ (port s 3).auto = a) :=
  ⟨by decide +kernel, mayWrite_of (by decide +kernel), by decide +kernel, by decide +kernel, by decide +kernel, by decide +kernel⟩

/-- LinkControl: a packet out of sequence, RETRY from the highest SEQ, CREDIT. -/
theorem witness_link : let s := withPort { upPort with replay := [{ pkt 1 0 0 0 0 [] with seq := 65535 }] }
    portClocked s 3 = true ∧ (port s 3).state = 2 ∧ (port s 3).outq = [] ∧ ({ pkt 1 0 0 0 0 [] with seq := 1 } : Packet).seq ≠ (port s 3).recvSeq ∧
      packetForm (pkt 9 0 0 0 0 (toLE 2 65535)) = true ∧ packetForm (pkt 8 0 0 0 0 (zeroBytes 8)) = true := by
  decide +kernel

/-- Page 0 of bulk space of context 1 on page 5 of stack 0, in the front end's reach. -/
def remote0 : State :=
  let s := withPort upPort (tables true 0x5002F base)
  { s with trans := { TransSt.reset with frontTlb := [(0, ⟨0, [some ⟨1, 2 ^ 47, false, 0x5002F⟩]⟩)] } }

/-- The place that an ingress request reaches. -/
def reached (s : State) (x : Packet) : Option (List (Nat × Nat)) :=
  match ingressChecks (takePacket s 3 x) 3 x with
  | .go l _ => some l
  | _ => none

/-- RemoteRequests: WRITE of one byte and of 4 KiB, READ of both, ATOMIC of both sizes; a sender without a row, and a context that does not exist. -/
theorem witness_remoteRequests : ∀ x ∈ ([(pkt 1 0 0 0 (2 ^ 47 + 65535) [7#8], 1, 0x5FFFF), (pkt 1 0 0 0x83FF (2 ^ 47) (zeroBytes 4096), 4096, 0x50000),
      (pkt 2 1 0 0 (2 ^ 47) [], 1, 0x50000), (pkt 2 4096 0 0 (2 ^ 47) [], 4096, 0x50000), (pkt 3 0 0x20 0 (2 ^ 47 + 4) (zeroBytes 32), 4, 0x50004),
      (pkt 3 0 0x39 0 (2 ^ 47 + 8) (zeroBytes 32), 8, 0x50008)] : List (Packet × Nat × Nat)),
    portClocked remote0 3 = true ∧ (port remote0 3).state = 2 ∧ (port remote0 3).outq = [] ∧ x.1.seq = (port remote0 3).recvSeq ∧ packetForm x.1 = true ∧
      reached remote0 x.1 = some [(x.2.2, x.2.1)] ∧ rangeUp remote0 x.2.2 x.2.1 = true ∧ poisonedIn remote0 x.2.2 x.2.1 = [] ∧
      accessOk remote0 4163 x.2.2 x.2.1 true = true ∧ accessOk remote0 4163 x.2.2 x.2.1 false = true ∧
      ceilDiv (32 + ceilDiv x.2.1 32 * 32) 256 ≤ creditsHeld (port remote0 3) 2 ∧ rowValid (accRow remote0 4162) = false ∧
      rowValid (accRow remote0 (4161 + x.1.src)) = true ∧ rowPort (accRow remote0 (4161 + x.1.src)) 3 = true ∧ find remote0.ctxs 4095 = none := by
  decide +kernel

/-- RemoteRequests: a WRITE that names a held counter of a context on its cores, and one of a context off them; a request that a walk
found not to translate. -/
theorem witness_remoteCounterWrites : let x := pkt 1 0 0 0x83FF (2 ^ 47) (zeroBytes 32)
    (let s : State := { remote0 with ctxs := remote0.ctxs.map (fun e => (e.1, { e.2 with heldCtrs := [1023] })) }
     s.mem.due = [] ∧ reached s x = some [(0x50000, 32)] ∧ bit x.counter 15 = true ∧ bits x.counter 9 0 = 1023 ∧
       (find s.ctxs 1).any (fun c => c.state == .resident && c.heldCtrs == [1023]) = true) ∧
    (let s : State := { remote0 with ctxs := remote0.ctxs.map (fun e => (e.1, { e.2 with state := .idle, saveBase := 0x100000 })) }
     s.mem.due = [] ∧ reached s x = some [(0x50000, 32)] ∧ (find s.ctxs 1).any (fun c => c.state == .idle && c.heldCtrs == [] &&
       rangeUp s (backingPa c 1023) 4 && poisonedIn s (backingPa c 1023) 4 == [] && decide (0x50000 + 32 ≤ backingPa c 1023)) = true) ∧
    (let s := setPort remote0 3 { port remote0 3 with refused := true }
     (port s 3).refused = true ∧ reached s x = none ∧ cachedVa (2 ^ 47) = false ∧ cachedVa (2 ^ 47 + reqBytes x - 1) = false ∧
       (find s.ctxs 1).any (fun c => c.state == .resident && c.partition == rowPart (accRow s 4163)) = true ∧ rowPort (accRow s 4163) 3 = true) := by
  decide +kernel

/-- RemoteAnswers: ACK and DATA for a station, RESULT for a thread, NACK of each reason. -/
theorem witness_remoteAnswers : (∀ x ∈ ([(4, []), (5, [1#8, 2#8])] : List (Nat × List Byte)),
      let z := { queued0 (desc0 0 [1, 7] 1 0 0) 6 with stations := [StationSt.idle, { StationSt.idle with waits := true, awaits := 1 }] }
      let s := withPort { upPort with waits := [(9, .station 0 6 1, 0, 4)] } (about 0 group0 (fun k => { k with draughts := [z] }))
      let p := pkt x.1 0 0 0 0 x.2
      portClocked s 3 = true ∧ (port s 3).state = 2 ∧ p.seq = (port s 3).recvSeq ∧ packetForm p = true ∧
        (port s 3).waits.find? (fun w => w.1 == p.tag) = some (9, .station 0 6 1, 0, 4) ∧ z ∈ (coreSt s 0).draughts ∧ 1 < z.stations.length) ∧
    (let s := withPort { upPort with waits := [(9, .lane 0 0, 0, 31 + 32 * 255 + 2 ^ 20 * 1)] } (about 0 { group0 with regs := 256 })
     packetForm (pkt 6 0 0 0 0 (zeroBytes 8)) = true ∧ (port s 3).waits.find? (fun w => w.1 == 9) = some (9, .lane 0 0, 0, 31 + 32 * 255 + 2 ^ 20 * 1) ∧
       groupAt s 0 0 = some { group0 with regs := 256 }) ∧
    (∀ a ∈ [1, 2, 3, 4], packetForm (pkt 7 a 0 0 0 []) = true) := by
  decide +kernel

/-- RemoteAnswers: ATR of one thread, of each size, through a window of a peer. -/
theorem witness_atr : ∀ sz ∈ [2, 3], let w := wordA 2 sz 8 4 6 5 0
    let g := { single 0 0 with lanes := [(32 * 4, 8), (32 * 5, 0x100)] }
    let e := toLE 16 (2 ^ 47 + 2 ^ 48 * 1 + 2 ^ 64 * 4096 + 2 ^ 104 * 2 + 2 ^ 110 * 3 + 2 ^ 112 * 2)
    let s := about w g id (withPort upPort (handled e))
    Meets s w g mATOM 2 (fun t => (coreSt s t.core).stores == [] && s.mem.slices == [] && t.g.firstLoad == none && t.active == [0] && atomOk t false 2 && wScope t.w == 5 &&
      (match atrUse (fetched s g) t (2 ^ wType t.w) 0 with
        | some (e, o, n) => n == 3 && (heBase e + o) % 2 ^ wType t.w == 0 && windowPort (fetched s g) t.g.ctx n e && hePeerCtx e == 1
        | none => false) && portRoom (fetched s g) 3 1 && (port s 3).outq == [] && decide (1 ≤ creditsHeld (port s 3) 1)) :=
  meets_all (by decide +kernel)

/-! The tick ring. -/

/-- A module on the ring at position 5, in a lock state. -/
def onTheRing (lock : Nat) : State :=
  { base with ring := { base.ring with position := 5, originates := lock == 0, edge16 := some 32000, hop16 := 7 }, tick := { base.tick with lock := lock } }

/-- A frame with an empty management cell. -/
def frame0 (origin aux : Nat) (ok : Bool) : Frame := ⟨origin, 0, 0xFF, toLE 1 0xFF ++ zeroBytes 7, aux, ok⟩

/-- RingFrames: frames from below, from above, of the module's own, and one whose CRC fails; missing edges. -/
theorem witness_ring : (∀ l ∈ [1, 2, 3], ∀ a ∈ [0, 2 ^ 63, 2 ^ 5], let s := onTheRing l
      let f := frame0 4 a true
      onRing s = true ∧ s.ring.bypass = false ∧ s.ring.listening = false ∧ f.origin ≠ s.ring.position ∧ f.origin < s.ring.position ∧ s.tick.lock ≠ 0 ∧
        fieldLE f.mgmt 0 1 = 0xFF ∧ s.ring.mgmtOut = [] ∧ s.ring.dupPos = false ∧ s.ring.edge16 = some 32000 ∧ bit f.aux s.ring.position = (a == 2 ^ 5)) ∧
    (let s := onTheRing 0
     onRing s = true ∧ s.ring.bypass = false ∧ forwardsOnly s = false ∧ s.ring.position < (frame0 6 0 true).origin ∧ (frame0 4 0 true).origin < s.ring.position ∧
       (frame0 5 0 true).origin = s.ring.position ∧ s.ring.originates = true ∧ s.tick.lock = 0 ∧ s.ring.position < 64 ∧ s.ring.mgmtOut = [] ∧
       (frame0 6 0 false).crcOk = false) ∧
    (∀ l ∈ [1, 2], ∀ n ∈ [2, 3], let s : State := { onTheRing l with tick := { (onTheRing l).tick with missing := n } }
      s.tick.lock = l ∧ s.tick.missing = n) := by
  decide +kernel

/-- RingFrames: TICK_INFO whose edge, at 1,000 ns or 2,000 ns, lies near the module's boundary or not, the first or the second in a row. -/
theorem witness_tickInfo : ∀ x ∈ ([(16000, 0, none), (16000, 1, some (0, 0xFFFE)), (32000, 1, some (0, 0xFFFF))] : List (Nat × Nat × Option (Nat × Nat))),
    let s0 := onTheRing 3
    let s : State := { s0 with ring := { s0.ring with edge16 := some x.1, lastInfo := x.2.2 }, tick := { s0.tick with good := x.2.1 } }
    let f := { frame0 4 0 true with tickLo := 0xFFFF }
    edgeNear s (edgeOf x.1 0) ((16 * (restoreB s (bits f.aux 39 0) : Int) - edgeOf x.1 0) / 16) = (x.1 == 16000) ∧ s.ring.dupPos = false ∧
      s.tick.good = x.2.1 ∧ ((x.2.2.map (fun i => (i.2 + 1) % 65536)) = some f.tickLo ↔ x.2.2 = some (0, 0xFFFE)) := by
  decide +kernel

/-- Surveys: a census due at the master; a token at its module, and the hop measured with positions 5 and 9 in the census, and with none; a message whose cells stop. -/
theorem witness_surveys : (let s := onTheRing 0
     s.tick.lock = 0 ∧ s.ring.originates = true ∧ s.ring.surveying = false) ∧
    (let s := onTheRing 1
     (frame0 4 5 true).aux % 256 = s.ring.position ∧ s.ring.bypass = false ∧ s.ring.dupPos = false) ∧
    (let s : State := { onTheRing 1 with ring := { (onTheRing 1).ring with surveying := true, token := some 5, census := 2 ^ 5 + 2 ^ 9 } }
     s.ring.surveying = true ∧ s.ring.token = some s.ring.position ∧ s.tick.lock ≠ 0 ∧ s.ring.census ≠ 0 ∧
       ((List.range 64).map (fun i => (s.ring.position + 1 + i) % 64)).find? (fun q => bit s.ring.census q) = some 9) ∧
    (let s : State := { onTheRing 1 with ring := { (onTheRing 1).ring with surveying := true, token := some 5 } }
     s.ring.surveying = true ∧ s.ring.token = some s.ring.position ∧ s.tick.lock ≠ 0 ∧ s.ring.census = 0) ∧
    (let s : State := { base with ring := { base.ring with mgmtIn := [(4, 1, [1#8])] } }
     (4, 1, [1#8]) ∈ s.ring.mgmtIn) := by
  decide +kernel

/-! The dictionary. -/

/-- The module with its link to the host up and an I3C address. -/
def linked : State := { base with front := { base.front with linkUp := true }, dict := { base.dict with i3cAddr := 8 } }

/-- A request (R402). -/
def rq (op count idx sub ty len : Nat) (b : List Byte) : List Byte :=
  toLE 1 1 ++ toLE 1 op ++ toLE 1 9 ++ toLE 1 count ++ toLE 2 idx ++ toLE 1 sub ++ toLE 1 ty ++ toLE 2 len ++ zeroBytes 6 ++ b

/-- What an access gives: type, size and whether it takes effect at the next boundary. -/
def access (s : State) (t : Transport) (idx sub : Nat) (write : Bool) : Nat × Nat × Bool :=
  match objAccess s t idx sub write with
  | .inl d => (d.ty, d.size, d.next)
  | .inr code => (0, code, false)

/-- DictionaryRequests: each operation over both MCTP bindings, granted and not; a set of one object and of sixteen; a write that is staged,
and one of the calendar; a request that breaks the form; the mailbox. -/
theorem witness_dictionary : (∀ t ∈ [Transport.mctpPcie 9 0, .mctpI3c 255 7], reachesDict linked t = true ∧
      (∀ r ∈ [rq 1 1 0x1010 1 0 0 [], rq 1 1 0x0FFF 1 0 0 [], rq 4 1 0x2000 1 0 0 [], rq 3 1 0 0 0 0 (toLE 4 0x12000), rq 3 16 0 0 0 0 (zeroBytes 64)],
        rqOk r = true ∧ r.length ≤ 272 ∧ dictServes linked t r = true ∧ requesterBusy linked t = false)) ∧
    (objAccess linked (.mctpPcie 9 0) 0x1010 1 false).isLeft = true ∧ (objAccess linked (.mctpPcie 9 0) 0x0FFF 1 false).isLeft = false ∧
    (let a := access linked (.mctpPcie 9 0) 0x2000 1 true
     let r := rq 2 1 0x2000 1 a.1 a.2.1 (toLE a.2.1 20)
     a.2.2 = true ∧ rqOk r = true ∧ rqType r = a.1 ∧ rqLength r = a.2.1 ∧ (stageEntry linked (.mctpPcie 9 0)).isSome = true ∧
       (match objAccess linked (.mctpPcie 9 0) 0x2000 1 true with
        | .inl d => inRange linked d 0x2000 1 (ofLE (r.drop 16))
        | .inr _ => false) = true) ∧
    (let a := access linked (.mctpI3c 9 0) 0x1010 1 true
     let r := rq 2 1 0x1010 1 a.1 a.2.1 (toLE a.2.1 (calMake 2399 12 31 23 59 59))
     a.2.2 = false ∧ rqOk r = true ∧ rqLength r = a.2.1 ∧
       (match objAccess linked (.mctpI3c 9 0) 0x1010 1 true with
        | .inl d => inRange linked d 0x1010 1 (ofLE (r.drop 16))
        | .inr _ => false) = true) ∧
    rqOk (rq 1 2 0x1010 1 0 0 []) = false ∧
    (let a := access linked (.mailbox 0) 0x2000 1 false
     reachesDict linked (.mailbox 0) = true ∧ linked.dict.mboxBusy.contains 0 = false ∧ 1 ≤ a.2.1 ∧ a.2.1 ≤ 4 ∧ a.1 ≠ 0 ∧ dictServes linked (.mailbox 0) (rq 1 1 0x2000 1 0 0 []) = true) ∧
    HostMayWrite linked 0x700400 :=
  ⟨by decide +kernel, by decide +kernel, by decide +kernel, by decide +kernel, by decide +kernel, by decide +kernel, by decide +kernel, mayWrite_of (by decide +kernel)⟩

/-- ControlMessages: both bindings, and the calendar at its end. -/
theorem witness_control : (∀ b ∈ [Binding.pcie, .i3c], bindingUp linked b = true) ∧ linked.power.phase ≠ .off ∧ linked.power.phase ≠ .held ∧
    ({ linked with dict := { linked.dict with calendar := calMake 2399 12 31 23 59 59 } } : State).dict.calendar = calMake 2399 12 31 23 59 59 := by
  decide +kernel

/-! Clocks, power, start-up. -/

/-- The module in a phase and a stage. -/
def staged (p : ResetPhase) (n : Nat) (s : State := base) : State := { s with power := { s.power with phase := p, stage := n } }

/-- A check of a list of conditions, each of its own. -/
def all_ (l : List Bool) : Bool := l.all id

/-- ClockFailures: the ends of the monitor's range and the counts next to them; the root PLL with and without the oscillator; the hold. -/
theorem witness_clocks : (base.clock.oscOk = true ∧ base.clock.oscFail = false ∧ onRoot base = true ∧ base.clock.hold = false ∧ base.clock.rootLock = true ∧
      base.power.phase = .done ∧ base.power.image.isSome = true) ∧
    (∀ n ∈ [8959, 8960, 11520, 11521], (8960 ≤ n ∧ n ≤ 11520) ∨ n < 8960 ∨ 11520 < n) ∧
    (let s : State := { base with clock := { clock1 with oscFail := true } }
     s.clock.rootLock = true ∧ onRoot s = true ∧ s.clock.hold = false ∧ s.clock.oscFail = true) ∧
    (let s : State := { staged .cold 1 with clock := { clock1 with oscOk := false } }
     2 ≤ s.power.rails ∧ s.power.railsOff = false ∧ s.clock.oscOk = false ∧ s.power.phase = .cold ∧ s.power.stage = 1 ∧ s.power.rails = 7) ∧
    (let s : State := { base with clock := { clock1 with refStable := false } }
     s.clock.oscOk = true ∧ s.clock.refStable = false ∧ s.clock.inRange = true ∧ onRoot s = true) ∧
    (let s : State := { base with clock := { clock1 with rootLock := false, pcieLock := false, stackLock := 0, srLock := 0, fabricLock := 0 } }
     s.clock.refStable = true ∧ s.clock.rootLock = false ∧ s.clock.pcieLock = false ∧ 4 ≤ s.power.stage ∧ onRoot s = true ∧ bit s.clock.gateStack 11 = true ∧
       bit s.clock.stackLock 11 = false ∧ bit s.clock.gateSr 15 = true ∧ bit s.clock.srLock 15 = false ∧ bits s.clock.gatePort 15 12 ≠ 0 ∧ bit s.clock.fabricLock 3 = false) ∧
    (∀ b ∈ [true, false], let s : State := { staged .warm 0 with clock := { clock1 with hold := true, refStable := b } }
      (1#32).getLsbD 0 = true ∧ s.clock.hold = true ∧ s.clock.refStable = b ∧ s.clock.rootLock = true ∧ s.clock.inRange = true ∧ s.power.phase = .warm) := by
  decide +kernel

/-- ClockGating: writes of the gate registers, of units in use and not. -/
theorem witness_gates : HostMayWrite base 0x300020 ∧ HostMayWrite base 0x300024 ∧ HostMayWrite base 0x300028 ∧ HostMayWrite base 0x30002C ∧
    (partOfStack base 11).isSome = true ∧ srTotal base ≠ 0 ∧ (port base 15).state = 0 ∧ (port (setPort base 15 upPort) 15).state ≠ 0 ∧
    (let s := setObj (setObj base 0x3000 2 0x7FF) 0x3000 4 0
     (partOfStack s 11).isSome = false ∧ srTotal s = 0) :=
  ⟨mayWrite_of (by decide +kernel), mayWrite_of (by decide +kernel), mayWrite_of (by decide +kernel), mayWrite_of (by decide +kernel), by decide +kernel⟩

/-- PowerAndRails: no input and input; an input fault; the sequence at its last rail, with the oscillator and without; a retry; a trip. -/
theorem witness_power : (let s : State := { base with power := { power1 with input := false, tripHeld := some 5 } }
     s.power.input = false ∧ s.power.tripHeld = some 5) ∧ base.power.input = true ∧
    (∀ b ∈ [true, false], let s : State := { base with power := { power1 with phase := .cold, stage := 1, rails := 6 }, clock := { clock1 with oscOk := b } }
      s.power.phase = .cold ∧ s.power.stage = 1 ∧ s.power.railsOff = false ∧ s.power.rails < 7 ∧ s.power.rails = 6 ∧ s.clock.oscOk = b) ∧
    (let s : State := { base with power := { power1 with railsOff := true } }
     s.power.railsOff = true ∧ s.power.railRetry = false) ∧
    (∀ b ∈ [true, false], let s : State := { base with power := { power1 with phase := .off, tripHeld := some 4, tripWait := b } }
      s.power.phase = .off ∧ s.power.tripHeld = some 4 ∧ s.power.tripOver = false ∧ s.power.tripWait = b ∧ s.pins.modReset = false) ∧
    base.pins.modReset = false ∧ base.power.phase ≠ .off := by
  decide +kernel

/-- Samples: voltages about the range, powers about 110 % of the rating, temperatures about 102 °C, 105 °C and 110 °C. -/
theorem witness_samples : base.power.phase ≠ .off ∧
    (∀ d ∈ [0, 1], let m : RailSample := ⟨List.replicate 16 1, moduleRating base * 11 / 10 + d, if d = 0 then 4799 else 6001⟩
      (m.volt < 4800 ∨ 6000 < m.volt) ∧ (moduleRating base * 11 < m.avg100 * 10 ∨ m.avg100 * 10 ≤ moduleRating base * 11) ∧ m.charges[15]? = some 1) ∧
    (∀ x ∈ ([(880, false), (840, true)] : List (Int × Bool)), 880 ≤ x.1 ∨ (x.2 = true ∧ 840 ≤ x.1)) ∧
    (∀ x ∈ ([(815, true), (816, false), (879, false), (839, true)] : List (Int × Bool)), x.1 < 880 ∧ (x.2 = true → x.1 < 840)) := by
  decide +kernel

/-- StartUp: the module at each stage. -/
theorem witness_startUp : all_ [
    ([none, some fuses1].all (fun f => let s : State := { staged .cold 2 with pins := { base.pins with burned := f } }
      s.power.phase == .cold && s.power.stage == 2 && s.clock.rootLock && s.clock.pcieLock && s.pins.burned == f && fuses1.ok)),
    (let s := staged .cold 3; s.power.stage == 3 && !s.clock.hold && imageOk ⟨0x51454D31, 1, 3670016, true, 0xFFFF⟩ && !s.power.warmPending && !s.power.slotB),
    !imageOk ⟨0x51454D31, 1, 3670017, true, 0⟩ && !imageOk ⟨0x51454D31, 1, 1, false, 0⟩,
    (let s : State := { staged .cold 3 with power := { power1 with phase := .cold, stage := 3, slotB := true } }; s.power.slotB && !s.clock.hold),
    (let s := setStack (staged .cold 4) 11 { StackSt.reset with tries := 2, retire := [5] }
     mayTrain s && bit s.clock.gateStack 11 && bit s.clock.stackLock 11 && (stackSt s 11).state == .absent && decide ((stackSt s 11).tries < 3)),
    (let s := setPkg (staged .cold 4) 15 PkgSt.reset
     mayTrain s && bit s.clock.gateSr 15 && bit s.clock.srLock 15 && !(pkgSt s 15).trained && !(pkgSt s 15).failed && (List.range 12).all (stackSettled s) &&
       (List.range 15).all (pkgSettled s)),
    atStage (staged .cold 5) 5, atStage (staged .warm 7) 7,
    (let s : State := { staged .cold 8 with ring := { base.ring with listening := true } }; atStage s 8 && s.ring.listening),
    (let s : State := { staged .warm 0 with power := { power1 with phase := .warm, stage := 0, configReady := false } }
     s.power.phase == .warm && s.power.stage == 0 && !s.power.configReady),
    (let s : State := { staged .held 0 with pins := { base.pins with modReset := true } }; s.pins.modReset && s.power.phase == .held),
    ([true, false].all (fun b => let s : State := { base with pins := { base.pins with perst := false, perstSeen := b } }
      !s.pins.perst && s.power.phase == .done && !s.clock.hold && s.pins.perstSeen == b)),
    (let s : State := { base with pins := { base.pins with perst := true } }; s.pins.perst)] = true := by
  decide +kernel

/-- PartitionResets: GO for a partition with a context, while none is reset and while one is; no GO. -/
theorem witness_partitionReset : HostMayWrite base offPartReset ∧ (0x80000000#32).getLsbD 31 = true ∧ (0x80000000#32).toNat % 16 = 0 ∧
    base.power.partBusy = false ∧ ((find base.ctxs 1).map Context.partition) = some 0 ∧ ((({ base with ctxs := [(1, ctx1)] } : State).ctxs.filter (fun e => e.2.partition == 0)).map Prod.fst) = [1] ∧ 0 ∈ partCores base 0 ∧ 0 ∈ partSlices base 0 ∧
    bit (partStacks base 0) 11 = true ∧ (0x7FFFFFFF#32).getLsbD 31 = false ∧
    ({ base with power := { power1 with partBusy := true } } : State).power.partBusy = true :=
  ⟨mayWrite_of (by decide +kernel), by decide +kernel⟩

/-- ReadsThatClear: the first and the last register of each group may be read. -/
theorem witness_clearing : ∀ off ∈ [offCel 0 + 8, offCel 11 + 8, offStk 11 + 4, offPkg 15, offPkg 15 + 4, offAtc 15 + 0x14, offPortErr 15, offPool 15 + 8,
      obDie 0 + 0x108, obDie 1 + 0x118], blockDrops base off = false ∧ regGated base off = false ∧ base.front.d3hot.contains 0 = false ∧
    regsGranted base 0 (blockOf off) false = true := by
  decide +kernel

/-- RegisterWrites: the registers it names may be written; an offset that the table leaves out. -/
theorem witness_registerWrites : (∀ off ∈ [0x004, 0x10003C, 0x300004, 0x30801C, 0x300020, 0x300024, 0x300028, 0x30002C, 0x308008, 0x30800C, 0x308010, 0x200010, 0x034, 0x020],
      HostMayWrite base off) ∧ regKnown base 0xFFFFFC = false ∧ 0xFFFFFC % 4 = 0 ∧ 0xFFFFFC < 0x1000000 :=
  ⟨fun off h => mayWrite_of (List.all_eq_true.mp (by decide +kernel : List.all _ (mayWrite base) = true) off h), by decide +kernel⟩

/-- TestPortAndSampling: a test port without rails and with; 64 records for a ring of 4,096; a clear with the clock and without. -/
theorem witness_sampling : base.power.rails ≠ 0 ∧ State.reset.power.rails = 0 ∧
    (let s := setObj (about 0 group0 (fun k => { k with samples := List.replicate 64 (zeroBytes 32) })) 0x6010 1 0x1000
     64 ≤ (coreSt s 0).samples.length ∧ partOfCore s 0 = some 0 ∧ obj s (0x6010 + 0) 1 = 0x1000 ∧ (∀ r ∈ (coreSt s 0).samples, r.length = 32) ∧
       s.mem.due = [] ∧ rangeUp s 0x1000 (32 * (2 + 2 ^ obj s (0x6010 + 0) 2)) = true ∧ poisonedIn s 0x1000 (32 * (2 + 2 ^ obj s (0x6010 + 0) 2)) = []) ∧
    HostMayWrite base 0x431004 ∧ base.clock.gateOb = true :=
  ⟨by decide +kernel, by decide +kernel, by decide +kernel, mayWrite_of (by decide +kernel), by decide +kernel⟩

/-! Formats, and the block as a whole. -/

/-- RowPacking, ScaleValues: elements of one bit and of 64; each scaled format's block with the scale that makes it NaN. -/
theorem witness_formats : (1 ≤ 1 ∧ ([1, 0, 3] : List Nat)[2]? = some 3 ∧ 1 ≤ 64) ∧
    (∀ x ∈ ([(0x2B, [0xFF#8]), (0x48, [0x7F#8, 0x7F#8]), (0x6B, [0#8, 0x7C#8])] : List (Nat × List Byte)), fmtOk x.1 = true ∧ elemOf x.1 ≠ fmtCB2 ∧
      (zeroBytes (runElemBytes (elemOf x.1)) ++ x.2).length = runElemBytes (elemOf x.1) + runScaleBytes (modeOf x.1)) := by
  decide +kernel

/-- CommandFrames, MemoryFormKept: commands that answer a next state, and a step from a state whose memory has its form. -/
theorem witness_block : State.reset.memoryForm ∧ base.memoryForm ∧ (∃ u, step State.reset = .next u) ∧ (∃ u, exec .powerApplied State.reset = .next u) :=
  ⟨⟨rfl, rfl⟩, ⟨rfl, rfl⟩, ⟨_, rfl⟩, ⟨_, rfl⟩⟩

/-! Well-formedness: each check refuses an operand out of range (R3, R9, R10, R45, R55, R124, R149, R213, R300, R304, R309, R337, R369, R379, R388, R402, R408 to
R412, R415, R438, R452). -/

/-- One command for each check, with one operand out of its range. -/
theorem test_illFormed_refused : ∀ i ∈ ([.draughtActivate 144, .lintAdd 0 64 0, .nop 8193, .contextSlotLoad 4096, .walkStart 2, .matvec 12, .srPackageTrained 16 true, .atticFlush 16, .portEnable 16,
    .pageMoveStart 16, .configRequest 64, .stationTileStart 0 0 8, .reorderEntryAged 0 64 0, .remoteCounterFetched 0 1024, .feVfDoorbell 1 64 0,
    .bar2Access (2 ^ 36) ⟨false, 1, []⟩, .mgmtCellTimeout 64 0, .mgmtCellTimeout 0 64, .entdaa 128, .registerWrite 0 0x1000000 4 0, .registerWrite 0 0 9 0,
    .registerWrite 0 0 0 0, .registerWrite 0 0 4 (2 ^ 32), .mcStkErrRead 0 ⟨0, 3⟩, .mcStkErrRead 0 ⟨2, 4⟩, .mcStkErrRead 0 ⟨8, 4⟩,
    .storeRoomAccess ⟨0, none, 0, false, 0, [], 0⟩ .ok, .storeRoomAccess ⟨0, none, 2 ^ 41, false, 1, [], 0⟩ .ok, .storeRoomAccess ⟨0, none, 0, true, 2, [0], 0⟩ .ok,
    .bar2Access 0 ⟨true, 2, [0]⟩, .bar2Access 0 ⟨false, 0, []⟩, .ack 0 ⟨256, 0, 0, 0, 0, 0, 0, 0, 0, 0, 0, []⟩, .ack 0 ⟨4, 0, 1, 0, 0, 0, 0, 0, 0, 0, 0, []⟩,
    .normal ⟨256, 0, 0, zeroBytes 8, 0, true⟩, .normal ⟨0, 0, 0, zeroBytes 7, 0, true⟩, .pllLocked (.fabric 4), .pllLocked (.stack 12), .pllLocked (.storeRoom 16),
    .fuseLoadDone ⟨113, 2 ^ 113 - 1, zeroBytes 16, true⟩, .fuseLoadDone ⟨112, 2 ^ 113 - 1, zeroBytes 16, true⟩, .fuseLoadDone ⟨112, (List.range 16).foldl (fun m c => m + 0x7F * 2 ^ (10 * c)) 0, [], true⟩,
    .fuseLoadDone ⟨112, 2 ^ 112 - 1, zeroBytes 16, true⟩,
    .dictRead (.mailbox 64) [], .dictRead (.mctpPcie 256 0) [], .dictRead (.mctpI3c 0 8) [], .dictRead (.ring 64) [], .getEndpointId .i3c ⟨256, 0, []⟩,
    .getEndpointId .i3c ⟨0, 8, []⟩, .railSample ⟨[], 0, 0⟩, .imageVerifyDone (some ⟨2 ^ 32, 0, 0, true, 0⟩), .imageVerifyDone (some ⟨0, 0, 0, true, 2 ^ 16⟩)] : List Instr),
    i.wf = false := by decide +kernel

/-- The highest operands of the same commands are well formed. -/
theorem test_wellFormed_admitted : ∀ i ∈ ([.draughtActivate 143, .lintAdd 143 63 0, .nop 8192, .contextSlotLoad 4095, .walkStart 1, .matvec 11, .portEnable 15,
    .bar2Access (2 ^ 36 - 1) ⟨false, 1, []⟩, .mcStkErrRead 11 ⟨4, 4⟩,
    .fuseLoadDone ⟨112, (List.range 16).foldl (fun m c => m + 0x7F * 2 ^ (10 * c)) 0, zeroBytes 16, true⟩, .railSample ⟨List.replicate 16 0, 0, 0⟩] : List Instr),
    i.wf = true := by decide +kernel
end Sys2Proof.Tests
end

section
/-!
SUPPORT. Frames read off `Flow`, stored bits of registers after an update, controllers and ports after an update.
-/

namespace Sys2Proof.Machine

/-! Frames. -/

/-- The bits of the parts listed, for `Flow`; bits 31 and 32, which stand for no part, are set. -/
def partBits (l : List StatePart) : Nat := l.foldr (fun p m => 2 ^ p.idx ||| m) 0x180000000

theorem StatePart.idx_injective {p q : StatePart} (h : p.idx = q.idx) : p = q := by
  have ctor_ofNat (r : StatePart) : StatePart.ofNat r.idx = r := by cases r <;> rfl
  rw [← ctor_ofNat p, ← ctor_ofNat q, h]

theorem partBits_testBit {l : List StatePart} {p : StatePart} (h : p ∉ l) : (partBits l).testBit p.idx = false := by
  induction l with
  | nil => cases p <;> rfl
  | cons q t ih =>
    rw [List.mem_cons, not_or] at h
    have hq : q.idx ≠ p.idx := fun e => h.1 (StatePart.idx_injective e.symm)
    show (2 ^ q.idx ||| partBits t).testBit p.idx = false
    rw [Nat.testBit_or, ih h.2, Nat.testBit_two_pow_of_ne hq, Bool.or_false]

theorem Flow.only {l : List StatePart} {s u : State} (h : Flow (partBits l) s u) : Only l s u :=
  fun p hp => h.parts p (partBits_testBit hp)

/-- The frame of an operation on s from its `Flow` lemma. -/
theorem FlowR.only {l : List StatePart} {s u : State} {r : Res} (h : FlowR (partBits l) s r) (e : r = .next u) : Only l s u :=
  (h u e).only

theorem Within.parts {a : Nat} (l : List StatePart) (h : a &&& partBits l = a) : Within a (partBits l) := (Within.refl _).of h

/-! Registers. -/

theorem reg_lt (s : State) (off : Nat) : reg s off < 2 ^ 32 := BitVec.isLt _

@[simp] theorem reg_setReg (s : State) (off v : Nat) : reg (setReg s off v) off = v % 2 ^ 32 := by
  show (getD (regReset off) (putD (regReset off) s.regs off (BitVec.ofNat 32 v)) off).toNat = _
  rw [getD_putD_self, BitVec.toNat_ofNat]

@[simp] theorem reg_emit (s : State) (x : Sent) (off : Nat) : reg (emit s x) off = reg s off := rfl

theorem only_setReg (s : State) (off v : Nat) : Only [.regs] s (setReg s off v) :=
  (flow_setReg (Within.parts _ (by decide)) (Flow.refl _ s)).only

theorem onlyRegs_setReg (s : State) (off v : Nat) : OnlyRegs (· = off) s (setReg s off v) := fun _ h => reg_setReg_ne s v h

/-- Taking away from a number the bits that it has in common with a mask clears the bits of the mask. -/
theorem bit_sub_and (a m i : Nat) : bit (a - (a &&& m)) i = (bit a i && !bit m i) := by
  unfold bit
  induction i generalizing a m with
  | zero =>
    have hle : a &&& m ≤ a := Nat.and_le_left
    have hodd : (a &&& m) % 2 = 1 ↔ a % 2 = 1 ∧ m % 2 = 1 := Nat.and_mod_two_eq_one
    have hlow : (a - (a &&& m)) % 2 = 1 ↔ a % 2 = 1 ∧ ¬ m % 2 = 1 := by omega
    simp only [Nat.testBit_zero, ← decide_not, ← Bool.decide_and, hlow]
  | succ i ih =>
    have hle : a &&& m ≤ a := Nat.and_le_left
    have hodd : (a &&& m) % 2 = 1 ↔ a % 2 = 1 ∧ m % 2 = 1 := Nat.and_mod_two_eq_one
    have hhalf : (a - (a &&& m)) / 2 = a / 2 - (a / 2 &&& m / 2) := by
      rw [← Nat.and_div_two]
      omega
    rw [Nat.testBit_succ, Nat.testBit_succ, Nat.testBit_succ, hhalf, ih]

/-- The high half cleared. -/
theorem setBits_high_zero {w : Nat} (h : w < 2 ^ 32) : setBits w 31 16 0 = w % 2 ^ 16 := by
  simp only [setBits, bits, Nat.shiftRight_eq_div_pow, Nat.shiftLeft_eq]
  omega

/-- The low half cleared. -/
theorem setBits_low_zero (w : Nat) : setBits w 15 0 0 = w / 2 ^ 16 * 2 ^ 16 := by
  simp only [setBits, bits, Nat.shiftRight_eq_div_pow, Nat.shiftLeft_eq]
  omega

/-- The whole register cleared. -/
theorem setBits_all_zero {w : Nat} (h : w < 2 ^ 32) : setBits w 31 0 0 = 0 := by
  simp only [setBits, bits, Nat.shiftRight_eq_div_pow, Nat.shiftLeft_eq]
  omega

/-! Controllers, cores and ports. -/

@[simp] theorem stackSt_setStack (s : State) (st : Nat) (v : StackSt) : stackSt (setStack s st v) st = v := by
  simp [stackSt, setStack]

@[simp] theorem stackSt_setStack_ne (s : State) {st k : Nat} (v : StackSt) (h : k ≠ st) : stackSt (setStack s st v) k = stackSt s k := by
  simp [stackSt, setStack, h]

@[simp] theorem pkgSt_setPkg (s : State) (p : Nat) (v : PkgSt) : pkgSt (setPkg s p v) p = v := by
  simp [pkgSt, setPkg]

@[simp] theorem pkgSt_setPkg_ne (s : State) {p k : Nat} (v : PkgSt) (h : k ≠ p) : pkgSt (setPkg s p v) k = pkgSt s k := by
  simp [pkgSt, setPkg, h]

@[simp] theorem port_setPort (s : State) (n : Nat) (v : Port) : port (setPort s n v) n = v := by
  simp [port, setPort]

@[simp] theorem port_setPort_ne (s : State) {n k : Nat} (v : Port) (h : k ≠ n) : port (setPort s n v) k = port s k := by
  simp [port, setPort, h]

/-- A list that has one value at every key it lists. -/
theorem find_const {α : Type} (v : α) (l : List Nat) (k : Nat) : (find (l.map fun c => (c, v)) k).getD v = v := by
  induction l with
  | nil => rfl
  | cons c t ih =>
    simp only [List.map_cons, find]
    split
    · rfl
    · exact ih

end Sys2Proof.Machine
end

section
/-!
Start-up stage by stage (R452 to R457), and the reset pins (R484, R489): the state that each command answers, and statement O57.
-/

namespace Sys2Proof.Machine

section Commands

variable {s : State}

/-! Stage 2: the fuses. -/

theorem execFuseLoadDone_pass {f : Fuses} (hph : s.power.phase = .cold) (hst : s.power.stage = 2) (hroot : s.clock.rootLock = true)
    (hpcie : s.clock.pcieLock = true) (hok : f.ok = true) (hb : s.pins.burned = none ∨ s.pins.burned = some f) :
    execFuseLoadDone f s = .next (linkTrains
      ((s.withPower { s.power with fuses := some f, stage := 3 }).withPins { s.pins with burned := some f })) := by
  rcases hb with hb | hb <;> simp [execFuseLoadDone, hph, hst, hroot, hpcie, hok, hb]

theorem execFuseLoadDone_fail {f : Fuses} (hph : s.power.phase = .cold) (hst : s.power.stage = 2) (hroot : s.clock.rootLock = true)
    (hpcie : s.clock.pcieLock = true) (hok : f.ok = false) : execFuseLoadDone f s = .next (linkTrains (recovery s 2)) := by
  simp [execFuseLoadDone, hph, hst, hroot, hpcie, hok]

/-- Fuses that pass, as burned, lead to stage 3. -/
theorem fuseLoadDone_pass {f : Fuses} (hph : s.power.phase = .cold) (hst : s.power.stage = 2) (hroot : s.clock.rootLock = true)
    (hpcie : s.clock.pcieLock = true) (hok : f.ok = true) (hb : s.pins.burned = none ∨ s.pins.burned = some f) :
    Answers (exec (.fuseLoadDone f) s) fun u => Only [.power, .front, .pins] s u ∧ u.power.stage = 3 ∧ u.power.fuses = some f ∧
      u.power.phase = .cold ∧ u.front.linkUp = (!s.pins.perst) ∧ u.pins.burned = some f := by
  have hu := execFuseLoadDone_pass hph hst hroot hpcie hok hb
  refine ⟨_, hu, (flow_execFuseLoadDone (Within.parts _ (by decide)) (Flow.refl _ s)).only hu, rfl, rfl, hph, ?_, rfl⟩
  simp [linkTrains, onRoot, hph]

/-- Fuses that fail their check lead to recovery. -/
theorem fuseLoadDone_fail {f : Fuses} (hph : s.power.phase = .cold) (hst : s.power.stage = 2) (hroot : s.clock.rootLock = true)
    (hpcie : s.clock.pcieLock = true) (hok : f.ok = false) :
    Answers (exec (.fuseLoadDone f) s) fun u => Only [.power, .front] s u ∧ u.power.phase = .failed ∧ u.power.failCode = 2 ∧
      u.power.configReady = true ∧ u.power.fuses = s.power.fuses := by
  refine ⟨_, execFuseLoadDone_fail hph hst hroot hpcie hok, ?_, rfl, rfl, rfl, rfl⟩
  exact (flow_linkTrains (Within.parts _ (by decide)) (flow_recovery (Within.parts _ (by decide)) (Flow.refl _ s))).only

/-! Stages 3 and 4: the image, and the ports that it has train. -/

/-- A port starts training. -/
def trainPort (s : State) (n : Nat) : State := setPort s n { port s n with enabled := true, state := 1 }

theorem beginTrain_eq (s : State) : beginTrain s =
    (bitsSet 16 ((s.power.image.map ImageHeader.ports).getD 0)).foldl trainPort (s.withPower { s.power with stage := 4 }) := rfl

theorem foldl_trainPort_power (l : List Nat) (s : State) : (l.foldl trainPort s).power = s.power := by
  induction l generalizing s with
  | nil => rfl
  | cons n t ih => exact ih (trainPort s n)

/-- The port trains. -/
def Trains (s : State) (n : Nat) : Prop := (port s n).state = 1 ∧ (port s n).enabled = true

theorem trains_trainPort_self (s : State) (n : Nat) : Trains (trainPort s n) n := by
  simp [Trains, trainPort]

theorem Trains.trainPort {n : Nat} (h : Trains s n) (k : Nat) : Trains (trainPort s k) n := by
  by_cases e : n = k
  · exact e ▸ trains_trainPort_self s n
  · simpa [Trains, Machine.trainPort, e] using h

theorem trains_foldl {n : Nat} (l : List Nat) (s : State) (h : n ∈ l ∨ Trains s n) : Trains (l.foldl trainPort s) n := by
  induction l generalizing s with
  | nil => exact h.resolve_left List.not_mem_nil
  | cons k t ih =>
    refine ih _ ?_
    rcases h with h | h
    · rcases List.mem_cons.mp h with rfl | h
      · exact .inr (trains_trainPort_self s n)
      · exact .inl h
    · exact .inr (h.trainPort k)

@[simp] theorem beginTrain_power (s : State) : (beginTrain s).power = { s.power with stage := 4 } := by
  rw [beginTrain_eq, foldl_trainPort_power, withPower_power]

theorem trains_beginTrain {h : ImageHeader} (hi : s.power.image = some h) {n : Nat} (hn : n < 16) (hb : bit h.ports n = true) :
    Trains (beginTrain s) n := by
  refine trains_foldl _ _ (.inl ?_)
  simpa [bitsSet, hi, hb] using hn

theorem execImageVerifyDone_pass {h : ImageHeader} (hph : s.power.phase = .cold) (hst : s.power.stage = 3) (hc : s.clock.hold = false)
    (hok : imageOk h = true) (hw : s.power.warmPending = false) : execImageVerifyDone (some h) s =
      .next (beginTrain (s.withPower { s.power with image := some h, configReady := true })) := by
  simp [execImageVerifyDone, atStage, applyImage, Option.filter, hph, hst, hc, hok, hw]

/-- The first image that passes is applied, and training begins. -/
theorem imageVerifyDone_pass {h : ImageHeader} (hph : s.power.phase = .cold) (hst : s.power.stage = 3) (hc : s.clock.hold = false)
    (hok : imageOk h = true) (hw : s.power.warmPending = false) :
    Answers (exec (.imageVerifyDone (some h)) s) fun u => Only [.ports, .power] s u ∧
      u.power.image = some h ∧ u.power.configReady = true ∧ u.power.stage = 4 ∧ u.power.phase = .cold ∧
      ∀ n, n < 16 → bit h.ports n = true → (port u n).state = 1 ∧ (port u n).enabled = true := by
  refine ⟨_, execImageVerifyDone_pass hph hst hc hok hw, ?_, ?_, ?_, ?_, ?_, fun n hn hb => trains_beginTrain rfl hn hb⟩
  · exact (flow_beginTrain (Within.parts _ (by decide)) (flow_withPower (Within.parts _ (by decide)) (Flow.refl _ s) _)).only
  all_goals simp [hph]

theorem execImageVerifyDone_reject {img : Option ImageHeader} (hph : s.power.phase = .cold) (hst : s.power.stage = 3)
    (hc : s.clock.hold = false) (hbad : img.filter imageOk = none) : execImageVerifyDone img s =
      .next (if s.power.slotB then recovery s 1 else s.withPower { s.power with slotB := true }) := by
  simp [execImageVerifyDone, atStage, hph, hst, hc, hbad]

/-- Slot B is tried after slot A. -/
theorem imageVerifyDone_slotA {img : Option ImageHeader} (hph : s.power.phase = .cold) (hst : s.power.stage = 3)
    (hc : s.clock.hold = false) (hbad : img.filter imageOk = none) (hA : s.power.slotB = false) :
    exec (.imageVerifyDone img) s = .next (s.withPower { s.power with slotB := true }) := by
  simp [execImageVerifyDone_reject hph hst hc hbad, hA]

/-- Both slots failed: recovery. -/
theorem imageVerifyDone_slotB (hph : s.power.phase = .cold) (hst : s.power.stage = 3) (hc : s.clock.hold = false)
    (hB : s.power.slotB = true) :
    Answers (exec (.imageVerifyDone none) s) fun u => Only [.power] s u ∧ u.power.phase = .failed ∧
      u.power.failCode = 1 ∧ u.power.image = s.power.image := by
  refine ⟨recovery s 1, ?_, ?_, rfl, rfl, rfl⟩
  · simp [execImageVerifyDone_reject hph hst hc (img := none) rfl, hB]
  · exact (flow_recovery (Within.parts _ (by decide)) (Flow.refl _ s)).only

/-! Stage 4: stacks and packages train. -/

@[simp] theorem trainDone_mem (s : State) : (trainDone s).mem = s.mem := by
  unfold trainDone
  split <;> rfl

@[simp] theorem stackSt_trainDone (s : State) (st : Nat) : stackSt (trainDone s) st = stackSt s st := by simp [stackSt]

@[simp] theorem pkgSt_trainDone (s : State) (p : Nat) : pkgSt (trainDone s) p = pkgSt s p := by simp [pkgSt]

/-- Stage 4 ends when every stack and every package is settled. -/
theorem trainDone_stage (hph : s.power.phase = .cold) (hst : s.power.stage = 4) (hs : ∀ i, i < 12 → stackSettled s i = true)
    (hp : ∀ i, i < 16 → pkgSettled s i = true) : (trainDone s).power.stage = 5 := by
  have hs : (List.range 12).all (stackSettled s) = true := List.all_eq_true.mpr fun i hi => hs i (List.mem_range.mp hi)
  have hp : (List.range 16).all (pkgSettled s) = true := List.all_eq_true.mpr fun i hi => hp i (List.mem_range.mp hi)
  simp [trainDone, hph, hst, hs, hp]

section Stack

variable {st : Nat} (hm : mayTrain s = true) (hst : st < 12) (hg : bit s.clock.gateStack st = true)
  (hl : bit s.clock.stackLock st = true) (ha : (stackSt s st).state = .absent) (ht : (stackSt s st).tries < 3)

include hm hst hg hl ha ht

theorem execStackTrained_ok : execStackTrained st true s =
    .next (trainDone (setStack s st { stackAnew s st with state := .online, scrubbing := true })) := by
  simp [execStackTrained, hm, hst, hg, hl, ha, ht]

theorem execStackTrained_fail : execStackTrained st false s =
    .next (trainDone (setStack s st { stackSt s st with tries := (stackSt s st).tries + 1 })) := by
  simp [execStackTrained, hm, hst, hg, hl, ha, ht]

theorem stackTrained_ok : Answers (exec (.stackTrained st true) s) fun u => Only [.power, .stackSts] s u ∧
    (stackSt u st).state = .online ∧ ∀ k, k ≠ st → stackSt u k = stackSt s k := by
  have hu := execStackTrained_ok hm hst hg hl ha ht
  refine ⟨_, hu, (flow_execStackTrained (Within.parts _ (by decide)) (Flow.refl _ s)).only hu, ?_, fun k hk => ?_⟩
  · simp
  · simp [hk]

theorem stackTrained_fail : Answers (exec (.stackTrained st false) s) fun u => Only [.power, .stackSts] s u ∧
    (stackSt u st).state = .absent ∧ (stackSt u st).tries = (stackSt s st).tries + 1 := by
  have hu := execStackTrained_fail hm hst hg hl ha ht
  refine ⟨_, hu, (flow_execStackTrained (Within.parts _ (by decide)) (Flow.refl _ s)).only hu, ?_, ?_⟩
  · simp [ha]
  · simp

end Stack

section Package

variable {p : Nat} (hm : mayTrain s = true) (hp : p < 16) (hg : bit s.clock.gateSr p = true) (hl : bit s.clock.srLock p = true)
  (ht : (pkgSt s p).trained = false) (hf : (pkgSt s p).failed = false)

include hm hp hg hl ht hf

theorem execSrPackageTrained_ok : execSrPackageTrained p true s = .next (trainDone (setPkg s p { PkgSt.reset with trained := true })) := by
  simp [execSrPackageTrained, hm, hp, hg, hl, ht, hf]

theorem execSrPackageTrained_fail : execSrPackageTrained p false s = .next (trainDone (setPkg s p
    { pkgSt s p with tries := (pkgSt s p).tries + 1, failed := decide (3 ≤ (pkgSt s p).tries + 1) })) := by
  simp [execSrPackageTrained, hm, hp, hg, hl, ht, hf]

theorem srPackageTrained_ok : Answers (exec (.srPackageTrained p true) s) fun u => Only [.power, .pkgs] s u ∧
    (pkgSt u p).trained = true ∧ (s.power.phase = .cold → s.power.stage = 4 → (∀ i, i < 12 → stackSettled s i = true) →
      (∀ i, i < 16 → i ≠ p → pkgSettled s i = true) → u.power.stage = 5) := by
  have hu := execSrPackageTrained_ok hm hp hg hl ht hf
  refine ⟨_, hu, (flow_execSrPackageTrained (Within.parts _ (by decide)) (Flow.refl _ s)).only hu, ?_, ?_⟩
  · simp
  · intro hph hst hs hps
    refine trainDone_stage hph hst hs fun i hi => ?_
    by_cases e : i = p
    · simp [pkgSettled, e]
    · simpa [pkgSettled, e] using hps i hi e

theorem srPackageTrained_fail : Answers (exec (.srPackageTrained p false) s) fun u => Only [.power, .pkgs] s u ∧
    (pkgSt u p).trained = false ∧ (pkgSt u p).failed = decide (2 ≤ (pkgSt s p).tries) := by
  have hu := execSrPackageTrained_fail hm hp hg hl ht hf
  refine ⟨_, hu, (flow_execSrPackageTrained (Within.parts _ (by decide)) (Flow.refl _ s)).only hu, ?_, ?_⟩
  · simp [ht]
  · simp

end Package

/-! Stages 5 to 8. -/

/-- With the caches invalid the cores are released at ÷3. -/
theorem invalidateDone_releases (h : atStage s 5 = true) : Answers (exec .invalidateDone s) fun u =>
    Only [.clock, .power, .trans, .cores] s u ∧ u.power.stage = 7 ∧ u.clock.dividers = List.replicate 16 3 ∧
      (∀ c, coreSt u c = Core.fresh) ∧ u.trans = TransSt.reset := by
  have hu : execInvalidateDone s = .next { s with
      cores := (List.range (numCores s)).map (fun c => (c, Core.fresh))
      trans := TransSt.reset
      clock := { s.clock with dividers := List.replicate 16 3 }
      power := { s.power with stage := 7 } } := by simp [execInvalidateDone, h]
  exact ⟨_, hu, (flow_execInvalidateDone (Within.parts _ (by decide)) (Flow.refl _ s)).only hu, rfl, rfl,
    fun c => find_const Core.fresh _ c, rfl⟩

/-- The state in which the dictionary answers and ring join listens. -/
def joining (s : State) : State :=
  { s with
    dict := { s.dict with online := true }
    power := { s.power with stage := 8 }
    ring := { s.ring with listening := true } }

theorem fillCell_listening (s : State) : (fillCell s).2.ring.listening = s.ring.listening := by
  unfold fillCell
  split <;> rfl

theorem originate_listening (s : State) : (originate s).ring.listening = s.ring.listening := by
  unfold originate
  split
  · rfl
  · exact fillCell_listening _

theorem execDictionaryOnline_eq (h : atStage s 7 = true) :
    execDictionaryOnline s = .next (if eligible s then originate (joining s) else joining s) := by
  have he : eligible (joining s) = eligible s := rfl
  simp [execDictionaryOnline, h, ← he, joining]

/-- The dictionary comes online and ring join begins. -/
theorem dictionaryOnline_listens (h : atStage s 7 = true) : Answers (exec .dictionaryOnline s) fun u =>
    Only [.dict, .ring, .power, .sent] s u ∧ u.dict.online = true ∧ u.power.stage = 8 ∧ u.ring.listening = true ∧
      (obj s 0x5000 2 ≠ 1 → u.sent = s.sent) := by
  have hu := execDictionaryOnline_eq h
  have hframe := (flow_execDictionaryOnline (Within.parts [.dict, .ring, .power, .sent] (by decide)) (Flow.refl _ s)).only hu
  by_cases he : eligible s = true
  · rw [if_pos he] at hu hframe
    have horig : Only [.ring, .sent] (joining s) (originate (joining s)) :=
      (flow_originate (Within.parts _ (by decide)) (Flow.refl _ _)).only
    have hdict : (originate (joining s)).dict = (joining s).dict := horig .dict (by decide)
    have hpower : (originate (joining s)).power = (joining s).power := horig .power (by decide)
    refine ⟨_, hu, hframe, ?_, ?_, ?_, fun hne => absurd (of_decide_eq_true he) hne⟩
    · rw [hdict]
      rfl
    · rw [hpower]
      rfl
    · rw [originate_listening]
      rfl
  · rw [if_neg he] at hu hframe
    exact ⟨_, hu, hframe, rfl, rfl, rfl, fun _ => rfl⟩

/-- Ring join ends in READY. -/
theorem ringJoinTimeout_ready (h : atStage s 8 = true) (hl : s.ring.listening = true) : Answers (exec .ringJoinTimeout s) fun u =>
    Only [.tick, .ring, .power, .pins] s u ∧ u.power.phase = .done ∧ u.power.ready = true ∧ u.pins.readyPin = true ∧
      u.tick.running = true ∧ u.ring.bypass = false ∧ u.tick.lock = s.tick.lock := by
  have hu : execRingJoinTimeout s = .next (finishStart (s.withRing { s.ring with listening := false, bypass := false })) := by
    simp [execRingJoinTimeout, enabled, h, hl]
  exact ⟨_, hu, (flow_execRingJoinTimeout (Within.parts _ (by decide)) (Flow.refl _ s)).only hu, rfl, rfl, rfl, rfl, rfl, rfl⟩

/-! The quiesce of a warm reset, and the reset pins. -/

/-- The quiesce ends in stage 4, unless the clock-failure hold stands. -/
theorem quiesceDone_trains (hph : s.power.phase = .warm) (hst : s.power.stage = 0) (hc : s.power.configReady = false) :
    Answers (exec .quiesceDone s) fun u => Only [.ports, .power] s u ∧ u.power.configReady = true ∧
      u.power.stage = if s.clock.hold then 0 else 4 := by
  have hu : execQuiesceDone s = .next (if s.clock.hold then s.withPower { s.power with configReady := true }
      else beginTrain (s.withPower { s.power with configReady := true })) := by
    simp [execQuiesceDone, hph, hst, hc]
  refine ⟨_, hu, (flow_execQuiesceDone (Within.parts _ (by decide)) (Flow.refl _ s)).only hu, ?_, ?_⟩
  all_goals split <;> simp [hst]

theorem modResetRelease_starts (h : s.pins.modReset = true) : Answers (exec .modResetRelease s) fun u => Only [.power, .pins] s u ∧
    u.pins.modReset = false ∧ u.pins.flPins = false ∧ (s.power.phase = .held → u.power.phase = .cold ∧ u.power.stage = 1) ∧
    (s.power.phase ≠ .held → u.power = s.power) := by
  have hu : execModResetRelease s = .next (if s.power.phase = .held then
      (resetPins s false s.pins.flEn).withPower { s.power with phase := .cold, stage := 1 } else resetPins s false s.pins.flEn) := by
    simp only [execModResetRelease, h]
    rfl
  have hframe := (flow_execModResetRelease (Within.parts [.power, .pins] (by decide)) (Flow.refl _ s)).only hu
  by_cases hph : s.power.phase = .held
  · rw [if_pos hph] at hu hframe
    exact ⟨_, hu, hframe, rfl, rfl, fun _ => ⟨rfl, rfl⟩, fun hne => absurd hph hne⟩
  · rw [if_neg hph] at hu hframe
    exact ⟨_, hu, hframe, rfl, rfl, fun he => absurd he hph, fun _ => rfl⟩

/-- The state once PERST# is asserted, before the warm reset that it may bring. -/
def perstLow (s : State) : State :=
  { s with pins := { s.pins with perst := true }, front := { s.front with linkUp := false } }

theorem execPerstAssert_eq (h : s.pins.perst = false) :
    execPerstAssert s = .next (if s.pins.perstSeen then warmReset (perstLow s) 16 false else perstLow s) := by
  simp [execPerstAssert, h, perstLow]

theorem warmReset_done (hph : s.power.phase = .done) (hc : s.clock.hold = false) (cause : Nat) (keepsLink : Bool) :
    warmReset s cause keepsLink = warmKeep (discardStage s true keepsLink) cause := by
  simp [warmReset, hph, hc]

/-- PERST# is a warm reset once it has been deasserted. -/
theorem perstAssert_resets (h : s.pins.perst = false) (hph : s.power.phase = .done) (hc : s.clock.hold = false)
    (hseen : s.pins.perstSeen = true) : Answers (exec .perstAssert s) fun u => u.pins.perst = true ∧ u.front.linkUp = false ∧
      u.power.phase = .warm ∧ u.power.cause = 16 ∧ u.tick.count = s.tick.count ∧ u.ctxs = [] := by
  have hu : execPerstAssert s = .next (warmKeep (discardStage (perstLow s) true false) 16) := by
    rw [execPerstAssert_eq h, if_pos hseen, warmReset_done (s := perstLow s) hph hc]
  have hdisc : Only [.regs, .vfRegs, .dict, .ring, .sent] (perstLow s) (discardStage (perstLow s) true false) :=
    (flow_discardStage (Within.parts _ (by decide)) (Flow.refl _ _)).only
  have hpins : (discardStage (perstLow s) true false).pins = (perstLow s).pins := hdisc .pins (by decide)
  have hfront : (discardStage (perstLow s) true false).front = (perstLow s).front := hdisc .front (by decide)
  have htick : (discardStage (perstLow s) true false).tick = s.tick := hdisc .tick (by decide)
  have hcount : (discardStage (perstLow s) true false).tick.count = s.tick.count := congrArg TickSt.count htick
  exact ⟨_, hu, congrArg PinSt.perst hpins, congrArg FrontSt.linkUp hfront, rfl, rfl, hcount, rfl⟩

/-- PERST# that has never been deasserted takes the link down only. -/
theorem perstAssert_linkDown (h : s.pins.perst = false) (hseen : s.pins.perstSeen = false) : Answers (exec .perstAssert s) fun u =>
    Only [.front, .pins] s u ∧ u.pins.perst = true ∧ u.front.linkUp = false := by
  have hu : execPerstAssert s = .next (perstLow s) := by
    rw [execPerstAssert_eq h, hseen]
    rfl
  have hM : Within 0x10001000 (partBits [.front, .pins]) := Within.parts _ (by decide)
  exact ⟨_, hu, (flow_mk (Flow.refl _ s)).only, rfl, rfl⟩

theorem perstDeassert_linkTrains (h : s.pins.perst = true) : Answers (exec .perstDeassert s) fun u => Only [.front, .pins] s u ∧
    u.pins.perst = false ∧ u.pins.perstSeen = true ∧ u.front.linkUp = onRoot s := by
  have hu : execPerstDeassert s = .next (linkTrains (s.withPins { s.pins with perst := false, perstSeen := true })) := by
    simp [execPerstDeassert, h]
  exact ⟨_, hu, (flow_execPerstDeassert (Within.parts _ (by decide)) (Flow.refl _ s)).only hu, rfl, rfl, Bool.true_and _⟩

theorem flEn_connects (s : State) (a : Bool) : Answers (exec (.flEn a) s) fun u => Only [.pins] s u ∧ u.pins.flEn = a ∧
    u.pins.flPins = (s.pins.modReset && a) ∧ u.pins.modReset = s.pins.modReset :=
  ⟨_, rfl, (flow_resetPins (Within.parts _ (by decide)) (Flow.refl _ s)).only, rfl, rfl, rfl⟩

end Commands

/-- Settles O57: each command of start-up and of the reset pins by the state that it answers, stage by stage. -/
theorem startUp : Obligations.StartUp := by
  refine ⟨?fuses, ?image, ?stackTraining, ?packageTraining, fun _ => invalidateDone_releases, fun _ => dictionaryOnline_listens,
    fun _ => ringJoinTimeout_ready, fun _ => quiesceDone_trains, fun _ => modResetRelease_starts, ?perst,
    fun _ => perstDeassert_linkTrains, flEn_connects⟩
  case fuses =>
    intro s f hph hst hroot hpcie
    exact ⟨fuseLoadDone_pass hph hst hroot hpcie, fuseLoadDone_fail hph hst hroot hpcie⟩
  case image =>
    intro s h hph hst hc
    refine ⟨imageVerifyDone_pass hph hst hc, fun hbad hA => ?_, imageVerifyDone_slotB hph hst hc⟩
    have hnone : (some h).filter imageOk = none := by simp [Option.filter, hbad]
    exact ⟨imageVerifyDone_slotA hph hst hc hnone hA, imageVerifyDone_slotA hph hst hc rfl hA⟩
  case stackTraining =>
    intro s st hm hst hg hl ha ht
    exact ⟨stackTrained_ok hm hst hg hl ha ht, stackTrained_fail hm hst hg hl ha ht⟩
  case packageTraining =>
    intro s p hm hp hg hl ht hf
    exact ⟨srPackageTrained_ok hm hp hg hl ht hf, srPackageTrained_fail hm hp hg hl ht hf⟩
  case perst =>
    intro s h hph hc
    exact ⟨perstAssert_resets h hph hc, perstAssert_linkDown h⟩

end Sys2Proof.Machine
end

section
/-!
Reads of registers with RC fields, and host writes by the access codes (R12, R412, R413), and statement O59.
-/

namespace Sys2Proof.Machine

section Accesses

variable {s : State}

/-! What a host read of at most 8 bytes does. -/

/-- A host read of a register is answered: its block takes accesses, its unit is not gated, the function is in D0, and its access row
grants the block. -/
def Readable (s : State) (off : Nat) : Prop :=
  blockDrops s off = false ∧ regGated s off = false ∧ s.front.d3hot.contains 0 = false ∧ regsGranted s 0 (blockOf off) false = true

theorem accessPieces_one (off v : Nat) {w : Nat} (h0 : 0 < w) (h8 : w ≤ 8) : accessPieces off w v = [(off, w, v % 2 ^ 64)] := by
  have hn : ceilDiv w 8 = 1 := by
    unfold ceilDiv
    omega
  simp [accessPieces, hn, h8]

/-- A read of at most 4 bytes at the register itself is one piece. -/
theorem readRow_narrow {name : String} {off w : Nat} (h : Readable s off) (h4 : off % 4 = 0) (hw : w = 2 ∨ w = 4) :
    readRow name true off ⟨0, w⟩ s = .next (emit (clearRc s off 0 w) (.barRead (regValue s off % 2 ^ (8 * w)))) := by
  obtain ⟨hdrop, hgate, hawake, hright⟩ := h
  have hmem : 0 ∉ s.front.d3hot := by simpa using hawake
  have hoff : off / 4 * 4 = off := by omega
  have h2 : off % 2 = 0 := by omega
  rcases hw with rfl | rfl
  all_goals simp [readRow, accessPieces_one, readAll, readPiece, hdrop, hgate, hmem, hright, h4, h2, hoff]

/-- A read of 8 bytes at an 8-byte boundary reads both registers and clears the RC fields of both. -/
theorem readRow_pair {name : String} {off : Nat} (h : Readable s off) (h8 : off % 8 = 0) :
    readRow name true off ⟨0, 8⟩ s = .next (emit (clearRc (clearRc s off 0 4) (off + 4) 0 4)
      (.barRead (regValue s off + 2 ^ 32 * regValue s (off + 4)))) := by
  obtain ⟨hdrop, hgate, hawake, hright⟩ := h
  have hmem : 0 ∉ s.front.d3hot := by simpa using hawake
  have hoff : off / 8 * 8 = off := by omega
  simp [readRow, accessPieces_one, readAll, readPiece, hdrop, hgate, hmem, hright, h8, hoff]

/-! RC fields. -/

/-- What a 32-bit and a 16-bit read of a register whose RC field is its high half do. -/
def RcHalf (mk : RegRead → Instr) (s : State) (off : Nat) : Prop :=
  (Answers (exec (mk ⟨0, 4⟩) s) fun u => Only [.regs, .sent] s u ∧ OnlyRegs (· = off) s u ∧
    u.sent = s.sent ++ [.barRead (regValue s off)] ∧ reg u off = reg s off % 2 ^ 16) ∧
  exec (mk ⟨0, 2⟩) s = .next (emit s (.barRead (regValue s off % 2 ^ 16)))

theorem only_emit_setReg (s : State) (off v : Nat) (x : Sent) : Only [.regs, .sent] s (emit (setReg s off v) x) :=
  (flow_emit (Within.parts _ (by decide)) (flow_setReg (Within.parts _ (by decide)) (Flow.refl _ s)) x).only

theorem rcHalf_of {mk : RegRead → Instr} {name : String} {ok : Bool} {off : Nat} (hexec : ∀ r, exec (mk r) s = readRow name ok off r s)
    (hok : ok = true) (h : Readable s off) (h4 : off % 4 = 0) (hrc : rcBytes off = some (2, 2)) (hv : regValue s off < 2 ^ 32) : RcHalf mk s off := by
  subst hok
  have hclear : clearRc s off 0 4 = setReg s off (reg s off % 2 ^ 16) := by
    simp [clearRc, hrc, setRegField, setBits_high_zero (reg_lt s off)]
  have hkeep : clearRc s off 0 2 = s := by simp [clearRc, hrc]
  constructor
  · have hu := (hexec ⟨0, 4⟩).trans (readRow_narrow h h4 (.inr rfl))
    rw [hclear, show 8 * 4 = 32 from rfl, Nat.mod_eq_of_lt hv] at hu
    refine ⟨_, hu, only_emit_setReg _ _ _ _, onlyRegs_setReg _ _ _, rfl, ?_⟩
    rw [reg_emit, reg_setReg]
    omega
  · rw [hexec, readRow_narrow h h4 (.inl rfl), hkeep]

/-- What a 64-bit read of a count of the wake governor does. -/
def RcPair (mk : RegRead → Instr) (s : State) (off : Nat) : Prop :=
  Answers (exec (mk ⟨0, 8⟩) s) fun u => Only [.regs, .sent] s u ∧ OnlyRegs (fun o => o = off ∨ o = off + 4) s u ∧
    u.sent = s.sent ++ [.barRead (regValue s off + 2 ^ 32 * regValue s (off + 4))] ∧ reg u off = 0 ∧
    reg u (off + 4) = reg s (off + 4) / 2 ^ 16 * 2 ^ 16

theorem rcPair_of {mk : RegRead → Instr} {name : String} {ok : Bool} {off : Nat} (hexec : ∀ r, exec (mk r) s = readRow name ok off r s)
    (hok : ok = true) (h : Readable s off) (h8 : off % 8 = 0) (hlow : rcBytes off = some (0, 4))
    (hhigh : rcBytes (off + 4) = some (0, 2)) : RcPair mk s off := by
  subst hok
  have hne : off + 4 ≠ off := by omega
  have hclear : clearRc (clearRc s off 0 4) (off + 4) 0 4 =
      setReg (setReg s off 0) (off + 4) (reg s (off + 4) / 2 ^ 16 * 2 ^ 16) := by
    simp [clearRc, hlow, hhigh, setRegField, setBits_all_zero (reg_lt s off), setBits_low_zero, reg_setReg_ne s 0 hne]
  have hu := (hexec ⟨0, 8⟩).trans (readRow_pair h h8)
  rw [hclear] at hu
  refine ⟨_, hu, ?_, fun o ho => ?_, rfl, ?_, ?_⟩
  · exact (flow_emit (Within.parts _ (by decide)) (flow_setReg (Within.parts _ (by decide))
      (flow_setReg (Within.parts _ (by decide)) (Flow.refl _ s))) _).only
  · rw [not_or] at ho
    rw [reg_emit, reg_setReg_ne _ _ ho.2, reg_setReg_ne _ _ ho.1]
  · rw [reg_emit, reg_setReg_ne _ _ hne.symm, reg_setReg, Nat.zero_mod]
  · have hlt := reg_lt s (off + 4)
    rw [reg_emit, reg_setReg]
    omega

/-! The registers with RC fields: what a read returns fits 32 bits, and where the field lies. A reserved offset reads zero, so the value of
the register's block decides. -/

theorem regValue_lt_pt {off : Nat} (hb : blockOf off = 2) (h : ptValue s off < 2 ^ 32) : regValue s off < 2 ^ 32 := by
  simp only [regValue, hb]
  split
  · exact Nat.two_pow_pos 32
  · exact h

theorem regValue_lt_fb {off : Nat} (hb : blockOf off = 5) (h : fbValue s off < 2 ^ 32) : regValue s off < 2 ^ 32 := by
  simp only [regValue, hb]
  split
  · exact Nat.two_pow_pos 32
  · exact h

theorem regValue_lt_mc {off : Nat} (hb : blockOf off = 6) (h : mcValue s off < 2 ^ 32) : regValue s off < 2 ^ 32 := by
  simp only [regValue, hb]
  split
  · exact Nat.two_pow_pos 32
  · exact h

/-- From the pool registers on, a register of partitions returns its stored bits. -/
theorem ptValue_pool {off : Nat} (h : 0x200100 ≤ off) : ptValue s off = reg s off := by
  unfold ptValue
  split <;> omega

/-- PORT_ERR returns its stored bits. -/
theorem fbValue_portErr {n : Nat} (h : n < 16) : fbValue s (offPortErr n) = reg s (offPortErr n) := by
  have hstatus : offPortErr n % 0x20 ≠ 0 := by unfold offPortErr; omega
  have hctrl : offPortErr n % 0x20 ≠ 4 := by unfold offPortErr; omega
  have hring : offPortErr n < 0x500400 := by unfold offPortErr; omega
  revert hstatus hctrl hring
  generalize offPortErr n = off
  intro hstatus hctrl hring
  unfold fbValue
  split
  case h_5 => rw [if_neg hstatus, if_neg hctrl]
  all_goals omega

theorem mcValue_stkErr {n : Nat} (h : n < 12) : mcValue s (offStk n + 4) = reg s (offStk n + 4) := by
  have hblock : offStk n + 4 - 0x600000 < 0x0C000 := by unfold offStk; omega
  have hreg : (offStk n + 4 - 0x600000) % 0x1000 = 4 := by unfold offStk; omega
  simp only [mcValue, if_pos hblock, hreg]
  rfl

/-- The block of a package. -/
theorem pkg_block {n o : Nat} (hn : n < 16) (ho : o < 0x1000) : ¬ offPkg n + o - 0x600000 < 0x0C000 ∧ offPkg n + o - 0x600000 < 0x50000 ∧
    (offPkg n + o - 0x600000) % 0x1000 = o := by
  unfold offPkg
  omega

theorem mcValue_srErr {n : Nat} (h : n < 16) : mcValue s (offPkg n + 4) = reg s (offPkg n + 4) := by
  obtain ⟨hstk, hpkg, hreg⟩ := pkg_block (o := 4) h (by decide)
  simp only [mcValue, if_neg hstk, if_pos hpkg, hreg]
  rfl

theorem mcValue_srStatus {n : Nat} (h : n < 16) : mcValue s (offPkg n) = bits (reg s (offPkg n)) 31 16 * 65536 +
    2 * bnat (pkgSt s ((offPkg n - 0x600000 - 0x40000) / 0x1000)).trained +
    bnat (pkgSt s ((offPkg n - 0x600000 - 0x40000) / 0x1000)).failed := by
  obtain ⟨hstk, hpkg, hreg⟩ := pkg_block (o := 0) h (by decide)
  rw [Nat.add_zero] at hstk hpkg hreg
  simp only [mcValue, if_neg hstk, if_pos hpkg, hreg]
  rfl

theorem mcValue_celErr {n : Nat} (h : n < 12) : mcValue s (offCel n + 8) = reg s (offCel n + 8) := by
  have hoff : offCel n + 8 - 0x600000 = 0x80008 + 0x1000 * n := by unfold offCel; omega
  have hstk : ¬ 0x80008 + 0x1000 * n < 0x0C000 := by omega
  have hpkg : ¬ 0x80008 + 0x1000 * n < 0x50000 := by omega
  have hcel : 0x80008 + 0x1000 * n < 0x8C000 := by omega
  have hreg : (0x80008 + 0x1000 * n) % 0x1000 = 8 := by omega
  simp only [mcValue, hoff, if_neg hstk, if_neg hpkg, if_pos hcel, hreg]
  rfl

theorem mcValue_atcErr (n : Nat) : mcValue s (offAtc n + 0x14) = reg s (offAtc n + 0x14) := by
  have hoff : offAtc n + 0x14 - 0x600000 = 0xC0014 + 0x100 * n := by unfold offAtc; omega
  have hstk : ¬ 0xC0014 + 0x100 * n < 0x0C000 := by omega
  have hpkg : ¬ 0xC0014 + 0x100 * n < 0x50000 := by omega
  have hcel : ¬ 0xC0014 + 0x100 * n < 0x8C000 := by omega
  have hreg : (0xC0014 + 0x100 * n) % 0x100 = 0x14 := by omega
  simp only [mcValue, hoff, if_neg hstk, if_neg hpkg, if_neg hcel, hreg]
  rfl

theorem regValue_celErr_lt {n : Nat} (h : n < 12) : regValue s (offCel n + 8) < 2 ^ 32 :=
  regValue_lt_mc (by unfold blockOf offCel; omega) (mcValue_celErr h ▸ reg_lt _ _)

theorem regValue_stkErr_lt {n : Nat} (h : n < 12) : regValue s (offStk n + 4) < 2 ^ 32 :=
  regValue_lt_mc (by unfold blockOf offStk; omega) (mcValue_stkErr h ▸ reg_lt _ _)

theorem bnat_le (b : Bool) : bnat b ≤ 1 := by cases b <;> decide

theorem regValue_srStatus_lt {n : Nat} (h : n < 16) : regValue s (offPkg n) < 2 ^ 32 := by
  refine regValue_lt_mc (by unfold blockOf offPkg; omega) ?_
  have hhigh : bits (reg s (offPkg n)) 31 16 < 2 ^ 16 := Nat.mod_lt _ (by decide)
  have htrained := bnat_le (pkgSt s ((offPkg n - 0x600000 - 0x40000) / 0x1000)).trained
  have hfailed := bnat_le (pkgSt s ((offPkg n - 0x600000 - 0x40000) / 0x1000)).failed
  rw [mcValue_srStatus h]
  omega

theorem regValue_srErr_lt {n : Nat} (h : n < 16) : regValue s (offPkg n + 4) < 2 ^ 32 :=
  regValue_lt_mc (by unfold blockOf offPkg; omega) (mcValue_srErr h ▸ reg_lt _ _)

theorem regValue_atcErr_lt {n : Nat} (h : n < 16) : regValue s (offAtc n + 0x14) < 2 ^ 32 :=
  regValue_lt_mc (by unfold blockOf offAtc; omega) (mcValue_atcErr n ▸ reg_lt _ _)

theorem regValue_portErr_lt {n : Nat} (h : n < 16) : regValue s (offPortErr n) < 2 ^ 32 :=
  regValue_lt_fb (by unfold blockOf offPortErr; omega) (fbValue_portErr h ▸ reg_lt _ _)

theorem regValue_poolEvent_lt {n : Nat} (h : n < 16) : regValue s (offPool n + 8) < 2 ^ 32 := by
  have hpool : 0x200100 ≤ offPool n + 8 := by unfold offPool; omega
  exact regValue_lt_pt (by unfold blockOf offPool; omega) (ptValue_pool hpool ▸ reg_lt _ _)

theorem rcBytes_cel : ∀ n < 12, rcBytes (offCel n + 8) = some (2, 2) := by decide
theorem rcBytes_stk : ∀ n < 12, rcBytes (offStk n + 4) = some (2, 2) := by decide
theorem rcBytes_srStatus : ∀ n < 16, rcBytes (offPkg n) = some (2, 2) := by decide
theorem rcBytes_srErr : ∀ n < 16, rcBytes (offPkg n + 4) = some (2, 2) := by decide
theorem rcBytes_atc : ∀ n < 16, rcBytes (offAtc n + 0x14) = some (2, 2) := by decide
theorem rcBytes_portErr : ∀ n < 16, rcBytes (offPortErr n) = some (2, 2) := by decide
theorem rcBytes_poolEvent : ∀ n < 16, rcBytes (offPool n + 8) = some (2, 2) := by decide

/-- The two registers of each count of the wake governor. -/
theorem rcBytes_obDie : ∀ die < 2, ∀ o ∈ [0x108, 0x110, 0x118], rcBytes (obDie die + o) = some (0, 4) ∧
    rcBytes (obDie die + o + 4) = some (0, 2) := by decide

/-! The reads of the table, row by row. -/

theorem rcHalf_mcCelErr {n : Nat} (hn : n < 12) (h : Readable s (offCel n + 8)) : RcHalf (.mcCelErrRead n) s (offCel n + 8) :=
  rcHalf_of (fun _ => rfl) (decide_eq_true hn) h (by unfold offCel; omega) (rcBytes_cel n hn)
    (regValue_celErr_lt hn)

theorem rcHalf_mcStkErr {n : Nat} (hn : n < 12) (h : Readable s (offStk n + 4)) : RcHalf (.mcStkErrRead n) s (offStk n + 4) :=
  rcHalf_of (fun _ => rfl) (decide_eq_true hn) h (by unfold offStk; omega) (rcBytes_stk n hn)
    (regValue_stkErr_lt hn)

theorem rcHalf_mcSrStatus {n : Nat} (hn : n < 16) (h : Readable s (offPkg n)) : RcHalf (.mcSrStatusRead n) s (offPkg n) :=
  rcHalf_of (fun _ => rfl) (decide_eq_true hn) h (by unfold offPkg; omega) (rcBytes_srStatus n hn)
    (regValue_srStatus_lt hn)

theorem rcHalf_mcSrErr {n : Nat} (hn : n < 16) (h : Readable s (offPkg n + 4)) : RcHalf (.mcSrErrRead n) s (offPkg n + 4) :=
  rcHalf_of (fun _ => rfl) (decide_eq_true hn) h (by unfold offPkg; omega) (rcBytes_srErr n hn)
    (regValue_srErr_lt hn)

theorem rcHalf_mcAtcErr {n : Nat} (hn : n < 16) (h : Readable s (offAtc n + 0x14)) : RcHalf (.mcAtcErrRead n) s (offAtc n + 0x14) :=
  rcHalf_of (fun _ => rfl) (decide_eq_true hn) h (by unfold offAtc; omega) (rcBytes_atc n hn)
    (regValue_atcErr_lt hn)

theorem rcHalf_fbPortErr {n : Nat} (hn : n < 16) (h : Readable s (offPortErr n)) : RcHalf (.fbPortErrRead n) s (offPortErr n) :=
  rcHalf_of (fun _ => rfl) (decide_eq_true hn) h (by unfold offPortErr; omega) (rcBytes_portErr n hn)
    (regValue_portErr_lt hn)

theorem rcHalf_ptPoolEvent {n : Nat} (hn : n < 16) (h : Readable s (offPool n + 8)) : RcHalf (.ptPoolEventRead n) s (offPool n + 8) :=
  rcHalf_of (fun _ => rfl) (decide_eq_true hn) h (by unfold offPool; omega) (rcBytes_poolEvent n hn)
    (regValue_poolEvent_lt hn)

/-- The three counts of the wake governor of a die. -/
theorem rcPair_obDie {mk : RegRead → Instr} {name : String} {die o : Nat} (hd : die < 2) (ho : o ∈ [0x108, 0x110, 0x118])
    (hexec : ∀ r, exec (mk r) s = readRow name (decide (die < 2)) (obDie die + o) r s) (h : Readable s (obDie die + o)) :
    RcPair mk s (obDie die + o) := by
  have hrc := rcBytes_obDie die hd o ho
  have h8 : (obDie die + o) % 8 = 0 := by
    simp only [List.mem_cons, List.not_mem_nil, or_false] at ho
    unfold obDie
    omega
  exact rcPair_of hexec (decide_eq_true hd) h h8 hrc.1 hrc.2

/-! What a host write of one register does. -/

theorem pfWrite_of_mayWrite {off : Nat} (h : HostMayWrite s off) (r : Res) : pfWrite off s r = r := by
  simp only [pfWrite, h.takes, h.awake, h.right]
  rfl

/-- An aligned 32-bit write is the write of one register. -/
theorem registerWrite_word {off : Nat} (h4 : off % 4 = 0) (hlt : off < 0x1000000) (v : Nat) :
    exec (.registerWrite 0 off 4 v) s = .next (regWrite s off (v % 2 ^ 32)) := by
  have hend : ¬ 0x1000000 < off + 4 := by omega
  simp [execRegisterWrite, accessPieces_one, writePiece, fnWrite, h4, hend]

/-- A 64-bit write is that of the lower register and then the higher. -/
theorem registerWrite_pair {off : Nat} (h8 : off % 8 = 0) (hlt : off < 0x1000000) (v : BitVec 64) :
    exec (.registerWrite 0 off 8 v.toNat) s =
      .next (regWrite (regWrite s off (v.toNat % 2 ^ 32)) (off + 4) (v.toNat / 2 ^ 32)) := by
  have hend : ¬ 0x1000000 < off + 8 := by omega
  have hpiece : accessPieces off 8 v.toNat = [(off, 8, v.toNat)] := by
    rw [accessPieces_one off v.toNat (by decide) (by decide), Nat.mod_eq_of_lt v.isLt]
  have hhigh : v.toNat / 0x100000000 % 0x100000000 = v.toNat / 0x100000000 := Nat.mod_eq_of_lt (by omega)
  simp [execRegisterWrite, hpiece, writePiece, fnWrite, h8, hend, hhigh]

theorem regWrite_unknown {off : Nat} (h : regKnown s off = false) (v : Nat) : regWrite s off v = s := by
  simp [regWrite, h]

section Block

variable {off : Nat} (hk : regKnown s off = true) (hg : regGated s off = false) (h : HostMayWrite s off)

include hk hg h

theorem regWrite_fe (hb : blockOf off = 0) (v : Nat) : regWrite s off v = writeFe s off v := by
  simp [regWrite, hk, hg, pfWrite_of_mayWrite h, hb, stateOf]

theorem regWrite_tr (hb : blockOf off = 1) (v : Nat) : regWrite s off v = writeTr s off v := by
  simp [regWrite, hk, hg, pfWrite_of_mayWrite h, hb, stateOf]

theorem regWrite_pt (hb : blockOf off = 2) (v : Nat) : regWrite s off v = writePt s off v := by
  simp [regWrite, hk, hg, pfWrite_of_mayWrite h, hb, stateOf]

theorem regWrite_ck (hb : blockOf off = 3) (v : Nat) : regWrite s off v = writeCk s off v := by
  simp [regWrite, hk, hg, pfWrite_of_mayWrite h, hb, stateOf]

end Block

/-! W1C bits. -/

theorem bit_mod_two_pow {a n i : Nat} (h : i < n) : bit (a % 2 ^ n) i = bit a i := by
  simp [bit, Nat.testBit_mod_two_pow, h]

theorem bit_reg_w1c (s : State) (off mask : Nat) (v : BitVec 32) {i : Nat} (hi : i < 32) :
    bit (reg (w1c s off mask v.toNat) off) i = (bit (reg s off) i && !(bit mask i && v.getLsbD i)) := by
  have hv : bit (v.toNat &&& mask) i = (bit mask i && v.getLsbD i) := by
    rw [bit, Nat.testBit_and, Bool.and_comm, BitVec.testBit_toNat, bit]
  rw [w1c, reg_setReg, bit_mod_two_pow hi, bit_sub_and, hv]

/-- A write that acts by the W1C bits of a mask. -/
theorem registerWrite_w1c {off mask : Nat} {v : BitVec 32} (h4 : off % 4 = 0) (hlt : off < 0x1000000)
    (hw : regWrite s off v.toNat = w1c s off mask v.toNat) :
    Answers (exec (.registerWrite 0 off 4 v.toNat) s) fun u => Only [.regs] s u ∧ OnlyRegs (· = off) s u ∧
      ∀ i, i < 32 → bit (reg u off) i = (bit (reg s off) i && !(bit mask i && v.getLsbD i)) := by
  have hu := registerWrite_word (s := s) h4 hlt v.toNat
  rw [Nat.mod_eq_of_lt v.isLt, hw] at hu
  exact ⟨_, hu, only_setReg _ _ _, onlyRegs_setReg _ _ _, fun i hi => bit_reg_w1c s off mask v hi⟩

/-! Registers that have a command of their own. -/

/-- The command is neither refused nor a fault. -/
def AnswersNext (r : Res) : Prop := ∃ t, r = .next t

theorem AnswersNext.next (t : State) : AnswersNext (.next t) := ⟨t, rfl⟩

theorem AnswersNext.ite {c : Prop} [Decidable c] {a b : Res} (ha : AnswersNext a) (hb : AnswersNext b) : AnswersNext (if c then a else b) := by
  split
  · exact ha
  · exact hb

theorem AnswersNext.pfWrite {r : Res} (off : Nat) (h : AnswersNext r) : AnswersNext (pfWrite off s r) :=
  .ite (.next _) (.ite h (.next _))

/-- A write of a register that is a command's is the command. -/
theorem registerWrite_command {off : Nat} {f : BitVec 32 → State → Res} {v : BitVec 32} (h4 : off % 4 = 0) (hlt : off < 0x1000000)
    (hr : AnswersNext (f v s)) (hw : ∀ x, regWrite s off x = stateOf (f (BitVec.ofNat 32 x) s) s) :
    exec (.registerWrite 0 off 4 v.toNat) s = f v s := by
  obtain ⟨t, ht⟩ := hr
  rw [registerWrite_word h4 hlt, Nat.mod_eq_of_lt v.isLt, hw, BitVec.ofNat_toNat, BitVec.setWidth_eq, ht]
  rfl

theorem answersNext_ckGateStack (v : BitVec 32) : AnswersNext (execCkGateStack v s) := .pfWrite _ (.next _)
theorem answersNext_ckGateSr (v : BitVec 32) : AnswersNext (execCkGateSr v s) := .pfWrite _ (.next _)
theorem answersNext_ckGatePort (v : BitVec 32) : AnswersNext (execCkGatePort v s) := .pfWrite _ (.next _)
theorem answersNext_ckGateMisc (v : BitVec 32) : AnswersNext (execCkGateMisc v s) := .pfWrite _ (.next _)
theorem answersNext_resetCtrlWarm (v : BitVec 32) : AnswersNext (execResetCtrlWarm v s) := .pfWrite _ (.next _)
theorem answersNext_partitionReset (v : BitVec 32) : AnswersNext (execPartitionReset v s) := .pfWrite _ (.ite (.next _) (.next _))
theorem answersNext_contextReset (v : BitVec 32) : AnswersNext (execContextReset v s) := .pfWrite _ (.next _)
theorem answersNext_ptPreempt (v : BitVec 32) : AnswersNext (execPtPreempt v s) :=
  .pfWrite _ (.ite (.next _) (.ite (.next _) (.next _)))
theorem answersNext_feKringDoorbell (v : BitVec 32) : AnswersNext (execFeKringDoorbell v s) := .pfWrite _ (.ite (.next _) (.next _))

end Accesses

/-! Statement O59, clause by clause. -/

theorem rcHalf_rows : ∀ e ∈ ([(Instr.mcCelErrRead, 12, fun n => offCel n + 8), (Instr.mcStkErrRead, 12, fun n => offStk n + 4),
      (Instr.mcSrStatusRead, 16, fun n => offPkg n), (Instr.mcSrErrRead, 16, fun n => offPkg n + 4),
      (Instr.mcAtcErrRead, 16, fun n => offAtc n + 0x14), (Instr.fbPortErrRead, 16, fun n => offPortErr n),
      (Instr.ptPoolEventRead, 16, fun n => offPool n + 8)] : List ((Nat → RegRead → Instr) × Nat × (Nat → Nat))),
    ∀ s n, n < e.2.1 → Readable s (e.2.2 n) → RcHalf (e.1 n) s (e.2.2 n) := by
  simp only [List.forall_mem_cons]
  exact ⟨fun _ _ => rcHalf_mcCelErr, fun _ _ => rcHalf_mcStkErr, fun _ _ => rcHalf_mcSrStatus, fun _ _ => rcHalf_mcSrErr,
    fun _ _ => rcHalf_mcAtcErr, fun _ _ => rcHalf_fbPortErr, fun _ _ => rcHalf_ptPoolEvent, nofun⟩

theorem rcPair_rows : ∀ e ∈ ([(Instr.obGustsRead, 0x108), (Instr.obHeldRead, 0x110), (Instr.obWaitNsRead, 0x118)] :
      List ((Nat → RegRead → Instr) × Nat)),
    ∀ s die, die < 2 → Readable s (obDie die + e.2) → RcPair (e.1 die) s (obDie die + e.2) := by
  simp only [List.forall_mem_cons]
  exact ⟨fun _ _ hd => rcPair_obDie hd (by decide) fun _ => rfl, fun _ _ hd => rcPair_obDie hd (by decide) fun _ => rfl,
    fun _ _ hd => rcPair_obDie hd (by decide) fun _ => rfl, nofun⟩

theorem registerWrite_feCtrl (s : State) (v : BitVec 32) (h : HostMayWrite s 0x004) :
    exec (.registerWrite 0 0x004 4 v.toNat) s = .next (setReg s 0x004 (v.toNat &&& 3)) := by
  rw [registerWrite_word (by decide) (by decide), Nat.mod_eq_of_lt v.isLt, regWrite_fe rfl rfl h rfl]
  rfl

theorem registerWrite_w1cRows : ∀ e ∈ [(0x10003C, 0x300), (0x300004, 0x1F), (0x30801C, 0x1FF)], ∀ s (v : BitVec 32), HostMayWrite s e.1 →
    Answers (exec (.registerWrite 0 e.1 4 v.toNat) s) fun u => Only [.regs] s u ∧ OnlyRegs (· = e.1) s u ∧
      ∀ i, i < 32 → bit (reg u e.1) i = (bit (reg s e.1) i && !(bit e.2 i && v.getLsbD i)) := by
  simp only [List.forall_mem_cons]
  exact ⟨fun _ _ h => registerWrite_w1c (by decide) (by decide) (regWrite_tr rfl rfl h rfl _),
    fun _ _ h => registerWrite_w1c (by decide) (by decide) (regWrite_ck rfl rfl h rfl _),
    fun _ _ h => registerWrite_w1c (by decide) (by decide) (regWrite_ck rfl rfl h rfl _), nofun⟩

theorem registerWrite_commands : ∀ e ∈ ([(Instr.ckGateStack, 0x300020), (Instr.ckGateSr, 0x300024), (Instr.ckGatePort, 0x300028),
      (Instr.ckGateMisc, 0x30002C), (Instr.resetCtrlWarm, 0x308008), (Instr.partitionReset, 0x30800C), (Instr.contextReset, 0x308010),
      (Instr.ptPreempt, 0x200010), (Instr.feKringDoorbell, 0x034)] : List ((BitVec 32 → Instr) × Nat)),
    ∀ s (v : BitVec 32), HostMayWrite s e.2 → exec (.registerWrite 0 e.2 4 v.toNat) s = exec (e.1 v) s := by
  simp only [List.forall_mem_cons]
  exact ⟨fun _ v h => registerWrite_command (f := execCkGateStack) (by decide) (by decide) (answersNext_ckGateStack v) (regWrite_ck rfl rfl h rfl),
    fun _ v h => registerWrite_command (f := execCkGateSr) (by decide) (by decide) (answersNext_ckGateSr v) (regWrite_ck rfl rfl h rfl),
    fun _ v h => registerWrite_command (f := execCkGatePort) (by decide) (by decide) (answersNext_ckGatePort v) (regWrite_ck rfl rfl h rfl),
    fun _ v h => registerWrite_command (f := execCkGateMisc) (by decide) (by decide) (answersNext_ckGateMisc v) (regWrite_ck rfl rfl h rfl),
    fun _ v h => registerWrite_command (f := execResetCtrlWarm) (by decide) (by decide) (answersNext_resetCtrlWarm v) (regWrite_ck rfl rfl h rfl),
    fun _ v h => registerWrite_command (f := execPartitionReset) (by decide) (by decide) (answersNext_partitionReset v) (regWrite_ck rfl rfl h rfl),
    fun _ v h => registerWrite_command (f := execContextReset) (by decide) (by decide) (answersNext_contextReset v) (regWrite_ck rfl rfl h rfl),
    fun _ v h => registerWrite_command (f := execPtPreempt) (by decide) (by decide) (answersNext_ptPreempt v) (regWrite_pt rfl rfl h rfl),
    fun _ v h => registerWrite_command (f := execFeKringDoorbell) (by decide) (by decide) (answersNext_feKringDoorbell v) (regWrite_fe rfl rfl h rfl), nofun⟩

/-- A 64-bit write of the base of the kernel ring. -/
theorem registerWrite_kringBase (s : State) (v : BitVec 64) (h : HostMayWrite s 0x020) : exec (.registerWrite 0 0x020 8 v.toNat) s =
    .next (setReg (setReg s 0x020 (v.toNat % 2 ^ 32 &&& 0xFFFFF000)) 0x024 (v.toNat / 2 ^ 32 &&& 0x7FFFFFFF)) := by
  have hlow : regWrite s 0x020 (v.toNat % 2 ^ 32) = setReg s 0x020 (v.toNat % 2 ^ 32 &&& 0xFFFFF000) := regWrite_fe rfl rfl h rfl _
  have h' : HostMayWrite (setReg s 0x020 (v.toNat % 2 ^ 32 &&& 0xFFFFF000)) 0x024 :=
    ⟨h.takes, h.awake, h.right⟩
  rw [registerWrite_pair (by decide) (by decide), hlow, regWrite_fe rfl rfl h' rfl]
  rfl

theorem registerWrite_reserved (s : State) (off v : Nat) (h4 : off % 4 = 0) (hlt : off < 0x1000000) (hk : regKnown s off = false) :
    exec (.registerWrite 0 off 4 v) s = .next s := by
  rw [registerWrite_word h4 hlt, regWrite_unknown hk]

/-- An 8- or 16-bit write of FE_CTRL changes nothing but ACCESS_ERR. -/
theorem registerWrite_narrow (s : State) (w v : Nat) (hw : w = 1 ∨ w = 2) (hd : blockDrops s 0x004 = false)
    (ha : s.front.d3hot.contains 0 = false) : Answers (exec (.registerWrite 0 0x004 w v) s) fun u =>
      Only [.regs] s u ∧ OnlyRegs (· = 0x008) s u ∧ bit (reg u 0x008) 0 = true := by
  have hbad : badAccess s 0 0x004 = setReg s 0x008 (reg s 0x008 ||| 1) := by
    have hk : regKnown s 0x004 = true := rfl
    have hg : regGated s 0x004 = false := rfl
    simp only [badAccess, hk, hg, hd, ha]
    rfl
  have hu : exec (.registerWrite 0 0x004 w v) s = .next (setReg s 0x008 (reg s 0x008 ||| 1)) := by
    rcases hw with rfl | rfl <;> simp [execRegisterWrite, accessPieces_one, writePiece, hbad]
  refine ⟨_, hu, only_setReg _ _ _, onlyRegs_setReg _ _ _, ?_⟩
  rw [reg_setReg, bit_mod_two_pow (by decide), bit, Nat.testBit_or]
  exact Bool.or_true _

/-- Settles O59: reads by what one access returns and which RC fields it covers, writes by the block that holds the register. -/
theorem registerAccesses : Obligations.RegisterAccesses :=
  ⟨⟨rcHalf_rows, rcPair_rows⟩, registerWrite_feCtrl, registerWrite_w1cRows, registerWrite_commands, registerWrite_kringBase,
    registerWrite_reserved, registerWrite_narrow⟩

end Sys2Proof.Machine
end

section
/-!
The digits of a two's-complement number, the passes of a bank group as sums of digits (R71, R91, R92), and statement O32.
-/

namespace Sys2Proof.Machine

/-! Sums over the numbers below a limit. -/

/-- The sum of f over the numbers below k. -/
def sumBelow (f : Nat → Int) : Nat → Int
  | 0 => 0
  | k + 1 => sumBelow f k + f k

theorem sumBelow_succ (f : Nat → Int) (k : Nat) : sumBelow f (k + 1) = sumBelow f k + f k := rfl

theorem sumBelow_congr {f g : Nat → Int} {k : Nat} (h : ∀ j, j < k → f j = g j) : sumBelow f k = sumBelow g k := by
  induction k with
  | zero => rfl
  | succ k ih => rw [sumBelow_succ, sumBelow_succ, ih fun j hj => h j (Nat.lt_succ_of_lt hj), h k (Nat.lt_succ_self k)]

theorem sumBelow_zero (k : Nat) : sumBelow (fun _ => 0) k = 0 := by
  induction k with
  | zero => rfl
  | succ k ih => rw [sumBelow_succ, ih, Int.add_zero]

theorem sumBelow_add (f g : Nat → Int) (k : Nat) : sumBelow (fun j => f j + g j) k = sumBelow f k + sumBelow g k := by
  induction k with
  | zero => rfl
  | succ k ih =>
    rw [sumBelow_succ, sumBelow_succ, sumBelow_succ, ih]
    omega

theorem sumBelow_mul (f : Nat → Int) (c : Int) (k : Nat) : sumBelow (fun j => f j * c) k = sumBelow f k * c := by
  induction k with
  | zero => exact (Int.zero_mul c).symm
  | succ k ih => rw [sumBelow_succ, sumBelow_succ, ih, Int.add_mul]

/-- Terms that each fit into the growth of a budget have a sum that fits into the growth of it. -/
theorem sumBelow_natAbs_le {f : Nat → Int} {budget : Nat → Nat} (h : ∀ j, budget j + (f j).natAbs ≤ budget (j + 1)) (k : Nat) :
    budget 0 + (sumBelow f k).natAbs ≤ budget k := by
  induction k with
  | zero => exact Nat.le_refl _
  | succ k ih =>
    have hk := h k
    rw [sumBelow_succ]
    omega

/-! Digits of d bits. The planes of a weight are its digits of one bit, the slices of an activation its digits of eight. -/

/-- Digit j of a number, at d bits a digit. -/
def digitOf (d u j : Nat) : Nat := u / 2 ^ (d * j) % 2 ^ d

/-- Digit j of a two's-complement number of k digits: the top one signed. -/
def signedDigit (d k u j : Nat) : Int := if j + 1 = k then signedOf d (digitOf d u j) else digitOf d u j

theorem digitOf_lt (d u j : Nat) : digitOf d u j < 2 ^ d := Nat.mod_lt _ (Nat.two_pow_pos d)

theorem signedOf_of_lt {n u : Nat} (h : u < 2 ^ n) : signedOf n u = if 2 * u < 2 ^ n then (u : Int) else u - (2 ^ n : Nat) := by
  simp only [signedOf, Nat.mod_eq_of_lt h]

theorem signedOf_twos {n : Nat} {v : Int} (hn : 1 ≤ n) (hlo : -(2 ^ (n - 1) : Int) ≤ v) (hhi : v < 2 ^ (n - 1)) :
    signedOf n (twos n v) = v := by
  rw [twos_toNat, signedOf_toNat]
  exact BitVec.toInt_ofInt_eq_self hn hlo hhi

theorem mod_digits_succ (d u k : Nat) : u % 2 ^ (d * (k + 1)) = u % 2 ^ (d * k) + 2 ^ (d * k) * digitOf d u k := by
  rw [Nat.mul_succ, Nat.pow_add, Nat.mod_mul, digitOf]

theorem sumBelow_digitOf (d u k : Nat) :
    sumBelow (fun j => (digitOf d u j : Int) * (2 ^ (d * j) : Nat)) k = (u % 2 ^ (d * k) : Nat) := by
  induction k with
  | zero => rw [Nat.mul_zero, Nat.pow_zero, Nat.mod_one, sumBelow, Int.natCast_zero]
  | succ k ih => rw [sumBelow_succ, ih, mod_digits_succ, Int.natCast_add, Int.natCast_mul, Int.mul_comm]

/-- The number is below half its range when its top digit is below half of its own. -/
theorem low_half_iff_top_digit {a b r : Nat} (hr : r < a) (q : Nat) : 2 * (r + a * q) < a * (2 * b) ↔ 2 * q < 2 * b := by
  rw [Nat.mul_left_comm a 2 b]
  constructor
  · intro h
    refine Nat.lt_of_not_le fun hq => ?_
    have hab : a * b ≤ a * q := Nat.mul_le_mul_left a (by omega)
    omega
  · intro h
    have hab : a * (q + 1) ≤ a * b := Nat.mul_le_mul_left a (by omega)
    rw [Nat.mul_succ] at hab
    omega

/-- The sign of the number is the sign of its top digit. -/
theorem signedOf_top_digit {d : Nat} (hd : 1 ≤ d) (u k : Nat) :
    signedOf (d * (k + 1)) u = (u % 2 ^ (d * k) : Nat) + signedOf d (digitOf d u k) * (2 ^ (d * k) : Nat) := by
  have hhalf : 2 ^ d = 2 * 2 ^ (d - 1) := by rw [Nat.mul_comm, Nat.two_pow_pred_mul_two hd]
  have hpow : 2 ^ (d * (k + 1)) = 2 ^ (d * k) * 2 ^ d := by rw [Nat.mul_succ, Nat.pow_add]
  have hiff := low_half_iff_top_digit (b := 2 ^ (d - 1)) (Nat.mod_lt u (Nat.two_pow_pos (d * k))) (digitOf d u k)
  rw [← hhalf] at hiff
  rw [signedOf_of_lt (digitOf_lt d u k), signedOf, mod_digits_succ, hpow, Int.mul_comm _ ((2 ^ (d * k) : Nat) : Int)]
  by_cases h : 2 * digitOf d u k < 2 ^ d
  · rw [if_pos (hiff.mpr h), if_pos h, Int.natCast_add, Int.natCast_mul]
  · rw [if_neg fun e => h (hiff.mp e), if_neg h, Int.natCast_add, Int.natCast_mul, Int.natCast_mul, Int.mul_sub, Int.add_sub_assoc]

theorem sumBelow_signedDigit {d k : Nat} (hd : 1 ≤ d) (hk : 1 ≤ k) (u : Nat) :
    sumBelow (fun j => signedDigit d k u j * (2 ^ (d * j) : Nat)) k = signedOf (d * k) u := by
  obtain ⟨m, rfl⟩ : ∃ m, k = m + 1 := ⟨k - 1, by omega⟩
  have hlow : sumBelow (fun j => signedDigit d (m + 1) u j * (2 ^ (d * j) : Nat)) m = (u % 2 ^ (d * m) : Nat) := by
    rw [← sumBelow_digitOf]
    refine sumBelow_congr fun j hj => ?_
    have hne : j + 1 ≠ m + 1 := by omega
    rw [signedDigit, if_neg hne]
  rw [sumBelow_succ, hlow, signedOf_top_digit hd, signedDigit, if_pos rfl]

theorem signedDigit_natAbs_lt {d : Nat} (k u j : Nat) : (signedDigit d k u j).natAbs < 2 ^ d := by
  have h := digitOf_lt d u j
  unfold signedDigit
  split
  · rw [signedOf_of_lt h]
    split <;> omega
  · omega

theorem planeBit_eq_signedDigit (p j : Nat) (w : Int) : planeBit true p j w = signedDigit 1 p (twos p w) j := by
  have hbit : bnat (bit (twos p w) j) = digitOf 1 (twos p w) j := by
    rw [bit, Nat.testBit_eq_decide_div_mod_eq, digitOf, Nat.one_mul, Nat.pow_one]
    rcases Nat.mod_two_eq_zero_or_one (twos p w / 2 ^ j) with h | h <;> rw [h] <;> rfl
  have hsign : signedOf 1 (digitOf 1 (twos p w) j) = -(digitOf 1 (twos p w) j : Int) := by
    have h := digitOf_lt 1 (twos p w) j
    rw [signedOf_of_lt h]
    split <;> omega
  simp only [planeBit, if_true, hbit, signedDigit, hsign]

theorem sliceOf_eq_signedDigit (s i : Nat) (x : Int) : sliceOf s i x = signedDigit 8 s (twos (8 * s) x) i := by
  have hbits : bits (twos (8 * s) x) (8 * i + 7) (8 * i) = digitOf 8 (twos (8 * s) x) i := by
    rw [bits, Nat.shiftRight_eq_div_pow, show 8 * i + 7 + 1 - 8 * i = 8 by omega, digitOf]
  simp only [sliceOf, hbits, signedDigit]

/-- R92: a weight integer is the sum of its planes. -/
theorem sumBelow_planeBit {p : Nat} {w : Int} (hp : 1 ≤ p) (hlo : -(2 ^ (p - 1) : Int) ≤ w) (hhi : w < 2 ^ (p - 1)) :
    sumBelow (fun j => planeBit true p j w * (2 ^ j : Nat)) p = w := by
  have h := sumBelow_signedDigit (d := 1) (Nat.le_refl 1) hp (twos p w)
  simp only [Nat.one_mul] at h
  simp only [planeBit_eq_signedDigit, h, signedOf_twos hp hlo hhi]

/-- R71: an activation integer is the sum of its slices. -/
theorem sumBelow_sliceOf {s : Nat} {x : Int} (hs : 1 ≤ s) (hlo : -(2 ^ (8 * s - 1) : Int) ≤ x) (hhi : x < 2 ^ (8 * s - 1)) :
    sumBelow (fun i => sliceOf s i x * (2 ^ (8 * i) : Nat)) s = x := by
  have h := sumBelow_signedDigit (d := 8) (by omega) hs (twos (8 * s) x)
  simp only [sliceOf_eq_signedDigit, h, signedOf_twos (n := 8 * s) (by omega) hlo hhi]

theorem planeBit_natAbs_le (p j : Nat) (w : Int) : (planeBit true p j w).natAbs ≤ 1 := by
  rw [planeBit_eq_signedDigit]
  exact Nat.le_of_lt_succ (signedDigit_natAbs_lt p _ j)

theorem sliceOf_natAbs_le (s i : Nat) (x : Int) : (sliceOf s i x).natAbs ≤ 255 := by
  rw [sliceOf_eq_signedDigit]
  exact Nat.le_of_lt_succ (signedDigit_natAbs_lt s _ i)

/-! The sub-sum of a plane and a slice. -/

theorem foldl_zipWith_eq_sum (f : Int → Int → Int) (l m : List Int) (v : Int) :
    (List.zipWith f l m).foldl (· + ·) v = v + ((List.zip l m).map fun e => f e.1 e.2).sum := by
  induction l generalizing m v with
  | nil => exact (Int.add_zero v).symm
  | cons a l ih =>
    cases m with
    | nil => exact (Int.add_zero v).symm
    | cons b m => rw [List.zipWith_cons_cons, List.foldl_cons, ih, List.zip_cons_cons, List.map_cons, List.sum_cons, Int.add_assoc]

theorem subSum_eq_sum (p s j i : Nat) (w x : Block) : subSum true p s j i w x =
    ((List.zip w.ints x.ints).map fun e => planeBit true p j e.1 * sliceOf s i e.2).sum :=
  (foldl_zipWith_eq_sum _ _ _ 0).trans (Int.zero_add _)

theorem sum_map_natAbs_le {α : Type} {f : α → Int} {b : Nat} {l : List α} (h : ∀ e ∈ l, (f e).natAbs ≤ b) :
    (l.map f).sum.natAbs ≤ l.length * b := by
  induction l with
  | nil => exact Nat.zero_le _
  | cons e l ih =>
    obtain ⟨he, hl⟩ := List.forall_mem_cons.mp h
    have hsum := ih hl
    rw [List.map_cons, List.sum_cons, List.length_cons, Nat.succ_mul]
    omega

theorem subSum_natAbs_le (p s j i : Nat) {w x : Block} (h : w.ints.length ≤ 32) : (subSum true p s j i w x).natAbs ≤ 32 * 255 := by
  have hterm (e : Int × Int) : (planeBit true p j e.1 * sliceOf s i e.2).natAbs ≤ 255 := by
    rw [Int.natAbs_mul]
    exact Nat.mul_le_mul (planeBit_natAbs_le p j e.1) (sliceOf_natAbs_le s i e.2)
  have hlen : (List.zip w.ints x.ints).length ≤ 32 := by
    rw [List.length_zip]
    omega
  rw [subSum_eq_sum]
  exact Nat.le_trans (sum_map_natAbs_le fun e _ => hterm e) (Nat.mul_le_mul_right _ hlen)

theorem planeBit_zero (p j : Nat) : planeBit true p j 0 = 0 := by simp [planeBit, twos, bit, bnat]

theorem sliceOf_zero (s i : Nat) : sliceOf s i 0 = 0 := by simp [sliceOf, twos, bits, signedOf]

/-- A pair that R79 leaves out would add nothing. -/
theorem subSum_of_idle (p s j i : Nat) {w x : Block} (h : pairIdle w x = true) : subSum true p s j i w x = 0 := by
  have hzero : ∀ e ∈ List.zip w.ints x.ints, (planeBit true p j e.1 * sliceOf s i e.2).natAbs ≤ 0 := by
    intro e he
    obtain ⟨hw, hx⟩ := List.of_mem_zip (a := e.1) (b := e.2) he
    simp only [pairIdle, Block.isZero, Bool.or_eq_true, List.all_eq_true, beq_iff_eq] at h
    rcases h with h | h
    · rw [h _ hw, planeBit_zero, Int.zero_mul]
      exact Nat.le_refl 0
    · rw [h _ hx, sliceOf_zero, Int.mul_zero]
      exact Nat.le_refl 0
  rw [subSum_eq_sum]
  exact Int.natAbs_eq_zero.mp (Nat.le_zero.mp (sum_map_natAbs_le hzero))

/-- The contribution of plane j and slice i of one bank group: their sub-sum at its weight (R91). -/
def passTerm (p s : Nat) (w x : Block) (i j : Nat) : Int := subSum true p s j i w x * (2 ^ (j + 8 * i) : Nat)

/-- The contributions of one element pair are the products of the planes of one and the slices of the other. -/
theorem sumBelow_pair {p s : Nat} {a b : Int} (hp : 1 ≤ p) (hs : 1 ≤ s) (ha : -(2 ^ (p - 1) : Int) ≤ a ∧ a < 2 ^ (p - 1))
    (hb : -(2 ^ (8 * s - 1) : Int) ≤ b ∧ b < 2 ^ (8 * s - 1)) :
    sumBelow (fun i => sumBelow (fun j => planeBit true p j a * sliceOf s i b * (2 ^ (j + 8 * i) : Nat)) p) s = a * b := by
  have hslice (i : Nat) : sumBelow (fun j => planeBit true p j a * sliceOf s i b * (2 ^ (j + 8 * i) : Nat)) p =
      sliceOf s i b * (2 ^ (8 * i) : Nat) * a := by
    calc sumBelow (fun j => planeBit true p j a * sliceOf s i b * (2 ^ (j + 8 * i) : Nat)) p
      _ = sumBelow (fun j => planeBit true p j a * (2 ^ j : Nat) * (sliceOf s i b * (2 ^ (8 * i) : Nat))) p := by
          refine sumBelow_congr fun j _ => ?_
          rw [Nat.pow_add, Int.natCast_mul, Int.mul_assoc, Int.mul_assoc, Int.mul_left_comm (sliceOf s i b)]
      _ = a * (sliceOf s i b * (2 ^ (8 * i) : Nat)) := by rw [sumBelow_mul, sumBelow_planeBit hp ha.1 ha.2]
      _ = sliceOf s i b * (2 ^ (8 * i) : Nat) * a := Int.mul_comm _ _
  simp only [hslice]
  rw [sumBelow_mul, sumBelow_sliceOf hs hb.1 hb.2, Int.mul_comm]

theorem sumBelow_sum_map {α : Type} {f : Nat → Nat → α → Int} {g : Nat → Nat → Int} {p s : Nat} {c : α → Int} {l : List α}
    (h : ∀ e ∈ l, sumBelow (fun i => sumBelow (fun j => f i j e * g i j) p) s = c e) :
    sumBelow (fun i => sumBelow (fun j => (l.map (f i j)).sum * g i j) p) s = (l.map c).sum := by
  induction l with
  | nil => simp only [List.map_nil, List.sum_nil, Int.zero_mul, sumBelow_zero]
  | cons e l ih =>
    obtain ⟨he, hl⟩ := List.forall_mem_cons.mp h
    simp only [List.map_cons, List.sum_cons, Int.add_mul, sumBelow_add, he, ih hl]

/-- The contributions of all planes and slices make up the product of the block. -/
theorem sumBelow_passTerm {p s : Nat} {w x : Block} (hp : 1 ≤ p) (hs : 1 ≤ s)
    (hw : ∀ a ∈ w.ints, -(2 ^ (p - 1) : Int) ≤ a ∧ a < 2 ^ (p - 1))
    (hx : ∀ b ∈ x.ints, -(2 ^ (8 * s - 1) : Int) ≤ b ∧ b < 2 ^ (8 * s - 1)) :
    sumBelow (fun i => sumBelow (passTerm p s w x i) p) s = ((List.zip w.ints x.ints).map fun e => e.1 * e.2).sum := by
  have hpair : ∀ e ∈ List.zip w.ints x.ints,
      sumBelow (fun i => sumBelow (fun j => planeBit true p j e.1 * sliceOf s i e.2 * (2 ^ (j + 8 * i) : Nat)) p) s = e.1 * e.2 := by
    intro e he
    obtain ⟨hew, hex⟩ := List.of_mem_zip (a := e.1) (b := e.2) he
    exact sumBelow_pair hp hs (hw _ hew) (hx _ hex)
  rw [← sumBelow_sum_map hpair]
  refine sumBelow_congr fun i _ => sumBelow_congr fun j _ => ?_
  rw [passTerm, subSum_eq_sum]

/-! Entries that stay exact: anchor and special state zero, and no event counted. -/

/-- The entry that holds v exactly at anchor 0, with no event counted. -/
def exactEntry (v : Int) : AccEntry × Nat := (⟨v, 0, 0⟩, 0)

theorem fitsIn_of_natAbs {n : Nat} {v : Int} (h : v.natAbs < 2 ^ (n - 1)) : fitsIn n v = true := by
  simp only [fitsIn, Bool.and_eq_true, decide_eq_true_eq]
  omega

/-- R77: a contribution at a step of at least 1 is added exactly when the sum fits. -/
theorem addContribution_exact {n k : Nat} {v c : Int} (h : (v + c * (2 ^ k : Nat)).natAbs < 2 ^ (n - 1)) :
    addContribution n ⟨v, 0, 0⟩ c k = exactEntry (v + c * (2 ^ k : Nat)) := by
  have hmin : min (0 : Int) k = 0 := by omega
  simp only [addContribution, hmin, shiftUp, Int.sub_zero, Int.toNat_zero, Nat.pow_zero, Int.natCast_one, Int.mul_one, Int.toNat_natCast,
    fitEntry, fitsIn_of_natAbs h, if_true]
  rfl

/-- R80: no special state comes of elements of which none is infinite or NaN. -/
theorem foldl_pairSpecial_finite (ks ls : List Nat) (hk : ∀ k ∈ ks, k = 0 ∨ k = 1 ∨ k = 5)
    (hl : ∀ k ∈ ls, k = 0 ∨ k = 1 ∨ k = 5) : (List.zipWith pairSpecial ks ls).foldl joinSpecial 0 = 0 := by
  induction ks generalizing ls with
  | nil => rfl
  | cons k ks ih =>
    cases ls with
    | nil => rfl
    | cons l ls =>
      obtain ⟨hk, hks⟩ := List.forall_mem_cons.mp hk
      obtain ⟨hl, hls⟩ := List.forall_mem_cons.mp hl
      have hpair : joinSpecial 0 (pairSpecial k l) = 0 := by
        rcases hk with rfl | rfl | rfl <;> rcases hl with rfl | rfl | rfl <;> rfl
      rw [List.zipWith_cons_cons, List.foldl_cons, hpair, ih ls hks hls]

theorem blockSpecial_of_finite {w x : Block} (h : ∀ k ∈ w.kind ++ x.kind, k = 0 ∨ k = 1 ∨ k = 5) : blockSpecial w x = 0 :=
  foldl_pairSpecial_finite w.kind x.kind (fun k hk => h k (List.mem_append_left _ hk)) fun k hk => h k (List.mem_append_right _ hk)

section Passes

variable {n p s : Nat} {w x : Block}

/-- One pass adds its contribution, exactly while the sum fits. -/
theorem passEntry_exact (hstep : w.step + x.step = 0) (hkind : ∀ k ∈ w.kind ++ x.kind, k = 0 ∨ k = 1 ∨ k = 5) {j i : Nat} {v : Int}
    (hfit : (v + passTerm p s w x i j).natAbs < 2 ^ (n - 1)) :
    passEntry n true p s j i [w] [x] (exactEntry v) = exactEntry (v + passTerm p s w x i j) := by
  have hexp : w.step + x.step + j + 8 * i = ((j + 8 * i : Nat) : Int) := by omega
  have hspecial : joinSpecial 0 (blockSpecial w x) = 0 := by rw [blockSpecial_of_finite hkind, joinSpecial, if_pos rfl]
  simp only [passEntry, List.zip_cons_cons, List.zip_nil_right, List.foldl_cons, List.foldl_nil, exactEntry, hspecial, hexp]
  cases hidle : pairIdle w x with
  | true => rw [if_pos rfl, passTerm, subSum_of_idle p s j i hidle, Int.zero_mul, Int.add_zero]
  | false =>
    rw [if_neg Bool.false_ne_true, addContribution_exact hfit]
    rfl

/-- Steps that add exactly what fits into the growth of a budget, while the sum stays below a limit, add their sum exactly. -/
theorem foldl_range_exact {f : AccEntry × Nat → Nat → AccEntry × Nat} {c : Nat → Int} {budget : Nat → Nat} {limit : Nat}
    (hc : ∀ k, budget k + (c k).natAbs ≤ budget (k + 1))
    (hf : ∀ v k, v.natAbs + budget (k + 1) < limit + budget k → f (exactEntry v) k = exactEntry (v + c k)) (m : Nat) (v : Int)
    (hm : v.natAbs + budget m < limit + budget 0) : (List.range m).foldl f (exactEntry v) = exactEntry (v + sumBelow c m) := by
  induction m with
  | zero => rw [List.range_zero, List.foldl_nil, sumBelow, Int.add_zero]
  | succ m ih =>
    have hgrow := hc m
    have hsum := sumBelow_natAbs_le hc m
    rw [List.range_succ, List.foldl_append, ih (by omega), List.foldl_cons, List.foldl_nil, hf _ _ (by omega), sumBelow_succ, Int.add_assoc]

/-- What the passes of slice i may have added before plane j: 32 products of a bit and a slice for each plane, at its weight. -/
def planeBudget (i j : Nat) : Nat := 32 * 255 * 2 ^ (j + 8 * i)

/-- What the passes may have added before slice i. -/
def sliceBudget (p i : Nat) : Nat := 32 * 2 ^ (p + 8 * i)

theorem sliceBudget_succ (p i : Nat) : sliceBudget p (i + 1) = sliceBudget p i + planeBudget i p := by
  have hpow : 2 ^ (p + 8 * (i + 1)) = 2 ^ (p + 8 * i) * 256 := by rw [Nat.mul_succ, ← Nat.add_assoc, Nat.pow_add]
  simp only [sliceBudget, planeBudget, hpow]
  omega

theorem passTerm_natAbs_le (hlen : w.ints.length ≤ 32) (i j : Nat) :
    planeBudget i j + (passTerm p s w x i j).natAbs ≤ planeBudget i (j + 1) := by
  have hc : (passTerm p s w x i j).natAbs ≤ planeBudget i j := by
    rw [passTerm, Int.natAbs_mul, Int.natAbs_natCast]
    exact Nat.mul_le_mul_right _ (subSum_natAbs_le p s j i hlen)
  have hdouble : planeBudget i (j + 1) = planeBudget i j * 2 := by
    rw [planeBudget, Nat.add_right_comm, Nat.pow_succ, ← Nat.mul_assoc, planeBudget]
  omega

theorem slice_natAbs_le (hlen : w.ints.length ≤ 32) (i : Nat) :
    sliceBudget p i + (sumBelow (passTerm p s w x i) p).natAbs ≤ sliceBudget p (i + 1) := by
  have hsum := sumBelow_natAbs_le (passTerm_natAbs_le (p := p) (s := s) (x := x) hlen i) p
  rw [sliceBudget_succ]
  omega

theorem groupPasses_exact (hp : p ≤ 16) (hlen : w.ints.length ≤ 32) (hstep : w.step + x.step = 0)
    (hkind : ∀ k ∈ w.kind ++ x.kind, k = 0 ∨ k = 1 ∨ k = 5) {v : Int}
    (hfit : v.natAbs + sliceBudget p s < 2 ^ (n - 1) + sliceBudget p 0) :
    groupPasses n true p s 0 [w] [x] (exactEntry v) = exactEntry (v + sumBelow (fun i => sumBelow (passTerm p s w x i) p) s) := by
  have hplanes : min p (16 * 0 + 16) - 16 * 0 = p := by omega
  simp only [groupPasses, hplanes, Nat.mul_zero, Nat.zero_add]
  refine foldl_range_exact (slice_natAbs_le hlen) (fun a i hi => ?_) s v hfit
  rw [sliceBudget_succ] at hi
  refine foldl_range_exact (limit := 2 ^ (n - 1)) (passTerm_natAbs_le hlen i)
    (fun b j hj => passEntry_exact hstep hkind ?_) p a (by omega)
  have hc := passTerm_natAbs_le (p := p) (s := s) (x := x) hlen i j
  omega

/-- The budget of all passes keeps to the width that the statement asks for. -/
theorem sliceBudget_lt (h : p + 8 * s + 5 < n) : sliceBudget p s < 2 ^ (n - 1) + sliceBudget p 0 := by
  have hpos : 0 < sliceBudget p 0 := Nat.mul_pos (by decide) (Nat.two_pow_pos _)
  have hle : sliceBudget p s ≤ 2 ^ (n - 1) :=
    calc sliceBudget p s
      _ = 2 ^ (p + 8 * s + 5) := by rw [sliceBudget, Nat.mul_comm, Nat.pow_add 2 (p + 8 * s) 5]
      _ ≤ 2 ^ (n - 1) := Nat.pow_le_pow_right (by decide) (by omega)
  omega

end Passes

/-- Settles O32: the planes of a weight and the slices of an activation are their digits, and 32 products of them at every weight together
stay below the width of the entry, so every pass adds exactly. -/
theorem passesAreExact : Obligations.PassesAreExact := by
  intro n p sl ws xs hp2 hp16 hs1 _ hstep hlen _ hw hx hkind hn
  have hfit : (0 : Int).natAbs + sliceBudget p sl < 2 ^ (n - 1) + sliceBudget p 0 := by
    rw [Int.natAbs_zero, Nat.zero_add]
    exact sliceBudget_lt hn
  have hr : groupPasses n true p sl 0 [ws] [xs] (AccEntry.zero, 0) =
      exactEntry ((List.zip ws.ints xs.ints).map fun e => e.1 * e.2).sum := by
    rw [show ((AccEntry.zero, 0) : AccEntry × Nat) = exactEntry 0 from rfl, groupPasses_exact hp16 hlen hstep hkind hfit,
      sumBelow_passTerm (by omega) hs1 hw hx, Int.zero_add]
  rw [hr]
  exact ⟨rfl, rfl, rfl, rfl⟩

end Sys2Proof.Machine
end

section
/-!
Numbers as little-endian bytes, elements as a little-endian bit string (R62), and statement O5.
-/

namespace Sys2Proof.Machine

/-! Little-endian bytes. -/

@[simp] theorem length_toLE (n v : Nat) : (toLE n v).length = n := by
  induction n generalizing v with
  | zero => rfl
  | succ n ih => rw [toLE, List.length_cons, ih]

theorem ofLE_toLE (n v : Nat) : ofLE (toLE n v) = v % 256 ^ n := by
  induction n generalizing v with
  | zero => simp [toLE, ofLE, Nat.mod_one]
  | succ n ih => rw [toLE, ofLE, ih, BitVec.toNat_ofNat, Nat.pow_succ' (m := 256), Nat.mod_mul]

theorem ofLE_toLE_of_lt {n v : Nat} (h : v < 256 ^ n) : ofLE (toLE n v) = v := by
  rw [ofLE_toLE, Nat.mod_eq_of_lt h]

/-! The number that a row of elements of w bits makes. -/

/-- The elements of a row side by side, element i from bit wi on. -/
def rowNumber (w : Nat) (cs : List Nat) : Nat := cs.foldr (fun c acc => c % 2 ^ w + 2 ^ w * acc) 0

theorem rowNumber_cons (w c : Nat) (cs : List Nat) : rowNumber w (c :: cs) = c % 2 ^ w + 2 ^ w * rowNumber w cs := rfl

theorem rowNumber_lt (w : Nat) (cs : List Nat) : rowNumber w cs < 2 ^ (w * cs.length) := by
  induction cs with
  | nil => exact Nat.one_pos
  | cons c cs ih =>
    have hc : c % 2 ^ w < 2 ^ w := Nat.mod_lt _ (Nat.two_pow_pos w)
    calc rowNumber w (c :: cs)
      _ < 2 ^ w * (rowNumber w cs + 1) := by rw [rowNumber_cons, Nat.mul_succ]; omega
      _ ≤ 2 ^ w * 2 ^ (w * cs.length) := Nat.mul_le_mul_left _ ih
      _ = 2 ^ (w * (c :: cs).length) := by rw [← Nat.pow_add, List.length_cons, Nat.mul_succ, Nat.add_comm]

theorem rowNumber_element {w i c : Nat} {cs : List Nat} (h : cs[i]? = some c) : rowNumber w cs / 2 ^ (w * i) % 2 ^ w = c % 2 ^ w := by
  induction cs generalizing i with
  | nil => simp at h
  | cons d ds ih =>
    rw [rowNumber_cons]
    cases i with
    | zero =>
      obtain rfl : d = c := by simpa using h
      simp
    | succ i =>
      have hd : (d % 2 ^ w + 2 ^ w * rowNumber w ds) / 2 ^ w = rowNumber w ds := by
        rw [Nat.add_mul_div_left _ _ (Nat.two_pow_pos w), Nat.div_eq_of_lt (Nat.mod_lt _ (Nat.two_pow_pos w)), Nat.zero_add]
      rw [Nat.mul_succ, Nat.add_comm (w * i), Nat.pow_add, ← Nat.div_div_eq_div_mul, hd]
      exact ih (by simpa using h)

/-- The whole bytes of a row hold all of its bits. -/
theorem ofLE_packBits (w : Nat) (cs : List Nat) : ofLE (packBits w cs) = rowNumber w cs := by
  refine ofLE_toLE_of_lt (Nat.lt_of_lt_of_le (rowNumber_lt w cs) ?_)
  rw [show 256 = 2 ^ 8 by rfl, ← Nat.pow_mul]
  refine Nat.pow_le_pow_right (by omega) ?_
  unfold ceilDiv
  omega

theorem bits_element {w : Nat} (hw : 1 ≤ w) (v i : Nat) : bits v (w * (i + 1) - 1) (w * i) = v / 2 ^ (w * i) % 2 ^ w := by
  have hwidth : w * (i + 1) - 1 + 1 - w * i = w := by rw [Nat.mul_succ]; omega
  rw [bits, hwidth, Nat.shiftRight_eq_div_pow]

/-! Reading a row. -/

theorem unpackBits_getElem? {w n i c : Nat} {b : List Byte} (h : (unpackBits w n b)[i]? = some c) :
    c = ofLE b / 2 ^ (w * i) % 2 ^ w := by
  simp only [unpackBits, List.getElem?_map, Option.map_eq_some_iff, List.getElem?_eq_some_iff, List.getElem_range] at h
  obtain ⟨_, ⟨_, rfl⟩, rfl⟩ := h
  rw [Nat.shiftRight_eq_div_pow]

/-- A read of n elements sees the first wn bits alone. -/
theorem unpackBits_congr {w n : Nat} {b c : List Byte} (h : ∀ k, k < w * n → bit (ofLE c) k = bit (ofLE b) k) :
    unpackBits w n c = unpackBits w n b := by
  refine List.map_congr_left fun i hi => Nat.eq_of_testBit_eq fun j => ?_
  rw [Nat.testBit_mod_two_pow, Nat.testBit_mod_two_pow, Nat.testBit_shiftRight, Nat.testBit_shiftRight]
  by_cases hj : j < w
  · have hin : w * i + j < w * n :=
      calc w * i + j
        _ < w * (i + 1) := by rw [Nat.mul_succ]; omega
        _ ≤ w * n := Nat.mul_le_mul_left w (List.mem_range.mp hi)
    exact congrArg _ (h _ hin)
  · simp [hj]

/-- Settles O5: a row is one number, of which each element is a digit of w bits; its bytes hold all of it. -/
theorem rowPacking : Obligations.RowPacking := by
  refine ⟨fun w cs hw => ⟨?length, ?element, ?tail⟩, fun w n b hw => ⟨?read, ?readElement, fun c h => unpackBits_congr h⟩⟩
  case length => exact length_toLE _ _
  case element =>
    intro i c h
    rw [bits_element hw, ofLE_packBits, rowNumber_element h]
  case tail =>
    intro k hk
    rw [ofLE_packBits]
    exact Nat.testBit_lt_two_pow (Nat.lt_of_lt_of_le (rowNumber_lt w cs) (Nat.pow_le_pow_right (by omega) hk))
  case read => simp [unpackBits]
  case readElement =>
    intro i c h
    rw [bits_element hw, unpackBits_getElem? h]

end Sys2Proof.Machine
end

section
/-!
The scales of a run (R68): what they do to the elements, and which bits of them count, and statement O6.
-/

namespace Sys2Proof.Machine

/-! The sign of a floating code. -/

theorem bits_mod_two_pow {hi k : Nat} (h : hi < k) (c lo : Nat) : bits (c % 2 ^ k) hi lo = bits c hi lo := by
  refine Nat.eq_of_testBit_eq fun j => ?_
  simp only [bits, Nat.testBit_mod_two_pow, Nat.testBit_shiftRight]
  by_cases hj : j < hi + 1 - lo
  · have hlow : lo + j < k := by omega
    simp [hlow]
  · simp [hj]

/-- The bits of a floating code below its sign say its magnitude. -/
theorem abs_decodeFloat_congr {f : FloatFmt} (hm : 1 ≤ f.mbits) {c d : Nat}
    (h : c % 2 ^ (f.mbits + f.ebits) = d % 2 ^ (f.mbits + f.ebits)) : (decodeFloat f c).abs = (decodeFloat f d).abs := by
  have hfield (hi lo : Nat) (hhi : hi < f.mbits + f.ebits) : bits c hi lo = bits d hi lo := by
    rw [← bits_mod_two_pow hhi c, h, bits_mod_two_pow hhi]
  have hmant := hfield (f.mbits - 1) 0 (by omega)
  have hexp := hfield (f.mbits + f.ebits - 1) f.mbits (by omega)
  simp only [decodeFloat, hmant, hexp]
  repeat' split
  all_goals rfl

theorem abs_decodeE4M3_congr {c d : Nat} (h : c % 2 ^ 7 = d % 2 ^ 7) : (decodeElem fmtE4M3 c).abs = (decodeElem fmtE4M3 d).abs :=
  abs_decodeFloat_congr (f := ⟨4, 3, 7, 1⟩) (by decide) h

theorem abs_decodeFP16_congr {c d : Nat} (h : c % 2 ^ 15 = d % 2 ^ 15) : (decodeElem fmtFP16 c).abs = (decodeElem fmtFP16 d).abs :=
  abs_decodeFloat_congr (f := ⟨5, 10, 15, 2⟩) (by decide) h

/-! Fields of a byte string. -/

theorem fieldLE_drop (b : List Byte) (k o n : Nat) : fieldLE (b.drop k) o n = fieldLE b (k + o) n := by
  rw [fieldLE, List.drop_drop, fieldLE]

theorem fieldLE_zero (b : List Byte) (o : Nat) : fieldLE b o 0 = 0 := rfl

theorem fieldLE_succ (b : List Byte) (o n : Nat) : fieldLE b o (n + 1) = (b[o]?.getD 0#8).toNat + 256 * fieldLE b (o + 1) n := by
  by_cases h : o < b.length
  · rw [fieldLE, List.drop_eq_getElem_cons h, List.take_succ_cons, ofLE, List.getElem?_eq_getElem h, Option.getD_some, fieldLE]
  · have hlen : b.length ≤ o := Nat.le_of_not_lt h
    simp [fieldLE, List.drop_eq_nil_of_le hlen, List.drop_eq_nil_of_le (Nat.le_succ_of_le hlen), List.getElem?_eq_none hlen, ofLE]

/-- The byte string with bit 7 of byte k changed. -/
def flipTop (b : List Byte) (k : Nat) : List Byte := b.modify k (· ^^^ 0x80#8)

theorem toNat_flip_mod (x : Byte) : (x ^^^ 0x80#8).toNat % 2 ^ 7 = x.toNat % 2 ^ 7 := by
  rw [BitVec.toNat_xor, Nat.xor_mod_two_pow]
  exact Nat.xor_zero _

theorem flipTop_byte_mod (b : List Byte) (k o : Nat) :
    ((flipTop b k)[o]?.getD 0#8).toNat % 2 ^ 7 = (b[o]?.getD 0#8).toNat % 2 ^ 7 := by
  rw [flipTop, List.getElem?_modify]
  split
  · cases b[o]? with
    | none => rfl
    | some x => exact toNat_flip_mod x
  · cases b[o]? <;> rfl

theorem flipTop_byte_ne {b : List Byte} {k o : Nat} (h : k ≠ o) : (flipTop b k)[o]? = b[o]? := by
  simp [flipTop, h]

theorem fieldLE_one_flipTop (b : List Byte) (k o : Nat) : fieldLE (flipTop b k) o 1 % 2 ^ 7 = fieldLE b o 1 % 2 ^ 7 := by
  simpa only [fieldLE_succ, fieldLE_zero, Nat.mul_zero, Nat.add_zero] using flipTop_byte_mod b k o

theorem fieldLE_two_flipTop (b : List Byte) (o : Nat) : fieldLE (flipTop b (o + 1)) o 2 % 2 ^ 15 = fieldLE b o 2 % 2 ^ 15 := by
  have hlow := flipTop_byte_ne (b := b) (Nat.succ_ne_self o)
  have hhigh := flipTop_byte_mod b (o + 1) (o + 1)
  simp only [fieldLE_succ, fieldLE_zero, hlow]
  omega

theorem take_flipTop {n k : Nat} (h : n ≤ k) (b : List Byte) : (flipTop b k).take n = b.take n := by
  refine List.ext_getElem? fun i => ?_
  by_cases hi : i < n
  · rw [List.getElem?_take_of_lt hi, List.getElem?_take_of_lt hi, flipTop_byte_ne (by omega)]
  · rw [List.getElem?_take_eq_none (by omega), List.getElem?_take_eq_none (by omega)]

/-! The codes of a run. -/

theorem length_runCodes (el : Nat) (b : List Byte) : (runCodes el b).length = 32 := by
  unfold runCodes
  split
  · simp [ternaryCodes]
  · simp [unpackBits]

theorem runCodes_congr {el : Nat} {b c : List Byte} (h : c.take (runElemBytes el) = b.take (runElemBytes el)) :
    runCodes el c = runCodes el b := by
  unfold runElemBytes at h
  unfold runCodes
  by_cases hel : el = 0x0E
  · rw [if_pos hel] at h
    rw [if_pos hel, if_pos hel, h]
  · rw [if_neg hel] at h
    rw [if_neg hel, if_neg hel, h]

theorem runCodes_flipTop (el : Nat) (b : List Byte) (i : Nat) : runCodes el (flipTop b (runElemBytes el + i)) = runCodes el b :=
  runCodes_congr (take_flipTop (Nat.le_add_right _ i) b)

/-! Elements under a scale. -/

theorem mulNum_nan (v : Num) : mulNum v .nan = .nan := by cases v <;> rfl

theorem scaleMx_nan (el : Nat) (cs : List Nat) : scaleMx el 0xFF cs = List.replicate cs.length ⟨.nan, 0⟩ := List.map_const' ..

theorem scaleFine_nan {s : Nat} (h : (decodeElem fmtE4M3 s).isNan = true) (el : Nat) (cs : List Nat) :
    scaleFine el s cs = List.replicate cs.length ⟨.nan, 0⟩ := by
  have hs : decodeElem fmtE4M3 s = .nan := by
    cases hd : decodeElem fmtE4M3 s <;> simp [hd, Num.isNan] at h ⊢
  have helt (c : Nat) : mulNum (decodeElem el c) .nan = .nan := mulNum_nan _
  rw [scaleFine, hs]
  simp only [Num.abs, Num.isZero, helt]
  exact List.map_const' ..

theorem abs_isZero (v : Num) : v.abs.isZero = v.isZero := by cases v <;> rfl

theorem scaleFine_zero {s : Nat} (h : (decodeElem fmtE4M3 s).isZero = true) (el : Nat) (cs : List Nat) :
    scaleFine el s cs = List.replicate cs.length ⟨.zero, 0⟩ := by
  simp only [scaleFine, abs_isZero, h, if_true]
  exact List.map_const' ..

theorem scaleFine_congr {s t : Nat} (h : s % 2 ^ 7 = t % 2 ^ 7) (el : Nat) (cs : List Nat) : scaleFine el s cs = scaleFine el t cs := by
  rw [scaleFine, abs_decodeE4M3_congr h, scaleFine]

theorem scaleKv_notFin {s : Nat} (h : (decodeElem fmtFP16 s).isFin = false) (el : Nat) (cs : List Nat) :
    scaleKv el s cs = List.replicate cs.length ⟨.nan, 0⟩ := by
  unfold scaleKv
  cases hd : decodeElem fmtFP16 s with
  | nan => exact List.map_const' ..
  | inf => exact List.map_const' ..
  | fin => simp [hd, Num.isFin] at h

theorem scaleKv_zero {s : Nat} (h : (decodeElem fmtFP16 s).isZero = true) (el : Nat) (cs : List Nat) :
    ∃ e, scaleKv el s cs = List.replicate cs.length ⟨.zero, e⟩ := by
  unfold scaleKv
  cases hd : decodeElem fmtFP16 s with
  | nan => simp [hd, Num.isZero] at h
  | inf => simp [hd, Num.isZero] at h
  | fin g m e =>
    obtain rfl : m = 0 := by simpa [hd, Num.isZero] using h
    exact ⟨e, List.map_const' (l := cs) (b := (⟨.zero, e⟩ : Elt))⟩

theorem scaleKv_congr {s t : Nat} (h : s % 2 ^ 15 = t % 2 ^ 15) (el : Nat) (cs : List Nat) : scaleKv el s cs = scaleKv el t cs := by
  rw [scaleKv, abs_decodeFP16_congr h, scaleKv]

/-! Runs by their mode. -/

section Runs

variable {code : Nat} (b : List Byte)

theorem decodeRun_mx (h : modeOf code = 1) :
    decodeRun code b = scaleMx (elemOf code) (fieldLE b (runElemBytes (elemOf code)) 1) (runCodes (elemOf code) b) := by
  simp [decodeRun, h, fieldLE_drop]

theorem decodeRun_fine (h : modeOf code = 2) : decodeRun code b =
    scaleFine (elemOf code) (fieldLE b (runElemBytes (elemOf code)) 1) ((runCodes (elemOf code) b).take 16) ++
      scaleFine (elemOf code) (fieldLE b (runElemBytes (elemOf code) + 1) 1) ((runCodes (elemOf code) b).drop 16) := by
  simp [decodeRun, h, fieldLE_drop]

theorem decodeRun_kv (h : modeOf code = 3) :
    decodeRun code b = scaleKv (elemOf code) (fieldLE b (runElemBytes (elemOf code)) 2) (runCodes (elemOf code) b) := by
  simp [decodeRun, h, fieldLE_drop]

/-- Each scale of a fine run has its own 16 elements. -/
theorem decodeRun_fine_getElem? (h : modeOf code = 2) {half i : Nat} (hhalf : half < 2) (hi : i < 16) :
    ∃ cs : List Nat, cs.length = 16 ∧ (decodeRun code b)[16 * half + i]? =
      (scaleFine (elemOf code) (fieldLE b (runElemBytes (elemOf code) + half) 1) cs)[i]? := by
  have hlen := length_runCodes (elemOf code) b
  have hfirst (s : Nat) : (scaleFine (elemOf code) s ((runCodes (elemOf code) b).take 16)).length = 16 := by
    simp [scaleFine, hlen]
  rw [decodeRun_fine b h]
  obtain rfl | rfl : half = 0 ∨ half = 1 := by omega
  · refine ⟨(runCodes (elemOf code) b).take 16, by simp [hlen], ?_⟩
    rw [Nat.mul_zero, Nat.zero_add, List.getElem?_append_left (by rw [hfirst]; exact hi), Nat.add_zero]
  · refine ⟨(runCodes (elemOf code) b).drop 16, by simp [hlen], ?_⟩
    rw [List.getElem?_append_right (by rw [hfirst]; omega), hfirst, Nat.mul_one, Nat.add_sub_cancel_left]

/-- The sign bit of a fine run's scale changes nothing. -/
theorem decodeRun_fine_flipTop (h : modeOf code = 2) (i : Nat) :
    decodeRun code (flipTop b (runElemBytes (elemOf code) + i)) = decodeRun code b := by
  have hscale (o : Nat) := scaleFine_congr (fieldLE_one_flipTop b (runElemBytes (elemOf code) + i) o) (elemOf code)
  rw [decodeRun_fine _ h, decodeRun_fine _ h, runCodes_flipTop, hscale, hscale]

/-- The sign bit of an FP16 scale changes nothing. -/
theorem decodeRun_kv_flipTop (h : modeOf code = 3) :
    decodeRun code (flipTop b (runElemBytes (elemOf code) + 1)) = decodeRun code b := by
  rw [decodeRun_kv _ h, decodeRun_kv _ h, runCodes_flipTop, scaleKv_congr (fieldLE_two_flipTop b _)]

end Runs

/-- Settles O6: a scale that is NaN, infinite or zero gives every element of its block one value, and the sign bit of a scale does not
reach its magnitude. -/
theorem scaleValues : Obligations.ScaleValues := by
  intro code b _ _ _
  have hrun {i : Nat} (hi : i < 32) : i < (runCodes (elemOf code) b).length := by rwa [length_runCodes]
  refine ⟨fun hmode hscale i hi => ?mx, fun hmode half hhalf => ⟨decodeRun_fine_flipTop b hmode half, fun hnan i hi => ?fineNan,
    fun hzero i hi => ?fineZero⟩, fun hmode => ⟨decodeRun_kv_flipTop b hmode, fun hnan i hi => ?kvNan, fun hzero i hi => ?kvZero⟩⟩
  case mx =>
    refine ⟨⟨.nan, 0⟩, ?_, rfl⟩
    rw [decodeRun_mx b hmode, show fieldLE b (runElemBytes (elemOf code)) 1 = 0xFF from hscale, scaleMx_nan,
      List.getElem?_replicate_of_lt (hrun hi)]
  case fineNan =>
    obtain ⟨cs, hlen, hget⟩ := decodeRun_fine_getElem? b hmode hhalf hi
    refine ⟨⟨.nan, 0⟩, ?_, rfl⟩
    rw [hget, scaleFine_nan hnan, List.getElem?_replicate_of_lt (by rwa [hlen])]
  case fineZero =>
    obtain ⟨cs, hlen, hget⟩ := decodeRun_fine_getElem? b hmode hhalf hi
    refine ⟨⟨.zero, 0⟩, ?_, rfl⟩
    rw [hget, scaleFine_zero hzero, List.getElem?_replicate_of_lt (by rwa [hlen])]
  case kvNan =>
    refine ⟨⟨.nan, 0⟩, ?_, rfl⟩
    rw [decodeRun_kv b hmode, scaleKv_notFin (s := fieldLE b (runElemBytes (elemOf code)) 2) hnan, List.getElem?_replicate_of_lt (hrun hi)]
  case kvZero =>
    obtain ⟨e, he⟩ := scaleKv_zero (s := fieldLE b (runElemBytes (elemOf code)) 2) hzero (elemOf code) (runCodes (elemOf code) b)
    refine ⟨⟨.zero, e⟩, ?_, rfl⟩
    rw [decodeRun_kv b hmode, he, List.getElem?_replicate_of_lt (hrun hi)]

end Sys2Proof.Machine
end
